-- ==== Sys2Proof/Word.lean ====
section
/-! DEFINITION. The words of the CX25: bytes, 16-, 32- and 64-bit words, and the plain little-endian view of R3. -/

namespace Sys2Proof

abbrev Byte := BitVec 8
abbrev Half := BitVec 16
abbrev Word := BitVec 32
abbrev DWord := BitVec 64

/-- Quotient rounded up, as the counts of the spec use it (`ceil(N / e)`). -/
def ceilDiv (a b : Nat) : Nat := (a + b - 1) / b

end Sys2Proof
end

