-- ==== Sys2Proof/TileSyntax.lean ====
section
/-! DEFINITION. Tile instructions: the five layouts of chapter 04 with every bit they hold, and the 75 opcodes of
Table 4.11. -/

namespace Sys2Proof

/-- A tile named by compute die and logical tile number (R11). -/
structure TileId where
  die : Fin 4
  tile : Fin 288
  deriving DecidableEq, Repr

/-- A number for the tile, one for each. -/
def TileId.key (t : TileId) : Nat := t.die.val * 512 + t.tile.val

/-- Control layout, Table 4.2: `tgt` is [43:32], whose top bit is `I` of an arithmetic instruction. -/
structure CtlF where
  xd : BitVec 4
  xa : BitVec 4
  xb : BitVec 4
  tgt : BitVec 12
  imm : BitVec 32
  deriving DecidableEq, Repr

/-- Matrix layout, Table 4.3. -/
structure MatF where
  kind : BitVec 2
  acc : BitVec 1
  clr : BitVec 1
  drn : BitVec 1
  swp : BitVec 1
  msk : BitVec 1
  sla : BitVec 2
  slb : BitVec 2
  sa : BitVec 4
  sx : BitVec 4
  sm : BitVec 4
  rsv : BitVec 33
  deriving DecidableEq, Repr

/-- Vector layout, Table 4.5. -/
structure VecF where
  rm : BitVec 3
  tf : BitVec 4
  sf : BitVec 4
  oa : BitVec 6
  ob : BitVec 6
  oc : BitVec 6
  sd : BitVec 4
  q : BitVec 3
  sum : BitVec 1
  rel : BitVec 1
  acc : BitVec 1
  sls : BitVec 2
  slt : BitVec 2
  rsv : BitVec 1
  cnt : BitVec 12
  deriving DecidableEq, Repr

/-- Transfer layout, Table 4.8. -/
structure XferF where
  sa : BitVec 4
  sr : BitVec 4
  sh : BitVec 4
  ring : BitVec 18
  post : BitVec 1
  rsv : BitVec 25
  deriving DecidableEq, Repr

/-- Handle layout, Table 4.10. -/
structure HdlF where
  xh : BitVec 4
  rsvHigh : BitVec 2
  ring : BitVec 18
  wait : BitVec 16
  rsvLow : BitVec 16
  deriving DecidableEq, Repr

/-- Control opcodes 0x00 to 0x1B. -/
inductive CtlOp where
  | nop | li | add | sub | mul | and | or | xor | shl | shr | sra | slt | sltu
  | b | beq | bne | blt | bge | bq | bqz | loop | qmov | csig | crd | cwr | sync | end_ | abort
  deriving DecidableEq, Repr

/-- Matrix opcodes 0x20 to 0x22. -/
inductive MatOp where
  | mpass | mload | mdesc
  deriving DecidableEq, Repr

/-- Transfer opcodes 0x30 to 0x32. -/
inductive XferOp where
  | xget | xput | xtile
  deriving DecidableEq, Repr

/-- Handle opcodes 0x38 and 0x39. -/
inductive HdlOp where
  | hget | hput
  deriving DecidableEq, Repr

/-- Vector opcodes 0x40 to 0x7E. -/
inductive VecOp where
  | vadd | vsub | vmul | vmin | vmax | vfma | vabs | vneg | vcmp | vsel
  | viadd | viadds | visub | visubs | vimul | vimuls | vimin | vimax
  | vand | vor | vxor | vnot | vshl | vshr | vsra | vcvt
  | vrcp | vsqrt | vrsq | vexp2 | vlog2 | vrsum | vrmax | vrmin | vrnz | vrnan | vdesc
  deriving DecidableEq, Repr

/-- One tile instruction. -/
inductive TileWord where
  | ctl (op : CtlOp) (f : CtlF)
  | mat (op : MatOp) (f : MatF)
  | xfer (op : XferOp) (f : XferF)
  | hdl (op : HdlOp) (f : HdlF)
  | vec (op : VecOp) (f : VecF)
  deriving DecidableEq, Repr

end Sys2Proof
end

