-- ==== Sys2Proof/Image.lean ====
section
/-! DEFINITION. The schedule image of Table 6.7 as data.  The spec names the sections and what each holds but gives an
image no byte form, so a load carries the sections as they were read from the buffer (notes/assumptions/20). -/

namespace Sys2Proof

/-- A tile's part in a task (R90). -/
structure TaskTile where
  tile : TileId
  start : Nat
  regs : List (Nat × Word)
  deriving DecidableEq, Repr

/-- A task (Table 6.7, R309, R578). -/
structure TaskDecl where
  task : Nat
  /-- a task of the training step, started by STEP_RUN; otherwise TASK_RUN starts it. -/
  step : Bool
  /-- layers whose weights it reads (R258). -/
  layers : List Nat
  /-- the rung it is a variant for (R309). -/
  rung : Option Nat
  /-- a rescale task (R326). -/
  rescale : Bool
  tiles : List TaskTile
  contexts : List Nat
  rings : List Nat
  /-- the image names unit work for it (R578). -/
  unitWork : Bool
  /-- the silt word, on each of its tiles, that takes the sampling offset (R319). -/
  sampleWord : Option Nat
  /-- the package whose command ring starts it. -/
  home : Nat
  deriving DecidableEq, Repr

structure RingDecl where
  ring : Nat
  depth : Nat
  die : Nat
  tile : Option Nat
  task : Nat
  ctx : Nat
  deriving DecidableEq, Repr

structure CtxDecl where
  ctx : Nat
  kind : Nat
  task : Nat
  limit : Nat
  ring : Nat
  bufBase : Nat
  bufLog2 : Nat
  bufCount : Nat
  deriving DecidableEq, Repr

/-- A furrow (R167): per tile the base and size of each slot. -/
structure FurrowDecl where
  layer : Nat
  depth : Nat
  slots : List (TileId × Nat × Nat)
  src : Nat
  ctx : Nat
  ring : Nat
  task : Nat
  deriving DecidableEq, Repr

/-- A mesh route that the image fixes (R211, chapter 07): hops between a logical tile and an edge of its die, the link towards
die `edge`, or with 5 its own stacks. -/
structure RouteDecl where
  die : Nat
  tile : Nat
  edge : Nat
  hops : Nat
  deriving DecidableEq, Repr

/-- Stage record, Table 6.8. -/
structure StageDecl where
  stage : Nat
  pkg : Nat
  die : Nat
  tiles : List Nat
  firstLayer : Nat
  lastLayer : Nat
  inRing : Nat
  outRing : Nat
  buffers : Nat
  forward : Nat
  backward : Nat
  deriving DecidableEq, Repr

/-- An entry of a die's order list (R200). -/
structure StageEntry where
  stage : Nat
  microbatch : Nat
  backward : Bool
  deriving DecidableEq, Repr

/-- A foreground slot assignment (R222, R356, R359): a unit, or a fabric port, and its slot; whether it is for transit. -/
structure SlotAssign where
  unit : Nat
  port : Option Nat
  slot : Nat
  transit : Bool := false
  deriving DecidableEq, Repr

/-- A page that the image moves, or copies to an address of another package, in the foreground slots it assigns to it, from the
first attempt of an epoch on (R157, R159, Table 5.3). -/
structure MoveDecl where
  page : Nat
  epoch : Nat
  /-- to this package's clay; else to the clay of `peer`. -/
  home : Bool
  peer : Nat
  /-- a copy, which goes to this page of `peer`. -/
  copyTo : Option Nat
  deriving DecidableEq, Repr

/-- A shard as one package sees it (R242): its owners as the table names them, the lender it is homed on, the local
address of its weights here when this package holds it, their local address on the owner, and the all-gather that brings
them (R244, R492). -/
structure ShardDecl where
  layer : Nat
  shard : Nat
  owners : List Nat
  remote : Bool
  lender : Nat
  held : Bool
  fmt : Nat
  rows : Nat
  cols : Nat
  addr : Nat
  ownerAddr : Nat
  /-- the other packages that hold it, ascending, with its local address there (R496). -/
  replicas : List (Nat × Nat)
  gather : Nat
  deriving DecidableEq, Repr

/-- Slice record, Table 9.1. -/
structure SliceDecl where
  layer : Nat
  die : Nat
  unit : Nat
  wfmt : Nat
  mfmt : Nat
  shard : Nat
  first : Nat
  rows : Nat
  cols : Nat
  waddr : Nat
  maddr : Nat
  saddr : Nat
  paddr : Nat
  kaddr : Nat
  hold : Bool
  lrow : Nat
  lcol : Nat
  lwidth : Nat
  deriving DecidableEq, Repr

/-- A sparse table record (R299). -/
structure SparseDecl where
  layer : Nat
  rows : Nat
  len : Nat
  fmt : Nat
  weights : Nat
  moments : Nat
  stats : Nat
  journal : Nat
  slots : Nat
  /-- the inlet of its row gradients (R300, R579). -/
  inlet : Nat
  /-- owners of its rows: first row, rows, package; and the collective that takes row gradients to them. -/
  owners : List (Nat × Nat × Nat)
  coll : Nat
  /-- contributions of a row's final record (R283). -/
  total : Nat
  deriving DecidableEq, Repr

/-- A piece that this package gives a collective that does not reduce (Table 11.11): where it lies here, its bytes, and the
member it goes to with its local address there. -/
structure PieceDecl where
  src : Nat
  len : Nat
  dst : Nat
  addr : Nat
  deriving DecidableEq, Repr

/-- A collective record (R360); `algorithm` 0 DIRECT, 1 RING, 2 RING2. -/
structure CollDecl where
  number : Nat
  op : Nat
  members : List Nat
  algorithm : Nat
  ports : Nat
  task : Nat
  contexts : List Nat
  pieces : List PieceDecl
  deriving DecidableEq, Repr

/-- A tensor of a layer's scale table (R310): where its σ and its held exponents stand, and where its rescale task finds
its contents (R326): address, format, elements, and elements of a block. -/
structure TensorDecl where
  tensor : Nat
  sigma : Option Nat
  held : Option Nat
  blocks : Nat
  addr : Nat
  srcFmt : Nat
  elems : Nat
  bsize : Nat
  deriving DecidableEq, Repr

/-- A sieve declaration (R320). -/
structure SieveDecl where
  buffer : Nat
  ring : Nat
  /-- pairs that the image expects in an attempt: at the layer's SAMPLE, and at s = 6 after a failed verdict (R320, R326). -/
  pairs : Nat
  pairsSix : Nat := 0
  rescaleTask : Nat
  deriving DecidableEq, Repr

/-- A layer: its update task and gradient format, its numerics record (Table 10.2), the rungs the image carries variants
for, its scale table, its sieve declaration and its first program slot and constants. -/
structure LayerDecl where
  layer : Nat
  updateTask : Nat
  gradFmt : Nat
  onRung : Bool
  numerics : BitVec 64
  variants : List Nat
  tensors : List TensorDecl
  sieve : Option SieveDecl
  slot : Nat
  consts : List Word
  deriving DecidableEq, Repr

/-- A slice homed on a lender, as the lender's reserved units see it (R172): its record with the lender's addresses, and
where its weights return to on the owner (R173). -/
structure LentSlice where
  slice : SliceDecl
  back : Nat
  deriving DecidableEq, Repr

/-- A layer that a lender folds and sweeps for an owner: slices, program slot, c0 to c11, contributions of its final
records. -/
structure LentLayer where
  layer : Nat
  slices : List LentSlice
  slot : Nat
  consts : List Word
  contrib : Nat
  deriving DecidableEq, Repr

structure LossWord where
  task : Nat
  tile : TileId
  addr : Nat
  deriving DecidableEq, Repr

/-- A gradient bucket (R238, R239, R283, R579): its inlet, buffer, elements in use, contributions expected on this package
and in its final record, engine, and the collective of its reduce-scatter (none when this package alone sums it). -/
structure BucketDecl where
  layer : Nat
  shard : Nat
  bucket : Nat
  inlet : Nat
  buffer : Nat
  count : Nat
  contrib : Nat
  total : Nat
  engine : Nat
  coll : Option Nat
  deriving DecidableEq, Repr

/-- A schedule image (Table 6.7). `missing` lists sections absent or cut short. -/
structure Image where
  missing : List Nat
  job : Nat
  coord : Nat
  packages : List Nat
  /-- transit hops of the routes it names, by package (R358). -/
  transitHops : List (Nat × Nat) := []
  tclass : Nat
  features : Nat
  marginOnDie : Nat
  marginDieLink : Nat
  marginFabric : Nat
  programs : List (TileId × List (BitVec 64))
  tasks : List TaskDecl
  rings : List RingDecl
  contexts : List CtxDecl
  furrows : List FurrowDecl
  stages : List StageDecl
  orders : List (Nat × List StageEntry)
  slotPlan : List SlotAssign
  routes : List RouteDecl
  pins : List Nat
  moves : List MoveDecl
  shards : List ShardDecl
  slices : List SliceDecl
  sparse : List SparseDecl
  collectives : List CollDecl
  layers : List LayerDecl
  lossWords : List LossWord
  buckets : List BucketDecl
  /-- frames and tilth units that the image's own pages and slices need (R161). -/
  frames : Nat
  keyId : Nat
  signature : List Byte
  deriving DecidableEq, Repr

end Sys2Proof
end

