-- ==== Sys2Proof/Wire.lean ====
section
/-! DEFINITION. Records that commands carry: frames, notices, control flits and what the environment reports with an
event (chapters 08 to 18). -/

namespace Sys2Proof

/-- Abort record, Table 6.10. -/
structure AbortRecord where
  addr : Nat := 0
  pkg : Nat := 0
  code : Nat := 0
  instr : Nat := 0
  die : Nat := 0
  tile : Nat := 0
  cause : Nat := 0
  deriving DecidableEq, Repr

/-- What happened on the path of a stream: replays and retries on each of its crossings (R220, R467), and the fc that other
packages and the wires between them add to its P (R219, R468). -/
structure PathIn where
  onDie : List Nat := []
  dieLink : List Nat := []
  fabric : List Nat := []
  away : Nat := 0
  deriving DecidableEq, Repr

/-- The end of a stream that no tile runs. -/
structure StreamEnd where
  ctx : Nat
  path : PathIn := {}
  deriving DecidableEq, Repr

/-- The fc that they add to the path (Table 15.4). -/
def PathIn.added (p : PathIn) : Nat := 16 * p.onDie.foldl (· + ·) 0 + 64 * p.dieLink.foldl (· + ·) 0 + p.away

/-- R221: some crossing needed more than the margin of its path kind. -/
def PathIn.beyond (p : PathIn) (margins : Nat × Nat × Nat) : Bool :=
  p.onDie.any (margins.1 < ·) || p.dieLink.any (margins.2.1 < ·) || p.fabric.any (margins.2.2 < ·)

/-- An entry of the overflow record, Table 10.3. -/
structure OvfEntry where
  epoch : Nat
  attempt : Nat
  kind : Nat
  layer : Nat
  tensor : Nat
  block : Nat
  rung : Nat
  spec : Bool
  count : Nat
  deriving DecidableEq, Repr

/-- An entry that reaches the hub, and the tile whose conversion it reports when its KIND is 0 or 1. -/
structure OvfIn where
  entry : OvfEntry
  tile : TileId
  deriving DecidableEq, Repr

/-- The data of a posted write of the host, and whether it came poisoned (Table 13.8). -/
structure HostData where
  bytes : List Byte
  poisoned : Bool := false
  deriving DecidableEq, Repr

/-- A notice record, Table 11.8. -/
structure Notice where
  code : Nat
  cause : Nat := 0
  src : Nat := 0
  dst : Nat := 0
  attempt : Nat := 0
  epoch : Nat := 0
  job : Nat := 0
  task : Nat := 0
  arg : Nat := 0
  /-- content of the NOTICE_DATA frame before it. -/
  data : List Nat := []
  deriving DecidableEq, Repr

/-- A frame header, Table 11.4, with its data. -/
structure Frame where
  fkind : Nat
  flags : Nat := 0
  vc : Nat := 1
  nflit : Nat := 0
  dst : Nat := 0
  hops : Nat := 15
  src : Nat := 0
  sport : Nat := 0
  stag : Nat := 0
  job : Nat := 0
  laddr : Nat := 0
  ctx : Nat := 0
  task : Nat := 0
  ring : Nat := 0
  handle : Nat := 0
  offset : Nat := 0
  dtile : Nat := 0
  coll : Nat := 0
  opx : Nat := 0
  opy : Nat := 0
  data : List Byte := []
  deriving DecidableEq, Repr

/-- A control flit, Table 11.2. -/
structure ControlFlit where
  ack : Nat
  nak : Bool
  cred : List Nat
  self : Nat
  selfPort : Nat
  map : Nat
  width : Nat
  notice : Option Notice
  /-- the control flit of the turn before it was discarded here (R345); no field of Table 11.2. -/
  afterLost : Bool := false
  deriving DecidableEq, Repr

/-- A gradient bucket record, Table 8.1. -/
structure BucketRecord where
  elems : List (BitVec 16)
  y : BitVec 8
  fmt : Nat
  layer : Nat
  shard : Nat
  bucket : Nat
  count : Nat
  contrib : Nat
  tag : Nat
  deriving DecidableEq, Repr

/-- A part of a task that an abort notice reaches (R202). -/
inductive AbortPart where
  | tile (t : TileId)
  | stream (ctx : Nat)
  deriving DecidableEq, Repr

/-- Bytes that another source delivers into a tile's silt (R190): a furrow fill (R167), or a collective's data. -/
inductive Delivery where
  | fill (layer : Nat)
  | data (ctx addr : Nat) (bytes : List Byte)
  deriving DecidableEq, Repr

/-- The lanes of a failure: those of a link die's fabric ports, or of the die link on which `die` sends to `peer`. -/
structure LaneAt where
  die : Nat
  peer : Option Nat
  deriving DecidableEq, Repr

/-- A unit of Table 14.4. -/
structure UnitId where
  kind : Nat
  die : Nat
  num : Nat
  deriving DecidableEq, Repr

/-- What the broker measures for a power period (R433, R445, R448, R455): temperature and its die, the draw predicted
at each operating point, cycles stretched, the rank that bound, and whether the mean clock rate fell below the floor
point's. -/
structure PeriodIn where
  tj : Nat
  die : Nat
  predicted : List Nat
  /-- the guest die's predicted draw, in W (R21). -/
  guest : Nat := 0
  stretched : Nat
  rank : Nat
  belowFloor : Bool
  deriving DecidableEq, Repr

/-- A fault that the host sees in counters only (R466): the replay of a word that no stream of a command reports (R467), the retry
of a die link with the lane that it is attributed to (R219, R474), a fabric retry attributed to a lane, a stack word corrected at
its physical address (R469), and codewords of a fabric lane corrected or uncorrectable (R473). -/
inductive QuietFault where
  | replay
  | linkRetry (at_ : LaneAt) (lane : Option Nat)
  | flagged (at_ : LaneAt) (lane : Nat)
  | corrected (pa : Nat)
  | fec (die lane n : Nat)
  | fecLost (die lane n : Nat)
  deriving DecidableEq, Repr

/-- One 1 µs sample of the power stage (R427, R566): input voltage in 10 mV, µJ of each meter, and the means of a
1 ms or 1 s window that the sample completes; with it, the quiet faults since the sample before (notes/assumptions/100). -/
structure SampleIn where
  vin : Nat
  uj : List Nat
  p1ms : Option Nat
  p1s : Option Nat
  quiet : List QuietFault := []
  deriving DecidableEq, Repr

/-- What a boot stage found (Table 17.2): whether it passed, and units that failed their self-test. -/
structure BootIn where
  ok : Bool
  failed : List UnitId
  /-- silt rows found failing, which the row remap table maps to spares (R85). -/
  rows : List (TileId × Nat)
  /-- lanes of die links that fail training: the sending die, the other die, the lane (R476). -/
  lanes : List (Nat × Nat × Nat) := []
  tclass : BitVec 8
  deriving DecidableEq, Repr

/-- What training finds on a port (R346, R353): the peer announced, w in ns, good lanes. -/
structure TrainIn where
  peer : Nat
  peerPort : Nat
  flight : Nat
  lanes : Nat
  deriving DecidableEq, Repr

end Sys2Proof
end

