-- ==== Sys2Proof/Syntax.lean ====
section
/-! DEFINITION. The commands of the block: one constructor for each row of the opcode table, with the row's operands.
What a command's operands are, where the spec gives an event no field of its own, is notes/assumptions/11. -/

namespace Sys2Proof

inductive Instr where
  /-- NOP (R123): Tile control instruction that does nothing for one fc. -/
  | nop (t : TileId) (f : CtlF)
  /-- LI (R123): Loads an immediate into a scalar register. -/
  | li (t : TileId) (f : CtlF)
  /-- ADD (R123): Wrapping scalar add of a register and a register or immediate. -/
  | add (t : TileId) (f : CtlF)
  /-- SUB (R123): Wrapping scalar subtract. -/
  | sub (t : TileId) (f : CtlF)
  /-- MUL (R123): Low 32 bits of a scalar product. -/
  | mul (t : TileId) (f : CtlF)
  /-- AND (R123): Scalar bitwise and. -/
  | and (t : TileId) (f : CtlF)
  /-- OR (R123): Scalar bitwise or. -/
  | or (t : TileId) (f : CtlF)
  /-- XOR (R123): Scalar bitwise exclusive-or. -/
  | xor (t : TileId) (f : CtlF)
  /-- SHL (R72): Scalar shift left on 32 bits. -/
  | shl (t : TileId) (f : CtlF)
  /-- SHR (R72): Scalar logical shift right on 32 bits. -/
  | shr (t : TileId) (f : CtlF)
  /-- SRA (R72): Scalar arithmetic shift right on 32 bits. -/
  | sra (t : TileId) (f : CtlF)
  /-- SLT (R123): Sets a register to 1 when the first operand is less, signed. -/
  | slt (t : TileId) (f : CtlF)
  /-- SLTU (R123): Sets a register to 1 when the first operand is less, unsigned. -/
  | sltu (t : TileId) (f : CtlF)
  /-- B (R94): Unconditional branch to the target instruction. -/
  | b (t : TileId) (f : CtlF)
  /-- BEQ (R94): Branch when two scalar registers are equal. -/
  | beq (t : TileId) (f : CtlF)
  /-- BNE (R94): Branch when two scalar registers differ. -/
  | bne (t : TileId) (f : CtlF)
  /-- BLT (R94): Branch when the first register is less, signed. -/
  | blt (t : TileId) (f : CtlF)
  /-- BGE (R94): Branch when the first register is greater or equal, signed. -/
  | bge (t : TileId) (f : CtlF)
  /-- BQ (R76): Branch when a summary register masked by the immediate is nonzero. -/
  | bq (t : TileId) (f : CtlF)
  /-- BQZ (R76): Branch when a summary register masked by the immediate is zero. -/
  | bqz (t : TileId) (f : CtlF)
  /-- LOOP (R123): Decrements a register and branches while it is nonzero. -/
  | loop (t : TileId) (f : CtlF)
  /-- QMOV (R95): Copies half of a summary register into a scalar register. -/
  | qmov (t : TileId) (f : CtlF)
  /-- CSIG (R38): Computes a pinning scale from a maximum held in a summary register. -/
  | csig (t : TileId) (f : CtlF)
  /-- CRD (R123): Reads a tile control register into a scalar register. -/
  | crd (t : TileId) (f : CtlF)
  /-- CWR (R123): Writes a tile control register by its access codes. -/
  | cwr (t : TileId) (f : CtlF)
  /-- SYNC (R124): Holds dispatch until named sub-queues have finished. -/
  | sync (t : TileId) (f : CtlF)
  /-- SYNC_SATISFIED (R124): The last write awaited by a SYNC lands and dispatch resumes in the next fc. -/
  | syncSatisfied (t : TileId)
  /-- END (R126): Ends the tile's part of the task once all sub-queues are empty. -/
  | end_ (t : TileId) (f : CtlF)
  /-- END_COMPLETE (R126): All work awaited by END finishes and the tile reports its end with its flags. -/
  | endComplete (t : TileId)
  /-- ABORT (R131): Tile instruction that aborts the task with PROGRAM_ABORT and a code. -/
  | abort (t : TileId) (f : CtlF)
  /-- PC_RANGE (R98): Dispatch would pass instruction 4,095 and the task aborts. -/
  | pcRange (t : TileId)
  /-- MPASS (R87): Starts one row, column or outer-product matrix pass. -/
  | mpass (t : TileId) (f : MatF)
  /-- MLOAD (R60): Starts a stationary load into the shadow set. -/
  | mload (t : TileId) (f : MatF)
  /-- MDESC (R100): Loads a tensor descriptor into a matrix descriptor slot. -/
  | mdesc (t : TileId) (f : MatF)
  /-- STATIONARY_LOAD_COMPLETE (R60): The last row of a stationary load arrives and the shadow set is complete. -/
  | stationaryLoadComplete (t : TileId)
  /-- DESCRIPTOR_VALID (R100): A descriptor slot becomes valid 7 fc after its load issued. -/
  | descriptorValid (t : TileId) (vector : Bool) (slot : BitVec 2)
  /-- ENTRY_ENQUEUE (R87): A draining pass writes its last result row and enqueues its hand-off entry. -/
  | entryEnqueue (t : TileId)
  /-- ENTRY_VISIBLE (R67): A hand-off entry becomes visible to the vector engine 3 fc after enqueue. -/
  | entryVisible (t : TileId)
  /-- ENTRY_RELEASE (R68): A hand-off entry is freed in the fc after its releasing instruction's last read. -/
  | entryRelease (t : TileId)
  /-- HANDOFF_TIMEOUT (R66): A pass held for a hand-off entry for 4,096 fc aborts the task. -/
  | handoffTimeout (t : TileId)
  /-- STATIONARY_TIMEOUT (R108): A swapping pass held 4,096 fc without a completed load aborts the task. -/
  | stationaryTimeout (t : TileId)
  /-- VADD (R114): Vector float add. -/
  | vadd (t : TileId) (f : VecF)
  /-- VSUB (R114): Vector float subtract. -/
  | vsub (t : TileId) (f : VecF)
  /-- VMUL (R114): Vector float multiply. -/
  | vmul (t : TileId) (f : VecF)
  /-- VMIN (R114): Vector float minimum. -/
  | vmin (t : TileId) (f : VecF)
  /-- VMAX (R114): Vector float maximum. -/
  | vmax (t : TileId) (f : VecF)
  /-- VFMA (R114): Vector fused multiply-add with one rounding. -/
  | vfma (t : TileId) (f : VecF)
  /-- VABS (R114): Vector float absolute value. -/
  | vabs (t : TileId) (f : VecF)
  /-- VNEG (R114): Vector float negation. -/
  | vneg (t : TileId) (f : VecF)
  /-- VCMP (R114): Vector compare by the predicate in RM. -/
  | vcmp (t : TileId) (f : VecF)
  /-- VSEL (R114): Vector select of A where C is nonzero, else B. -/
  | vsel (t : TileId) (f : VecF)
  /-- VIADD (R71): Vector wrapping integer add. -/
  | viadd (t : TileId) (f : VecF)
  /-- VIADDS (R71): Vector saturating integer add. -/
  | viadds (t : TileId) (f : VecF)
  /-- VISUB (R71): Vector wrapping integer subtract. -/
  | visub (t : TileId) (f : VecF)
  /-- VISUBS (R71): Vector saturating integer subtract. -/
  | visubs (t : TileId) (f : VecF)
  /-- VIMUL (R71): Vector wrapping integer multiply. -/
  | vimul (t : TileId) (f : VecF)
  /-- VIMULS (R71): Vector saturating integer multiply. -/
  | vimuls (t : TileId) (f : VecF)
  /-- VIMIN (R71): Vector integer minimum. -/
  | vimin (t : TileId) (f : VecF)
  /-- VIMAX (R71): Vector integer maximum. -/
  | vimax (t : TileId) (f : VecF)
  /-- VAND (R123): Vector bitwise and. -/
  | vand (t : TileId) (f : VecF)
  /-- VOR (R123): Vector bitwise or. -/
  | vor (t : TileId) (f : VecF)
  /-- VXOR (R123): Vector bitwise exclusive-or. -/
  | vxor (t : TileId) (f : VecF)
  /-- VNOT (R123): Vector bitwise not. -/
  | vnot (t : TileId) (f : VecF)
  /-- VSHL (R72): Vector shift left. -/
  | vshl (t : TileId) (f : VecF)
  /-- VSHR (R72): Vector logical shift right. -/
  | vshr (t : TileId) (f : VecF)
  /-- VSRA (R72): Vector arithmetic shift right. -/
  | vsra (t : TileId) (f : VecF)
  /-- VCVT (R49): Vector conversion between formats, choosing block exponents as needed. -/
  | vcvt (t : TileId) (f : VecF)
  /-- VRCP (R73): Vector reciprocal. -/
  | vrcp (t : TileId) (f : VecF)
  /-- VSQRT (R73): Vector square root. -/
  | vsqrt (t : TileId) (f : VecF)
  /-- VRSQ (R73): Vector reciprocal square root. -/
  | vrsq (t : TileId) (f : VecF)
  /-- VEXP2 (R73): Vector base-2 exponential. -/
  | vexp2 (t : TileId) (f : VecF)
  /-- VLOG2 (R73): Vector base-2 logarithm. -/
  | vlog2 (t : TileId) (f : VecF)
  /-- VRSUM (R74): Sum reduction into a summary register. -/
  | vrsum (t : TileId) (f : VecF)
  /-- VRMAX (R74): Max reduction into a summary register. -/
  | vrmax (t : TileId) (f : VecF)
  /-- VRMIN (R74): Min reduction into a summary register. -/
  | vrmin (t : TileId) (f : VecF)
  /-- VRNZ (R118): Count-nonzero reduction into a summary register. -/
  | vrnz (t : TileId) (f : VecF)
  /-- VRNAN (R118): Count-NaN reduction into a summary register. -/
  | vrnan (t : TileId) (f : VecF)
  /-- VDESC (R100): Loads a tensor descriptor into a vector descriptor slot. -/
  | vdesc (t : TileId) (f : VecF)
  /-- VECTOR_LAST_RESULT (R70): A vector instruction writes its last result L fc after its last group. -/
  | vectorLastResult (t : TileId)
  /-- SUMMARY_VALID (R75): A summary register becomes valid 4 fc after the instruction's last result. -/
  | summaryValid (t : TileId) (q : BitVec 3)
  /-- XGET (R189): Transfer from the unified range into the tile's silt. -/
  | xget (t : TileId) (f : XferF)
  /-- XPUT (R189): Transfer from silt into the unified range. -/
  | xput (t : TileId) (f : XferF)
  /-- XTILE (R189): Transfer from silt into another tile's silt. -/
  | xtile (t : TileId) (f : XferF)
  /-- TRANSFER_COMPLETE (R120): A transfer's last byte lands and its handle is posted in the next fc. -/
  | transferComplete (t : TileId) (path : PathIn)
  /-- DELIVERY (R190): A row from another source arrives at a tile's mesh port for its silt. -/
  | delivery (t : TileId) (d : Delivery)
  /-- HGET (R127): Takes the oldest handle of a ring or waits for one. -/
  | hget (t : TileId) (f : HdlF)
  /-- HGET_HANDLE (R127): A handle enters the ring of a waiting HGET and is written 2 fc later. -/
  | hgetHandle (t : TileId)
  /-- HANDLE_TIMEOUT (R128): An HGET waits WAIT × 64 fc without a handle and the task aborts. -/
  | handleTimeout (t : TileId)
  /-- HPUT (R121): Posts a handle with the hardware speculative tag to a ring. -/
  | hput (t : TileId) (f : HdlF)
  /-- TASK_ASSIGN (R90): A tile is assigned a task and starts at its start instruction. -/
  | taskAssign (t : TileId) (task : Nat)
  /-- TASK_END (R578): Every tile, stream and unit work of a task has ended on every package. -/
  | taskEnd (task : Nat)
  /-- TASK_ABORT (R201): An abort cause in any part of a task aborts the whole task everywhere. -/
  | taskAbort (task : Nat) (r : AbortRecord)
  /-- PEER_ABORT (R202): The abort notice reaches a tile or stream, which aborts with PEER_ABORT. -/
  | peerAbort (part : AbortPart)
  /-- TASK_ABORT_REPLY (R204): Every part of an aborted task has stopped and the ABORTED reply is posted. -/
  | taskAbortReply (task : Nat)
  /-- STREAM_COMPLETE (R576): All activity under a stream context completes and it returns to READY. -/
  | streamComplete (e : StreamEnd)
  /-- STREAM_LATE (R185): A stream is ACTIVE for LIMIT fc without completing and its task aborts. -/
  | streamLate (ctx : Nat)
  /-- STAGE_ENTRY_START (R200): A die starts the next entry of its virtual-stage order list. -/
  | stageEntryStart (die : Nat)
  /-- NOP_COMMAND (R386): Command that does nothing and is answered DONE. -/
  | nopCommand (ring : Nat)
  /-- IDENTIFY (R511): Writes the identity record to a host buffer. -/
  | identify (ring : Nat)
  /-- HOST_TIME (R386): Records a host timestamp and returns the local sc count. -/
  | hostTime (ring : Nat)
  /-- RING_ALLOC (R180): Allocates a command or completion ring. -/
  | ringAlloc (ring : Nat)
  /-- RING_FREE (R386): Frees a command or completion ring. -/
  | ringFree (ring : Nat)
  /-- RING_QUERY (R181): Returns a ring descriptor. -/
  | ringQuery (ring : Nat)
  /-- FENCE (R394): Waits for named commands, or all earlier commands of other rings, to be answered. -/
  | fence (ring : Nat)
  /-- FENCE_TIMEOUT (R395): A fence's limit passes before its condition holds. -/
  | fenceTimeout (ring : Nat)
  /-- CANCEL (R390): Stops a long command at its next slice boundary. -/
  | cancel (ring : Nat)
  /-- PAGE_MAP (R150): Maps pages, clearing their frames first. -/
  | pageMap (ring : Nat)
  /-- MAP_CLEAR_COMPLETE (R570): The clearing of a map's frames ends and the map is answered DEFERRED. -/
  | mapClearComplete (ring : Nat)
  /-- PAGE_UNMAP (R150): Unmaps pages. -/
  | pageUnmap (ring : Nat)
  /-- PAGE_SEAL (R150): Seals open unbanked pages. -/
  | pageSeal (ring : Nat)
  /-- PAGE_OPEN (R150): Opens sealed unbanked pages, discarding copies. -/
  | pageOpen (ring : Nat)
  /-- PAGE_MIGRATE (R157): Migrates sealed unbanked pages to a lender or home. -/
  | pageMigrate (ring : Nat)
  /-- MIGRATION_SWITCH (R155): A migration's copy ends and the descriptor switches to the destination. -/
  | migrationSwitch (page : Nat) (copied : Bool)
  /-- PAGE_QUERY (R144): Returns a page descriptor. -/
  | pageQuery (ring : Nat)
  /-- LEND_SET (R160): Sets the lend settings of the package. -/
  | lendSet (ring : Nat)
  /-- LEND_QUERY (R386): Returns the lend settings and frames in use. -/
  | lendQuery (ring : Nat)
  /-- LENDER_DECLARED_LOST (R165): The installer declares a lender lost and its REMOTE and MOVED pages become LOST. -/
  | lenderDeclaredLost (lender : Nat)
  /-- IMAGE_LOAD (R196): Loads a running or standby schedule image. -/
  | imageLoad (ring : Nat) (image : Option Image)
  /-- JOB_END (R393): Ends the job and frees its rings and contexts. -/
  | jobEnd (ring : Nat)
  /-- STEP_RUN (R255): Runs training steps in AUTO or HOST commit mode. -/
  | stepRun (ring : Nat) (agree : Bool)
  /-- STEP_COMMIT (R251): The host commits an epoch in HOST mode. -/
  | stepCommit (ring : Nat)
  /-- STEP_ABORT (R254): The host aborts the running step, which then stops. -/
  | stepAbort (ring : Nat)
  /-- STEP_STATUS (R252): Returns the step status record. -/
  | stepStatus (ring : Nat)
  /-- TASK_RUN (R204): Runs one task outside any epoch. -/
  | taskRun (ring : Nat)
  /-- TILTH_PROGRAM (R276): Loads an update program into a program slot. -/
  | tilthProgram (ring : Nat)
  /-- TILTH_LAYER (R282): Sets a layer's program slot and constants from an epoch. -/
  | tilthLayer (ring : Nat)
  /-- TILTH_SWEEP (R291): Starts the sweep of a held layer. -/
  | tilthSweep (ring : Nat)
  /-- LAYER_NUMERICS (R307): Changes a layer numerics record from an epoch. -/
  | layerNumerics (ring : Nat)
  /-- SIEVE_SET (R329): Sets the numeric replay limit for later runs. -/
  | sieveSet (ring : Nat)
  /-- RESHARD (R366): Changes the running job's layout to a standby image by permutation. -/
  | reshard (ring : Nat) (agree : Bool)
  /-- PERMUTATION_COMPLETE (R367): A package finishes its part of a reshard permutation and sends PERMUTE_DONE. -/
  | permutationComplete
  /-- TOPOLOGY_SET (R352): Sets coordinate, port peers, spare cabling, member and route tables. -/
  | topologySet (ring : Nat)
  /-- PORT_QUERY (R338): Returns a port descriptor. -/
  | portQuery (ring : Nat)
  /-- PORT_ENABLE (R386): Enables or disables fabric ports. -/
  | portEnable (ring : Nat)
  /-- EXPORT (R396): Writes shard records of owned state to a host buffer. -/
  | export_ (ring : Nat)
  /-- IMPORT (R400): Writes shard records into frame F[T mod 2] after checking digests. -/
  | import_ (ring : Nat)
  /-- POWER_LIMIT (R441): Sets the installer's sustained limit S. -/
  | powerLimit (ring : Nat)
  /-- BUDGET_STEP (R442): Sets the facility budget B, at once or after a delay. -/
  | budgetStep (ring : Nat)
  /-- BUDGET_STEP_DELAY_END (R442): A delayed budget change falls due and B changes. -/
  | budgetStepDelayEnd
  /-- BUDGET_LEND (R443): Sets the lent budget L for a time. -/
  | budgetLend (ring : Nat)
  /-- LEND_EXPIRED (R443): A budget lend expires and L becomes 0. -/
  | lendExpired
  /-- POWER_QUERY (R458): Writes the power record to a host buffer. -/
  | powerQuery (ring : Nat)
  /-- UNIT_DISABLE (R436): Puts a unit into IDLE, NAP or DARK. -/
  | unitDisable (ring : Nat)
  /-- UNIT_ENABLE (R439): Wakes a unit to ACTIVE. -/
  | unitEnable (ring : Nat)
  /-- UNIT_QUIESCED (R438): A shutting-down unit reaches its quiesced point. -/
  | unitQuiesced (u : UnitId)
  /-- UNIT_WAKE_COMPLETE (R439): A waking unit becomes ACTIVE. -/
  | unitWakeComplete (u : UnitId)
  /-- KEY_ENROL (R505): Enrols an operator or installer key. -/
  | keyEnrol (ring : Nat)
  /-- KEY_REVOKE (R507): Revokes a key and ends its claims. -/
  | keyRevoke (ring : Nat)
  /-- SEAT_BIND (R528): Replaces the seat record. -/
  | seatBind (ring : Nat)
  /-- ATTEST (R526): Writes a signed attestation report. -/
  | attest (ring : Nat)
  /-- AUDIT_READ (R524): Writes audit entries in index order. -/
  | auditRead (ring : Nat)
  /-- GUEST_WINDOW (R532): Replaces the guest firewall window table. -/
  | guestWindow (ring : Nat)
  /-- FW_UPDATE (R514): Writes and checks the firmware slot that did not boot. -/
  | fwUpdate (ring : Nat)
  /-- COUNTER_SELECT (R562): Selects the source of a selectable counter. -/
  | counterSelect (ring : Nat)
  /-- COUNTER_READ (R565): Latches all counters and writes the counter record. -/
  | counterRead (ring : Nat)
  /-- SCRUB_FULL (R386): Scrubs named stacks in full outside a job. -/
  | scrubFull (ring : Nat)
  /-- SELF_TEST (R386): Self-tests a die or all dies outside a job. -/
  | selfTest (ring : Nat)
  /-- CONTEXT_QUERY (R183): Returns a stream context record. -/
  | contextQuery (ring : Nat)
  /-- ABORT_READ (R203): Returns a task's abort record. -/
  | abortRead (ring : Nat)
  /-- NUMERICS_READ (R307): Returns layer numerics records. -/
  | numericsRead (ring : Nat)
  /-- OVERFLOW_READ (R311): Returns committed overflow record entries. -/
  | overflowRead (ring : Nat)
  /-- SLICE_END (R388): A long command reaches the end of a slice and returns to its ring's ready work. -/
  | sliceEnd (ring : Nat)
  /-- COMMAND_DOORBELL (R407): A write to a command doorbell sets the ring's TAIL. -/
  | commandDoorbell (ring : BitVec 18) (v : BitVec 32)
  /-- COMPLETION_DOORBELL (R408): A write to a completion doorbell sets the ring's HEAD and frees entries. -/
  | completionDoorbell (ring : BitVec 18) (v : BitVec 32)
  /-- REGISTER_WRITE (R4): A write to a BAR0 register or vector-map entry without behaviour of its own. -/
  | registerWrite (offset size : Nat) (v : BitVec 64)
  /-- EPOCH_LO_READ (R405): A read of EPOCH_LO latches the epoch's high bits into EPOCH_HI. -/
  | epochLoRead
  /-- DB_ERR_READ (R6): A read of DB_ERR returns and clears its fields. -/
  | dbErrRead
  /-- RING_WINDOW_WRITE (R411): A host write through the ring window lands in command-ring storage. -/
  | ringWindowWrite (offset : BitVec 25) (data : HostData)
  /-- APERTURE_READ (R418): A BAR2 read of the unified range through the aperture. -/
  | apertureRead (offset len : Nat)
  /-- APERTURE_WRITE (R420): A BAR2 write to the unified range through the aperture. -/
  | apertureWrite (offset : Nat) (data : HostData)
  /-- FUNCTION_LEVEL_RESET (R423): A Function Level Reset stops the step, ends the job and resets rings and registers. -/
  | functionLevelReset
  /-- D3HOT_ENTRY (R424): The function enters D3hot and holds interrupt messages. -/
  | d3hotEntry
  /-- D0_RETURN (R424): The function returns to D0 and sends held interrupt messages. -/
  | d0Return
  /-- COMPLETION_TIMEOUT (R425): A read of a host buffer is not completed and its command is answered FAULT. -/
  | completionTimeout (ring : Nat)
  /-- WRITE (R342): A WRITE frame arrives and writes through the page map. -/
  | write (port : Nat) (f : Frame)
  /-- TILE_WRITE (R195): A TILE_WRITE frame arrives and writes a tile's silt. -/
  | tileWrite (port : Nat) (f : Frame)
  /-- READ_REQ (R342): A READ_REQ frame arrives and is answered with a read reply. -/
  | readReq (port : Nat) (f : Frame)
  /-- READ_REPLY (R342): A READ_REPLY frame arrives and delivers to its context. -/
  | readReply (port : Nat) (f : Frame)
  /-- ERROR_REPLY (R153): An ERROR_REPLY frame arrives and ends the requesting stream with a memory fault. -/
  | errorReply (port : Nat) (f : Frame)
  /-- COLLECTIVE (R361): A COLLECTIVE frame arrives and is handed to its collective. -/
  | collective (port : Nat) (f : Frame)
  /-- GRAD_FORWARD (R172): A GRAD_FORWARD frame arrives and is folded by the lender's tilth units. -/
  | gradForward (port : Nat) (f : Frame) (lent : LentLayer)
  /-- NOTICE_DATA (R350): A NOTICE_DATA frame arrives holding the content of a following notice. -/
  | noticeData (port : Nat) (f : Frame)
  /-- CONTROL_FLIT (R343): A control flit arrives with acknowledgement, NAK, credits and maybe a notice. -/
  | controlFlit (port : Nat) (c : ControlFlit)
  /-- PORT_TRAINED (R346): A port finishes training, measures w and checks the peer identity. -/
  | portTrained (port : Nat) (r : TrainIn)
  /-- LANE_FAILURE (R473): A lane exceeds its retry or FEC threshold or loses lock. -/
  | laneFailure (at_ : LaneAt) (lane : Nat)
  /-- STEP_READY (R246): A package sends STEP_READY once every condition of Table 8.2 holds. -/
  | stepReady
  /-- STEP_READY_NOTICE (R248): The leader receives STEP_READY and commits when all have arrived. -/
  | stepReadyNotice (src : Nat)
  /-- COMMIT_NOTICE (R148): A package receives COMMIT and applies the commit, clearing speculative tags. -/
  | commitNotice (src : Nat)
  /-- COMMIT_ACK_NOTICE (R250): The leader receives COMMIT_ACK and, when all have arrived, replies and sends STEP_SETTLED. -/
  | commitAckNotice (src : Nat)
  /-- STEP_SETTLED_NOTICE (R260): A package receives STEP_SETTLED and may start work of the next epoch. -/
  | stepSettledNotice (src : Nat)
  /-- STEP_ABORT_NOTICE (R254): The leader receives a STEP_ABORT request and sends the abort notice. -/
  | stepAbortNotice (src : Nat)
  /-- ABORT_NOTICE (R254): A package receives the abort notice and stops all work of E and E + 1. -/
  | abortNotice (src : Nat)
  /-- STOPPED_NOTICE (R328): The leader receives STOPPED and, when all have stopped, replays or stops the job. -/
  | stoppedNotice (src : Nat)
  /-- STEP_REPLAY_NOTICE (R330): A package receives STEP_REPLAY and starts the next attempt. -/
  | stepReplayNotice (src : Nat)
  /-- TASK_ABORT_NOTICE (R202): A package receives TASK_ABORT and aborts the task's parts there. -/
  | taskAbortNotice (src : Nat)
  /-- LAYER_COMPLETE_NOTICE (R172): A lender receives LAYER_COMPLETE and runs the layer's update program. -/
  | layerCompleteNotice (src : Nat) (lent : LentLayer)
  /-- OWNER_COMMIT_NOTICE (R175): A lender receives OWNER_COMMIT and opens the homed current frames. -/
  | ownerCommitNotice (src : Nat)
  /-- SPEC_HOLD_NOTICE (R366): A package receives SPEC_HOLD and starts no further work of the next epoch. -/
  | specHoldNotice (src : Nat)
  /-- PERMUTE_DONE_NOTICE (R367): The leader receives PERMUTE_DONE and settles the reshard when all have arrived. -/
  | permuteDoneNotice (src : Nat)
  /-- POWER_HOLD_NOTICE (R450): The leader receives POWER_HOLD and sends SPEC_HOLD. -/
  | powerHoldNotice (src : Nat)
  /-- BOUNDARY_WORK_NOTICE (R462): The leader receives BOUNDARY_WORK and sends SPEC_HOLD. -/
  | boundaryWorkNotice (src : Nat)
  /-- BOUNDARY_DONE_NOTICE (R462): The leader receives BOUNDARY_DONE and settles when all have arrived. -/
  | boundaryDoneNotice (src : Nat)
  /-- BOUNDARY_WORK_COMPLETE (R464): A package finishes its boundary work and sends BOUNDARY_DONE. -/
  | boundaryWorkComplete
  /-- SPECULATIVE_START (R258): Work of E + 1 starts on a layer whose next bank is sealed. -/
  | speculativeStart (task : Nat)
  /-- REDUCTION_HOP (R236): A reduction engine combines bucket records and rounds by RTO. -/
  | reductionHop (bucket inputs : Nat)
  /-- TILTH_FOLD (R284): A tilth unit takes a final bucket record and folds its elements. -/
  | tilthFold (slice : Nat)
  /-- INVERSION_PHASE (R295): Preconditioner blocks of a slice are inverted before its sweep. -/
  | inversionPhase (slice : Nat)
  /-- SWEEP_START (R287): A layer's contributions are complete and its slices' sweeps start. -/
  | sweepStart (layer : Nat)
  /-- SWEEP_COMPLETE (R289): A layer's last next-bank weight is final and its digests are complete. -/
  | sweepComplete (layer : Nat)
  /-- LAYER_SEAL (R289): 16 fc after the sweep ends the layer's next frames are sealed. -/
  | layerSeal (layer : Nat)
  /-- GATHER_LOOKUP (R302): A gather unit serves a sparse row read by epoch. -/
  | gatherLookup (layer row : Nat) (next : Bool)
  /-- SHARD_DIGEST_CHECK (R244): A received shard's bytes have landed and its digest is checked before sealing. -/
  | shardDigestCheck (layer shard : Nat) (digest : BitVec 64)
  /-- OVERFLOW_ENTRY (R314): An overflow record entry reaches the hub and is handled by the layer's policy. -/
  | overflowEntry (e : OvfIn)
  /-- SIEVE_PAIR_RESULT (R323): A sieve pair's comparison result is known and passes or fails. -/
  | sievePairResult (layer output narrow wide : Nat) (next : Bool)
  /-- RESCALE (R326): A rescale task recomputes a layer's scales before its replay. -/
  | rescale (layer : Nat)
  /-- POWER_PERIOD (R433): At each 1,024 sc boundary the broker adjusts operating point, gating and thermal reduction. -/
  | powerPeriod (r : PeriodIn)
  /-- OPERATING_POINT_REACHED (R433): An operating-point change completes after its count. -/
  | operatingPointReached
  /-- ENERGY_SAMPLE (R427): Each 1 µs sample updates power windows and energy meters. -/
  | energySample (r : SampleIn)
  /-- DROOP_DETECTED (R209): A droop stretches the same cycle on every die. -/
  | droopDetected (cycles : Nat)
  /-- HOLD_WAKE (R450): A held package begins its wake 60 sc before the hold ends. -/
  | holdWake
  /-- HOLD_EXPIRY (R450): The largest requested hold passes and the leader sends STEP_SETTLED. -/
  | holdExpiry
  /-- THERMAL_TRIP (R457): A sensor reads 115 °C and hardware removes the die rails. -/
  | thermalTrip (tj : Nat)
  /-- SUPPLY_WARN (R446): SUPPLY_WARN_N falls and the warn budget binds. -/
  | supplyWarn
  /-- SUPPLY_WARN_RISE (R446): SUPPLY_WARN_N rises and P_eff governs again. -/
  | supplyWarnRise
  /-- SB_BUDGET_WRITE (R442): A sideband write of SB_BUDGET sets B. -/
  | sbBudgetWrite (v : BitVec 32)
  /-- SB_WARN_WRITE (R446): A sideband write of SB_WARN sets the warn budget. -/
  | sbWarnWrite (v : BitVec 32)
  /-- SB_REGISTER_WRITE (R553): A sideband write to a register without behaviour of its own. -/
  | sbRegisterWrite (offset : Nat) (v : BitVec 32)
  /-- ENTDAA (R552): I3C CCC assigning dynamic addresses. -/
  | entdaa (addr : BitVec 7)
  /-- SETDASA (R552): I3C CCC setting the dynamic address from the static one. -/
  | setdasa (addr : BitVec 7)
  /-- SETNEWDA (R552): I3C CCC setting a new dynamic address. -/
  | setnewda (addr : BitVec 7)
  /-- RSTDAA (R552): I3C CCC resetting the dynamic address. -/
  | rstdaa
  /-- GETPID (R552): I3C CCC returning the provisional ID. -/
  | getpid
  /-- GETBCR (R552): I3C CCC returning the BCR. -/
  | getbcr
  /-- GETDCR (R552): I3C CCC returning the DCR. -/
  | getdcr
  /-- GETSTATUS (R552): I3C CCC returning status. -/
  | getstatus
  /-- ENEC (R552): I3C CCC accepted without effect. -/
  | enec
  /-- DISEC (R552): I3C CCC accepted without effect. -/
  | disec
  /-- IDCODE (R555): TAP instruction selecting the IDCODE register. -/
  | idcode
  /-- SAMPLE_PRELOAD (R555): TAP instruction sampling or preloading boundary scan. -/
  | samplePreload (bits : List Bool)
  /-- EXTEST (R556): TAP instruction driving pins from boundary scan in reset. -/
  | extest
  /-- CLAMP (R556): TAP instruction clamping pins with bypass selected. -/
  | clamp
  /-- HIGHZ (R556): TAP instruction placing pins at high impedance. -/
  | highz
  /-- BYPASS (R555): TAP instruction selecting the bypass register. -/
  | bypass
  /-- POWER_UP (R539): VIN_42 rises through 36 V and the always-on domain starts. -/
  | powerUp (straps : BitVec 3)
  /-- VIN_42_REMOVED (R539): VIN_42 falls below 24 V and the always-on domain resets. -/
  | vin42Removed
  /-- INPUT_RANGE (R428): VIN_42 stays out of 33 to 57 V for 5 µs and the rails are removed. -/
  | inputRange
  /-- PWRGD_IN_RISE (R543): PWRGD_IN rises and the die rails ramp. -/
  | pwrgdInRise
  /-- PWRGD_IN_FALL (R549): PWRGD_IN falls and the die rails are removed. -/
  | pwrgdInFall
  /-- PERST_N_RISE (R545): PERST_N rises and PCI Express link training begins. -/
  | perstNRise
  /-- CONVENTIONAL_RESET (R548): PERST_N falls for 1 µs and the boot restarts at stage 0x02. -/
  | conventionalReset
  /-- PCIE_REFCLK_LOSS (R540): PCIE_REFCLK is absent for 2 µs and the fast clocks stop. -/
  | pcieRefclkLoss
  /-- BOOT_STAGE_COMPLETE (R544): A boot stage finishes and the next begins, up to ready. -/
  | bootStageComplete (r : BootIn)
  /-- BOOT_STAGE_TIMEOUT (R544): A boot stage exceeds its maximum and the boot fails. -/
  | bootStageTimeout
  /-- FALLOW_SLOT_GRANT (R226): A fallow slot is granted to the highest-ranked waiting background task. -/
  | fallowSlotGrant (die unit : Nat)
  /-- FALLOW_DEADLINE (R228): A deferred background task passes its deadline. -/
  | fallowDeadline (kind die unit : Nat)
  /-- CHANNEL_COPY_COMPLETE (R472): A retiring channel's copy to its spare ends and the switch awaits a boundary. -/
  | channelCopyComplete (stack channel : Nat)
  /-- UNIT_FAULT (R482): A unit stops on a hardware fault and is backfilled at the next boundary. -/
  | unitFault (u : UnitId)
  /-- CORE_FAULT (R485): A management core fails and its items are answered FAULT. -/
  | coreFault (core : Nat)
  /-- FATAL (R488): An uncorrectable hub fault stops the package. -/
  | fatal (u : UnitId)
  /-- GUEST_READ (R533): A guest read is checked by the firewall and served or refused. -/
  | guestRead (addr len : Nat)
  /-- GUEST_WRITE (R533): A guest write is checked by the firewall and lands or is refused. -/
  | guestWrite (addr : Nat) (bytes : List Byte)
  /-- LENDER_UNREACHABLE (R153): A request to a lender gets no answer within the retry margin, and the access fails with LENDER_UNREACHABLE. -/
  | lenderUnreachable (lender ctx : Nat)
  /-- ACCUMULATOR_SET_FREE (R573): The fc at which a draining pass frees its accumulator set, releasing a pass held on that set. -/
  | accumulatorSetFree (t : TileId) (set : Bool)
  /-- UNIT_POWER_DOWN_COMPLETE (R438): A unit's power-down after its quiesced point completes, and any pending enable then begins the full wake. -/
  | unitPowerDownComplete (u : UnitId)
  /-- FLIT_DISCARDED (R343): A receiver discards a flit that fails FCRC or arrives out of order, and sets NAK until the next in-order flit. -/
  | flitDiscarded (port : Nat)
  /-- FUNCTION_LEVEL_RESET_READY (R423): READY rises again after a Function Level Reset and INT_CAUSE.READY is set. -/
  | functionLevelResetReady
  /-- UNSUPPORTED_REQUEST (R425): A PCI Express request to a BAR other than BAR0 or BAR2, or of an unsupported type, is answered Unsupported Request and reported through AER. -/
  | unsupportedRequest
  /-- VECTOR_UNMASK (R415): The host unmasks an MSI-X vector, and the one held message for its pending events is sent. -/
  | vectorUnmask (vector : BitVec 11)
  deriving DecidableEq, Repr

end Sys2Proof
end

