-- ==== Sys2Proof/Decode.lean ====
section
/-! DEFINITION. Decoding.  The opcode table gives no row any bits, so no word spells a command (`decodeTableWord`).  The
tile instruction words of chapter 04 have their own codec: opcodes of Table 4.11 and the five layouts. -/

namespace Sys2Proof

/-- Opcodes of the control layout, Table 4.11. -/
def CtlOp.code : CtlOp → BitVec 8
  | .nop => 0x00 | .li => 0x01 | .add => 0x02 | .sub => 0x03 | .mul => 0x04 | .and => 0x05 | .or => 0x06
  | .xor => 0x07 | .shl => 0x08 | .shr => 0x09 | .sra => 0x0A | .slt => 0x0B | .sltu => 0x0C | .b => 0x0D
  | .beq => 0x0E | .bne => 0x0F | .blt => 0x10 | .bge => 0x11 | .bq => 0x12 | .bqz => 0x13 | .loop => 0x14
  | .qmov => 0x15 | .csig => 0x16 | .crd => 0x17 | .cwr => 0x18 | .sync => 0x19 | .end_ => 0x1A | .abort => 0x1B

def MatOp.code : MatOp → BitVec 8
  | .mpass => 0x20 | .mload => 0x21 | .mdesc => 0x22

def XferOp.code : XferOp → BitVec 8
  | .xget => 0x30 | .xput => 0x31 | .xtile => 0x32

def HdlOp.code : HdlOp → BitVec 8
  | .hget => 0x38 | .hput => 0x39

def VecOp.code : VecOp → BitVec 8
  | .vadd => 0x40 | .vsub => 0x41 | .vmul => 0x42 | .vmin => 0x43 | .vmax => 0x44 | .vfma => 0x45 | .vabs => 0x46
  | .vneg => 0x47 | .vcmp => 0x48 | .vsel => 0x49
  | .viadd => 0x50 | .viadds => 0x51 | .visub => 0x52 | .visubs => 0x53 | .vimul => 0x54 | .vimuls => 0x55
  | .vimin => 0x56 | .vimax => 0x57
  | .vand => 0x60 | .vor => 0x61 | .vxor => 0x62 | .vnot => 0x63 | .vshl => 0x64 | .vshr => 0x65 | .vsra => 0x66
  | .vcvt => 0x68 | .vrcp => 0x70 | .vsqrt => 0x71 | .vrsq => 0x72 | .vexp2 => 0x73 | .vlog2 => 0x74
  | .vrsum => 0x78 | .vrmax => 0x79 | .vrmin => 0x7A | .vrnz => 0x7B | .vrnan => 0x7C | .vdesc => 0x7E

/-- Bits [55:0] of each layout. -/
def CtlF.bits (f : CtlF) : BitVec 56 := f.xd ++ f.xa ++ f.xb ++ f.tgt ++ f.imm

def MatF.bits (f : MatF) : BitVec 56 :=
  f.kind ++ f.acc ++ f.clr ++ f.drn ++ f.swp ++ f.msk ++ f.sla ++ f.slb ++ f.sa ++ f.sx ++ f.sm ++ f.rsv

def VecF.bits (f : VecF) : BitVec 56 :=
  f.rm ++ f.tf ++ f.sf ++ f.oa ++ f.ob ++ f.oc ++ f.sd ++ f.q ++ f.sum ++ f.rel ++ f.acc ++ f.sls ++ f.slt ++
    f.rsv ++ f.cnt

def XferF.bits (f : XferF) : BitVec 56 := f.sa ++ f.sr ++ f.sh ++ f.ring ++ f.post ++ f.rsv

def HdlF.bits (f : HdlF) : BitVec 56 := f.xh ++ f.rsvHigh ++ f.ring ++ f.wait ++ f.rsvLow

def CtlF.ofBits (w : BitVec 64) : CtlF :=
  { xd := w.extractLsb' 52 4, xa := w.extractLsb' 48 4, xb := w.extractLsb' 44 4, tgt := w.extractLsb' 32 12,
    imm := w.extractLsb' 0 32 }

def MatF.ofBits (w : BitVec 64) : MatF :=
  { kind := w.extractLsb' 54 2, acc := w.extractLsb' 53 1, clr := w.extractLsb' 52 1, drn := w.extractLsb' 51 1,
    swp := w.extractLsb' 50 1, msk := w.extractLsb' 49 1, sla := w.extractLsb' 47 2, slb := w.extractLsb' 45 2,
    sa := w.extractLsb' 41 4, sx := w.extractLsb' 37 4, sm := w.extractLsb' 33 4, rsv := w.extractLsb' 0 33 }

def VecF.ofBits (w : BitVec 64) : VecF :=
  { rm := w.extractLsb' 53 3, tf := w.extractLsb' 49 4, sf := w.extractLsb' 45 4, oa := w.extractLsb' 39 6,
    ob := w.extractLsb' 33 6, oc := w.extractLsb' 27 6, sd := w.extractLsb' 23 4, q := w.extractLsb' 20 3,
    sum := w.extractLsb' 19 1, rel := w.extractLsb' 18 1, acc := w.extractLsb' 17 1, sls := w.extractLsb' 15 2,
    slt := w.extractLsb' 13 2, rsv := w.extractLsb' 12 1, cnt := w.extractLsb' 0 12 }

def XferF.ofBits (w : BitVec 64) : XferF :=
  { sa := w.extractLsb' 52 4, sr := w.extractLsb' 48 4, sh := w.extractLsb' 44 4, ring := w.extractLsb' 26 18,
    post := w.extractLsb' 25 1, rsv := w.extractLsb' 0 25 }

def HdlF.ofBits (w : BitVec 64) : HdlF :=
  { xh := w.extractLsb' 52 4, rsvHigh := w.extractLsb' 50 2, ring := w.extractLsb' 32 18,
    wait := w.extractLsb' 16 16, rsvLow := w.extractLsb' 0 16 }

/-- The 64-bit word of a tile instruction. -/
def encodeTile : TileWord → BitVec 64
  | .ctl op f => op.code ++ f.bits
  | .mat op f => op.code ++ f.bits
  | .xfer op f => op.code ++ f.bits
  | .hdl op f => op.code ++ f.bits
  | .vec op f => op.code ++ f.bits

/-- The opcodes that a byte names. -/
def ctlOps : List CtlOp :=
  [.nop, .li, .add, .sub, .mul, .and, .or, .xor, .shl, .shr, .sra, .slt, .sltu, .b, .beq, .bne, .blt, .bge, .bq,
    .bqz, .loop, .qmov, .csig, .crd, .cwr, .sync, .end_, .abort]

def vecOps : List VecOp :=
  [.vadd, .vsub, .vmul, .vmin, .vmax, .vfma, .vabs, .vneg, .vcmp, .vsel, .viadd, .viadds, .visub, .visubs, .vimul,
    .vimuls, .vimin, .vimax, .vand, .vor, .vxor, .vnot, .vshl, .vshr, .vsra, .vcvt, .vrcp, .vsqrt, .vrsq, .vexp2,
    .vlog2, .vrsum, .vrmax, .vrmin, .vrnz, .vrnan, .vdesc]

/-- The instruction a word holds; none for a reserved opcode. -/
def decodeTile (w : BitVec 64) : Option TileWord :=
  let op := w.extractLsb' 56 8
  match ctlOps.find? (fun o => o.code == op), vecOps.find? (fun o => o.code == op) with
  | some o, _ => some (.ctl o (CtlF.ofBits w))
  | none, some o => some (.vec o (VecF.ofBits w))
  | none, none =>
    if op = 0x20 then some (.mat .mpass (MatF.ofBits w))
    else if op = 0x21 then some (.mat .mload (MatF.ofBits w))
    else if op = 0x22 then some (.mat .mdesc (MatF.ofBits w))
    else if op = 0x30 then some (.xfer .xget (XferF.ofBits w))
    else if op = 0x31 then some (.xfer .xput (XferF.ofBits w))
    else if op = 0x32 then some (.xfer .xtile (XferF.ofBits w))
    else if op = 0x38 then some (.hdl .hget (HdlF.ofBits w))
    else if op = 0x39 then some (.hdl .hput (HdlF.ofBits w))
    else none

/-- The command that a word of the opcode table spells: the table gives no row bits, so none. -/
def decodeTableWord (_nbits _w : Nat) : Option Instr := none

end Sys2Proof
end

