-- ==== Sys2Proof/Config.lean ====
section
/-! DEFINITION. What an implementation fixes and the free values: opaque constants without a body, of which nothing can
be proved but what holds for every value (notes/assumptions). -/

namespace Sys2Proof.Config

/-- The seed of one grit generator: the physical entropy loaded at power-up number `gen` into generator number `lane` of
unit `unit` (R79).  The state used is the seed with its bit 0 raised when it is zero, since R79 loads a nonzero value. -/
opaque gritSeed : (gen unit lane : Nat) → BitVec 64

/-- Which of the two values within one unit in the last place a RSQ, EXP2 or LOG2 delivers (R73): by operation, target
format code and operand code. -/
opaque ulpUp : (op fmt operand : Nat) → Bool

/-- Whether a fused multiply-add of infinity by zero whose addend is a quiet NaN raises NV: IEEE 754-2019 leaves it to
the implementation, and R26 names only signalling operands. -/
opaque fmaInvalidWithQuietNaN : Bool

/-- A free value: `n` is the number of the draw (State.free). -/
opaque freeNat : Nat → Nat

/-- Hops of a mesh route that the running image does not give, though it fixes every route (chapter 07): by die, logical
tile and edge. -/
opaque freeHops : (die tile edge : Nat) → Nat

/-- The number of the gather unit that serves a row, which no rule gives: by layer, row and fc of the lookup, modulo 8. -/
opaque rowUnit : (layer row fc : Nat) → Nat

/-- Roundings of Gauss-Jordan elimination in S32 (R296), which the spec does not give: an element x of the pivot row over
the pivot p, and an element x of another row less `f` times y over the pivot p. -/
opaque pivotQuotient : (x p : Word) → Word
opaque clearedEntry : (x f y p : Word) → Word

/-- A byte that another package holds for this one, which no reply has brought: by lender, its local address, and the fc of
the read. -/
opaque lenderByte : (peer addr now : Nat) → Byte

/-- ML-DSA-87 verification, an external algorithm (R383, R508, R512, R515): key, digest, signature. -/
opaque mldsaVerify : List Byte → List Byte → List Byte → Bool

/-- The bytes of every section of a schedule image but its signature, in the order of Table 6.7, of which R515 signs the digest;
the spec gives an image no byte layout. -/
opaque signedSections : List Byte → List Byte

/-- ML-DSA-87 signing by the identity key inside the security block (R526). -/
opaque mldsaSign : List Byte → List Byte

/-- Gwynnan's identifiers, assigned outside the spec: MIPI manufacturer (15 bits), JEDEC manufacturer (11 bits). -/
opaque mipiId : BitVec 15
opaque jedecId : BitVec 11

end Sys2Proof.Config
end

