-- ==== Sys2Proof/Machine/Sparse.lean ====
section
/-! DEFINITION. Sparse data by key: a list of (key, value) pairs in ONE canonical form, keys strictly rising and no
value equal to what an unlisted key reads as.  Memory, registers by number, pages, rings and contexts are kept so. -/

namespace Sys2Proof.Machine

/-- A sparse map from numbers. -/
abbrev Map (α : Type) := List (Nat × α)

/-- What key `i` reads as; `d` is what an unlisted key reads as. -/
def mapGet {α : Type} (d : α) : Map α → Nat → α
  | [], _ => d
  | (k, v) :: m, i => if i = k then v else if i < k then d else mapGet d m i

/-- Key `i` set to `v`; setting the default removes the entry. -/
def mapSet {α : Type} [DecidableEq α] (d : α) : Map α → Nat → α → Map α
  | [], i, v => if v = d then [] else [(i, v)]
  | (k, w) :: m, i, v =>
    if i = k then (if v = d then m else (i, v) :: m)
    else if i < k then (if v = d then (k, w) :: m else (i, v) :: (k, w) :: m)
    else (k, w) :: mapSet d m i v

/-- Every key of the map is above `n`. -/
def mapAbove {α : Type} (n : Nat) : Map α → Bool
  | [] => true
  | (k, _) :: _ => decide (n < k)

/-- The canonical form. -/
def mapWf {α : Type} [DecidableEq α] (d : α) : Map α → Bool
  | [] => true
  | (k, v) :: m => decide (v ≠ d) && mapAbove k m && mapWf d m

/-- Every listed value changed by `f`, in canonical form. -/
def mapMap {α : Type} [DecidableEq α] (d : α) (f : Nat → α → α) : Map α → Map α
  | [] => []
  | (k, v) :: m => if f k v = d then mapMap d f m else (k, f k v) :: mapMap d f m

/-- The listed keys whose value passes `p`. -/
def mapKeys {α : Type} (p : Nat → α → Bool) (m : Map α) : List Nat :=
  (m.filter fun e => p e.1 e.2).map Prod.fst

/-- A set of numbers, as a rising list without repeats. -/
def setInsert : List Nat → Nat → List Nat
  | [], n => [n]
  | a :: l, n => if n = a then a :: l else if n < a then n :: a :: l else a :: setInsert l n

def setErase (l : List Nat) (n : Nat) : List Nat := l.filter (fun a => a != n)

/-- Sets of pairs of numbers, kept without repeats. -/
def pairInsert (l : List (Nat × Nat)) (p : Nat × Nat) : List (Nat × Nat) :=
  if l.contains p then l else l ++ [p]

/-- The lowest number from `n` on that is not in the set, searching at most `fuel` numbers. -/
def lowestFree (used : List Nat) : Nat → Nat → Option Nat
  | 0, _ => none
  | fuel + 1, n => if used.contains n then lowestFree used fuel (n + 1) else some n

/-- Bytes of memory from address `a`, `n` of them; an unlisted byte reads `0`. -/
def memRead (m : Map (BitVec 8)) (a n : Nat) : List (BitVec 8) :=
  (List.range n).map fun i => mapGet 0 m (a + i)

/-- Bytes written from address `a`. -/
def memWrite (m : Map (BitVec 8)) (a : Nat) : List (BitVec 8) → Map (BitVec 8)
  | [] => m
  | b :: bs => memWrite (mapSet 0 m a b) (a + 1) bs

/-- The range of `n` keys from `a` set to what an unlisted key reads as. -/
def mapClearRange {α : Type} (a n : Nat) (m : Map α) : Map α :=
  m.filter fun e => e.1 < a || a + n ≤ e.1

/-- A little-endian number (R3). -/
def leNat : List (BitVec 8) → Nat
  | [] => 0
  | b :: bs => b.toNat + 256 * leNat bs

/-- The `n` little-endian bytes of a number (R3). -/
def leBytes : Nat → Nat → List (BitVec 8)
  | 0, _ => []
  | n + 1, v => BitVec.ofNat 8 v :: leBytes n (v / 256)

/-- Bits [hi:lo] of a number. -/
def bitsOf (v hi lo : Nat) : Nat := (v >>> lo) % 2 ^ (hi - lo + 1)

/-- Bit `i` of a number as a Boolean. -/
def bitOf (v i : Nat) : Bool := v.testBit i

def b2n (b : Bool) : Nat := if b then 1 else 0

end Sys2Proof.Machine
end

