-- ==== Sys2Proof/Machine/Digest.lean ====
section
/-! DEFINITION. Digests: the CRC-64 of R243, the flit CRC-16 of R335, and SHA3-512 (R383, R510, R518), which the spec
takes from FIPS 202. -/

namespace Sys2Proof.Machine

def crc64Bits : Nat → BitVec 64 → BitVec 64
  | 0, c => c
  | n + 1, c => crc64Bits n (if c.msb then (c <<< 1) ^^^ 0x42F0E1EBA9EA3693#64 else c <<< 1)

def crc64Step (c : BitVec 64) (b : Byte) : BitVec 64 :=
  crc64Bits 8 (c ^^^ (b.setWidth 64 <<< 56))

/-- R243: polynomial 0x42F0_E1EB_A9EA_3693, initial value and final exclusive-or all ones, no reflection, over the
weights and then over the 8-byte little-endian epoch. -/
def shardDigest (weights : List Byte) (epoch : Nat) : BitVec 64 :=
  ~~~((weights ++ leBytes 8 epoch).foldl crc64Step (BitVec.allOnes 64))

def crc16Bits : Nat → BitVec 16 → BitVec 16
  | 0, c => c
  | n + 1, c => crc16Bits n (if c.msb then (c <<< 1) ^^^ 0x1021#16 else c <<< 1)

def crc16Step (c : BitVec 16) (b : Byte) : BitVec 16 :=
  crc16Bits 8 (c ^^^ (b.setWidth 16 <<< 8))

/-- R335: over the 64 flit bytes and side-word bits [31:16] as two bytes, little-endian. -/
def flitCrc (flit : List Byte) (sideHigh : Nat) : BitVec 16 :=
  (flit ++ leBytes 2 sideHigh).foldl crc16Step 0xFFFF#16

/-! ### SHA3-512 -/

/-- One step of the round-constant register: x^8 + x^6 + x^5 + x^4 + 1. -/
def lfsrStep (r : BitVec 8) : BitVec 8 := if r.msb then (r <<< 1) ^^^ 0x71#8 else r <<< 1

/-- The seven bits of one round's constant, and the register after them. -/
def roundConst : Nat → BitVec 8 → BitVec 64 → BitVec 64 × BitVec 8
  | 0, r, c => (c, r)
  | n + 1, r, c =>
    let j := 6 - n
    roundConst n (lfsrStep r) (if r.getLsbD 0 then c ^^^ (1#64 <<< (2 ^ j - 1)) else c)

def lane (a : List (BitVec 64)) (x y : Nat) : BitVec 64 := a.getD (x % 5 + 5 * (y % 5)) 0

/-- θ of Keccak-f[1600]. -/
def keccakTheta (a : List (BitVec 64)) : List (BitVec 64) :=
  let c := (List.range 5).map fun x => lane a x 0 ^^^ lane a x 1 ^^^ lane a x 2 ^^^ lane a x 3 ^^^ lane a x 4
  (List.range 25).map fun i =>
    a.getD i 0 ^^^ c.getD ((i % 5 + 4) % 5) 0 ^^^ (c.getD ((i % 5 + 1) % 5) 0).rotateLeft 1

/-- The 24 places that ρ and π visit, with their rotation. -/
def rhoPiWalk : Nat → Nat → Nat → Nat → List (Nat × Nat)
  | 0, _, _, _ => []
  | n + 1, t, x, y => (x + 5 * y, ((t + 1) * (t + 2) / 2) % 64) :: rhoPiWalk n (t + 1) y ((2 * x + 3 * y) % 5)

def keccakRhoPi (a : List (BitVec 64)) : List (BitVec 64) :=
  (rhoPiWalk 24 0 1 0).foldl
    (fun b p =>
      let x := p.1 % 5
      let y := p.1 / 5
      b.set (y + 5 * ((2 * x + 3 * y) % 5)) ((a.getD p.1 0).rotateLeft p.2))
    a

def keccakChi (a : List (BitVec 64)) : List (BitVec 64) :=
  (List.range 25).map fun i =>
    let x := i % 5
    let y := i / 5
    lane a x y ^^^ (~~~(lane a (x + 1) y) &&& lane a (x + 2) y)

def keccakRounds : Nat → BitVec 8 → List (BitVec 64) → List (BitVec 64)
  | 0, _, a => a
  | n + 1, r, a =>
    let k := roundConst 7 r 0
    let b := keccakChi (keccakRhoPi (keccakTheta a))
    keccakRounds n k.2 (b.set 0 (b.getD 0 0 ^^^ k.1))

/-- The sponge with rate 72 bytes, over blocks already padded. -/
def absorb : Nat → List Byte → List (BitVec 64) → List (BitVec 64)
  | 0, _, a => a
  | n + 1, bs, a =>
    let a' := (List.range 25).map fun i =>
      if i < 9 then a.getD i 0 ^^^ BitVec.ofNat 64 (leNat ((bs.drop (8 * i)).take 8)) else a.getD i 0
    absorb n (bs.drop 72) (keccakRounds 24 1 a')

/-- SHA3-512 of FIPS 202. -/
def sha3 (msg : List Byte) : List Byte :=
  let n := msg.length / 72 + 1
  let pad := 72 * n - msg.length
  let tail : List Byte := if pad = 1 then [0x86] else 0x06 :: (List.replicate (pad - 2) 0 ++ [0x80])
  let a := absorb n (msg ++ tail) (List.replicate 25 0)
  ((a.take 8).map fun w => leBytes 8 w.toNat).flatten

end Sys2Proof.Machine
end

