-- ==== Sys2Proof/Machine/Flags.lean ====
section
/-! DEFINITION. The numeric flag byte of Table 2.6 (R40) and the access codes of Table 0.3 (R4 to R7). -/

namespace Sys2Proof.Machine

/-- The flags of one result, as the flag byte of Table 2.6. -/
abbrev FlagByte := BitVec 8

def flagNX : FlagByte := 0x01
def flagUF : FlagByte := 0x02
def flagOF : FlagByte := 0x04
def flagDZ : FlagByte := 0x08
def flagNV : FlagByte := 0x10
def flagBO : FlagByte := 0x20

/-- `f` when the condition holds, no flag otherwise. -/
def flagIf (c : Bool) (f : FlagByte) : FlagByte := if c then f else 0

/-- All flags of a list of results. -/
def flagsOr : List FlagByte → FlagByte
  | [] => 0
  | f :: fs => f ||| flagsOr fs

/-- W1C of Table 0.3: each bit written 1 is cleared, each bit written 0 is unchanged. -/
def w1c {n : Nat} (cur written : BitVec n) : BitVec n := cur &&& ~~~written

/-- A write of value `v` to a flag byte register of Table 4.13: FLAGS is W1C, the rest is reserved. -/
def writeFlagsReg (cur : FlagByte) (v : Word) : FlagByte :=
  (w1c cur (v.setWidth 8)) &&& 0x3F

end Sys2Proof.Machine
end

