-- ==== Sys2Proof/Machine/MemState.lean ====
section
/-! DEFINITION. The state of clay, pages, rings, stream contexts and tasks (chapters 05 and 06). -/

namespace Sys2Proof.Machine

/-- A command as its replies and audit entries name it: ring, SEQ, opcode, flags, NEXT, its trailer's role, key and
timestamp (R375, R517, R520), and the index of the entry after it. -/
structure Ask where
  ring : Nat
  seq : Nat
  opcode : Nat
  flags : Nat
  next : Nat
  role : Nat
  keyId : Nat
  time : Nat
  after : Nat
  deriving DecidableEq, Repr

/-- STATE of Table 5.2. -/
inductive PageState where
  | open_ | sealed | migrating | lost
  deriving DecidableEq, Repr

/-- WHERE of Table 5.2. -/
inductive PageWhere where
  | home | remote | moved | lent
  deriving DecidableEq, Repr

/-- A page descriptor, Table 5.2, field by field. -/
structure Page where
  valid : Bool := false
  state : PageState := .open_
  banked : Bool := false
  spec : Bool := false
  loc : PageWhere := .home
  copies : Bool := false
  frame0 : Nat := 0
  frame1 : Nat := 0
  peer : Nat := 0
  lpage : Nat := 0
  deriving DecidableEq, Repr

/-- A migration or copy of a page under way (R155, R157, R159): destination frame here, or the lender and its page. -/
structure Migration where
  page : Nat
  home : Bool
  frame : Nat
  lender : Nat
  lpage : Nat
  /-- the command; none when the schedule image names it. -/
  ask : Option Ask
  /-- a copy, of the frame that is current in epoch `epoch`: the page stays as it is. -/
  copy : Bool := false
  epoch : Nat := 0
  /-- the sc at which the command was taken up, the sc it has until its deadline, and whether that has been missed (R228). -/
  since : Nat
  deadline : Nat := 0
  missed : Bool := false
  /-- it uses slots other than fallow ones: no job runs, or the image assigns them; else the fallow slots it has had, by
  stack * 32 + channel (R157). -/
  free : Bool := false
  slots : Map Nat := []
  /-- pages of the command still to be moved after this one. -/
  left : Nat
  /-- its stream context (Table 6.4, KIND 6). -/
  ctx : Nat
  deriving DecidableEq, Repr

/-- A map whose frames are being cleared (R570): its pages, its flags byte and lender, and the frames it has taken. -/
structure Clearing where
  ask : Ask
  first : Nat
  count : Nat
  flags : Nat
  lender : Nat
  frames : List Nat
  /-- the sc at which it began, and the fallow slots it has had, by stack * 32 + channel. -/
  since : Nat
  slots : Map Nat := []
  deriving DecidableEq, Repr

/-- A speculative write to a page of a lender, which does not leave before the commit (R171, R262): page, offset, the header of
its frames and its bytes. -/
structure HeldWrite where
  page : Nat
  off : Nat
  head : Frame
  bytes : List Byte
  deriving DecidableEq, Repr

structure MemState where
  /-- clay bytes by physical address; an unlisted byte is zero (boot stage 0x06). -/
  clay : Map Byte
  /-- 64-bit words marked uncorrectable (R470), by physical address / 8. -/
  poison : List Nat
  pages : Map Page
  migrations : List Migration
  /-- pages MOVED since a transfer resolved to a frame here: page, frame and stream context (R156). -/
  retiring : List (Nat × Nat × Nat)
  heldWrites : List HeldWrite
  clearing : List Clearing
  /-- frames taken by maps that are answered but not yet in effect: first page and frames (R570). -/
  cleared : List (Nat × List Nat)
  lendFrames : Nat
  lendTilth : Nat
  borrowers : List Nat
  /-- reserved wheel slots of each port for lent traffic (Table 5.6). -/
  lendSlots : List (BitVec 32)
  /-- lenders that do not answer, and lenders declared lost (R165). -/
  silent : List Nat
  lostLenders : List Nat
  deriving DecidableEq, Repr

/-- KIND of Table 6.2. -/
inductive RingKind where
  | free | command | completion | handle
  deriving DecidableEq, Repr

/-- A ring descriptor, Table 6.2. -/
structure Ring where
  kind : RingKind := .free
  ctx : Nat := 0
  base : Nat := 0
  die : Nat := 0
  log2d : Nat := 0
  pair : Nat := 0
  task : Nat := 0
  head : Nat := 0
  tail : Nat := 0
  posted : Nat := 0
  /-- the consumer tile of a handle ring (R193). -/
  tile : Option Nat := none
  deriving DecidableEq, Repr

/-- A long command under way (R388): where its next slice goes on. -/
inductive LongWork where
  /-- EXPORT: layer, tensor kind and shard next, bytes of the record done, epoch of the record, bytes of the buffer in
  use before the record, records written, stream context. -/
  | export_ (layer kind shard done epoch used records ctx : Nat)
  /-- IMPORT: bytes of the buffer taken, stream context. -/
  | import_ (used ctx : Nat)
  /-- PAGE_MIGRATE with no job running; its place is in `MemState.migrations`. -/
  | migrate
  /-- TILTH_SWEEP: the layer. -/
  | sweep (layer : Nat)
  /-- IMAGE_LOAD: what its buffer spells, and the digest of the buffer. -/
  | load (image : Option Image) (digest : List Byte)
  /-- FW_UPDATE: its image, and BODYDIGEST of the slot before. -/
  | firmware (image old : List Byte)
  /-- SCRUB_FULL and SELF_TEST: the stacks or dies left. -/
  | units (left : List Nat)
  deriving DecidableEq, Repr

/-- A FENCE that waits (R394): its mode, whether final replies are awaited, the sc of its limit, the commands it names, or
the other rings with their TAIL when its own doorbell arrived. -/
structure Fence where
  all : Bool
  final : Bool
  limit : Option Nat
  named : List (Nat × Nat)
  others : List (Nat × Nat)
  deriving DecidableEq, Repr

/-- What the posting of a command's answer does to its ring: HEAD, the next SEQ, and the entries still to be skipped
(R372, R373, R571). -/
structure Passing where
  ring : Nat
  head : Nat
  nextSeq : Nat
  skip : Nat
  deriving DecidableEq, Repr

/-- A reply held back, and what its posting does when it is an answer (R379). -/
structure HeldReply where
  bytes : List Byte
  pass : Option Passing
  deriving DecidableEq, Repr

/-- What the hub keeps for a command or completion ring beside its descriptor. -/
structure RingAux where
  /-- the key that claims the ring: role and KEYID (R381). -/
  claim : Option (Nat × Nat) := none
  coreSet : Nat := 0
  /-- the next SEQ a command must carry (R372). -/
  nextSeq : Nat := 0
  /-- replies posted on a completion ring since allocation, which give PHASE (R375). -/
  replies : Nat := 0
  /-- the command that has been started and not answered. -/
  current : Option Ask := none
  work : Option LongWork := none
  fence : Option Fence := none
  /-- accepted doorbells whose entries have not all been answered: TAIL set, and TAIL of every other command ring. -/
  bells : List (Nat × List (Nat × Nat)) := []
  /-- slices the command in progress has used (R388). -/
  slices : Nat := 0
  /-- replies held because the completion ring is full (R379). -/
  held : List HeldReply := []
  /-- CANCELs that wait for commands of this ring: the command's SEQ, and the CANCEL (R390). -/
  cancel : List (Nat × Ask) := []
  /-- entries still to be skipped as they are posted: packets of a command whose NEXT exceeds the ring (R373). -/
  skip : Nat := 0
  deriving DecidableEq, Repr

/-- STATE of Table 6.3. -/
inductive CtxState where
  | free | ready | active | aborted
  deriving DecidableEq, Repr

/-- A stream context, Table 6.3. -/
structure Ctx where
  state : CtxState := .free
  kind : Nat := 0
  task : Nat := 0
  spec : Bool := false
  fault : Nat := 0
  limit : Nat := 0
  ring : Nat := 0
  bufBase : Nat := 0
  bufLog2 : Nat := 0
  bufCount : Nat := 0
  moved : Nat := 0
  /-- activities under the context that have not completed, and the fc at which it became ACTIVE (R576). -/
  activity : Nat := 0
  since : Nat := 0
  deriving DecidableEq, Repr

/-- A task of the running job (R201, R578). -/
inductive TaskPhase where
  | idle | running | ended | aborting | aborted
  deriving DecidableEq, Repr

structure Task where
  phase : TaskPhase := .idle
  /-- the task belongs to a training step; its epoch and attempt (R232). -/
  step : Bool := false
  epoch : Nat := 0
  attempt : Nat := 0
  spec : Bool := false
  /-- the TASK_RUN that started it. -/
  ask : Option Ask := none
  record : AbortRecord := {}
  /-- a task of no epoch has taken speculative data: its reply is held (R263). -/
  tainted : Bool := false
  /-- the fc in which the record reached the hub (R203). -/
  recordAt : Nat := 0
  /-- tiles that have been assigned, and tiles whose part has ended by END, since the start, by `TileId.key`. -/
  assigned : List Nat := []
  ended : List Nat := []
  deriving DecidableEq, Repr

/-- A handle in its ring: its word, the fc at which it entered and the number of the unit that posted it (R194). -/
structure HandleIn where
  word : Word
  at_ : Nat
  poster : Nat
  deriving DecidableEq, Repr

structure RingState where
  rings : Map Ring
  aux : Map RingAux
  /-- ring storage, by byte offset (R179, R410). -/
  storage : Map Byte
  /-- handles of each handle ring, in the order in which they leave (R194). -/
  handles : Map (List HandleIn)
  ctxs : Map Ctx
  tasks : Map Task
  /-- DEFERRED commands without their final reply: ring, SEQ, index of the entry after the command. -/
  unfinal : List (Nat × Nat × Nat)
  /-- the last item that a management core took of a ring, by 2^18 × core + ring, and how many have been taken (R389). -/
  served : Map Nat
  serial : Nat
  deriving DecidableEq, Repr

def RingState.empty : RingState :=
  { rings := [], aux := [], storage := [], handles := [], ctxs := [], tasks := [], unfinal := [], served := [], serial := 0 }

end Sys2Proof.Machine
end

