-- ==== Sys2Proof/Machine/JobState.lean ====
section
/-! DEFINITION. The state of the training step, the tilth units, the numerics watch and the fabric (chapters 08 to 11). -/

namespace Sys2Proof.Machine

/-- PHASE of Table 8.3. -/
inductive StepPhase where
  | idle | running | ready | committing | aborting | stopped
  deriving DecidableEq, Repr

/-- The fields of the step status record, Table 8.3, but for EPOCH. -/
structure StepStatus where
  attempt : Nat := 0
  phase : StepPhase := .idle
  nans : Nat := 0
  specRun : Bool := false
  nanSeen : Bool := false
  ovfPending : Bool := false
  sieveClean : Bool := false
  sieveFail : Bool := false
  shardLost : Bool := false
  mode : Bool := false
  depth : Nat := 0
  limit : Nat := 3
  layersPending : Nat := 0
  recvPending : Nat := 0
  singular : Nat := 0
  flags : FlagByte := 0
  lastCause : Nat := 0
  commitSc : Nat := 0
  lastTask : Nat := 0
  deriving DecidableEq, Repr

/-- An active STEP_RUN, and the steps still to commit (none: until stopped). -/
structure StepRun where
  ask : Ask
  left : Option Nat
  deriving DecidableEq, Repr

/-- A change waiting for its point (R391, R392): kind and value of Table 12.14, the command, and its
packet with the extension packets before any trailer. -/
structure Deferred where
  kind : Nat
  value : Nat
  ask : Ask
  bytes : List Byte
  deriving DecidableEq, Repr

/-- A gradient bucket as the engines sum it (R238, R239): contributions in its gradient buffer when it holds a running
record, the record that reached
the expected count, the arrivals of the reduce-scatter that have joined it, and whether it has been passed on. -/
structure BucketSum where
  contrib : Option Nat := none
  whole : Option BucketRecord := none
  joined : Nat := 0
  passed : Bool := false
  deriving DecidableEq, Repr

/-- The sum of the gradients of one sparse row (R300). -/
structure RowSum where
  layer : Nat
  row : Nat
  next : Bool
  record : BucketRecord
  deriving DecidableEq, Repr

/-- What the start of speculative work of E + 1 has changed for that epoch's sake: the layer records and descents before it,
and the settings that took effect (R268, R307, R318). -/
structure SpecStart where
  records : Map (BitVec 64)
  descents : List (Nat × Nat)
  settings : List Deferred
  deriving DecidableEq, Repr

structure JobState where
  /-- the running image, and the standby image (R364, R371). -/
  image : Option Image
  standby : Option Image
  /-- their digests (R515, Table 16.7). -/
  imageDigest : List Byte
  standbyDigest : List Byte
  epoch : Nat
  st : StepStatus
  run : Option StepRun
  /-- attempt of epoch E + 1 (R233, R266), and NaNs seen in its speculative work (R269). -/
  nextAttempt : Nat
  nansNext : Nat
  /-- the first cause that the speculative work of E + 1 has met here, until its abort notice arrives (R254, R266). -/
  abortNext : Nat
  /-- leader: the abort notice of E + 1 has been sent. -/
  abortNextSent : Bool
  /-- replays of E + 1 so far, numeric ones and others (R256, R266, R329). -/
  numericNext : Nat
  taskNext : Nat
  numericReplays : Nat
  taskReplays : Nat
  numericLimit : Nat
  /-- leader: packages whose notice has arrived (R248, R250, R254, R367, R450, R462). -/
  readySet : List Nat
  ackSet : List Nat
  stoppedSet : List Nat
  permuteSet : List Nat
  boundaryWork : List Nat
  boundaryDone : List Nat
  /-- leader: STEP_COMMITs that wait, with their epochs (R251). -/
  hostCommit : List (Ask × Nat)
  /-- STEP_ABORTs of the host that wait for the stop. -/
  hostAbort : List Ask
  /-- the NaN of the attempt has been counted in NANS (R268). -/
  nanCounted : Bool
  /-- leader: a package's boundary stops the job (R480, R486). -/
  unitStop : Bool
  specStart : Option SpecStart
  /-- settings that took effect with speculative work which was then discarded, and do again as the epoch starts anew. -/
  again : List Deferred
  /-- leader: the abort notice of the attempt has been sent (R254), and a STEP_ABORT of the host has reached it since. -/
  abortSent : Bool
  hostStop : Bool
  /-- this package has sent STOPPED for the attempt (R254). -/
  stoppedSent : Bool
  /-- leader: the sc at which COMMIT was sent (R450). -/
  commitSent : Nat
  /-- attempts and FLAGS of the epoch committed last (Table 12.4). -/
  doneAttempts : Nat
  doneFlags : FlagByte
  /-- STEP_COMMITTED of the last commit has still to be posted. -/
  commitOwed : Bool
  /-- the reply to the last commit has been posted and STEP_SETTLED has still to be sent. -/
  settleOwed : Bool
  /-- cause of the abort in progress. -/
  abortCause : Nat
  /-- layers to raise, to raise after a second sieve failure, and to rescale (R328). -/
  raiseOvf : List Nat
  raiseSieve : List Nat
  rescale : List Nat
  /-- layers whose failed verdict of the attempt now running has the next attempt rescale them (R326). -/
  rescaleNext : List Nat
  specHold : Bool
  /-- the hold is one of R450. -/
  powerHold : Bool
  /-- the epoch whose STEP_SETTLED has been received, plus one (R260). -/
  settled : Nat
  /-- leader: the RESHARD pending (R366); on every package, that one is pending. -/
  reshard : Option Ask
  resharding : Bool
  /-- this package runs its part of the permutation (R367). -/
  permuting : Bool
  deferred : List Deferred
  /-- records that have reached a gradient inlet and wait for a hop (R579), by the number of the inlet: first those of the
  image's Gradient buffers, in order, then those of its sparse tables. -/
  inlets : Map (List BucketRecord)
  /-- records of the reduce-scatter that have arrived and wait for a hop, likewise. -/
  arrivals : Map (List BucketRecord)
  /-- sums of row gradients (R300). -/
  rowSums : List RowSum
  /-- running sums of buckets of E and of E + 1, by index in the image's Gradient buffers section. -/
  buckets : Map BucketSum
  bucketsNext : Map BucketSum
  /-- FLAGS of epoch E + 1 so far (R253). -/
  flagsNext : FlagByte
  /-- confirmed digests of shards, by layer * 65536 + shard: current and next bank (R490). -/
  digests : Map (BitVec 64)
  nextDigests : Map (BitVec 64)
  /-- layers with their next bank sealed here, shards sealed here, and shards fetched again (R492). -/
  sealed : List Nat
  received : List (Nat × Nat)
  refetched : List (Nat × Nat)
  /-- shards to be repaired at the next boundary, and those under repair with the number of the source in use (R496). -/
  toRepair : List (Nat × Nat)
  repairing : List (Nat × Nat × Nat)
  /-- next entry of each die's order list (R200), for E and for speculative work of E + 1. -/
  order : Map Nat
  orderNext : Map Nat
  /-- holds of the power coordination: requests in µs (R450). -/
  holds : List (Nat × Nat)
  /-- digests that came behind the bytes of shards, likewise (R173, R244). -/
  digestsIn : Map (BitVec 64)
  /-- one more than the latest epoch whose image-named migrations have started (R157). -/
  movesFrom : Nat
  /-- replies of commands whose results depend on speculative data: class, code and results (R263). -/
  heldReplies : List (Ask × Nat × Nat × List Word)
  deriving DecidableEq, Repr

def JobState.none : JobState :=
  { image := .none, standby := .none, imageDigest := [], standbyDigest := [], epoch := 0, st := {}, run := .none, nextAttempt := 0, nansNext := 0,
    abortNext := 0, abortNextSent := false, numericNext := 0, taskNext := 0, numericReplays := 0,
    taskReplays := 0, numericLimit := 8, readySet := [], ackSet := [], stoppedSet := [], permuteSet := [],
    boundaryWork := [], boundaryDone := [], hostCommit := [], hostAbort := [], abortSent := false, hostStop := false, stoppedSent := false, commitSent := 0,
    doneAttempts := 0, doneFlags := 0, commitOwed := false, settleOwed := false, abortCause := 0, raiseOvf := [],
    raiseSieve := [], rescale := [], rescaleNext := [], specHold := false, powerHold := false, settled := 0, reshard := .none, resharding := false, permuting := false, deferred := [], inlets := [], arrivals := [], rowSums := [], buckets := [],
    bucketsNext := [],
    flagsNext := 0, digests := [], nextDigests := [], sealed := [], received := [], refetched := [], toRepair := [], repairing := [], order := [], orderNext := [],
    holds := [], nanCounted := false, unitStop := false, specStart := .none, again := [], digestsIn := [], movesFrom := 0, heldReplies := [] }

/-! ### Tilth -/

/-- An update program: header of Table 9.3 and instruction words. -/
structure TilthProgram where
  header : BitVec 64 := 0
  words : List Word := []
  deriving DecidableEq, Repr

/-- Settings of a layer: program slot and c0 to c11, in force from an epoch (R282). -/
structure LayerSetting where
  from_ : Nat
  slot : Nat
  consts : List Word
  deriving DecidableEq, Repr

/-- What the units hold of one slice between fold and sweep (R278, R286, R297). -/
structure SliceState where
  rowAcc : Map Word := []
  colAcc : Map Word := []
  folded : List Nat := []
  rs : Map Word := []
  cs : Map Word := []
  rinv : Word := 0
  closed : Bool := false
  inverses : List (List Word) := []
  inverted : Bool := false
  swept : Bool := false
  deriving DecidableEq, Repr

/-- A version of a sparse row (R301). -/
structure RowVersion where
  table : Nat
  row : Nat
  stamp : Nat
  slot : Nat
  deriving DecidableEq, Repr

/-- A final bucket record at the input of a unit: its slice's index in the image, the fc in which it arrived, the number of its
reduction engine and its layer (R275). -/
structure WaitingRecord where
  slice : Nat
  layer : Nat
  at_ : Nat
  engine : Nat
  record : BucketRecord
  deriving DecidableEq, Repr

structure TilthState where
  programs : Map TilthProgram
  /-- settings of each layer, newest last. -/
  layers : Map (List LayerSetting)
  slices : Map SliceState
  /-- final bucket records that wait at a unit's input, in the order in which it takes them, by die * 8 + unit; and the fc in
  which the unit takes its next one (R274, R275). -/
  waiting : Map (List WaitingRecord)
  busyTo : Map Nat
  /-- layers whose contributions are complete here, with the fc of that (R287). -/
  complete : List (Nat × Nat)
  /-- layers whose sweep has started; those whose sweep has ended, with the fc of that; and those whose hold TILTH_SWEEP has
  lifted. -/
  sweeping : List Nat
  sweptLayers : List (Nat × Nat)
  released : List Nat
  unitFlags : Map FlagByte
  directory : List RowVersion
  /-- the bytes of the row that a gather unit served last. -/
  gathered : List Byte
  /-- on a lender: the latest epoch of each owner that it has seen (R234), plus one, and the step tag of the gradients that
  its sums hold. -/
  lentEpoch : Map Nat
  lentTag : Map Nat
  /-- the job of each owner that these belong to, plus one. -/
  lentJob : Map Nat
  deriving DecidableEq, Repr

/-! ### Numerics -/

structure NumState where
  /-- limited blocks of stored state that have still to reach the hub (R51, R281): layer, block, elements limited. -/
  saturated : List (Nat × Nat × Nat)
  /-- layer numerics records, Table 10.2. -/
  records : Map (BitVec 64)
  /-- overflow record: entries in order, each with whether it has been applied (R317). -/
  overflow : List (OvfEntry × Bool)
  /-- tensors marked lost (R312), by layer and tensor; of epoch E + 1 likewise. -/
  lost : List (Nat × Nat)
  lostNext : List (Nat × Nat)
  /-- the fc from which the comparator of each compute die is free (R321). -/
  comparators : Map Nat
  /-- sieve pairs passed in the attempt, by layer; of epoch E + 1 likewise. -/
  passed : Map Nat
  passedNext : Map Nat
  /-- layers sampled with s = 6 in the current attempt (R326), and layers an abort of the epoch named (R318). -/
  sampleSix : List Nat
  named : List Nat
  /-- layers whose RUNG or held exponents descend at an epoch (R318). -/
  descents : List (Nat × Nat)
  relaxes : List (Nat × Nat)
  /-- layers for which LADDER_TOP has been written in the attempt (R315). -/
  topLogged : List Nat
  deriving DecidableEq, Repr

def NumState.none : NumState :=
  { saturated := [], records := [], overflow := [], lost := [], lostNext := [], passed := [], passedNext := [], sampleSix := [],
    named := [], descents := [], relaxes := [], topLogged := [],
    comparators := [] }

/-! ### Fabric -/

/-- A frame that waits at its egress port: how many of its flits have left, and whether it is background traffic. -/
structure OutFrame where
  frame : Frame
  sent : Nat := 0
  background : Bool := false
  deriving DecidableEq, Repr

/-- A port: descriptor fields of Table 11.3 (SPARE follows from the lanes: `State.spareState`) and the sender and receiver state of R343 to R349. -/
structure Port where
  enable : Bool := false
  peer : Nat := 0
  peerPort : Nat := 0
  flight : Nat := 0xFFFF
  state : Nat := 0
  width : Nat := 0
  /-- lanes of positions 0 to 3; empty stands for 4k to 4k + 3 (R16). -/
  lanes : List Nat := []
  fseq : Nat := 0
  replay : Nat := 0
  /-- frames whose flits the replay buffer holds, oldest first: flits, SPEC, and the stream context, for frames of this package. -/
  unacked : List (Nat × Bool × Option Nat) := []
  /-- credits held of each VC; empty stands for the full ingress buffers (R347). -/
  credits : List Nat := []
  /-- CRED counts last received. -/
  credSeen : List Nat := []
  expect : Nat := 0
  lastGood : Nat := 0x7FF
  nak : Bool := false
  /-- ingress flits freed, by VC. -/
  freed : List Nat := []
  /-- frames that wait to leave, in order of arrival (R348), and since which fc, plus one, flits of each VC lack a credit. -/
  queue : List OutFrame := []
  waits : Map Nat := []
  /-- sc from which the port carries frame flits again after a change of its lane map, plus one (R336). -/
  quiet : Nat := 0
  deriving DecidableEq, Repr

structure FabState where
  coord : Nat
  ports : Map Port
  /-- spare-lane cabling: peer, uncabled (R337). -/
  spareCable : List (Nat × Bool)
  /-- while a step runs: the ports that were UP at the last boundary (R354). -/
  pinned : Option (BitVec 16)
  /-- port mask of each member of the own clod, and the route table: first clod, last clod, port mask (R354). -/
  members : List (BitVec 16)
  routes : List (Nat × Nat × BitVec 16)
  /-- frames and notices that have left, oldest first, with their egress port. -/
  sentFrames : List (Nat × Frame)
  sentNotices : List (Nat × Notice)
  /-- notices that have reached the hub and wait to be taken up. -/
  noticesIn : List Notice
  /-- contents of NOTICE_DATA frames landed and not yet taken up, by sender. -/
  noticeData : List (Nat × List Byte)
  /-- data of READ_REPLY frames landed, by stream context: address and bytes. -/
  replies : List (Nat × Nat × List Byte)
  /-- frames of a stream for a collective or a lender's units whose stream has not wholly arrived: frame number, whether it
  is the last, and its data. -/
  pieces : Map (List (Nat × Bool × List Byte))
  /-- frames of a stream landed, by context: how many, and the number of its last frame when known (R355). -/
  landed : Map (Nat × Option Nat)
  /-- retries since a stream became ACTIVE, by 16 × context + port (R221). -/
  retries : Map Nat
  /-- fabric lanes that have failed, by link die (R473). -/
  failedLanes : List (Nat × Nat)
  deriving DecidableEq, Repr

def FabState.none : FabState :=
  { coord := 0xFFFFF, ports := [], spareCable := [], pinned := Option.none, members := [], routes := [], sentFrames := [], sentNotices := [],
    noticesIn := [], noticeData := [], replies := [], pieces := [], landed := [], retries := [], failedLanes := [] }

end Sys2Proof.Machine
end

