-- ==== Sys2Proof/Machine/HostState.lean ====
section
/-! DEFINITION. The state of the host interface, power, faults and spares, trust, board and counters (chapters 13 to
18). -/

namespace Sys2Proof.Machine

/-! ### Bits that a write of 1 clears (R4, R7) -/

/-- The bits of a W1C register that events set in one cycle: that cycle, and the bits. -/
structure SetNow (n : Nat) where
  at_ : Nat := 0
  bits : BitVec n := 0
  deriving DecidableEq, Repr

/-- An event sets `bits` in cycle `now`. -/
def SetNow.add {n : Nat} (now : Nat) (bits : BitVec n) (x : SetNow n) : SetNow n :=
  { at_ := now, bits := if x.at_ = now then x.bits ||| bits else bits }

/-- A write of `v` in cycle `now`: each bit written 1 is cleared, but for those that an event sets in that cycle (R7). -/
def SetNow.clear {n : Nat} (now : Nat) (cur v : BitVec n) (x : SetNow n) : BitVec n :=
  cur &&& ~~~(if x.at_ = now then v &&& ~~~x.bits else v)

/-! ### Host interface (13) -/

/-- An MSI-X table entry: address, data, mask; and the pending bit. -/
structure MsixEntry where
  addr : BitVec 64 := 0
  data : Word := 0
  masked : Bool := true
  pending : Bool := false
  deriving DecidableEq, Repr

/-- An interrupt message: its vector, and the address and data of the vector's table entry. -/
structure MsixMessage where
  vector : Nat
  addr : BitVec 64
  data : Word
  deriving DecidableEq, Repr

structure HostState where
  intCause : BitVec 5
  /-- bits of INT_CAUSE and of APERTURE_STATUS that events set in the latest fc in which any did. -/
  causeNow : SetNow 5
  apertureNow : SetNow 4
  intEnable : BitVec 5
  epochHi : BitVec 16
  apertureBase : BitVec 27
  apertureStatus : BitVec 4
  aperturePage : BitVec 27
  ringWin : BitVec 5
  dbValid : Bool
  dbCq : Bool
  dbRing : BitVec 18
  ready : Bool
  fatal : Bool
  tclass : BitVec 8
  fwVer : Word
  /-- vector map entries; an unlisted entry is 1 (R414). -/
  vectors : Map (BitVec 11)
  msix : Map MsixEntry
  /-- interrupt messages sent, oldest first. -/
  messages : List MsixMessage
  d3hot : Bool
  flr : Bool
  /-- notices that wait for room on ring 1 (R380): code and result words; and notices lost. -/
  notices : List (Nat × List Word)
  noticesLost : Nat
  /-- the host timestamp of the latest HOST_TIME (R520). -/
  hostTime : Nat
  /-- host memory, by I/O address: what commands read and write. -/
  memory : Map Byte
  /-- data returned by the last read that the host, the guest, the sideband or a query made. -/
  readData : List Byte
  /-- whether that read was answered by an error reply (R533). -/
  readError : Bool
  /-- errors reported through AER: 1 Unsupported Request, 2 Completion Timeout, 3 Uncorrectable Internal Error. -/
  aer : List Nat
  deriving DecidableEq, Repr

def HostState.initial : HostState :=
  { intCause := 0, causeNow := {}, apertureNow := {}, intEnable := 0, epochHi := 0, apertureBase := 0, apertureStatus := 0, aperturePage := 0,
    ringWin := 0, dbValid := false, dbCq := false, dbRing := 0, ready := false, fatal := false, tclass := 0, fwVer := 0,
    vectors := [], msix := [], messages := [], d3hot := false, flr := false, notices := [], noticesLost := 0,
    hostTime := 0, memory := [], readData := [], readError := false, aer := [] }

/-! ### Power (14) -/

structure PowState where
  limit : Nat
  budget : Nat
  lent : Nat
  lendUntil : Nat
  thermal : Nat
  warn : Nat
  /-- a delayed BUDGET_STEP: budget, and the sc at which it falls due (R442). -/
  delayed : Option (Ask × Nat × Nat)
  /-- the sc of the last change of B, and whether the sideband made it. -/
  budgetAt : Option (Nat × Bool)
  point : Nat
  /-- an operating-point change under way, and the sc of the last decision (R433). -/
  pointTo : Option Nat
  vin : Nat
  p1ms : Nat
  p1s : Nat
  tj : Nat
  /-- TJ has been below 92 since it last reached 95 (R455). -/
  coolSince : Bool
  hot : Bool
  bind_ : Nat
  stretch : Nat
  /-- cycles stretched since the last complete 1 ms. -/
  stretchNow : Nat
  /-- µJ of the package in the last ten samples, newest first (R427). -/
  window : List Nat
  /-- no job ran at the last power-period boundary (R437). -/
  restful : Bool
  slack : Nat
  hold : Bool
  warnIn : Bool
  /-- R449: mean draw of the previous hold; sc of the last two commits; epoch for which POWER_HOLD
  was sent. -/
  pIdle : Nat
  lastCommit : Nat
  prevCommit : Nat
  /-- the sc at which the last task that TASK_RUN started ended, plus one (R450). -/
  taskEnd : Nat
  holdSent : Option Nat
  /-- hub fc at which STEP_READY was sent (R454). -/
  readyFc : Nat
  /-- leader: µs of the largest hold requested, and the fc of COMMIT (R450). -/
  unmet : Bool
  pstat : BitVec 6
  /-- bits of SB_PSTAT that events set in the latest sc in which any did. -/
  pstatNow : SetNow 6
  tripped : Bool
  /-- cause latched by the power stage: 2 input range, 3 thermal trip (R428, R457). -/
  latched : Nat
  /-- rails of the compute dies, and of the hub and the rest, are up. -/
  rails : Bool
  computeRails : Bool
  /-- energy meters in µJ: package, D0 to D3, hub, link dies, stacks, guest (R566). -/
  energy : Vector Nat 9
  stepEpoch : Nat
  stepUj : Nat
  stepSc : Nat
  stepAttempts : Nat
  /-- package energy and sc at the last commit or STEP_RUN (R567). -/
  markUj : Nat
  markSc : Nat
  deriving DecidableEq, Repr

def PowState.initial : PowState :=
  { limit := 1000, budget := 2000, lent := 0, lendUntil := 0, thermal := 0, warn := 1000, delayed := none, budgetAt := none, point := 0,
    pointTo := none, vin := 0, p1ms := 0, p1s := 0, tj := 0, coolSince := true, hot := false, bind_ := 0, stretch := 0, stretchNow := 0, window := [], restful := false,
    slack := 0xFFFFFFFF, hold := false, warnIn := false, pIdle := 200, lastCommit := 0, prevCommit := 0, taskEnd := 0,
    holdSent := none, readyFc := 0, unmet := false, pstat := 0, pstatNow := {}, tripped := false, latched := 0, rails := false,
    computeRails := false, energy := Vector.replicate 9 0, stepEpoch := 0, stepUj := 0, stepSc := 0,
    stepAttempts := 0, markUj := 0, markSc := 0 }

/-! ### Units, spares and faults (01, 14, 15) -/

/-- Power states of Table 14.3 and the passages between them (R438 to R440). -/
inductive UnitPower where
  | active | idle | nap | dark
  /-- shutting down towards a state since an fc: the disables to be answered at the quiesced point, enables that wait. -/
  | shutting (to_ since : Nat) (asks enables : List Ask)
  /-- powering down after the quiesced point. -/
  | powering (to_ since : Nat) (enables : List Ask)
  /-- waking from a state: the enables it answers, and disables that wait, each with its state. -/
  | waking (from_ since : Nat) (enables : List Ask) (disables : List (Nat × Ask))
  deriving DecidableEq, Repr

/-- The unit's fast clock runs (R431). -/
def UnitPower.clocked : UnitPower → Bool
  | .active | .shutting _ _ _ _ => true
  | _ => false

/-- Boundary work of Table 15.1, in the order of R464. -/
inductive BoundaryItem where
  | portLane (die lane : Nat)
  | linkLane (from_ to_ : Nat)
  | narrowPort (port : Nat)
  | narrowLink (a b : Nat)
  | channel (stack channel : Nat)
  | siltRow (tile : TileId) (row : Nat)
  | tile (tile : TileId)
  | tilth (die unit : Nat)
  | core (core : Nat)
  /-- the job stops at this boundary (R480, R486). -/
  | stop
  deriving DecidableEq, Repr

/-- Work that makes the package enter the degraded class (R476). -/
def BoundaryItem.narrows : BoundaryItem → Bool
  | .narrowPort _ | .narrowLink _ _ => true
  | _ => false

/-- A background task of Table 7.7 on a shared unit: the sc from which it wants slots, the slots it has had since, and whether
its deadline has passed (R226 to R228). -/
structure Background where
  from_ : Nat := 0
  slots : Nat := 0
  missed : Bool := false
  deriving DecidableEq, Repr

structure UnitState where
  /-- unit power, by kind * 65536 + die * 256 + number; an unlisted unit is ACTIVE. -/
  power : Map UnitPower
  /-- fc during which a unit's fast clock stood, and the fc it stopped at, by the same number (R77). -/
  stopped : Map Nat
  stoppedAt : Map Nat
  /-- power-ups of each unit, which number its grit seeds (R79). -/
  seedings : Nat
  /-- the in-service map where backfill has changed it: a tile's place, 0 to 19, in its group, by the tile's key (R11). -/
  inService : Map Nat
  /-- spares used: tiles by die * 16 + group, tilth units by die, cores, channels by stack, fabric lanes by link die, and lanes
  of each direction of a die link by 32 * sending die + receiving die. -/
  tileSpares : Map Nat
  tilthSpares : Map Nat
  coreSpares : Nat
  channelSpares : Map Nat
  laneSpares : Map Nat
  linkSpares : Map Nat
  /-- units lost, by kind * 65536 + die * 1024 + number; kind 0x10 a tile, 0x11 a management core (R486). -/
  lost : List Nat
  /-- failed management cores not yet backfilled. -/
  coresDown : List Nat
  boundary : List BoundaryItem
  /-- this package has sent BOUNDARY_WORK for the epoch. -/
  boundarySent : Bool
  /-- the work that was pending when STEP_READY was sent, which is done at the boundary after that commit (R464). -/
  boundaryDue : List BoundaryItem
  /-- channels whose copy to a spare has ended, and those being copied (R472). -/
  copying : List (Nat × Nat)
  switching : List (Nat × Nat)
  /-- die links at half width, by the indices of their dies, the lower first (R476). -/
  narrowed : List (Nat × Nat)
  /-- the job stops at the next boundary (R480, R486). -/
  stopAtBoundary : Bool
  /-- the job is paused until a degraded image is loaded (R477). -/
  paused : Bool
  /-- the boundary that SPEC_HOLD announced changes the timing class of a package of the job (R477). -/
  classHold : Bool
  /-- by kind * 2^24 + die * 2^16 + unit: kinds of Table 7.7 in its order from 0, and 6 the copy of a channel (R472). -/
  background : Map Background
  /-- engines and link dies whose telemetry sample is missing, by die * 65536 + unit (Table 7.7). -/
  telemetryMissing : List Nat
  /-- digest mismatches found after STEP_READY (R495). -/
  lateMismatches : Nat
  /-- words found uncorrectable, by physical address / 8, with the sc of that (R472). -/
  eccWords : Map Nat
  /-- words corrected, by physical address / 8, with the sc of that plus one (R472). -/
  fixedWords : Map Nat
  /-- retries of this step attributed to a lane, by the lane's number (R473). -/
  flagged : Map Nat
  /-- uncorrectable codewords of a lane: its number, the sc, how many (R473). -/
  lostWords : List (Nat × Nat × Nat)
  /-- lanes of die links that have failed, by number. -/
  deadLanes : List Nat
  deriving DecidableEq, Repr

def UnitState.initial : UnitState :=
  { power := [], stopped := [], stoppedAt := [], seedings := 0, inService := [], tileSpares := [], tilthSpares := [], coreSpares := 0,
    channelSpares := [], laneSpares := [], linkSpares := [], lost := [], coresDown := [], boundary := [], boundarySent := false, boundaryDue := [],
    copying := [], switching := [], narrowed := [], stopAtBoundary := false, paused := false, classHold := false, background := [],
    telemetryMissing := [], lateMismatches := 0, eccWords := [], fixedWords := [], flagged := [], lostWords := [],
    deadLanes := [] }

/-! ### Trust (16) -/

/-- An enrolled key. -/
structure Key where
  role : Nat
  keyId : Nat
  pub : List Byte
  deriving DecidableEq, Repr

/-- A firmware slot (Table 16.4): valid, with its version, security version and digest. -/
structure FwSlot where
  valid : Bool := false
  fwVer : Nat := 0
  svn : Nat := 0
  bodyDigest : List Byte := []
  deriving DecidableEq, Repr

/-- An audit entry, Table 16.5, without INDEX, PREV and the zero bytes. -/
structure AuditEntry where
  kind : Nat
  role : Nat
  eflags : Nat
  keyId : Nat
  epoch : Nat
  sc : Nat
  hostTime : Nat
  object : Nat
  old : List Byte
  new : List Byte
  deriving DecidableEq, Repr

/-- What is fused at manufacture and test: the part is a CX25-G (R19); SERIAL; stepping byte and feature mask of each die
index; IDKEY, CERT and its key (R509); the maker keys, each with whether its fuse is intact (R508). -/
structure Fuses where
  guestPart : Bool
  serial : Nat
  steppings : List Nat
  features : List Nat
  idKey : List Byte
  cert : List Byte
  certKey : Nat
  makerKeys : List (Key × Bool)
  /-- the initial in-service map: a tile's place in its group where it differs from the tile's number in it (R11). -/
  inService : Map Nat
  /-- each compute die's voltage at each operating point, in mV (R432). -/
  voltages : List (List Nat)
  deriving DecidableEq, Repr

/-- The typical voltages of Table 14.2, in mV. -/
def typicalVoltages : List Nat := (List.range 16).map fun i => 600 + 12 * i

structure TrustState where
  fuses : Fuses
  /-- the rollback counter (R514). -/
  rollback : Nat
  keys : List Key
  nonces : Map Nat
  revoked : List Nat
  /-- seat record, 32 bytes, and the kept INSTALL (R527, R528). -/
  seat : List Byte
  keptInstall : Nat
  /-- guest windows: base, pages, rights. -/
  windows : List (Nat × Nat × Nat)
  /-- refused guest accesses of the power period: first address, kind, number. -/
  denied : Option (Nat × Nat × Nat)
  slotA : FwSlot
  slotB : FwSlot
  booted : Option Bool
  /-- audit entries held, each as its 256 bytes; indices of the next and the first; the head. -/
  audit : List (List Byte)
  auditNext : Nat
  auditFirst : Nat
  /-- entries that no AUDIT_READ has written, as ranges of indices. -/
  unread : List (Nat × Nat)
  auditHead : List Byte
  /-- AUDIT_HIGH notices posted so far. -/
  auditHigh : Nat
  /-- entries that speculative work holds (R521). -/
  auditHeld : List AuditEntry
  deriving DecidableEq, Repr

/-- A part as the model takes it at the first power-up: a CX25 of B0 dies (notes/assumptions/7). -/
def Fuses.initial : Fuses :=
  { guestPart := false, serial := 0, steppings := List.replicate 25 0x20, features := List.replicate 25 3, idKey := [],
    cert := [], certKey := 0, makerKeys := [], inService := []
    voltages := List.replicate 4 typicalVoltages }

def TrustState.initial : TrustState :=
  { fuses := .initial, rollback := 0, keys := [], nonces := [], revoked := [],
    seat := List.replicate 32 0, keptInstall := 0, windows := [], denied := none,
    slotA := { valid := true, fwVer := 0x01000000, svn := 1 }, slotB := {}, booted := none, audit := [],
    auditNext := 0, auditFirst := 0, unread := [], auditHead := [], auditHigh := 0, auditHeld := [] }

/-! ### Board (17) -/

/-- What drives the pins: their functions, the boundary-scan register, or nothing (R556). -/
inductive PinDrive where
  | functional
  | scan (bits : List Bool)
  | highZ
  deriving DecidableEq, Repr

structure BoardState where
  stage : Nat
  failStage : Nat
  failed : Bool
  cause : Nat
  /-- VIN_42 is above 36 V, and the always-on domain is powered. -/
  powered : Bool
  aon : Bool
  pwrgd : Bool
  perstN : Bool
  /-- PERST_N has been high since the boot began (R548). -/
  perstSeen : Bool
  training : Bool
  pcieClk : Bool
  fabClk : Bool
  supplyWarnN : Bool
  sbAddr : BitVec 3
  /-- INPUT_RANGE and THERMAL_TRIP entries to be written at the next ready: kind and value. -/
  pendingAudit : List (Nat × Nat)
  /-- I3C dynamic address, and the bytes of the last response. -/
  dynamic : Option Nat
  response : List Byte
  /-- TAP instruction, the data register it selects as captured, the boundary-scan register, and what drives the pins. -/
  tap : BitVec 8
  shift : List Bool
  boundaryScan : List Bool
  pins : PinDrive
  deriving DecidableEq, Repr

def BoardState.initial : BoardState :=
  { stage := 0, failStage := 0, failed := false, cause := 0, powered := true, aon := true,
    pwrgd := false, perstN := false, perstSeen := false, training := false, pcieClk := true, fabClk := true,
    supplyWarnN := true, sbAddr := 0, pendingAudit := [], dynamic := none, response := [], tap := 0x01,
    shift := [], boundaryScan := [], pins := .functional }

/-! ### Counters (18) -/

/-- A selectable counter. -/
structure Counter where
  value : DWord := 0
  shadow : DWord := 0
  source : Nat := 0
  qual : Nat := 0
  qen : Bool := false
  deriving DecidableEq, Repr

structure CounterState where
  fixed : Map DWord
  fixedShadow : Map DWord
  /-- selectable counters: scope * 2^24 + (die * 512 + tile) * 32 + index. -/
  select : Map Counter
  deriving DecidableEq, Repr

def CounterState.initial : CounterState := { fixed := [], fixedShadow := [], select := [] }

end Sys2Proof.Machine
end

