-- ==== Sys2Proof/Machine/Programs.lean ====
section
/-! DEFINITION. The three update programs that ship in Floelzor (Tables 9.7 to 9.10). -/

namespace Sys2Proof.Machine

/-- An instruction word of Table 9.4. -/
def tilthWord (op d a b c : Nat) : Word :=
  BitVec.ofNat 32 (op <<< 26 + d <<< 21 + a <<< 16 + b <<< 11 + c <<< 6)

/-- Slot 0, momentum SGD: the words of Table 9.8. -/
def programSgd : TilthProgram :=
  { header := 0x0202, words := [0x0818B800, 0x0F7A4000, 0x08197000, 0x0F3B6800] }

/-- Slot 1, the factored adaptive rule: `NFOLD` 6, `NSWEEP` 10, `STATS` 1 (Table 9.9). -/
def programAdaptive : TilthProgram :=
  { header := 0x10A06,
    words :=
      [tilthWord 2 0 0x18 0x17 0, tilthWord 3 1 0 0 0x0B, tilthWord 0x0C 0 1 0 0, tilthWord 0x0D 0 1 0 0,
       tilthWord 2 2 0 0x09 0, tilthWord 3 0x1B 0x1A 0x08 2,
       tilthWord 2 0 0x1C 0x1D 0, tilthWord 2 0 0 0x1E 0, tilthWord 2 0 0 0x15 0, tilthWord 1 0 0 0x0C 0,
       tilthWord 4 1 0 0 0, tilthWord 2 2 0x1B 0x14 0, tilthWord 2 2 2 1 0, tilthWord 9 2 2 0x0F 0,
       tilthWord 2 3 0x19 0x0E 0, tilthWord 3 0x19 2 0x0D 3] }

/-- Slot 2, the sign-based rule: `NFOLD` 3, `NSWEEP` 3 (Table 9.10). -/
def programSign : TilthProgram :=
  { header := 0x0303,
    words :=
      [tilthWord 2 0 0x18 0x17 0, tilthWord 2 0 0 0x09 0, tilthWord 3 0x1B 0x1A 0x08 0,
       tilthWord 8 1 0x1B 0 0, tilthWord 2 2 0x19 0x0E 0, tilthWord 3 0x19 1 0x0D 2] }

/-- The program slots as they stand at reset (R276). -/
def shippedPrograms : Map TilthProgram := [(0, programSgd), (1, programAdaptive), (2, programSign)]

end Sys2Proof.Machine
end

