-- ==== Sys2Proof/Machine/Formats.lean ====
section
/-! DEFINITION. The number formats of chapter 02: codes, exact values, classes, and the encoding of a value that a
format represents (Table 2.1, Table 4.1). -/

namespace Sys2Proof.Machine

/-- The sixteen formats of Table 4.1. -/
inductive Fmt where
  | d64 | s32 | h16 | w16 | f8 | k1 | k2 | k4 | k6 | k8 | i8 | i16 | i32 | u8 | u16 | u32
  deriving DecidableEq, Repr

/-- Table 4.1, R96. -/
def Fmt.ofCode : Nat → Fmt
  | 0 => .d64 | 1 => .s32 | 2 => .h16 | 3 => .w16 | 4 => .f8 | 5 => .k1 | 6 => .k2 | 7 => .k4
  | 8 => .k6 | 9 => .k8 | 10 => .i8 | 11 => .i16 | 12 => .i32 | 13 => .u8 | 14 => .u16 | _ => .u32

def Fmt.code : Fmt → Nat
  | .d64 => 0 | .s32 => 1 | .h16 => 2 | .w16 => 3 | .f8 => 4 | .k1 => 5 | .k2 => 6 | .k4 => 7
  | .k6 => 8 | .k8 => 9 | .i8 => 10 | .i16 => 11 | .i32 => 12 | .u8 => 13 | .u16 => 14 | .u32 => 15

/-- Width of one element in bits. -/
def Fmt.bits : Fmt → Nat
  | .d64 => 64 | .s32 => 32 | .h16 => 16 | .w16 => 16 | .f8 => 8
  | .k1 => 1 | .k2 => 2 | .k4 => 4 | .k6 => 6 | .k8 => 8
  | .i8 => 8 | .i16 => 16 | .i32 => 32 | .u8 => 8 | .u16 => 16 | .u32 => 32

def Fmt.isK : Fmt → Bool
  | .k1 | .k2 | .k4 | .k6 | .k8 => true
  | _ => false

def Fmt.isInt : Fmt → Bool
  | .i8 | .i16 | .i32 | .u8 | .u16 | .u32 => true
  | _ => false

def Fmt.isSignedInt : Fmt → Bool
  | .i8 | .i16 | .i32 => true
  | _ => false

/-- D64, S32 and H16, the IEEE formats (R23). -/
def Fmt.isIeee : Fmt → Bool
  | .d64 | .s32 | .h16 => true
  | _ => false

/-- The four formats of vector float arithmetic (Table 4.7). -/
def Fmt.isFloat : Fmt → Bool
  | .d64 | .s32 | .h16 | .w16 => true
  | _ => false

/-- The formats with a sign, exponent and fraction field. -/
def Fmt.isBinary (f : Fmt) : Bool := f.isFloat || f == .f8

/-- Fraction bits, Table 2.1. -/
def Fmt.frac : Fmt → Nat
  | .d64 => 52 | .s32 => 23 | .h16 => 10 | .w16 => 7 | .f8 => 3 | _ => 0

/-- Exponent bits, Table 2.1. -/
def Fmt.expBits : Fmt → Nat
  | .d64 => 11 | .s32 => 8 | .h16 => 5 | .w16 => 8 | .f8 => 4 | _ => 0

/-- Exponent bias, Table 2.1. -/
def Fmt.bias : Fmt → Nat
  | .d64 => 1023 | .s32 => 127 | .h16 => 15 | .w16 => 127 | .f8 => 8 | _ => 127

/-- Largest magnitude of a K code, q = 2^(n-1) - 1; 1 for K1 (Table 2.5). -/
def Fmt.kMax (f : Fmt) : Nat := if f = .k1 then 1 else 2 ^ (f.bits - 1) - 1

/-- An exact value, or what the spec has in place of one.  A finite value is (-1)^neg * m * 2^e.  A NaN keeps its
payload left-aligned in 52 bits, the quiet bit left out of account in `sig`. -/
inductive Val where
  | nan (neg : Bool) (sig : Bool) (pay : Nat)
  | inf (neg : Bool)
  | fin (neg : Bool) (m : Nat) (e : Int)
  deriving DecidableEq, Repr

def Val.zero : Val := .fin false 0 0

def Val.isNan : Val → Bool
  | .nan _ _ _ => true
  | _ => false

def Val.isSNan : Val → Bool
  | .nan _ s _ => s
  | _ => false

def Val.isFinite : Val → Bool
  | .fin _ _ _ => true
  | _ => false

def Val.isZero : Val → Bool
  | .fin _ m _ => m == 0
  | _ => false

def Val.neg : Val → Bool
  | .nan n _ _ => n
  | .inf n => n
  | .fin n _ _ => n

def Val.abs : Val → Val
  | .nan _ s p => .nan false s p
  | .inf _ => .inf false
  | .fin _ m e => .fin false m e

def Val.negate : Val → Val
  | .nan n s p => .nan (!n) s p
  | .inf n => .inf (!n)
  | .fin n m e => .fin (!n) m e

/-- The canonical quiet NaN of Table 2.2. -/
def Val.qnan : Val := .nan false false 0

/-- The NaN made quiet (R26). -/
def Val.quiet : Val → Val
  | .nan n _ p => .nan n false p
  | v => v

/-- The value of the encoding `b` in a sign/exponent/fraction format (chapter 02, W16 and F8 included).  F8 has one NaN
per sign and no infinity; its NaN counts as the canonical quiet NaN with its sign (R26). -/
def decodeBinary (f : Fmt) (b : Nat) : Val :=
  let neg := b.testBit (f.bits - 1)
  let e := (b >>> f.frac) % 2 ^ f.expBits
  let m := b % 2 ^ f.frac
  if f = .f8 then
    if e = 15 ∧ m = 7 then .nan neg false 0
    else if e = 0 then .fin neg m (-10) else .fin neg (8 + m) ((e : Int) - 11)
  else if e = 2 ^ f.expBits - 1 then
    if m = 0 then .inf neg
    else .nan neg (!m.testBit (f.frac - 1)) ((m % 2 ^ (f.frac - 1)) <<< (52 - f.frac))
  else if e = 0 then .fin neg m (1 - (f.bias : Int) - f.frac)
  else .fin neg (2 ^ f.frac + m) ((e : Int) - f.bias - f.frac)

/-- The integer read from a K element code (Table 2.5); K1 has 0 = +1 and 1 = -1. -/
def decodeK (f : Fmt) (c : Nat) : Int :=
  if f = .k1 then (if c % 2 = 0 then 1 else -1)
  else
    let c := c % 2 ^ f.bits
    if c < 2 ^ (f.bits - 1) then (c : Int) else (c : Int) - 2 ^ f.bits

/-- The code of a K element's integer. -/
def encodeK (f : Fmt) (i : Int) : Nat :=
  if f = .k1 then (if 0 ≤ i then 0 else 1) else (i % (2 ^ f.bits : Int)).toNat

/-- An integer code's value. -/
def decodeInt (f : Fmt) (b : Nat) : Int :=
  let b := b % 2 ^ f.bits
  if f.isSignedInt && decide (2 ^ (f.bits - 1) ≤ b) then (b : Int) - 2 ^ f.bits else (b : Int)

def encodeInt (f : Fmt) (i : Int) : Nat := (i % (2 ^ f.bits : Int)).toNat

def intLow (f : Fmt) : Int := if f.isSignedInt then -(2 ^ (f.bits - 1) : Int) else 0

def intHigh (f : Fmt) : Int := if f.isSignedInt then 2 ^ (f.bits - 1) - 1 else 2 ^ f.bits - 1

def Val.ofInt (i : Int) : Val := .fin (decide (i < 0)) i.natAbs 0

/-- Any element code that needs no block exponent, as a value. -/
def decodeElem (f : Fmt) (b : Nat) : Val :=
  if f.isBinary then decodeBinary f b
  else if f.isK then .ofInt (decodeK f b)
  else .ofInt (decodeInt f b)

/-- A finite value times a power of two. -/
def Val.scale2 (v : Val) (k : Int) : Val :=
  match v with
  | .fin n m e => .fin n m (e + k)
  | v => v

/-- The encoding of an infinity, a NaN or a signed zero in a binary format.  Only F8 lacks an infinity; R50 never asks
for one there. -/
def encodeInf (f : Fmt) (neg : Bool) : Nat :=
  b2n neg <<< (f.bits - 1) + (2 ^ f.expBits - 1) <<< f.frac

/-- A NaN in the target format, quiet, with as much payload as the target holds (R26, Table 2.9). -/
def encodeNan (f : Fmt) (neg : Bool) (pay : Nat) : Nat :=
  if f = .f8 then b2n neg <<< 7 + 0x7F
  else b2n neg <<< (f.bits - 1) + (2 ^ f.expBits - 1) <<< f.frac + 2 ^ (f.frac - 1) +
    (pay >>> (52 - f.frac)) % 2 ^ (f.frac - 1)

/-- Largest finite magnitude, as an encoding without its sign: 0x7E in F8, else all-ones exponent less one. -/
def maxFiniteCode (f : Fmt) : Nat :=
  if f = .f8 then 0x7E else (2 ^ f.expBits - 1) <<< f.frac - 1

/-- A magnitude q * 2^k, with k the format's unit in the last place there, as an encoding without its sign.  The
binary encodings are consecutive, so the exponent field is found from k. -/
def encodeMag (f : Fmt) (q : Nat) (k : Int) : Nat :=
  if q < 2 ^ f.frac then q
  else ((k + f.frac + f.bias).toNat) <<< f.frac + (q - 2 ^ f.frac)

end Sys2Proof.Machine
end

