-- ==== Sys2Proof/Machine/TileState.lean ====
section
/-! DEFINITION. The state of one tile (chapters 03 and 04): control core, sub-queues, descriptor slots, matrix array,
hand-off queue, vector engine, transfer unit and silt.  Every fc is a count of the package's fast clock. -/

namespace Sys2Proof.Machine

/-- A tensor descriptor, Table 4.4. -/
structure Desc where
  ebase : Nat
  xbase : Nat
  sigma : Word
  estride : Nat
  xstride : Nat
  bdim : Bool
  bsize : Nat
  fmt : Fmt
  deriving DecidableEq, Repr

/-- A descriptor slot: its valid content, the loads under way (place in program order, fc at which each becomes valid,
content), and the place of the first load dispatched into it in the task (R100, R580). -/
structure Slot where
  desc : Option Desc := none
  pending : List (Nat × Nat × Desc) := []
  firstSeq : Option Nat := none
  deriving DecidableEq, Repr

/-- A stationary block with its format, scale and exponents (R104 to R106). -/
structure Block where
  fmt : Fmt
  sigma : Word
  bsize : Nat
  data : List Byte
  exps : List Byte
  deriving DecidableEq, Repr

/-- An instruction waiting in a sub-queue, with the registers as they stood at its dispatch (R582). -/
structure Queued where
  seq : Nat
  at_ : Nat
  pc : Nat
  word : TileWord
  x : Vector Word 16
  deriving DecidableEq, Repr

/-- A stationary load under way (R60): `rows` silt rows, the first `elems` of them the element plane. -/
structure LoadRun where
  seq : Nat
  pc : Nat
  issue : Nat
  rows : Nat
  elems : Nat
  addr : Nat
  xaddr : Nat
  desc : Desc
  data : List Byte
  deriving DecidableEq, Repr

/-- A matrix pass under way (R53 to R63, R87, R88). -/
structure PassRun where
  seq : Nat
  pc : Nat
  issue : Nat
  kind : Nat
  set : Bool
  fmt : Fmt
  drn : Bool
  /-- clears the set before its first addition (R61). -/
  clr : Bool
  /-- block bit 0: reads nothing, adds nothing (R63). -/
  zero : Bool
  mask : BitVec 32
  a : Desc
  aAddr : Nat
  aExp : Nat
  b : Option Desc
  bAddr : Nat
  block : Option Block
  /-- streamed rows already taken. -/
  done : Nat
  flags : FlagByte
  deriving DecidableEq, Repr

/-- A hand-off entry, or the pair of a D64 tile (R64), in the order of reservation. -/
structure Entry where
  seq : Nat
  d64 : Bool
  words : Map Word
  enqueueAt : Nat
  enqueued : Bool
  visible : Bool
  releaseAt : Option Nat
  deriving DecidableEq, Repr

/-- One element read by a vector instruction: operands A, B, C as codes, and the draw it rounds with. -/
structure Elem where
  a : Nat
  b : Nat
  c : Nat
  g : Nat
  deriving DecidableEq, Repr

/-- A vector instruction under way (R69, R70). -/
structure VecRun where
  seq : Nat
  pc : Nat
  issue : Nat
  op : VecOp
  f : VecF
  x : Vector Word 16
  src : Option Desc
  tgt : Option Desc
  entry : Option (Map Word)
  entryD64 : Bool
  /-- qQ as read at issue, for ACC (R118). -/
  qIn : DWord
  groups : Nat
  done : Nat
  /-- elements kept for a reduction, or for a block whose exponent is still to be chosen. -/
  kept : List Elem
  flags : FlagByte
  nan : Bool
  sat : Nat
  /-- elements limited, by block of the target; a target without blocks counts as one block (R51, notes/assumptions/88). -/
  limited : Map Nat
  /-- fc by which the package's steppings lengthen its latency (R489, Table 15.7). -/
  late : Nat := 0
  deriving DecidableEq, Repr

/-- A summary register on its way to becoming valid (R75). -/
structure QPending where
  seq : Nat
  q : BitVec 3
  value : DWord
  validAt : Nat
  deriving DecidableEq, Repr

/-- A transfer record, Table 4.9. -/
structure XferRec where
  laddr : Nat
  pkg : Nat
  glb : Bool
  len : Nat
  ctx : Nat
  ddie : Nat
  dtile : Nat
  daddr : Nat
  deriving DecidableEq, Repr

/-- A transfer under way (R187 to R192). -/
structure XferRun where
  seq : Nat
  pc : Nat
  issue : Nat
  op : XferOp
  f : XferF
  x : Vector Word 16
  record : XferRec
  addr : Nat
  /-- P, the first-data count of its path on this package (R189); none where another package has a part in it. -/
  path : Option Nat
  /-- fc that retries and the part of another package add to P, once TRANSFER_COMPLETE tells them. -/
  extra : Option Nat
  /-- own rows read, and rows that have landed at the destination. -/
  done : Nat
  landed : Nat
  /-- rows read and kept: of a record for an inlet, or for another package. -/
  rows : List Byte
  /-- rows of an XPUT on their way to clay, with the fc in which each lands. -/
  flight : List (Nat × List Byte)
  /-- XTILE: the fc in which its last row entered the other tile's silt. -/
  landedAt : Option Nat
  deriving DecidableEq, Repr

/-- What follows the entry of a delivered row (R120, R129, R195). -/
inductive RowNote where
  /-- the last row of the XTILE of the tile with key `src`. -/
  | xtile (src : Nat)
  /-- the last row of a furrow fill of `task` on die `die`: its handle is posted. -/
  | fill (ring : Nat) (handle : Word) (task die : Nat)
  /-- the last row of a frame of a stream. -/
  | frame (f : Frame)
  deriving DecidableEq, Repr

/-- Bytes on their way into silt, written at the end of fc `at_`: the place of the vector instruction that writes them and
the plane they belong to (0 elements, 1 block exponents), or none for a delivery (R190). -/
structure SiltWrite where
  at_ : Nat
  addr : Nat
  bytes : List Byte
  own : Option (Nat × Nat)
  note : Option RowNote := none
  deriving DecidableEq, Repr

/-- An access that a unit asks of a silt bank (R83): its rank, the place of its instruction, the plane written, and the
64-byte row it touches. -/
structure BankAsk where
  rank : Nat
  seq : Nat
  plane : Nat
  row : Nat
  deriving DecidableEq, Repr

/-- What the tile control core is doing. -/
inductive TilePhase where
  /-- no task is assigned. -/
  | free
  | running
  /-- SYNC holds dispatch for the sub-queues of `mask`, instructions dispatched before `upTo` (R124). -/
  | syncHold (mask : BitVec 4) (upTo : Nat)
  /-- END waits (R126). -/
  | endHold
  /-- HGET found its ring empty at fc `since` (R127, R128). -/
  | handleHold (f : HdlF) (since : Nat)
  /-- the tile's part of the task has ended by END. -/
  | ended
  /-- the tile's part has aborted with a cause of Table 4.18. -/
  | aborted (cause : Nat)
  deriving DecidableEq, Repr

structure Tile where
  x : Vector Word 16
  q : Vector DWord 8
  mflags : FlagByte
  vflags : FlagByte
  pc : Nat
  /-- number of instructions dispatched in the task. -/
  seq : Nat
  /-- every fc below `clock` has been carried out. -/
  clock : Nat
  nextDispatch : Nat
  phase : TilePhase
  task : Nat
  spec : Bool
  /-- fc at which the task was assigned (Table 4.15). -/
  origin : Nat
  /-- the instruction store (R89). -/
  store : Map DWord
  mslots : Vector Slot 4
  vslots : Vector Slot 4
  shadow : Option Block
  active : Option Block
  /-- the two accumulator sets. -/
  acc0 : Map Word
  acc1 : Map Word
  /-- fc at which a draining pass frees the set (R573). -/
  accFree0 : Option Nat
  accFree1 : Option Nat
  hq : List Entry
  passQ : List Queued
  loadQ : List Queued
  vecQ : List Queued
  xferQ : List Queued
  passFree : Nat
  loadFree : Nat
  vecFree : Nat
  xferFree : Nat
  passes : List PassRun
  loads : List LoadRun
  vecs : List VecRun
  qPend : List QPending
  xfer : Option XferRun
  /-- fc since which a pass is held for a hand-off entry (R66), or for a stationary load (R108). -/
  heldEntry : Option Nat
  heldSwap : Option Nat
  silt : Map Byte
  landing : List SiltWrite
  /-- reads asked of a bank and not yet granted (R83). -/
  asks : List BankAsk
  /-- limited blocks that have still to reach the hub (R51): whether the work was speculative, and elements limited. -/
  limited : List (Bool × Nat)
  /-- silt rows of which the next read fails parity (R86). -/
  weak : List Nat
  /-- silt rows marked for backfill (R86), and the row remap table: row in service to spare row of its bank, from 1 (R85). -/
  badRows : List Nat
  remap : Map Nat
  /-- fc `clock` has begun: what falls due, issues and reads in it has been carried out, and dispatch and the banks' turns are
  still to come. -/
  begun : Bool
  /-- the cause that stops the tile at the end of the fc that has begun (R132). -/
  stop : Option AbortRecord
  /-- a cause that arises in the next fc: a handle of the tile's transfer meets a full ring (R120, R129). -/
  later : Option AbortRecord
  /-- a row of the tile's own transfer, or its record, takes the mesh port in the fc that has begun (R119, R190). -/
  port : Bool
  /-- fc by which the package's steppings lengthen special functions (R489). -/
  lateSpecial : Nat
  deriving DecidableEq, Repr

/-- R85: spare rows of a bank in use; a spare that fails in its turn stays used. -/
def Tile.sparesUsed (t : Tile) (bank : Nat) : Nat :=
  ((t.remap.filter fun r => r.1 % 16 == bank).map Prod.snd).foldl max 0

/-- A tile that no task has ever used. -/
def Tile.idle : Tile :=
  { x := Vector.replicate 16 0, q := Vector.replicate 8 0, mflags := 0, vflags := 0, pc := 0, seq := 0, clock := 0,
    nextDispatch := 0, phase := .free, task := 0, spec := false, origin := 0, store := [],
    mslots := Vector.replicate 4 {}, vslots := Vector.replicate 4 {}, shadow := none, active := none,
    acc0 := [], acc1 := [], accFree0 := none, accFree1 := none, hq := [],
    passQ := [], loadQ := [], vecQ := [], xferQ := [], passFree := 0, loadFree := 0, vecFree := 0, xferFree := 0,
    passes := [], loads := [], vecs := [], qPend := [], xfer := none, heldEntry := none, heldSwap := none,
    silt := [], landing := [], asks := [], limited := [], weak := [], badRows := [], remap := [], begun := false, stop := none,
    later := none, port := false, lateSpecial := 0 }

/-- The tile carries out a part of a task. -/
def Tile.busy (t : Tile) : Bool :=
  match t.phase with
  | .running | .syncHold _ _ | .endHold | .handleHold _ _ => true
  | .free | .ended | .aborted _ => false

end Sys2Proof.Machine
end

