-- ==== Sys2Proof/Machine/State.lean ====
section
/-! DEFINITION. The state of the package: the queue of commands that wait, and everything the spec gives the block.
Plain data throughout; sparse maps are in canonical form. -/

namespace Sys2Proof.Machine

/-- Reasons the machine stops.  There is none: every condition the spec describes has a next state. -/
inductive Fault where
  deriving DecidableEq, Repr

/-- Reasons a command has no meaning. -/
inductive Refusal where
  /-- Answered by the dispatcher alone, for a row of the table that has no meaning yet.  Safe: it stops the run. -/
  | notModelled (mnemonic : String)
  deriving DecidableEq, Repr

structure State where
  /-- commands that wait, first in, first out. -/
  pending : List Instr
  /-- the number of free values drawn (notes/assumptions/10). -/
  free : Nat
  /-- fc of the package (R209), and the hub's sc count since power-up (R430), with the fc that remain over. -/
  fc : Nat
  sc : Nat
  scFc : Nat
  /-- tiles by `TileId.key`; an unlisted tile is `Tile.idle`. -/
  tiles : Map Tile
  mem : MemState
  rs : RingState
  job : JobState
  tilth : TilthState
  num : NumState
  fab : FabState
  host : HostState
  pow : PowState
  units : UnitState
  trust : TrustState
  board : BoardState
  cnt : CounterState
  deriving DecidableEq, Repr

def MemState.initial : MemState :=
  { clay := [], poison := [], pages := [], migrations := [], retiring := [], heldWrites := [], clearing := [], cleared := [], lendFrames := 0,
    lendTilth := 0, borrowers := [], lendSlots := [], silent := [], lostLenders := [] }

def TilthState.initial : TilthState :=
  { programs := shippedPrograms, layers := [], slices := [], waiting := [], busyTo := [], complete := [], sweeping := [], sweptLayers := [], released := [],
    unitFlags := [], directory := [], gathered := [], lentEpoch := [], lentTag := [], lentJob := [] }

/-- The package right after the power-up of its always-on domain, with no die rail up: `SB_BOOT.STAGE` 0x00 (R537,
R543; notes/assumptions/1). -/
def State.reset : State :=
  { pending := [], free := 0, fc := 0, sc := 0, scFc := 0, tiles := [], mem := .initial, rs := .empty, job := .none,
    tilth := .initial, num := .none, fab := .none, host := .initial, pow := .initial, units := .initial,
    trust := .initial, board := .initial, cnt := .initial }

end Sys2Proof.Machine
end

