-- ==== Sys2Proof/Machine/Ops.lean ====
section
/-! DEFINITION. The shared operations: time, tiles, clay and pages, contexts and handles, interrupts, notices, audit
entries, counters, and the causes that abort tasks and steps. -/

namespace Sys2Proof.Machine

/-! ### Time (R206, R429, R430, Table 14.2) -/

/-- fc per sc of an operating point, Table 14.2. -/
def fcPerSc (point : Nat) : Nat :=
  if point < 12 then 36 + 2 * point else if point = 12 then 61 else if point = 13 then 64 else if point = 14 then 67
  else 70

/-- What a part's voltages are fused to: 0.60 to 0.78 V, non-decreasing with the point (R432). -/
def Fuses.voltagesGood (f : Fuses) : Prop :=
  ∀ v ∈ f.voltages, v.length = 16 ∧ v.Pairwise (· ≤ ·) ∧ ∀ x ∈ v, 600 ≤ x ∧ x ≤ 780

/-- A compute die's voltage in mV at the present operating point (R432, R433). -/
def State.dieVoltage (s : State) (die : Nat) : Nat := (s.trust.fuses.voltages.getD die []).getD s.pow.point 0

/-- `n` fc pass. -/
def State.passFc (n : Nat) (s : State) : State :=
  let t := s.scFc + n
  { s with fc := s.fc + n, sc := (s.sc + t / fcPerSc s.pow.point) % 2 ^ 48, scFc := t % fcPerSc s.pow.point }

/-- Time runs on to fc `h`, when it has not been reached. -/
def State.toFc (h : Nat) (s : State) : State := s.passFc (h - s.fc)

/-- Time runs on to sc `t`, when it has not been reached. -/
def State.toSc (t : Nat) (s : State) : State :=
  if s.sc < t then { s with fc := s.fc + (t - s.sc) * fcPerSc s.pow.point, sc := t } else s

/-- sc in a second (R429), and in a day. -/
def scPerSecond : Nat := 25000000
def scPerDay : Nat := 86400 * scPerSecond

/-- sc since a moment, or none while it lies ahead; the count is of 48 bits. -/
def State.scSince (s : State) (t : Nat) : Option Nat :=
  let d := (s.sc + 2 ^ 48 - t) % 2 ^ 48
  if d < 2 ^ 47 then some d else none

/-- Kinds of background tasks, in the order of Table 7.7; after them the copy of a channel (R472). -/
def bgRefresh : Nat := 0
def bgScrub : Nat := 1
def bgCalibration : Nat := 2
def bgTelemetry : Nat := 3
def bgSpareTest : Nat := 4
def bgMigration : Nat := 5
def bgCopy : Nat := 6

def bgKey (kind die unit : Nat) : Nat := kind * 2 ^ 24 + die * 2 ^ 16 + unit

/-! ### Tiles -/

def State.tile (s : State) (t : TileId) : Tile := mapGet Tile.idle s.tiles t.key

def State.setTile (s : State) (t : TileId) (v : Tile) : State := { s with tiles := mapSet Tile.idle s.tiles t.key v }

def State.modTile (s : State) (t : TileId) (f : Tile → Tile) : State := s.setTile t (f (s.tile t))

/-- The fifteen-bit key of a die index and logical tile, when both exist (R8, R11). -/
def tileId? (die tile : Nat) : Option TileId :=
  if h : die < 4 ∧ tile < 288 then some ⟨⟨die, h.1⟩, ⟨tile, h.2⟩⟩ else none

def tileOfKey (k : Nat) : Option TileId := tileId? (k / 512) (k % 512)

/-! ### Dies and their links (R8 to R10, R17 to R20, Tables 1.2 to 1.4) -/

/-- Die indices of Table 1.2 that are present, the guest die apart. -/
def State.dies (s : State) : List Nat := if s.trust.fuses.guestPart then List.range 24 else List.range 25

/-- Die `i` of Table 1.2 is present; 25 is the guest die. -/
def State.diePresent (s : State) (i : Nat) : Bool := s.dies.contains i || (i == 25 && s.trust.fuses.guestPart)

/-- A fabric port that the part does not carry (R2). -/
def State.portAbsent (s : State) (n : Nat) : Bool := s.trust.fuses.guestPart && decide (12 ≤ n)

def isStack (die : Nat) : Bool := decide (5 ≤ die) && decide (die ≤ 20)

/-- The die through which a die reaches the others: a stack's compute die, the hub for link dies and the guest die. -/
def gateOf (die : Nat) : Nat := if isStack die then (die - 5) / 4 else if 21 ≤ die then 4 else die

/-- Table 1.3 has a link between dies `a` and `b`. -/
def linked (a b : Nat) : Bool :=
  a != b && (if a ≤ 4 && b ≤ 4 then true else gateOf a == b || gateOf b == a)

/-- A die link of the part (R17, R20). -/
def State.linkPresent (s : State) (a b : Nat) : Bool := linked a b && s.diePresent a && s.diePresent b

/-- The dies on the path from `a` to `b`, both of them among them (R18, Table 1.4). -/
def diePath (a b : Nat) : List Nat :=
  let l := [a, gateOf a, gateOf b, b]
  (l.zip ((a + 32) :: l)).filterMap fun p => if p.1 = p.2 then none else some p.1

/-! ### Counters (chapter 18) -/

/-- Fixed counter `n` counts `k` events; the shadow counts speculative ones (R558, R559). -/
def State.count (n k : Nat) (spec : Bool) (s : State) : State :=
  if spec then
    let m := mapSet 0 s.cnt.fixedShadow n (mapGet 0 s.cnt.fixedShadow n + BitVec.ofNat 64 k)
    { s with cnt := { s.cnt with fixedShadow := m } }
  else
    let m := mapSet 0 s.cnt.fixed n (mapGet 0 s.cnt.fixed n + BitVec.ofNat 64 k)
    { s with cnt := { s.cnt with fixed := m } }

/-- Every selectable counter of a scope, die and tile whose source and qualifier match counts `k` events. -/
def State.countSource (scope die tile source qual k : Nat) (spec : Bool) (s : State) : State :=
  let lo := scope * 2 ^ 24 + (die * 512 + tile) * 32
  { s with cnt := { s.cnt with select := s.cnt.select.map fun e =>
    if lo ≤ e.1 ∧ e.1 < lo + 32 ∧ e.2.source = source ∧ (e.2.qen = false ∨ e.2.qual = qual) then
      (e.1, if spec then { e.2 with shadow := e.2.shadow + BitVec.ofNat 64 k }
        else { e.2 with value := e.2.value + BitVec.ofNat 64 k })
    else e } }

/-- `n` bytes go from die `a` to die `b`: each link on the path that a compute die sends on counts them (DIELINK_BYTES). -/
def State.countPath (spec : Bool) (a b n : Nat) (s : State) : State :=
  let l := diePath a b
  (l.zip (l.drop 1)).foldl (fun (s : State) x => if x.1 < 4 then s.countSource 1 x.1 0 0x0204 x.2 n spec else s) s

/-- R560 at a commit: every shadow added to its counter and cleared. -/
def CounterState.fold (c : CounterState) : CounterState :=
  { fixed := c.fixedShadow.foldl (fun m e => mapSet 0 m e.1 (mapGet 0 m e.1 + e.2)) c.fixed,
    fixedShadow := [],
    select := mapMap {} (fun _ (v : Counter) => { v with value := v.value + v.shadow, shadow := 0 }) c.select }

/-- R560 when work of E + 1 is discarded: shadows cleared, their sum added to SPEC_DROPPED. -/
def CounterState.drop (c : CounterState) : CounterState :=
  let sum := (c.fixedShadow.map fun e => e.2.toNat).foldl (· + ·) 0 +
    (c.select.map fun e => e.2.shadow.toNat).foldl (· + ·) 0
  { fixed := mapSet 0 c.fixed 0x0D (mapGet 0 c.fixed 0x0D + BitVec.ofNat 64 sum), fixedShadow := [],
    select := mapMap {} (fun _ (v : Counter) => { v with shadow := 0 }) c.select }

/-- Shadows cleared, for work of which nothing remains to be told (a reset). -/
def CounterState.unshadow (c : CounterState) : CounterState :=
  { c with fixedShadow := [], select := mapMap {} (fun _ (v : Counter) => { v with shadow := 0 }) c.select }

/-! ### Interrupts (R414, R415, R424) -/

/-- Vector `v` is raised: a message goes out, or the event stays pending while the vector is masked or the function is
in D3hot. -/
def State.raiseVector (v : Nat) (s : State) : State :=
  let e := mapGet {} s.host.msix v
  if e.masked || s.host.d3hot then
    { s with host := { s.host with msix := mapSet {} s.host.msix v { e with pending := true } } }
  else { s with host := { s.host with messages := s.host.messages ++ [⟨v, e.addr, e.data⟩] } }

/-- An event sets a bit of INT_CAUSE, and raises vector 0 when the bit is enabled. -/
def State.setCause (bit : Nat) (s : State) : State :=
  let s' := { s with host := { s.host with
    intCause := s.host.intCause ||| (1#5 <<< bit), causeNow := s.host.causeNow.add s.fc (1#5 <<< bit) } }
  if s.host.intEnable.getLsbD bit then s'.raiseVector 0 else s'

/-- The vector of completion ring `r` (R414). -/
def State.ringVector (s : State) (r : Nat) : Nat := (mapGet 1 s.host.vectors r).toNat

/-! ### Rings (R181, R182) -/

def State.ring (s : State) (r : Nat) : Ring := mapGet {} s.rs.rings r

def State.setRing (s : State) (r : Nat) (v : Ring) : State :=
  { s with rs := { s.rs with rings := mapSet {} s.rs.rings r v } }

def State.aux (s : State) (r : Nat) : RingAux := mapGet {} s.rs.aux r

def State.setAux (s : State) (r : Nat) (v : RingAux) : State :=
  { s with rs := { s.rs with aux := mapSet {} s.rs.aux r v } }

def Ring.depth (r : Ring) : Nat := 2 ^ r.log2d

/-- Entries between HEAD and TAIL, modulo 2^17 (R182). -/
def Ring.used (r : Ring) : Nat := (r.tail + 2 ^ 17 - r.head) % 2 ^ 17

def Ring.full (r : Ring) : Bool := decide (r.depth ≤ r.used)

/-- Storage bytes of one entry: 64 of a command packet, 32 of a reply. -/
def Ring.entrySize (r : Ring) : Nat := if r.kind = .command then 64 else 32

/-- Ring-storage offset of the entry with index `i`. -/
def Ring.entryAt (r : Ring) (i : Nat) : Nat := r.base * 64 + (i % r.depth) * r.entrySize

/-- A reply written into completion ring `r` (R375): its PHASE is 1 on even passes. -/
def State.writeReply (r : Nat) (bytes : List Byte) (s : State) : State :=
  let d := s.ring r
  let a := s.aux r
  let phase := b2n ((a.replies / d.depth) % 2 == 0)
  let b7 := (bytes.getD 7 0 &&& 0xFE) ||| BitVec.ofNat 8 phase
  let s := { s with rs := { s.rs with storage := memWrite s.rs.storage (d.entryAt d.tail) (bytes.set 7 b7) } }
  let s := s.setRing r { d with tail := (d.tail + 1) % 2 ^ 17, posted := (d.posted + 1) % 2 ^ 64 }
  s.setAux r { a with replies := a.replies + 1 }

/-- Doorbells whose entries lie at or before `head` are done with. -/
def pruneBells (head : Nat) (bells : List (Nat × List (Nat × Nat))) : List (Nat × List (Nat × Nat)) :=
  bells.filter fun b => decide (0 < (b.1 + 2 ^ 17 - head) % 2 ^ 17) && decide ((b.1 + 2 ^ 17 - head) % 2 ^ 17 ≤ 65536)

/-- HEAD passes an answered command with its packets (R571). -/
def State.passCommand (p : Passing) (s : State) : State :=
  let x := s.aux p.ring
  (s.setRing p.ring { s.ring p.ring with head := p.head }).setAux p.ring
    { x with nextSeq := p.nextSeq, bells := pruneBells p.head x.bells, skip := p.skip }

/-- R379: a reply that finds its ring full, or held replies before it, is held.  The vector is raised when it is posted
for a command with IRQ (bit 3 of byte 7, which R375 reserves, carries the mark until then). -/
def State.postReply (r : Nat) (h : HeldReply) (s : State) : State :=
  let d := s.ring r
  let a := s.aux r
  if d.kind ≠ .completion then s
  else if d.full || !a.held.isEmpty then s.setAux r { a with held := a.held ++ [h] }
  else
    let b7 := h.bytes.getD 7 0
    let s := s.writeReply r (h.bytes.set 7 (b7 &&& 0x07))
    let s := h.pass.elim s fun p => s.passCommand p
    if b7.getLsbD 3 then s.raiseVector (s.ringVector r) else s

/-- The 32 bytes of a status reply, Table 12.3. -/
def replyBytes (seq cls code opcode : Nat) (note final irq : Bool) (slices ring : Nat) (results : List Word) :
    List Byte :=
  leBytes 4 seq ++ leBytes 2 (cls <<< 12 + code) ++
    [BitVec.ofNat 8 opcode, BitVec.ofNat 8 (b2n note * 2 + b2n final * 4 + b2n irq * 8)] ++
    leBytes 4 slices ++ leBytes 4 ring ++
    ((results ++ [0, 0, 0, 0]).take 4).flatMap fun (w : Word) => leBytes 4 w.toNat

/-- A notice (R380): posted on ring 1, queued when it is full, lost beyond 256. -/
def State.notice (code : Nat) (results : List Word) (s : State) : State :=
  let d := s.ring 1
  if s.host.ready && d.kind == .completion && !d.full && s.host.notices.isEmpty && (s.aux 1).held.isEmpty then
    (s.writeReply 1 (replyBytes 0 0 code 0 true true false 0 1 results)).raiseVector (s.ringVector 1)
  else if s.host.notices.length < 256 then
    { s with host := { s.host with notices := s.host.notices ++ [(code, results)] } }
  else { s with host := { s.host with noticesLost := s.host.noticesLost + 1 } }

/-- Notices that wait are posted while ring 1 has room, and then NOTICES_LOST (R380). -/
def State.drainNotices : Nat → State → State
  | 0, s => s
  | n + 1, s =>
    let d := s.ring 1
    if !s.host.ready || d.kind != .completion || d.full || !(s.aux 1).held.isEmpty then s
    else
      match s.host.notices with
      | (code, rs) :: rest =>
        State.drainNotices n (({ s with host := { s.host with notices := rest } }.writeReply 1
          (replyBytes 0 0 code 0 true true false 0 1 rs)).raiseVector (s.ringVector 1))
      | [] =>
        if s.host.noticesLost = 0 then s
        else
          ({ s with host := { s.host with noticesLost := 0 } }.writeReply 1
            (replyBytes 0 0 0x804 0 true true false 0 1 [BitVec.ofNat 32 s.host.noticesLost])).raiseVector
            (s.ringVector 1)

/-- An event sets bit `b` of SB_PSTAT. -/
def State.setPstat (b : Nat) (s : State) : State :=
  { s with pow := { s.pow with
    pstat := s.pow.pstat ||| (1#6 <<< b), pstatNow := s.pow.pstatNow.add s.sc (1#6 <<< b) } }

/-- A power notice (R460): INT_CAUSE.POWER and the bit of SB_PSTAT. -/
def State.powerNotice (code : Nat) (bit : Option Nat) (results : List Word) (s : State) : State :=
  let s := (s.notice code results).setCause 3
  match bit with
  | some b => s.setPstat b
  | none => s

/-! ### Audit log (R516 to R522) -/

def wordsOf (n v : Nat) : List Word := (List.range n).map fun i => BitVec.ofNat 32 (v >>> (32 * i))

def padTo (n : Nat) (bs : List Byte) : List Byte := (bs ++ List.replicate n 0).take n

/-- A shard's last bytes with its digest behind them: the data padded to a flit, then the digest (R173, R244;
notes/assumptions/95). -/
def withDigest (bs : List Byte) (d : BitVec 64) : List Byte := padTo (ceilDiv bs.length 64 * 64) bs ++ leBytes 8 d.toNat

/-- A list in rising order of a number, equal ones as they stand. -/
def inOrder {α : Type} (key : α → Nat) (l : List α) : List α :=
  l.foldr (fun x l => l.takeWhile (fun y => decide (key y < key x)) ++ [x] ++ l.dropWhile fun y => decide (key y < key x)) []

/-- The identity digest (R510). -/
def State.idDigest (s : State) : List Byte := sha3 (s.trust.fuses.idKey ++ leBytes 8 s.trust.fuses.serial)

/-- The 256 bytes of an entry with its index and PREV (Table 16.5). -/
def auditBytes (index : Nat) (e : AuditEntry) (prev : List Byte) : List Byte :=
  leBytes 8 index ++ leBytes 2 e.kind ++ leBytes 1 e.role ++ leBytes 1 e.eflags ++ leBytes 8 e.keyId ++
    leBytes 6 e.epoch ++ leBytes 6 e.sc ++ leBytes 8 e.hostTime ++ leBytes 8 e.object ++ padTo 64 e.old ++
    padTo 64 e.new ++ padTo 64 prev ++ List.replicate 16 0

/-- Ranges of indices, the first of each and the one after its last, without those from `a` up to `b`. -/
def cutRanges (a b : Nat) (l : List (Nat × Nat)) : List (Nat × Nat) :=
  (l.flatMap fun r => [(r.1, min r.2 a), (max r.1 b, r.2)]).filter fun r => decide (r.1 < r.2)

def rangesSize (l : List (Nat × Nat)) : Nat := (l.map fun r => r.2 - r.1).foldl (· + ·) 0

/-- The entries that no AUDIT_READ has written, once entry `n` is there. -/
def addUnread (n : Nat) (l : List (Nat × Nat)) : List (Nat × Nat) :=
  match l.getLast? with
  | some r => if r.2 = n then l.dropLast ++ [(r.1, n + 1)] else l ++ [(n, n + 1)]
  | none => [(n, n + 1)]

/-- An entry's bytes with another INDEX and PREV (Table 16.5). -/
def auditAt (n : Nat) (prev bs : List Byte) : List Byte :=
  leBytes 8 n ++ (bs.drop 8).take 168 ++ padTo 64 prev ++ bs.drop 240

/-- R519: entry `e` stands before an entry of the same sc with a higher kind, or with its kind and a higher object.  Entries held
from speculative work keep their order (R521). -/
def auditBefore (e : AuditEntry) (bs : List Byte) : Bool :=
  let f (a n : Nat) : Nat := leNat ((bs.drop a).take n)
  e.eflags % 2 == 0 && f 11 1 % 2 == 0 && f 26 6 == e.sc &&
    (decide (e.kind < f 8 2) || (f 8 2 == e.kind && decide (e.object < f 40 8)))

/-- How many of the newest entries entry `e` stands before; those that an AUDIT_READ has written keep their place
(notes/assumptions/99). -/
def TrustState.auditPlace (t : TrustState) (e : AuditEntry) : Nat :=
  let fresh := match t.unread.getLast? with
    | some r => if r.2 = t.auditNext then r.2 - r.1 else 0
    | none => 0
  ((t.audit.reverse.take fresh).takeWhile (auditBefore e)).length

/-- An entry in its place among those of its sc (R519); the store holds 262,144 and drops the lowest index (R516); AUDIT_HIGH by
R525. -/
def State.appendEntry (e : AuditEntry) (s : State) : State :=
  let n := s.trust.auditNext
  let k := s.trust.auditPlace e
  let stay := s.trust.audit.length - k
  let later := s.trust.audit.drop stay
  let prev := match later with
    | [] => if n = 0 then s.idDigest else s.trust.auditHead
    | b :: _ => (b.drop 176).take 64
  let mine := auditBytes (n - k) e prev
  let chain := later.foldl (fun (acc : List (List Byte) × List Byte × Nat) b =>
    let b := auditAt acc.2.2 acc.2.1 b
    (acc.1 ++ [b], sha3 b, acc.2.2 + 1)) ([mine], sha3 mine, n - k + 1)
  let beyond := decide (262144 ≤ s.trust.audit.length)
  let first := if beyond then s.trust.auditFirst + 1 else s.trust.auditFirst
  let unread := cutRanges 0 first (addUnread n s.trust.unread)
  let high : Bool := decide (196608 + 16384 * s.trust.auditHigh ≤ rangesSize unread)
  let s := { s with trust := { s.trust with
    audit := (s.trust.audit.take stay ++ chain.1).drop (b2n beyond), auditNext := n + 1, auditFirst := first
    auditHead := chain.2.1, unread := unread, auditHigh := s.trust.auditHigh + b2n high } }
  if high then s.notice 0x805 (wordsOf 2 ((unread.map Prod.fst).headD 0)) else s

/-- A record of a change: its entry, and continuation entries for values longer than 64 bytes (R522). -/
def State.appendAudit (e : AuditEntry) (s : State) : State :=
  let n := max 1 (ceilDiv (max e.old.length e.new.length) 64)
  (List.range n).foldl (fun (s : State) i =>
    s.appendEntry { e with
      eflags := e.eflags + (if i = 0 then 0 else 2)
      old := (e.old.drop (64 * i)).take 64, new := (e.new.drop (64 * i)).take 64 }) s

/-- An entry as the package makes it now: role and key of the command that made the change, or 0 (R517, R520). -/
def State.entry (s : State) (kind role keyId time object : Nat) (old new : List Byte) : AuditEntry :=
  { kind := kind, role := role, eflags := 0, keyId := keyId, epoch := if s.job.image.isSome then s.job.epoch else 0,
    sc := s.sc, hostTime := if time = 0 then s.host.hostTime else time, object := object, old := old, new := new }

/-- A change that the package makes itself is recorded. -/
def State.audit (kind object : Nat) (old new : List Byte) (s : State) : State :=
  s.appendAudit (s.entry kind 0 0 0 object old new)

/-- R264, R331: an entry from speculative work is held, marked with epoch E + 1. -/
def State.auditWork (spec : Bool) (kind object : Nat) (old new : List Byte) (s : State) : State :=
  if spec then
    let e := { s.entry kind 0 0 0 object old new with epoch := s.job.epoch + 1 }
    { s with trust := { s.trust with auditHeld := s.trust.auditHeld ++ [e] } }
  else s.audit kind object old new

/-- A fault notice of Table 15.9, with its audit entry 0x0500 + n. -/
def State.faultNotice (code : Nat) (results : List Word) (s : State) : State :=
  (s.notice code results).audit (0x500 + (code - 0x800)) 0 [] (results.flatMap fun (w : Word) => leBytes 4 w.toNat)

/-! ### The package's place in the job (R245) -/

/-- The packages of the running job. -/
def State.packages (s : State) : List Nat := (s.job.image.map Image.packages).getD []

def minOf : List Nat → Nat
  | [] => 0
  | n :: ns => ns.foldl min n

/-- A section of the running image; empty when no job runs. -/
def State.image {α : Type} (s : State) (f : Image → List α) : List α := (s.job.image.map f).getD []

def State.leader (s : State) : Nat := minOf s.packages

def State.isLeader (s : State) : Bool := s.leader == s.fab.coord

def State.jobId (s : State) : Nat := (s.job.image.map Image.job).getD 0

/-! ### Notices of the fabric (R349, R354, R355) -/

/-- The ports that are UP. -/
def FabState.upMask (f : FabState) : BitVec 16 :=
  BitVec.ofNat 16 (((List.range 16).filter fun p => (mapGet {} f.ports p).state == 2).map fun p => 2 ^ p).sum

/-- R354: from a step boundary on, the sets of routes take no further port. -/
def State.pinRoutes (s : State) : State := { s with fab := { s.fab with pinned := some s.fab.upMask } }

/-- At a boundary, and while no step runs, the sets follow the ports. -/
def State.freeRoutes (s : State) : State := { s with fab := { s.fab with pinned := none } }

/-- Port set a destination takes: the member table in the own clod, else the first entry of the route table; only ports
that are UP, and while a step runs none that came UP in it (R354; notes/assumptions/97). -/
def FabState.portSet (f : FabState) (dst : Nat) : List Nat :=
  let mask : BitVec 16 :=
    if dst / 8 = f.coord / 8 then f.members.getD (dst % 8) 0
    else ((f.routes.find? fun r => r.1 ≤ dst / 8 ∧ dst / 8 ≤ r.2.1).map fun r => r.2.2).getD 0
  (List.range 16).filter fun p =>
    mask.getLsbD p && (mapGet {} f.ports p).state == 2 && f.pinned.all fun m => m.getLsbD p

/-- A notice leaves by the lowest port of its set; one to the package itself reaches its hub at once (R254, R355). -/
def State.sendNotice (n : Notice) (s : State) : State :=
  let n := { n with src := s.fab.coord, job := s.jobId }
  if n.dst = s.fab.coord then { s with fab := { s.fab with noticesIn := s.fab.noticesIn ++ [n] } }
  else
    match s.fab.portSet n.dst with
    | p :: _ => { s with fab := { s.fab with sentNotices := s.fab.sentNotices ++ [(p, n)] } }
    | [] => s

/-- The same notice to every package of the job. -/
def State.toAll (n : Notice) (s : State) : State :=
  s.packages.foldl (fun s p => s.sendNotice { n with dst := p }) s

/-- A notice to the leader. -/
def State.toLeader (n : Notice) (s : State) : State := s.sendNotice { n with dst := s.leader }

/-- The step tag of epoch `e` (R232). -/
def State.stepTag (s : State) (e : Nat) : Nat :=
  (if e = s.job.epoch then s.job.st.attempt else s.job.nextAttempt) % 16 * 2 ^ 28 + e % 2 ^ 28

/-! ### Step aborts and task aborts (R201, R203, R254) -/

/-- The package meets a cause of Table 8.4 for step E and sends STEP_ABORT to the leader, unless it has sent STEP_READY
(R247) or no step runs. -/
def State.stepAbort (cause : Nat) (s : State) : State :=
  if s.job.st.phase = .running then
    let s := { s with job := { s.job with abortCause := if s.job.abortCause = 0 then cause else s.job.abortCause } }
    s.toLeader { code := 2, cause := cause, attempt := s.job.st.attempt, epoch := s.job.epoch }
  else s

/-- The 128 bits of an abort record, Table 6.10. -/
def AbortRecord.bits (r : AbortRecord) : Nat :=
  r.cause + r.tile % 512 * 2 ^ 18 + r.die % 32 * 2 ^ 27 + r.instr % 4096 * 2 ^ 32 + r.code % 65536 * 2 ^ 44 +
    r.pkg % 2 ^ 20 * 2 ^ 60 + r.addr % 2 ^ 48 * 2 ^ 80

def State.task (s : State) (n : Nat) : Task := mapGet {} s.rs.tasks n

def State.setTask (s : State) (n : Nat) (v : Task) : State :=
  { s with rs := { s.rs with tasks := mapSet {} s.rs.tasks n v } }

def State.taskDecl (s : State) (n : Nat) : Option TaskDecl := s.job.image.bind fun i => i.tasks.find? fun t => t.task == n

/-- Work of E + 1 leaves nothing in inlets, hops and order lists; its records carry step tag `tag`. -/
def JobState.dropNext (j : JobState) (tag : Nat) : JobState :=
  let keep (_ : Nat) (l : List BucketRecord) : List BucketRecord := l.filter fun r => r.tag != tag
  { j with
    inlets := mapMap [] keep j.inlets, arrivals := mapMap [] keep j.arrivals
    rowSums := j.rowSums.filter fun r => !r.next, bucketsNext := [], flagsNext := 0, orderNext := [] }

/-- R266: speculative work of E + 1 meets a cause of Table 8.4; the leader hears of the first (notes/assumptions/41). -/
def State.specCause (cause : Nat) (s : State) : State :=
  if s.job.abortNext ≠ 0 then s
  else
    ({ s with job := { s.job with abortNext := cause } }).toLeader
      { code := 2, cause := cause, attempt := s.job.nextAttempt, epoch := s.job.epoch + 1 }

/-- The other packages of the job hear of a task's abort (R202). -/
def State.tellAbort (n : Nat) (t : Task) (s : State) : State :=
  (s.packages.filter (· != s.fab.coord)).foldl (fun s p =>
    s.sendNotice { code := 9, dst := p, task := n, epoch := t.epoch, attempt := t.attempt }) s

/-- The retry margins of the running image by path kind: on-die, die-link, fabric (R220). -/
def State.margins (s : State) : Nat × Nat × Nat :=
  match s.job.image with
  | some i => (i.marginOnDie, i.marginDieLink, i.marginFabric)
  | none => (0, 0, 0)

/-- Hops of a mesh route, as the running image fixes it. -/
def State.hops (s : State) (die tile edge : Nat) : Nat :=
  match (s.image Image.routes).find? fun r => r.die == die && r.tile == tile && r.edge == edge with
  | some r => r.hops
  | none => Config.freeHops die tile edge

/-- R203, Table 6.9: the fc in which the record of a cause of fc `at_` reaches the hub of its package. -/
def State.hubArrival (s : State) (at_ : Nat) (r : AbortRecord) : Nat :=
  if r.tile < 288 ∧ r.die < 4 then at_ + 2 * s.hops r.die r.tile 4 + 28 else if r.die = 4 then at_ else at_ + 28

/-- R203: of two records, the one that reaches the hub first is kept; of one fc, the one of the lower package, die and tile. -/
def recordBefore (at_ : Nat) (r : AbortRecord) (at' : Nat) (r' : AbortRecord) : Bool :=
  decide (at_ < at') || (at_ == at' && (decide (r.pkg < r'.pkg) || (r.pkg == r'.pkg &&
    (decide (r.die < r'.die) || (r.die == r'.die && decide (r.tile < r'.tile))))))

/-- A task of this package aborts by a cause of fc `at_`: the first record is kept, a further cause is counted, and a step
task aborts its step (R201 to R203, R205, R266). -/
def State.taskAborts (n at_ : Nat) (r : AbortRecord) (tell : Bool) (s : State) : State :=
  let t := s.task n
  if t.phase = .aborting ∨ t.phase = .aborted then
    let s := if t.phase = .aborting ∧ tell ∧ recordBefore (s.hubArrival at_ r) r t.recordAt t.record then
        s.setTask n { t with record := r, recordAt := s.hubArrival at_ r } else s
    if tell then s.count 2 1 t.spec else s
  else if t.phase = .running then
    let s := s.setTask n { t with phase := .aborting, record := r, recordAt := s.hubArrival at_ r }
    let s := if tell then s.tellAbort n t else s
    if t.step && t.epoch == s.job.epoch then
      ({ s with job := { s.job with st := { s.job.st with lastTask := n } } }).stepAbort 1
    else if t.step then s.specCause 1
    else s
  else s

/-- Codes of a memory fault (Table 5.5). -/
def memoryFault (code : Nat) : Bool := decide (1 ≤ code) && decide (code ≤ 6) || code == 0x14

/-- An abort cause in any part of a task on this package, in fc `at_`. -/
def State.taskCauseAt (n at_ : Nat) (r : AbortRecord) (s : State) : State :=
  s.taskAborts n at_ { r with pkg := if r.cause = 0x0B ∧ memoryFault r.code then r.pkg else s.fab.coord } true

/-- An abort cause now. -/
def State.taskCause (n : Nat) (r : AbortRecord) (s : State) : State := s.taskCauseAt n s.fc r

/-! ### Clay (R139, R140, R470) -/

def frameBytes : Nat := 2 ^ 21

/-- Stack and channel of a physical address (R140). -/
def stackOf (pa : Nat) : Nat := bitsOf pa 15 12 ^^^ bitsOf pa 19 16 ^^^ bitsOf pa 23 20

def stackLocal (pa : Nat) : Nat := (pa >>> 16) <<< 12 + pa % 4096

/-- The address within its channel (R140). -/
def channelLocal (pa : Nat) : Nat := (stackLocal pa >>> 17) <<< 12 + stackLocal pa % 4096

def channelOf (pa : Nat) : Nat := bitsOf (stackLocal pa) 16 12 ^^^ bitsOf (stackLocal pa) 21 17

/-- The physical address at an address of a channel of a stack (R140). -/
def paOf (stack channel cl : Nat) : Nat :=
  let row := cl / 4096
  let sla := (row <<< 17) + ((channel ^^^ row % 32) <<< 12) + cl % 4096
  let high := sla / 4096
  (high <<< 16) + ((stack ^^^ high % 16 ^^^ high / 16 % 16) <<< 12) + sla % 4096

/-- Whether a range of clay holds a poisoned word. -/
def MemState.poisoned (m : MemState) (pa n : Nat) : Bool := m.poison.any fun w => pa / 8 ≤ w ∧ w ≤ (pa + n - 1) / 8

/-- The address of the first poisoned word of a range, or the range's start where the word began before it. -/
def MemState.poisonAt (m : MemState) (pa n : Nat) : Nat :=
  max pa (minOf ((m.poison.filter fun w => pa / 8 ≤ w ∧ w ≤ (pa + n - 1) / 8).map (8 * ·)))

/-- The page of the page map that holds a frame. -/
def MemState.pageOfFrame (m : MemState) (f : Nat) : Option (Nat × Page) :=
  m.pages.find? fun e => e.2.valid && e.2.loc != .moved && (e.2.frame0 == f || (e.2.banked && e.2.frame1 == f))

/-- Clay bytes written; a write of all 64 bits of a word clears its poison. -/
def MemState.write (m : MemState) (pa : Nat) (bs : List Byte) : MemState :=
  { m with clay := memWrite m.clay pa bs, poison := m.poison.filter fun w => !(pa ≤ 8 * w && 8 * w + 8 ≤ pa + bs.length) }

def MemState.read (m : MemState) (pa n : Nat) : List Byte := memRead m.clay pa n

/-- A frame written to zero with good check bits (R570). -/
def MemState.clearFrame (f : Nat) (m : MemState) : MemState :=
  { m with
    clay := mapClearRange (f * frameBytes) frameBytes m.clay
    poison := m.poison.filter fun w => !(f * frameBytes ≤ 8 * w && 8 * w < (f + 1) * frameBytes) }

/-! ### Pages (R141 to R153) -/

def MemState.page (m : MemState) (n : Nat) : Page := mapGet {} m.pages n

def MemState.setPage (m : MemState) (n : Nat) (p : Page) : MemState := { m with pages := mapSet {} m.pages n p }

def pageOf (la : Nat) : Nat := la % 2 ^ 48 / frameBytes

/-- F[e mod 2] of a banked page, or the frame of an unbanked one (R141). -/
def Page.frameOf (p : Page) (e : Nat) : Nat := if p.banked && e % 2 == 1 then p.frame1 else p.frame0

/-- Where an access ends: a memory fault of Table 5.5, a frame here, or a page of another package. -/
inductive Reach where
  | fault (code : Nat)
  | frame (f : Nat)
  | away (peer page : Nat)
  deriving DecidableEq, Repr

/-- The lender of a page REMOTE or MOVED does not answer (R165). -/
def MemState.noAnswer (m : MemState) (p : Page) : Bool :=
  (p.loc == .remote || p.loc == .moved) && (m.silent.contains p.peer || m.lostLenders.contains p.peer)

/-- A page REMOTE or MOVED, on a lender that answers (R165). -/
def MemState.reachAway (m : MemState) (p : Page) : Reach := if m.noAnswer p then .fault 5 else .away p.peer p.lpage

/-- A read by work of epoch `e`; E is the job's epoch (R142, R151). -/
def MemState.reachRead (m : MemState) (E e page : Nat) : Reach :=
  let p := m.page page
  if !p.valid then .fault 1
  else if p.state = .lost then .fault 6
  else if p.banked && e != E && p.state == .open_ then .fault 3
  else
    match p.loc with
    | .home | .lent => .frame (p.frameOf e)
    | .remote => if p.copies then .frame (p.frameOf e) else m.reachAway p
    | .moved => m.reachAway p

/-- A write by work of epoch `e`; E is the job's epoch, whose current frames are sealed (R142, R143, R146);
a page LENT follows its owner's epoch. -/
def MemState.reachWrite (m : MemState) (E e page : Nat) : Reach :=
  let p := m.page page
  if !p.valid then .fault 1
  else if p.state = .lost then .fault 6
  else if m.noAnswer p then .fault 5
  else if p.state ≠ .open_ || (p.banked && e != E && p.loc != .lent) then .fault 2
  else
    match p.loc with
    | .home | .lent => .frame (p.frameOf (e + 1))
    | _ => m.reachAway p

def recordBytes : Nat := 4160

/-- The inlets of the image by their numbers: those of the gradient buffers, then those of the sparse tables (R579). -/
def State.inletBases (s : State) : List Nat :=
  (s.image Image.buckets).map BucketDecl.inlet ++ (s.image Image.sparse).map SparseDecl.inlet

/-- Some inlet is touched by `n` bytes at `la`. -/
def State.meetsInlet (s : State) (la n : Nat) : Bool :=
  s.inletBases.any fun b => decide (b < la + n) && decide (la < b + recordBytes)

/-- A range of the local range cut at page ends: page, offset in it, length. -/
def pageChunks : Nat → Nat → Nat → List (Nat × Nat × Nat)
  | 0, _, _ => []
  | fuel + 1, la, len =>
    if len = 0 then []
    else
      let off := la % frameBytes
      let n := min len (frameBytes - off)
      (pageOf la, off, n) :: pageChunks fuel ((la + n) % 2 ^ 48) (len - n)

def chunksOf (la len : Nat) : List (Nat × Nat × Nat) := pageChunks (len / frameBytes + 2) la len

/-! ### Stream contexts (R183, R576) -/

def State.ctx (s : State) (n : Nat) : Ctx := mapGet {} s.rs.ctxs n

def State.setCtx (s : State) (n : Nat) (c : Ctx) : State := { s with rs := { s.rs with ctxs := mapSet {} s.rs.ctxs n c } }

/-- An activity under a context issues: READY becomes ACTIVE, MOVED is cleared and the LIMIT count starts.  Data that came
for an earlier stream of the context are gone.  `now` is the fc of the unit that runs the stream (R185, R576). -/
def State.ctxStart (n now : Nat) (s : State) : State :=
  let c := s.ctx n
  match c.state with
  | .ready =>
    ({ s with
      mem := { s.mem with retiring := s.mem.retiring.filter fun r => r.2.2 != n }
      fab := { s.fab with
        replies := s.fab.replies.filter fun r => r.1 != n
        retries := s.fab.retries.filter fun r => r.1 / 16 != n } }).setCtx n
      { c with
        state := .active, moved := 0, activity := 1, since := now, spec := (s.task c.task).spec }
  | .active => s.setCtx n { c with activity := c.activity + 1 }
  | _ => s

/-- `units` 64-byte units have moved, and an activity has completed when `done` holds. -/
def State.ctxMoved (n units : Nat) (done : Bool) (s : State) : State :=
  let c := s.ctx n
  match c.state with
  | .active =>
    let a := if done then c.activity - 1 else c.activity
    s.setCtx n { c with moved := (c.moved + units) % 2 ^ 32, activity := a,
                        state := if a = 0 then .ready else .active }
  | _ => s

/-! ### Handles (R121, R129, R182, R194) -/

/-- Handles of ring `r`, oldest first. -/
def State.handles (s : State) (r : Nat) : List HandleIn := mapGet [] s.rs.handles r

/-- R194: a handle takes its place behind those that entered before it, or in the same fc from a unit of no higher number. -/
def insertHandle (e : HandleIn) : List HandleIn → List HandleIn
  | [] => [e]
  | h :: l =>
    if h.at_ < e.at_ || (h.at_ == e.at_ && h.poster ≤ e.poster) then h :: insertHandle e l else e :: h :: l

/-- The number of the hub as a poster of handles: die index 4 (R194). -/
def hubPoster : Nat := 4 * 512

/-- A handle enters ring `r` at fc `at_`, posted by unit `poster`; false when the ring is full or no handle ring. -/
def State.postHandle (r : Nat) (h : Word) (at_ poster : Nat) (s : State) : State × Bool :=
  let d := s.ring r
  if d.kind ≠ .handle then (s, false)
  else if d.full then (s, false)
  else
    let s := s.setRing r { d with tail := (d.tail + 1) % 2 ^ 17, posted := (d.posted + 1) % 2 ^ 64 }
    ({ s with rs := { s.rs with handles := mapSet [] s.rs.handles r (insertHandle ⟨h, at_, poster⟩ (s.handles r)) } }, true)

/-- The oldest handle leaves ring `r`. -/
def State.takeHandle (r : Nat) (s : State) : State :=
  let d := s.ring r
  let s := s.setRing r { d with head := (d.head + 1) % 2 ^ 17 }
  { s with rs := { s.rs with handles := mapSet [] s.rs.handles r (s.handles r).tail } }

/-- Bit [31] of a handle set to the speculative tag (R121). -/
def tagHandle (spec : Bool) (h : Word) : Word := (h &&& 0x7FFFFFFF) ||| (if spec then 0x80000000 else 0)

/-! ### Grit (R77 to R80) -/

def gritStep (s : BitVec 64) : BitVec 64 :=
  let s := s ^^^ (s <<< 13)
  let s := s ^^^ (s >>> 7)
  s ^^^ (s <<< 17)

def gritIter : Nat → BitVec 64 → BitVec 64
  | 0, s => s
  | n + 1, s => gritIter n (gritStep s)

/-- A generator's state at power-up: the entropy source's value, never zero (R79). -/
def gritInit (gen unit lane : Nat) : BitVec 64 :=
  let s := Config.gritSeed gen unit lane
  if s = 0 then 1 else s

/-- The 16-bit output after `steps` fc of the unit's clock (R78). -/
def gritDraw (gen unit lane steps : Nat) : Nat :=
  ((gritIter steps (gritInit gen unit lane)) * 0x2545F4914F6CDD1D#64).toNat >>> 48

/-- R11: the place, 0 to 19, of a tile in service among the physical tiles of its group, as fused and as backfill has changed
it.  99 stands for no entry. -/
def State.placeIn (s : State) (id : TileId) : Nat :=
  let now := mapGet 99 s.units.inService id.key
  let fused := mapGet 99 s.trust.fuses.inService id.key
  if now ≠ 99 then now else if fused ≠ 99 then fused else id.tile.val % 18

/-- The places of a tile's group that the fused map leaves spare. -/
def State.spareIn (s : State) (id : TileId) : List Nat :=
  let fused := (List.range 18).map fun i =>
    let key := id.die.val * 512 + (id.tile.val / 18 * 18 + i)
    let p := mapGet 99 s.trust.fuses.inService key
    if p ≠ 99 then p else i
  (List.range 20).filter fun k => !fused.contains k

/-- Number of a unit in `UnitState` maps. -/
def UnitId.key (u : UnitId) : Nat := u.kind * 65536 + u.die * 256 + u.num

/-- fc that a unit's fast clock has run up to fc `at_`. -/
def State.clockRun (s : State) (unitKey at_ : Nat) : Nat := at_ - mapGet 0 s.units.stopped unitKey

end Sys2Proof.Machine
end

