-- ==== Sys2Proof/Machine/Commands.lean ====
section
/-! DEFINITION. Command packets and status replies (chapter 12): how a command is read at the HEAD of its ring, checked,
answered and finished, and what fences and cancels wait for. -/

namespace Sys2Proof.Machine

/-! ### The packet (R370, R382) -/

/-- A command at the front of its ring, with its extension packets before any trailer, and its trailer packets. -/
structure Cmd where
  ask : Ask
  object : Nat
  packet : List Byte
  ext : List Byte
  trailer : List Byte
  deriving DecidableEq, Repr

/-- Bytes `a` to `a + n - 1` of the packet as a number. -/
def Cmd.p (c : Cmd) (a n : Nat) : Nat := leNat ((c.packet.drop a).take n)

/-- Bytes `a` to `a + n - 1` of the extension packets as a number. -/
def Cmd.x (c : Cmd) (a n : Nat) : Nat := leNat ((c.ext.drop a).take n)

/-- The host buffer a command names: address and length. -/
def Cmd.bufAddr (c : Cmd) : Nat := c.p 48 8
def Cmd.bufLen (c : Cmd) : Nat := c.p 56 4

/-- The bytes of PARAM outside `used` are zero, and so is OBJECT where the row names none (R386). -/
def Cmd.clean (c : Cmd) (used : List (Nat × Nat)) (object : Bool) : Bool :=
  (object || c.object == 0) &&
  (List.range 48).all fun i => c.packet.getD (16 + i) 0 == 0 || used.any fun u => u.1 ≤ 16 + i && 16 + i < u.1 + u.2

/-- One entry of a command ring. -/
def State.entryBytes (s : State) (r i : Nat) : List Byte := memRead s.rs.storage ((s.ring r).entryAt i) 64

/-- The command at HEAD, once all its packets are posted, or once its NEXT exceeds the ring (R373). -/
def State.front (s : State) (r : Nat) : Option Cmd :=
  let d := s.ring r
  if d.kind ≠ .command ∨ d.used = 0 then none
  else
    let pk := s.entryBytes r d.head
    let f (a n : Nat) : Nat := leNat ((pk.drop a).take n)
    let next := f 2 2
    let big := d.depth - 1 < next
    if !big && d.used < 1 + next then none
    else
      let ext := if big then [] else ((List.range next).map fun i => s.entryBytes r (d.head + 1 + i)).flatten
      let sig := f 1 1 % 2 == 1
      let cut := if sig then ext.length - 73 * 64 else ext.length
      some { ask := { ring := r, seq := f 4 4, opcode := f 0 1, flags := f 1 1, next := next, role := 0, keyId := 0,
                      time := 0, after := (d.head + 1 + next) % 2 ^ 17 },
             object := f 8 8, packet := pk, ext := ext.take cut, trailer := ext.drop cut }

/-! ### Roles (Tables 12.6 to 12.13, R381 to R384) -/

/-- Who may give a command; `enrol` is the role that enrols the key named. -/
inductive Need where
  | anyone | operator | installer | either | maker | enrol
  deriving DecidableEq, Repr

/-- The role of each opcode; none for a reserved one. -/
def opcodeNeed (op : Nat) : Option Need :=
  if op = 0x00 ∨ op = 0x01 ∨ op = 0x05 ∨ op = 0x25 ∨ op = 0x27 ∨ op = 0x45 ∨ op = 0x62 ∨ op = 0xA3 ∨ op = 0xC3 ∨
      (0xE4 ≤ op ∧ op ≤ 0xE7) then some .anyone
  else if op = 0x02 ∨ op = 0x06 ∨ op = 0x07 ∨ (0x20 ≤ op ∧ op ≤ 0x24) ∨ (0x40 ≤ op ∧ op ≤ 0x4B) ∨ op = 0x60 ∨
      op = 0x80 ∨ op = 0x81 ∨ op = 0xA4 ∨ op = 0xA5 ∨ (0xE0 ≤ op ∧ op ≤ 0xE3) then some .operator
  else if op = 0x26 ∨ op = 0x61 ∨ op = 0x63 ∨ (0xA0 ≤ op ∧ op ≤ 0xA2) ∨ op = 0xC2 ∨ op = 0xC5 then some .installer
  else if op = 0x03 ∨ op = 0x04 ∨ op = 0xC4 then some .either
  else if op = 0xC6 then some .maker
  else if op = 0xC0 ∨ op = 0xC1 then some .enrol
  else none

/-- The roles that satisfy a need; for KEY_ENROL and KEY_REVOKE by the role byte of the packet (Table 16.1). -/
def Need.roles (n : Need) (named : Nat) : List Nat :=
  match n with
  | .anyone => []
  | .operator => [1]
  | .installer => [2]
  | .either => [1, 2]
  | .maker => [3]
  | .enrol => if named = 1 then [2] else if named = 2 then [3] else [2, 3]

/-- The public key enrolled under a KEYID for a role (R504, R508). -/
def TrustState.keyOf (t : TrustState) (role keyId : Nat) : Option (List Byte) :=
  if role = 3 then (t.fuses.makerKeys.find? fun k => k.1.keyId == keyId && k.2).map fun k => k.1.pub
  else (t.keys.find? fun k => k.role == role && k.keyId == keyId).map Key.pub

/-- R382, R383: role, key, timestamp and nonce of a trailer that verifies, and whether its reserved bytes are zero. -/
def State.verify (s : State) (c : Cmd) : Option (Nat × Nat × Nat × Nat × Bool) :=
  let t := c.trailer
  let f (a n : Nat) : Nat := leNat ((t.drop a).take n)
  if t.length ≠ 73 * 64 ∨ f 1 1 ≠ 1 ∨ f 2 2 ≠ 4627 then none
  else
    let role := f 0 1
    let key := f 4 8
    let nonce := f 20 8
    match s.trust.keyOf role key with
    | none => none
    | some pub =>
      let msg := sha3 (s.idDigest ++ c.packet ++ c.ext ++ t.take 32)
      let sig := (t.drop 32).take 4627
      if Config.mldsaVerify pub msg sig && decide (mapGet 0 s.trust.nonces key ≤ nonce) then
        some (role, key, f 12 8, nonce, f 28 4 == 0 && (t.drop (32 + 4627)).all (· == 0))
      else none

/-- The key that claims a ring, while it is enrolled (R381, R507). -/
def State.claimOf (s : State) (r : Nat) : Option (Nat × Nat) :=
  (s.aux r).claim.filter fun k => (s.trust.keyOf k.1 k.2).isSome

def State.unseated (s : State) : Bool := leNat (s.trust.seat.take 8) == 0

/-- R384: what an unseated package accepts of the commands that need a role. -/
def seatFree (op : Nat) : Bool := op == 0xC0 || op == 0xC1 || op == 0xC2 || op == 0xC4 || op == 0xC6

/-- R385: SEQUENCE, OPCODE, EXTENSION, SIGNATURE, RIGHTS and UNSEATED, then the reserved flags: the refusal code and
RESULT0, or the command with the key it acts under.  A nonce whose signature verifies is taken (R506). -/
def State.accept (s : State) (c : Cmd) : State × ((Nat × Nat) ⊕ Ask) :=
  let a := c.ask
  if a.seq ≠ (s.aux a.ring).nextSeq then (s, .inl (1, (s.aux a.ring).nextSeq))
  else
    match opcodeNeed a.opcode with
    | none => (s, .inl (2, 0))
    | some need =>
      if (s.ring a.ring).depth - 1 < a.next then (s, .inl (3, 0))
      else
        let roles := need.roles (c.p 16 1)
        let finish (s : State) (role key time : Nat) (fine : Bool) : State × ((Nat × Nat) ⊕ Ask) :=
          if !roles.isEmpty && !roles.contains role then (s, .inl (5, 0))
          else if s.unseated && !roles.isEmpty && !seatFree a.opcode then (s, .inl (6, 0))
          else if 8 ≤ a.flags || !fine then (s, .inl (7, 0))
          else (s, .inr { a with role := role, keyId := key, time := time })
        if a.flags % 2 = 1 then
          match s.verify c with
          | none => (s, .inl (4, 0))
          | some (role, key, time, nonce, fine) =>
            finish { s with trust := { s.trust with nonces := mapSet 0 s.trust.nonces key (nonce + 1) } } role key time fine
        else if roles.isEmpty then finish s 0 0 0 true
        else
          match s.claimOf a.ring with
          | none => (s, .inl (4, 0))
          | some k => finish s k.1 k.2 0 true

/-! ### Replies (R375 to R379, R571) -/

def Ask.irq (a : Ask) : Bool := bitOf a.flags 1
def Ask.prog (a : Ask) : Bool := bitOf a.flags 2

/-- The bytes of a reply for a command: DEFERRED and SLICED replies are not final. -/
def State.replyFor (s : State) (a : Ask) (cls code : Nat) (results : List Word) : List Byte :=
  let x := s.aux a.ring
  let slices := if x.current == some a then max 1 x.slices else 1
  replyBytes a.seq cls code a.opcode false (cls != 1 && cls != 2) a.irq slices a.ring results

/-- A reply that is no answer: SLICED, or the final reply after a DEFERRED answer. -/
def State.reply (a : Ask) (cls code : Nat) (results : List Word) (s : State) : State :=
  s.postReply (s.ring a.ring).pair ⟨s.replyFor a cls code results, none⟩

/-- The answer of a command: its first reply that is not SLICED.  HEAD passes the command and its packets when it is posted,
and every answer but SEQUENCE advances the count (R372, R373, R377, R571). -/
def State.answerOnly (a : Ask) (cls code : Nat) (results : List Word) (s : State) : State :=
  let bytes := s.replyFor a cls code results
  let d := s.ring a.ring
  let x := s.aux a.ring
  let beyond := 1 + a.next - d.used
  let p : Passing := {
    ring := a.ring, head := if beyond = 0 then a.after else d.tail
    nextSeq := if cls = 4 ∧ code = 1 then x.nextSeq else (x.nextSeq + 1) % 2 ^ 32, skip := beyond }
  let s := s.setAux a.ring { x with current := none, work := none, fence := none, slices := 0 }
  let s := s.postReply d.pair ⟨bytes, some p⟩
  let s := if cls = 1 then { s with rs := { s.rs with unfinal := s.rs.unfinal ++ [(a.ring, a.seq, a.after)] } } else s
  s.countSource 2 4 0 0x0306 a.opcode 1 false

/-- CANCELs whose target has its final reply are answered DONE (R390). -/
def State.freeCancel (ring seq : Nat) (s : State) : State :=
  let x := s.aux ring
  let met := x.cancel.filter fun k => k.1 == seq
  if met.isEmpty then s
  else met.foldl (fun s k => s.answerOnly k.2 0 0 [])
    (s.setAux ring { x with cancel := x.cancel.filter fun k => k.1 != seq })

/-- Whether a command of another ring counts as answered, or final, for a fence (R394). -/
def State.seqMet (s : State) (final : Bool) (r q : Nat) : Bool :=
  let n := (s.aux r).nextSeq
  decide ((n + 2 ^ 32 - 1 - q) % 2 ^ 32 < 2 ^ 31) && (!final || !(s.rs.unfinal.any fun u => u.1 == r && u.2.1 == q))

/-- Whether every command of ring `r` before TAIL `t` is answered, or final. -/
def State.tailMet (s : State) (final : Bool) (r t : Nat) : Bool :=
  let d := s.ring r
  let ahead := (t + 2 ^ 17 - d.head) % 2 ^ 17
  (d.kind != .command || ahead == 0 || decide (65536 < ahead)) &&
    (!final || !(s.rs.unfinal.any fun u => u.1 == r && decide ((t + 2 ^ 17 - u.2.2) % 2 ^ 17 ≤ 65536)))

/-- The rings a fence still waits on, lowest-named first. -/
def State.fenceUnmet (s : State) (f : Fence) : List Nat :=
  if f.all then (f.others.filter fun o => !s.tailMet f.final o.1 o.2).map Prod.fst
  else (f.named.filter fun n => !s.seqMet f.final n.1 n.2).map Prod.fst

/-- A fence whose condition holds now, by ring. -/
def State.fenceMet (s : State) : Option Ask :=
  (s.rs.aux.find? fun e => e.2.fence.any fun f => (s.fenceUnmet f).isEmpty).bind fun e => e.2.current

/-- R379: no command of a ring starts while its completion ring is full or holds replies; R378: nor before the previous
one is answered. -/
def State.startable (s : State) (r : Nat) : Bool :=
  let d := s.ring r
  s.host.ready && !s.host.fatal && d.kind == .command && (s.aux r).current.isNone && (s.aux d.pair).held.isEmpty

/-- A front packet with a reserved opcode, which no row of the table carries out: it is refused as it is found. -/
def State.reservedFront (s : State) : Option Cmd :=
  (s.rs.rings.filter fun e => e.2.kind == .command && s.startable e.1).findSome? fun e =>
    (s.front e.1).filter fun c => (opcodeNeed c.ask.opcode).isNone

/-- Fences that are met are answered, and reserved opcodes refused, until neither is left. -/
def State.settle : Nat → State → State
  | 0, s => s
  | n + 1, s =>
    match s.fenceMet with
    | some a => State.settle n (s.answerOnly a 0 0 [])
    | none =>
      match s.reservedFront with
      | some c =>
        match s.accept c with
        | (s', .inl (code, r0)) => State.settle n (s'.answerOnly c.ask 4 code [BitVec.ofNat 32 r0])
        | (_, .inr _) => s
      | none => s

/-- The most answers that one event can bring about: the entries of all command rings. -/
def State.waiting (s : State) : Nat :=
  1 + (s.rs.rings.map fun e => if e.2.kind = .command then e.2.used else 0).foldl (· + ·) 0

def State.settled (s : State) : State := s.settle s.waiting

/-- The answer of a command, with what it frees. -/
def State.answer (a : Ask) (cls code : Nat) (results : List Word) (s : State) : State :=
  let s := s.answerOnly a cls code results
  (if cls = 1 then s else s.freeCancel a.ring a.seq).settled

def State.done (a : Ask) (results : List Word) (s : State) : State := s.answer a 0 0 results

/-- The refusal codes of Table 12.4. -/
def refParameter : Nat := 7
def refAbsent : Nat := 8
def refState : Nat := 9
def refResource : Nat := 10
def refImage : Nat := 11
def refCycle : Nat := 12

def State.refuse (a : Ask) (code : Nat) (s : State) : State := s.answer a 4 code [0]

/-- The final reply of a command that was answered DEFERRED, while a reset has not freed its ring since (R423). -/
def State.final (a : Ask) (cls code : Nat) (results : List Word) (s : State) : State :=
  let s := if s.rs.unfinal.any fun u => u.1 == a.ring && u.2.1 == a.seq then s.reply a cls code results else s
  let s := { s with rs := { s.rs with unfinal := s.rs.unfinal.filter fun u => !(u.1 == a.ring && u.2.1 == a.seq) } }
  (s.freeCancel a.ring a.seq).settled

/-- A change deferred to a point of Table 12.14 (R391). -/
def State.defer_ (c : Cmd) (kind value : Nat) (s : State) : State :=
  let d : Deferred := { kind := kind, value := value, ask := c.ask, bytes := c.packet ++ c.ext }
  let s := { s with job := { s.job with deferred := s.job.deferred ++ [d] } }
  s.answer c.ask 1 0 (BitVec.ofNat 32 kind :: wordsOf 2 value)

/-! ### Management cores (R389, R485) -/

/-- Core `c` serves ring `r`: it is in the ring's core set, or none of that set is left. -/
def State.coreServes (s : State) (c r : Nat) : Bool :=
  let set := (s.aux r).coreSet
  let inSet (k : Nat) : Bool := (set == 0 || bitOf set k) && !s.units.coresDown.contains k
  !s.units.coresDown.contains c && (inSet c || !(List.range 8).any inSet)

/-- Ring `r` has ready work: a command whose packets are posted, or the next slice of a long command. -/
def State.readyWork (s : State) (r : Nat) : Bool :=
  (s.startable r && (s.front r).isSome) ||
    ((s.aux r).work.isSome && (s.aux (s.ring r).pair).held.isEmpty && !(s.ring (s.ring r).pair).full)

/-- The ready work that core `c` takes before that of ring `r`: rings it has served less recently, and lower ones. -/
def State.servedBefore (s : State) (c r : Nat) : List Nat :=
  let last (n : Nat) : Nat := mapGet 0 s.rs.served (c * 2 ^ 18 + n)
  (s.rs.rings.map Prod.fst).filter fun n =>
    s.coreServes c n && s.readyWork n && (decide (last n < last r) || (last n == last r && decide (n < r)))

/-- The core that takes the work of ring `r`: what it would take first is with other cores (notes/assumptions/98). -/
def State.coreFor (s : State) (r : Nat) : Option Nat :=
  (List.range 8).find? fun c =>
    let p := s.servedBefore c r
    s.coreServes c r &&
      decide (p.length ≤ ((List.range 8).filter fun k => k != c && p.any fun n => s.coreServes k n).length)

/-- A core takes an item of ring `r`. -/
def State.served (r c : Nat) (s : State) : State :=
  let n := s.rs.serial + 1
  { s with rs := { s.rs with serial := n, served := mapSet 0 s.rs.served (c * 2 ^ 18 + r) n } }

/-- A command row: it is carried out when it stands at the HEAD of its ring with opcode `op`, may start and is a core's next item; `act` has
what the checks of R385 up to the reserved flags leave.  A command that a CANCEL awaits is cancelled as it starts. -/
def State.command (op ring : Nat) (act : Cmd → State → State) (s : State) : State :=
  match s.front ring with
  | none => s
  | some c =>
    match s.coreFor ring with
    | none => s
    | some core =>
      if c.ask.opcode ≠ op || !s.startable ring then s
      else
        match (s.served ring core).accept c with
        | (s, .inl (code, r0)) => s.answer c.ask 4 code [BitVec.ofNat 32 r0]
        | (s, .inr a) =>
          if (s.aux ring).cancel.any fun k => k.1 == a.seq then s.answer a 3 0x40 [0, 0, 0, 0]
          else act { c with ask := a } s

/-- PARAMETER is the first check of the rows: `good` holds, and only the named bytes are used. -/
def paramOr (c : Cmd) (used : List (Nat × Nat)) (object good : Bool) (act : State → State) (s : State) : State :=
  if c.clean used object && good then act s else s.refuse c.ask refParameter

/-! ### Audit and host buffers -/

/-- An entry for a change a command makes, under the key it acts with (R519, R520). -/
def State.auditFor (a : Ask) (kind object : Nat) (old new : List Byte) (s : State) : State :=
  s.appendAudit { s.entry kind a.role a.keyId 0 object old new with hostTime := if a.flags % 2 = 1 then a.time else s.host.hostTime }

def State.hostWrite (addr : Nat) (bs : List Byte) (s : State) : State :=
  { s with host := { s.host with memory := memWrite s.host.memory addr bs } }

def State.hostRead (s : State) (addr n : Nat) : List Byte := memRead s.host.memory addr n

/-- A record written to the command's buffer, and DONE; PARAMETER when it exceeds the buffer (R374). -/
def State.answerRecord (c : Cmd) (bs : List Byte) (results : List Word) (s : State) : State :=
  if c.bufLen < bs.length then s.refuse c.ask refParameter
  else (s.hostWrite c.bufAddr bs).done c.ask results

def bufBytes : Nat × Nat := (48, 12)

/-- Fields laid from bit 0 up, each a value and its width. -/
def packBits : List (Nat × Nat) → Nat
  | [] => 0
  | (v, w) :: fs => v % 2 ^ w + 2 ^ w * packBits fs

end Sys2Proof.Machine
end

