-- ==== Sys2Proof/Machine/Rounding.lean ====
section
/-! DEFINITION. Rounding of chapter 02: the seven modes of Table 2.7, R24, R41 to R50, into floating formats and into
integers.  An exact magnitude is `m * 2^e`, or lies strictly between `m * 2^e` and `(m + 1) * 2^e` when `st` is set;
such an `m` is made with far more bits than any target keeps. -/

namespace Sys2Proof.Machine

/-- Table 2.7, and `away`, which the spec does not name: a value that lies within one unit in the last place is allowed
to be taken up (R73). -/
inductive Rm where
  | rne | rna | rtz | rup | rdn | rto | sr | away
  deriving DecidableEq, Repr

/-- R42 and R43: 0b111 rounds as RNE. -/
def Rm.ofCode : Nat → Rm
  | 0 => .rne | 1 => .rna | 2 => .rtz | 3 => .rup | 4 => .rdn | 5 => .rto | 6 => .sr | _ => .rne

/-- R43: the field 0b111 raises NV. -/
def rmFlags (code : Nat) : FlagByte := flagIf (code % 8 == 7) flagNV

structure Mag where
  m : Nat
  e : Int
  st : Bool
  deriving DecidableEq, Repr

def Mag.isZero (x : Mag) : Bool := x.m == 0 && !x.st

/-- The exact quotient num * 2^e / den, with 240 bits. -/
def quotMag (num den : Nat) (e : Int) : Mag :=
  let s := (240 + Nat.log2 den) - Nat.log2 num
  let n := num <<< s
  { m := n / den, e := e - s, st := n % den != 0 }

/-- Integer square root by bits, from bit `b` downwards. -/
def isqrtBits (n : Nat) : Nat → Nat → Nat
  | 0, r => r
  | b + 1, r => if (r + 2 ^ b) * (r + 2 ^ b) ≤ n then isqrtBits n b (r + 2 ^ b) else isqrtBits n b r

def isqrt (n : Nat) : Nat := isqrtBits n (Nat.log2 n / 2 + 1) 0

/-- The whole part of `x` in units of 2^k, the discarded part, and the number of discarded places. -/
def Mag.split (x : Mag) (k : Int) : Nat × Nat × Nat :=
  if k ≤ x.e then (x.m <<< (x.e - k).toNat, 0, 0)
  else (x.m >>> (k - x.e).toNat, x.m % 2 ^ (k - x.e).toNat, (k - x.e).toNat)

/-- Whether the truncated magnitude `q` is raised by one unit: Table 2.7, R44, R46. -/
def roundsUp (rm : Rm) (neg : Bool) (g q low w : Nat) (st : Bool) : Bool :=
  let inexact := low != 0 || st
  match rm with
  | .rne => decide (2 ^ w < 2 * low) || (2 * low == 2 ^ w && w != 0 && (st || q % 2 == 1))
  | .rna => w != 0 && decide (2 ^ w ≤ 2 * low)
  | .rtz => false
  | .rup => inexact && !neg
  | .rdn => inexact && neg
  | .rto => inexact && q % 2 == 0
  | .sr => decide (g < low * 65536 / 2 ^ w)
  | .away => inexact

/-- Rounded once in units of 2^k: the multiple and whether anything was discarded. -/
def roundAt (rm : Rm) (neg : Bool) (g : Nat) (x : Mag) (k : Int) : Nat × Bool :=
  let p := x.split k
  (p.1 + b2n (roundsUp rm neg g p.1 p.2.1 p.2.2 x.st), p.2.1 != 0 || x.st)

/-- What a magnitude above the largest finite one becomes: R49 step 4. -/
def overflowCode (f : Fmt) (rm : Rm) (neg : Bool) : Nat :=
  if f.isIeee then
    match rm with
    | .rtz | .rto => b2n neg <<< (f.bits - 1) + maxFiniteCode f
    | .rup => if neg then b2n neg <<< (f.bits - 1) + maxFiniteCode f else encodeInf f neg
    | .rdn => if neg then encodeInf f neg else b2n neg <<< (f.bits - 1) + maxFiniteCode f
    | _ => encodeInf f neg
  else b2n neg <<< (f.bits - 1) + maxFiniteCode f

/-- R49 steps 3 and 4 with the flags of R41 and tininess after rounding (R24), for a finite exact value with sign `neg`
and magnitude `x`, into a format of Table 2.1 with sign, exponent and fraction. -/
def roundBinary (f : Fmt) (rm : Rm) (neg : Bool) (g : Nat) (x : Mag) : Nat × FlagByte :=
  if x.isZero then (b2n neg <<< (f.bits - 1), 0)
  else
    let e0 : Int := (Nat.log2 x.m : Int) + x.e
    let emin : Int := 1 - f.bias
    let ku : Int := e0 - f.frac
    let k : Int := max ku (emin - f.frac)
    let r := roundAt rm neg g x k
    let u := roundAt rm neg g x ku
    let tiny := if u.1 = 2 ^ (f.frac + 1) then decide (e0 + 1 < emin) else decide (e0 < emin)
    let q := if r.1 = 2 ^ (f.frac + 1) then 2 ^ f.frac else r.1
    let k' := if r.1 = 2 ^ (f.frac + 1) then k + 1 else k
    let top : Int := if f = .f8 then 7 else f.bias
    let beyond := decide (2 ^ f.frac ≤ q) &&
      (decide (top < k' + f.frac) || (f == .f8 && k' + f.frac == 7 && decide (14 < q)))
    if beyond then
      (overflowCode f rm neg, (if f.isIeee then flagOF else flagBO) ||| flagNX)
    else
      (b2n neg <<< (f.bits - 1) + encodeMag f q k',
        flagIf r.2 flagNX ||| flagIf (r.2 && tiny) flagUF)

/-- A value rounded into a binary format, R26, R49 and R50. -/
def roundVal (f : Fmt) (rm : Rm) (g : Nat) : Val → Nat × FlagByte
  | .nan n s p => (encodeNan f n p, flagIf s flagNV)
  | .inf n => if f = .f8 then (b2n n <<< 7 + 0x7E, flagBO ||| flagNX) else (encodeInf f n, 0)
  | .fin n m e => roundBinary f rm n g ⟨m, e, false⟩

/-- An exact signed value rounded to an integer; under SR the floor is that of the signed value (R47, R115). -/
def roundInteger (rm : Rm) (neg : Bool) (g : Nat) (x : Mag) : Int × Bool :=
  let p := x.split 0
  let inexact := p.2.1 != 0 || x.st
  let q : Nat :=
    match rm with
    | .sr =>
      if neg then
        let n := (2 ^ p.2.2 - p.2.1) * 65536
        let d := (if x.st then n - 1 else n) / 2 ^ p.2.2
        if inexact then (if g < d then p.1 else p.1 + 1) else p.1
      else p.1 + b2n (decide (g < p.2.1 * 65536 / 2 ^ p.2.2))
    | _ => p.1 + b2n (roundsUp rm neg g p.1 p.2.1 p.2.2 x.st)
  (if neg then -(q : Int) else (q : Int), inexact)

/-- A conversion into an integer code, R115: limited with NV, exact or NX, never UF, OF, BO or DZ. -/
def roundToInt (f : Fmt) (rm : Rm) (g : Nat) : Val → Nat × FlagByte
  | .nan _ _ _ => (0, flagNV)
  | .inf n => (encodeInt f (if n then intLow f else intHigh f), flagNV)
  | .fin n m e =>
    let r := roundInteger rm n g ⟨m, e, false⟩
    if r.1 < intLow f then (encodeInt f (intLow f), flagNV)
    else if intHigh f < r.1 then (encodeInt f (intHigh f), flagNV)
    else (encodeInt f r.1, flagIf r.2 flagNX)

/-- A value into any code that needs no block exponent. -/
def roundElem (f : Fmt) (rm : Rm) (g : Nat) (v : Val) : Nat × FlagByte :=
  if f.isInt then roundToInt f rm g v else roundVal f rm g v

end Sys2Proof.Machine
end

