-- ==== Sys2Proof/Machine/Arith.lean ====
section
/-! DEFINITION. The arithmetic of single elements: exact sums, products and fused products, comparison, minimum and
maximum, the special functions of R73, and the integer, logic and shift operations of R71 and R72. -/

namespace Sys2Proof.Machine

/-- R26: the first NaN operand, made quiet. -/
def firstNan : List Val → Option Val
  | [] => none
  | v :: vs => if v.isNan then some v.quiet else firstNan vs

def anySNan (vs : List Val) : Bool := vs.any Val.isSNan

/-- A finite value as an integer multiple of 2^k, for a k at or below its exponent. -/
def Val.unitsAt (v : Val) (k : Int) : Int :=
  match v with
  | .fin n m e => (if n then -1 else 1) * ((m <<< (e - k).toNat : Nat) : Int)
  | _ => 0

/-- The least exponent among finite nonzero values. -/
def minExp : List Val → Int → Int
  | [], k => k
  | .fin _ m e :: vs, k => minExp vs (if m = 0 then k else min e k)
  | _ :: vs, k => minExp vs k

/-- The exact sum of finite values.  A zero sum is -0 when every term is negative, +0 when none is, and otherwise -0
only under RDN, as IEEE 754-2019 has it. -/
def exactSum (down : Bool) (vs : List Val) : Val :=
  let k := minExp vs 4096
  let i : Int := (vs.map fun v => v.unitsAt k).foldl (· + ·) 0
  if i = 0 then
    .fin (if vs.all Val.neg then true else if vs.all (fun v => !v.neg) then false else down) 0 0
  else .fin (decide (i < 0)) i.natAbs k

/-- Whether infinities of both signs stand among the terms. -/
def infsClash (terms : List Val) : Bool :=
  let inf (n : Bool) : Bool := terms.any fun v => v == .inf n
  inf true && inf false

/-- An exact sum with the special cases of R25, R26 and R572; `order` is the operand order in which R26 looks for the
first NaN, `bad` that some product of the sum is invalid.  A NaN among the operands hides no other invalid operation: it
gives the result, and NV is raised all the same. -/
def sumVals (down : Bool) (order terms : List Val) (bad : Bool) : Val × FlagByte :=
  let invalid := bad || infsClash terms
  match firstNan order with
  | some v => (v, flagIf (anySNan order || invalid) flagNV)
  | none =>
    if invalid then (.qnan, flagNV)
    else
      match terms.find? fun v => !v.isFinite with
      | some i => (i, 0)
      | none => (exactSum down terms, 0)

/-- Infinity by zero, in either order. -/
def mulInvalid (a b : Val) : Bool :=
  match a, b with
  | .inf _, .fin _ m _ => m == 0
  | .fin _ m _, .inf _ => m == 0
  | _, _ => false

/-- The exact product of two operands that are no NaN; zero stands in for an invalid one. -/
def exactMul (a b : Val) : Val :=
  match a, b with
  | .fin n m e, .fin n' m' e' => .fin (n != n') (m * m') (e + e')
  | .inf n, .fin n' _ _ => .inf (n != n')
  | .fin n _ _, .inf n' => .inf (n != n')
  | .inf n, .inf n' => .inf (n != n')
  | _, _ => .zero

def addVals (rm : Rm) (a b : Val) : Val × FlagByte :=
  sumVals (rm == .rdn) [a, b] [a, b] false

def subVals (rm : Rm) (a b : Val) : Val × FlagByte :=
  sumVals (rm == .rdn) [a, b] [a, b.negate] false

def mulVals (a b : Val) : Val × FlagByte :=
  match firstNan [a, b] with
  | some v => (v, flagIf (anySNan [a, b]) flagNV)
  | none => if mulInvalid a b then (.qnan, flagNV) else (exactMul a b, 0)

/-- A × B + C before its one rounding. -/
def fmaVals (rm : Rm) (a b c : Val) : Val × FlagByte :=
  if mulInvalid a b then
    match c with
    | .nan _ s _ => (c.quiet, flagIf (s || Config.fmaInvalidWithQuietNaN) flagNV)
    | _ => (.qnan, flagNV)
  else
    match firstNan [a, b, c] with
    | some v => (v, flagIf (anySNan [a, b, c]) flagNV)
    | none => sumVals (rm == .rdn) [] [exactMul a b, c] false

/-- Order of two values; `none` for a NaN. -/
def cmpVals (a b : Val) : Option Ordering :=
  match a, b with
  | .nan _ _ _, _ => none
  | _, .nan _ _ _ => none
  | .inf n, .inf n' => some (if n = n' then .eq else if n then .lt else .gt)
  | .inf n, _ => some (if n then .lt else .gt)
  | _, .inf n => some (if n then .gt else .lt)
  | a, b =>
    let k := minExp [a, b] 4096
    let x := a.unitsAt k
    let y := b.unitsAt k
    some (if x < y then .lt else if y < x then .gt else .eq)

/-- minimum and maximum of IEEE 754-2019: a NaN by R26, and -0 below +0. -/
def minVals (a b : Val) : Val × FlagByte :=
  match firstNan [a, b] with
  | some v => (v, flagIf (anySNan [a, b]) flagNV)
  | none =>
    match cmpVals a b with
    | some .lt => (a, 0)
    | some .gt => (b, 0)
    | _ => (if a.neg then a else b, 0)

def maxVals (a b : Val) : Val × FlagByte :=
  match firstNan [a, b] with
  | some v => (v, flagIf (anySNan [a, b]) flagNV)
  | none =>
    match cmpVals a b with
    | some .gt => (a, 0)
    | some .lt => (b, 0)
    | _ => (if a.neg then b else a, 0)

/-- The predicates of Table 4.6: result and flags. -/
def compareBy (pred : Nat) (a b : Val) : Bool × FlagByte :=
  let s := flagIf (anySNan [a, b]) flagNV
  let un := flagIf (a.isNan || b.isNan) flagNV
  match pred, cmpVals a b with
  | 0, o => (o == some .eq, s)
  | 1, o => (o != some .eq, s)
  | 2, o => (o == some .lt, un)
  | 3, o => (o == some .lt || o == some .eq, un)
  | 4, o => (o == some .gt, un)
  | 5, o => (o == some .gt || o == some .eq, un)
  | 6, o => (o == none, s)
  | _, o => (o == some .eq, flagNV)

/-! ### Special functions (R73) -/

def rcpMag (m : Nat) (e : Int) : Mag := quotMag 1 m (-e)

/-- The square root of m * 2^e. -/
def sqrtMag (m : Nat) (e : Int) : Mag :=
  let m' := if e % 2 = 0 then m else 2 * m
  let e' := if e % 2 = 0 then e else e - 1
  let n := m' <<< 480
  let r := isqrt n
  { m := r, e := e' / 2 - 240, st := r * r != n }

/-- The reciprocal square root of m * 2^e. -/
def rsqMag (m : Nat) (e : Int) : Mag :=
  let m' := if e % 2 = 0 then m else 2 * m
  let e' := if e % 2 = 0 then e else e - 1
  let t := 240 + Nat.log2 m'
  let r := isqrt (2 ^ (2 * t) / m')
  { m := r, e := -(e' / 2) - t, st := r * r * m' != 2 ^ (2 * t) }

/-- The product of 2^(2^-i) over the set bits i of the fraction `f` (of `n` bits, i counted from the top), in units of
2^-240; `r` is 2^(2^-(i-1)). -/
def exp2Bits (f : Nat) : Nat → Nat → Nat → Nat
  | 0, _, acc => acc
  | n + 1, r, acc =>
    let r' := isqrt (r <<< 240)
    exp2Bits f n r' (if f.testBit n then (acc * r') >>> 240 else acc)

/-- 2^x for x = ±m * 2^e. -/
def exp2Mag (neg : Bool) (m : Nat) (e : Int) : Mag :=
  if m = 0 then ⟨1, 0, false⟩
  else if 13 ≤ (Nat.log2 m : Int) + e then ⟨1, if neg then -20000 else 20000, true⟩
  else
    let u : Int := if 0 ≤ e + 200 then ((m <<< (e + 200).toNat : Nat) : Int)
      else ((m >>> (-(e + 200)).toNat : Nat) : Int)
    let cut := decide (e + 200 < 0) && (m % 2 ^ (-(e + 200)).toNat != 0)
    let t : Int := if neg then -u - (b2n cut : Int) else u
    let n := t / 2 ^ 200
    let f := (t % 2 ^ 200).toNat
    if f = 0 && !cut then ⟨1, n, false⟩
    else ⟨exp2Bits f 200 (2 ^ 241) (2 ^ 240), n - 240, true⟩

/-- Digits of log2 of y in [1, 2), y in units of 2^-200. -/
def log2Bits : Nat → Nat → Nat → Nat
  | 0, _, acc => acc
  | n + 1, y, acc =>
    let z := (y * y) >>> 200
    if 2 ^ 201 ≤ z then log2Bits n (z >>> 1) (2 * acc + 1) else log2Bits n z (2 * acc)

/-- log2 of m * 2^e: its sign and magnitude. -/
def log2Mag (m : Nat) (e : Int) : Bool × Mag :=
  let k := Nat.log2 m
  let i : Int := k + e
  if m = 2 ^ k then (decide (i < 0), ⟨i.natAbs, 0, false⟩)
  else
    let f := log2Bits 176 (m <<< (200 - k)) 0
    if 0 ≤ i then (false, ⟨i.natAbs <<< 176 + f, -176, true⟩)
    else (true, ⟨i.natAbs <<< 176 - f - 1, -176, true⟩)

/-- A result that is exact is rounded by `rm`; any other is one of the two values next to it (R73). -/
def roundWithinUlp (f : Fmt) (rm : Rm) (neg : Bool) (g : Nat) (x : Mag) (up : Bool) : Nat × FlagByte :=
  if x.st then
    let r := roundBinary f (if up then .away else .rtz) neg g x
    (r.1, r.2 ||| flagNX)
  else roundBinary f rm neg g x

/-- The five special functions, by the last digit of their opcode 0x70 to 0x74: 0 reciprocal, 1 square root,
2 reciprocal square root, 3 exp2, 4 log2. -/
def specialFn (op : Nat) (tf : Fmt) (rm : Rm) (g : Nat) (a : Val) (up : Bool) : Nat × FlagByte :=
  match a with
  | .nan _ _ _ => roundVal tf rm g a
  | .inf n =>
    match op with
    | 0 => (b2n n <<< (tf.bits - 1), 0)
    | 1 => if n then (encodeNan tf false 0, flagNV) else (encodeInf tf false, 0)
    | 2 => if n then (encodeNan tf false 0, flagNV) else (0, 0)
    | 3 => if n then (0, 0) else (encodeInf tf false, 0)
    | _ => if n then (encodeNan tf false 0, flagNV) else (encodeInf tf false, 0)
  | .fin n m e =>
    match op with
    | 0 => if m = 0 then (encodeInf tf n, flagDZ) else roundBinary tf rm n g (rcpMag m e)
    | 1 =>
      if m = 0 then (b2n n <<< (tf.bits - 1), 0)
      else if n then (encodeNan tf false 0, flagNV)
      else roundBinary tf rm false g (sqrtMag m e)
    | 2 =>
      if m = 0 then (encodeInf tf n, flagDZ)
      else if n then (encodeNan tf false 0, flagNV)
      else roundWithinUlp tf rm false g (rsqMag m e) up
    | 3 => roundWithinUlp tf rm false g (exp2Mag n m e) up
    | _ =>
      if m = 0 then (encodeInf tf true, flagDZ)
      else if n then (encodeNan tf false 0, flagNV)
      else
        let l := log2Mag m e
        roundWithinUlp tf rm l.1 g l.2 up

/-! ### Integers, logic and shifts -/

/-- Limited to the range of the width (R71): value and whether it was clamped. -/
def saturate (f : Fmt) (i : Int) : Nat × Bool :=
  if i < intLow f then (encodeInt f (intLow f), true)
  else if intHigh f < i then (encodeInt f (intHigh f), true)
  else (encodeInt f i, false)

/-- R72: shifts on `w` bits by an unsigned amount. -/
def shlBits (w a n : Nat) : Nat := if w ≤ n then 0 else (a <<< n) % 2 ^ w

def shrBits (w a n : Nat) : Nat := if w ≤ n then 0 else (a % 2 ^ w) >>> n

def sraBits (w a n : Nat) : Nat :=
  let a := a % 2 ^ w
  let k := min n w
  if a.testBit (w - 1) then (a >>> k) + (2 ^ w - 2 ^ (w - k)) else a >>> k

end Sys2Proof.Machine
end

