-- ==== Sys2Proof/Machine/Convert.lean ====
section
/-! DEFINITION. Conversions of chapter 02: block exponents and per-tensor scales (R28 to R38, R568), the conversion of
one value into an F8 or K code (R46 to R50), whole blocks (R116, R574), K packing (R31), and the sums and roundings of
the reduction hops and the sieve that the same rules govern. -/

namespace Sys2Proof.Machine

/-- A per-tensor scale: an S32 value (R32, R33). -/
abbrev Sigma := Val

def sigmaOf (w : Word) : Sigma := decodeBinary .s32 w.toNat

def Sigma.one : Sigma := .fin false 1 0

/-- A finite value divided by a finite nonzero scale and by 2^k. -/
def divSigma (v : Val) (s : Sigma) (k : Int) : Bool × Mag :=
  match v, s with
  | .fin n m e, .fin n' m' e' => (n != n', quotMag m m' (e - e' - k))
  | _, _ => (false, ⟨0, 0, false⟩)

/-- |v| / |s| <= q * 2^k, exactly. -/
def fitsAt (v : Val) (s : Sigma) (q : Nat) (k : Int) : Bool :=
  match v, s with
  | .fin _ m e, .fin _ m' e' =>
    let d := e - e' - k
    if 0 ≤ d then decide (m <<< d.toNat ≤ q * m') else decide (m ≤ (q * m') <<< (-d).toNat)
  | _, _ => true

/-- The largest magnitude among finite values. -/
def maxFinite : List Val → Val
  | [] => .zero
  | v :: vs =>
    let r := maxFinite vs
    if v.isFinite then (if cmpVals v.abs r == some .gt then v.abs else r) else r

/-- The first X in 0 to 255 that serves, 255 when none does (R34). -/
def firstX (p : Nat → Bool) : Nat := ((List.range 256).find? p).getD 255

/-- R34, with R568 for a zero scale. -/
def chooseX (f : Fmt) (s : Sigma) (vs : List Val) : Nat :=
  let mx := maxFinite vs
  if mx.isZero then 0
  else if s.isZero then 255
  else firstX fun x => fitsAt mx s f.kMax ((x : Int) - 127)

/-- R35, with R568 for a zero scale. -/
def chooseXK1 (s : Sigma) (vs : List Val) : Nat :=
  let fs := (vs.filter Val.isFinite).map Val.abs
  match exactSum false fs, s with
  | .fin _ m e, .fin _ m' e' =>
    if m = 0 then 0
    else if m' = 0 then 255
    else
      let r := quotMag m (m' * fs.length) (e - e')
      let l := Nat.log2 r.m
      let k : Int := (l : Int) + r.e + (if 3 * 2 ^ (l - 1) ≤ r.m then 1 else 0)
      (max (-127) (min 128 k) + 127).toNat
  | _, _ => 0

/-- R49 and R50 into F8 with scale `s` (finite). -/
def toF8 (rm : Rm) (g : Nat) (s : Sigma) (v : Val) : Nat × FlagByte :=
  match v with
  | .nan n sg _ => (encodeNan .f8 n 0, flagIf sg flagNV)
  | .inf n => (b2n (n != s.neg) <<< 7 + 0x7E, flagBO ||| flagNX)
  | .fin n m _ =>
    let neg := n != s.neg
    if m = 0 then (b2n neg <<< 7, 0)
    else if s.isZero then (b2n neg <<< 7 + 0x7E, flagBO ||| flagNX)
    else roundBinary .f8 rm neg g (divSigma v s 0).2

/-- R47, R49 and R50 into a K code with n >= 2 at block exponent `x`: code and flags. -/
def toK (f : Fmt) (rm : Rm) (g : Nat) (s : Sigma) (x : Nat) (v : Val) : Nat × FlagByte :=
  let lim (neg : Bool) : Nat × FlagByte :=
    (encodeK f (if neg then -(f.kMax : Int) else f.kMax), flagBO ||| flagNX)
  match v with
  | .nan _ _ _ => (0, flagNV)
  | .inf n => lim (n != s.neg)
  | .fin n m _ =>
    let neg := n != s.neg
    if m = 0 then (0, 0)
    else if s.isZero then lim neg
    else
      let r := roundInteger rm neg g (divSigma v s ((x : Int) - 127)).2
      if f.kMax < r.1.natAbs then lim (decide (r.1 < 0))
      else (encodeK f r.1, flagIf r.2 flagNX ||| flagIf (r.2 && r.1 == 0) flagUF)

/-- floor(32768 * v) for a magnitude below one, with its sign (R48). -/
def k1Threshold (neg : Bool) (x : Mag) : Int :=
  let p := x.split (-15)
  if neg then -((p.1 + b2n (p.2.1 != 0 || x.st) : Nat) : Int) else (p.1 : Int)

/-- R48 into K1.  A zero source takes its code by the sign of the quotient, under a zero σ too: Table 2.9 sends a zero source
into K1 to R48, while R568 names code 0 (DEDUCED, notes/assumptions/88).  What is delivered is then zero, and exact. -/
def toK1 (rm : Rm) (g : Nat) (s : Sigma) (x : Nat) (v : Val) : Nat × FlagByte :=
  match v with
  | .nan _ _ _ => (0, flagNV)
  | .inf n => (b2n (n != s.neg), flagBO ||| flagNX)
  | .fin n m _ =>
    let neg := n != s.neg
    let q := if s.isZero then ⟨1, 400, false⟩ else (divSigma v s ((x : Int) - 127)).2
    let q : Mag := if m = 0 then ⟨0, 0, false⟩ else q
    let unit := fitsAt v s 1 ((x : Int) - 127) && !q.isZero
    let whole := q.split 0
    let isOne := whole.1 == 1 && whole.2.1 == 0 && !q.st
    let minus : Bool :=
      if rm = .sr then
        if unit then !decide ((g : Int) < 32768 + k1Threshold neg q)
        else if m = 0 then !decide (g < 32768)
        else neg
      else neg
    let exact := (isOne && minus == neg) || (s.isZero && m == 0)
    (b2n minus, flagIf (!exact) flagNX)

/-- One element into any target, with the draw `g`: code, flags. -/
def toTarget (f : Fmt) (rm : Rm) (g : Nat) (s : Sigma) (x : Nat) (v : Val) : Nat × FlagByte :=
  if f = .k1 then toK1 rm g s x v
  else if f.isK then toK f rm g s x v
  else if f = .f8 then toF8 rm g s v
  else roundElem f rm g v

/-- What a conversion with a non-finite scale delivers for every element (R574). -/
def nanTarget (f : Fmt) : Nat :=
  if f.isK then 0 else if f.isInt then 0 else encodeNan f false 0

/-- One converted block: element codes, flags, the exponent it used, whether it was chosen, elements limited. -/
structure BlockOut where
  codes : List Nat
  flags : FlagByte
  x : Nat
  chosen : Bool
  limited : Nat
  deriving DecidableEq, Repr

/-- One block of a conversion into a K format: R34 or R35 choose X when `held` is none, R36 holds it otherwise. -/
def convertBlock (f : Fmt) (rm : Rm) (s : Sigma) (held : Option Nat) (vs : List (Val × Nat)) : BlockOut :=
  if !s.isFinite then
    { codes := vs.map fun _ => nanTarget f, flags := flagNV, x := held.getD 0, chosen := held.isNone, limited := 0 }
  else
    let x := match held with
      | some x => x
      | none => if f = .k1 then chooseXK1 s (vs.map Prod.fst) else chooseX f s (vs.map Prod.fst)
    let rs := vs.map fun v => toTarget f rm v.2 s x v.1
    { codes := rs.map Prod.fst, flags := flagsOr (rs.map Prod.snd), x := x, chosen := held.isNone,
      limited := (rs.filter fun r => r.2 &&& flagBO != 0).length }

/-- R38: σ = M / T rounded up in S32, 1.0 when M is zero or not finite; NX when inexact, NV when M is not finite. -/
def pinSigma (t : Fmt) (m : Val) : Nat × FlagByte :=
  match m with
  | .fin _ m e =>
    if m = 0 then (0x3F800000, 0)
    else
      let r := roundBinary .s32 .rup false 0 (quotMag m (if t = .f8 then 224 else 1) e)
      (r.1, r.2 &&& flagNX)
  | _ => (0x3F800000, flagNV)

/-- Bits [i*n + n - 1 : i*n] of a little-endian plane (R31). -/
def planeGet (n : Nat) (bytes : List Byte) (i : Nat) : Nat :=
  let b := i * n / 8
  (leNat ((bytes.drop b).take 9) >>> (i * n % 8)) % 2 ^ n

/-- Element codes of width `n` packed into bytes, element 0 in the lowest bits (R31). -/
def planePack (n : Nat) (codes : List Nat) : List Byte :=
  let v := codes.foldr (fun c acc => acc <<< n + c % 2 ^ n) 0
  leBytes ((codes.length * n + 7) / 8) v

/-- The value of an element of a block with exponent X and scale σ: c * 2^(X-127) * σ (R28, R29, R49 step 1); K code 0 is +0
whatever the sign of σ (Table 2.9). -/
def scaledElem (f : Fmt) (s : Sigma) (x : Nat) (code : Nat) : Val :=
  let v := decodeElem f code
  let v := if f.isK then v.scale2 ((x : Int) - 127) else v
  match v, s with
  | .fin n 0 e, .fin n' m' e' => .fin (!f.isK && n != n') (0 * m') (e + e')
  | .fin n m e, .fin n' m' e' => .fin (n != n') (m * m') (e + e')
  | v, _ => v

/-! ### Accumulations, hops and the sieve -/

/-- R56: the exact sum of one fc's products added to an S32 accumulator with a single rounding by RNE. Each product is
given by its streamed and stationary element, in increasing order of the reduction index (R572). -/
def accumulate (acc : Nat) (prods : List (Val × Val)) : Nat × FlagByte :=
  let a := decodeBinary .s32 acc
  let r := sumVals false (a :: prods.flatMap fun p => [p.1, p.2]) (a :: prods.map fun p => exactMul p.1 p.2)
    (prods.any fun p => mulInvalid p.1 p.2)
  let q := roundVal .s32 .rne 0 r.1
  (q.1, r.2 ||| q.2)

/-- R57: fused multiply-adds one product at a time, in format S32 or D64. -/
def accumulateFma (f : Fmt) (acc : Nat) : List (Val × Val) → Nat × FlagByte
  | [] => (acc, 0)
  | p :: ps =>
    let a := decodeBinary f acc
    let bad := mulInvalid p.1 p.2 && (!a.isNan || a.isSNan || Config.fmaInvalidWithQuietNaN)
    let r := sumVals false [a, p.1, p.2] [a, exactMul p.1 p.2] bad
    let q := roundVal f .rne 0 r.1
    let t := accumulateFma f q.1 ps
    (t.1, r.2 ||| q.2 ||| t.2)

/-- The drain of R32 and R33: the element times σ_A × σ_B, each product rounded to S32 by RNE. -/
def drainScale (acc : Nat) (sa sb : Sigma) : Nat × FlagByte :=
  if !sa.isFinite || !sb.isFinite then (encodeNan .s32 false 0, flagNV)
  else
    let p := roundVal .s32 .rne 0 (exactMul sa sb)
    let m := mulVals (decodeBinary .s32 acc) (decodeBinary .s32 p.1)
    let q := roundVal .s32 .rne 0 m.1
    (q.1, p.2 ||| m.2 ||| q.2)

end Sys2Proof.Machine
end

