-- ==== Sys2Proof/Machine/MatrixRow.lean ====
section
/-! DEFINITION. What a matrix pass computes for one streamed row, and its counts (Table 3.1, Table 3.3, R52 to R63, R87,
R88, R104, R105). -/

namespace Sys2Proof.Machine

/-- p of Table 3.1, for a row pass; one element per cell otherwise. -/
def perCell (kind : Nat) (f : Fmt) : Nat :=
  if kind ≠ 0 then 1
  else match f with
    | .f8 | .k8 | .k6 => 2
    | .k4 => 4
    | .k2 => 8
    | .k1 => 16
    | _ => 1

/-- r of Table 3.1: fc per streamed row. -/
def fcPerRow (f : Fmt) : Nat :=
  match f with
  | .s32 => 4
  | .d64 => 32
  | _ => 1

/-- R52: the formats of each pass kind. -/
def passFormat (kind : Nat) (f : Fmt) : Bool :=
  match kind with
  | 0 => !f.isInt
  | 1 => f.isBinary
  | 2 => f == .w16 || f == .h16 || f == .f8
  | _ => false

/-- Bytes of one streamed row. -/
def rowBytes (kind : Nat) (f : Fmt) : Nat := planeRow f (32 * perCell kind f)
where
  planeRow (f : Fmt) (n : Nat) : Nat := (n * f.bits + 7) / 8

/-- Bytes a column of a stationary block occupies (R104). -/
def columnBytes (f : Fmt) : Nat :=
  match f with
  | .k6 => 48
  | .s32 => 128
  | .d64 => 256
  | _ => 64

/-- Silt rows of the element plane of a block (R60): its L without exponents. -/
def elemRows (f : Fmt) : Nat := 32 * columnBytes f / 64

/-- Exponent bytes of one column of a K block, 32p / B. -/
def expsPerColumn (f : Fmt) (bsize : Nat) : Nat := if f.isK then 32 * perCell 0 f / bsize else 0

/-- Silt rows of the exponents of a block. -/
def expRows (f : Fmt) (bsize : Nat) : Nat := ceilDiv (32 * expsPerColumn f bsize) 64

/-- Element code `i` of a row or column of bytes. -/
def codeAt (f : Fmt) (bytes : List Byte) (i : Nat) : Nat := planeGet f.bits bytes i

/-- Element values, unscaled: c * 2^(X - 127) for K (R32, R56). -/
def rowVals (f : Fmt) (n bsize : Nat) (bytes exps : List Byte) : List Val :=
  (List.range n).map fun i =>
    let v := decodeElem f (codeAt f bytes i)
    if f.isK then v.scale2 (((exps.getD (i / bsize) 0).toNat : Int) - 127) else v

/-- Column n of the stationary block, S[., n]. -/
def Block.column (b : Block) (kind n : Nat) : List Val :=
  let c := columnBytes b.fmt
  let e := expsPerColumn b.fmt b.bsize
  rowVals b.fmt (32 * perCell kind b.fmt) (max b.bsize 1) ((b.data.drop (n * c)).take c)
    ((b.exps.drop (n * e)).take e)

/-- One accumulator element with the products of one fc group added: R56 or R57. -/
def addProducts (f : Fmt) (acc : Nat) (prods : List (Val × Val)) : Nat × FlagByte :=
  match f with
  | .s32 => accumulateFma .s32 acc prods
  | .d64 => accumulateFma .d64 acc prods
  | _ => accumulate acc prods

/-- Products of streamed row values `a` with the block, for result column j: Σ_k A[m,k] S[k,j] in a row pass, and
Σ_n A[m,n] S[j,n] in a column pass. -/
def rowProducts (kind : Nat) (a : List Val) (cols : List (List Val)) (j : Nat) : List (Val × Val) :=
  if kind = 0 then a.zip (cols.getD j [])
  else a.zip (cols.map fun c => c.getD j .zero)

/-- Element `i` of an accumulator set: one word, or two adjacent words in D64 (R57).  A set of 32 × 32 D64 elements is taken as
2,048 words, twice the cells of an S32 set, since the spec names no cells for the second half (DESIGN CHOICE,
notes/assumptions/88). -/
def accGet (f : Fmt) (m : Map Word) (i : Nat) : Nat :=
  if f = .d64 then (mapGet 0 m (2 * i)).toNat + (mapGet 0 m (2 * i + 1)).toNat * 2 ^ 32
  else (mapGet 0 m i).toNat

def accPut (f : Fmt) (m : Map Word) (i v : Nat) : Map Word :=
  if f = .d64 then mapSet 0 (mapSet 0 m (2 * i) (BitVec.ofNat 32 v)) (2 * i + 1) (BitVec.ofNat 32 (v / 2 ^ 32))
  else mapSet 0 m i (BitVec.ofNat 32 v)

/-- Result row m of a row or column pass added to its set (R53, R54). -/
def addRow (f : Fmt) (kind m : Nat) (a : List Val) (cols : List (List Val)) (acc : Map Word) : Map Word × FlagByte :=
  (List.range 32).foldl (fun st j =>
    let r := addProducts f (accGet f st.1 (32 * m + j)) (rowProducts kind a cols j)
    (accPut f st.1 (32 * m + j) r.1, st.2 ||| r.2)) (acc, 0)

/-- One fc of an outer-product pass: a[k] * b[n] added to element (k, n), rows the mask suppresses left out (R55,
R62). -/
def addOuter (f : Fmt) (mask : BitVec 32) (a b : List Val) (acc : Map Word) : Map Word × FlagByte :=
  (List.range 1024).foldl (fun st i =>
    if mask.getLsbD (i / 32) then
      let r := addProducts f (accGet f st.1 i) [(a.getD (i / 32) .zero, b.getD (i % 32) .zero)]
      (accPut f st.1 i r.1, st.2 ||| r.2)
    else st) (acc, 0)

/-! ### Counts from issue (Table 3.3, R88) -/

/-- fc from issue at which all results are final. -/
def finalAt (kind : Nat) (f : Fmt) : Nat :=
  if kind = 2 then 41 else 13 + 32 * fcPerRow f + (if kind = 1 then 2 else 0)

/-- fc from issue at which a draining pass enqueues its entry. -/
def enqueueAfter (kind : Nat) (f : Fmt) (zero : Bool) : Nat :=
  if zero then 2 else if kind = 2 then 73 else finalAt kind f + 1

/-- fc from issue of the pass's last result: of the entry when it drains. -/
def passLast (p : PassRun) : Nat :=
  p.issue + (if p.drn then enqueueAfter p.kind p.fmt p.zero else if p.zero then 0 else finalAt p.kind p.fmt)

/-- fc from issue to the earliest issue of the next pass. -/
def passOccupancy (f : Fmt) (zero : Bool) : Nat := if zero then 1 else 32 * fcPerRow f

/-- The words of a drained entry: R58, R62, R63, with scales of R106.  A row that the mask suppresses is delivered as +0 also
under a scale that is not finite, where R33 would make it a NaN (DESIGN CHOICE, notes/assumptions/88). -/
def drainWords (p : PassRun) (acc : Map Word) : Map Word × FlagByte :=
  if p.zero then ([], 0)
  else
    let one : Word := 0x3F800000
    let sa := if p.fmt.isK || p.fmt == .f8 then p.a.sigma else one
    let sb := if p.fmt.isK || p.fmt == .f8 then
        (if p.kind = 2 then (p.b.map Desc.sigma).getD one else (p.block.map Block.sigma).getD one) else one
    let scaled := p.fmt.isK || p.fmt == .f8
    if scaled then
      (List.range 1024).foldl (fun st i =>
        if p.kind = 2 && !p.mask.getLsbD (i / 32) then st
        else
          let r := drainScale (mapGet 0 acc i).toNat (sigmaOf sa) (sigmaOf sb)
          (mapSet 0 st.1 i (BitVec.ofNat 32 r.1), st.2 ||| r.2)) ([], 0)
    else (acc.filter fun e => !(p.kind == 2 && !p.mask.getLsbD (e.1 / 32)), 0)

end Sys2Proof.Machine
end

