-- ==== Sys2Proof/Machine/VectorElem.lean ====
section
/-! DEFINITION. What a vector instruction computes: its operand forms and legality (R111 to R118, R569, R580), its rate
(Table 3.2) and the result of each element. -/

namespace Sys2Proof.Machine

def VecF.sfmt (f : VecF) : Fmt := Fmt.ofCode f.sf.toNat
def VecF.tfmt (f : VecF) : Fmt := Fmt.ofCode f.tf.toNat

/-- N, 1 to 4,096. -/
def VecF.n (f : VecF) : Nat := f.cnt.toNat + 1

/-- The classes of Table 4.7. -/
inductive VecClass where
  | arith | compare | select | int | convert | special | reduce | desc
  deriving DecidableEq, Repr

def vecClass : VecOp → VecClass
  | .vadd | .vsub | .vmul | .vmin | .vmax | .vfma | .vabs | .vneg => .arith
  | .vcmp => .compare
  | .vsel => .select
  | .viadd | .viadds | .visub | .visubs | .vimul | .vimuls | .vimin | .vimax => .int
  | .vand | .vor | .vxor | .vnot | .vshl | .vshr | .vsra => .int
  | .vcvt => .convert
  | .vrcp | .vsqrt | .vrsq | .vexp2 | .vlog2 => .special
  | .vrsum | .vrmax | .vrmin | .vrnz | .vrnan => .reduce
  | .vdesc => .desc

def isCount (op : VecOp) : Bool := op == .vrnz || op == .vrnan

/-- R569: which operands the opcode takes. -/
def takesB (op : VecOp) (sf : Fmt) : Bool :=
  match vecClass op with
  | .special | .reduce | .desc => false
  | .convert => sf.isK
  | _ => !(op == .vabs || op == .vneg || op == .vnot)

def takesC (op : VecOp) (tf : Fmt) : Bool :=
  match vecClass op with
  | .convert => tf.isK
  | _ => op == .vfma || op == .vsel

/-- R569: the opcodes that read RM. -/
def readsRm (op : VecOp) : Bool :=
  match vecClass op with
  | .arith | .special | .convert | .compare => true
  | _ => false

/-- Kinds of Table 4.6. -/
inductive SelKind where
  | silt | broadcast | handoff | absent
  deriving DecidableEq, Repr

def selKind (s : BitVec 6) : SelKind :=
  match s.toNat / 16 with
  | 0 => .silt
  | 1 => .broadcast
  | 2 => .handoff
  | _ => .absent

def selReg (s : BitVec 6) : BitVec 4 := s.setWidth 4

/-- A selector in one of its legal forms: the low bits are zero where they name no register. -/
def selWellFormed (s : BitVec 6) : Bool :=
  match selKind s with
  | .silt | .broadcast => true
  | _ => selReg s == 0

/-- An operand is present exactly when the opcode takes it. -/
def selMatches (takes : Bool) (s : BitVec 6) : Bool := selWellFormed s && (takes == (selKind s != .absent))

/-- R114 and Table 4.7. -/
def formatsLegal (op : VecOp) (sf tf : Fmt) : Bool :=
  let plain (f : Fmt) := f.isFloat || f.isInt
  match vecClass op with
  | .arith | .special => sf.isFloat && tf.isFloat
  | .compare => plain sf && plain tf
  | .select => plain sf && tf == sf
  | .int => sf.isInt && tf == sf
  | .convert => true
  | .reduce => plain sf && (if isCount op then tf == .u32 else tf == sf)
  | .desc => true

/-- Whether the instruction names the hand-off queue. -/
def usesHandoff (f : VecF) : Bool :=
  selKind f.oa == .handoff || selKind f.ob == .handoff || selKind f.oc == .handoff

def scaledFmt (f : Fmt) : Bool := f.isK || f == .f8

/-- A broadcast operand is legal in the source format (R112). -/
def broadcastLegal (sf : Fmt) (s : BitVec 6) : Bool :=
  selKind s != .broadcast || (!sf.isK && !(sf == .d64 && (selReg s).toNat % 2 == 1))

/-- The rules on fields alone: R97, R114, R569, R580, R112, R113's limit on N.  VDESC takes no operand, so its selectors
hold 0b11_0000 and its other fields but SLS and SD are zero (R569; DEDUCED, notes/assumptions/40). -/
def fieldsLegal (op : VecOp) (f : VecF) : Bool :=
  let sf := VecF.sfmt f
  let tf := VecF.tfmt f
  if op = .vdesc then
    f.rm == 0 && f.tf == 0 && f.sf == 0 && f.oa == 0x30 && f.ob == 0x30 && f.oc == 0x30 && f.q == 0 && f.sum == 0 &&
      f.rel == 0 && f.acc == 0 && f.slt == 0 && f.rsv == 0 && f.cnt == 0
  else
    let cvt := op == .vcvt
    f.rsv == 0 && formatsLegal op sf tf &&
    selMatches true f.oa && selMatches (takesB op sf) f.ob && selMatches (takesC op tf) f.oc &&
    (!(cvt && sf.isK) || selKind f.ob == .silt) && (!(cvt && tf.isK) || selKind f.oc == .silt) &&
    (readsRm op || f.rm == 0) &&
    (vecClass op == .reduce || f.acc == 0) && (usesHandoff f || f.rel == 0) &&
    (vecClass op != .reduce || f.sd == 0) &&
    ((cvt && scaledFmt sf) || f.sls == 0) && ((cvt && scaledFmt tf) || f.slt == 0) &&
    broadcastLegal sf f.oa && ((cvt && sf.isK) || broadcastLegal sf f.ob) &&
    ((cvt && tf.isK) || broadcastLegal sf f.oc) &&
    (!usesHandoff f || decide (VecF.n f ≤ 1024))

/-- Bits of the widest of SF, TF and a hand-off operand (R114). -/
def widest (f : VecF) : Nat := max (VecF.sfmt f).bits (VecF.tfmt f).bits

/-- e of Table 3.2. -/
def elemsPerFc (op : VecOp) (f : VecF) : Nat :=
  let w := widest f
  if vecClass op = .special then (if w = 64 then 2 else if w = 32 then 16 else 32)
  else if w = 64 then 8 else if w = 32 then 32 else if w = 16 then 64 else 128

/-- L of Table 3.2. -/
def vecLatency (op : VecOp) (f : VecF) : Nat :=
  match vecClass op with
  | .convert => 5
  | .special => 10
  | .int => 3
  | .compare | .select => if (VecF.sfmt f).isFloat then 4 else 3
  | _ => 4

/-- fc groups of an instruction (R69). -/
def vecGroups (op : VecOp) (f : VecF) : Nat := ceilDiv (VecF.n f) (elemsPerFc op f)

/-- Bytes of one element of a format that is not K; for K its plane is packed (R31). -/
def planeBytes (f : Fmt) (n : Nat) : Nat := (n * f.bits + 7) / 8

/-! ### Elements -/

structure ElemOut where
  code : Nat
  flags : FlagByte
  sat : Bool
  deriving DecidableEq, Repr

def isNanCode (f : Fmt) (c : Nat) : Bool := f.isBinary && (decodeBinary f c).isNan

/-- Nonzero by value (Table 4.7): in a float format a NaN counts as nonzero. -/
def nonzeroCode (f : Fmt) (c : Nat) : Bool := !(decodeElem f c).isZero

/-- VABS and VNEG.  When TF equals SF the sign bit alone changes, of a NaN too, with no rounding and no flag, as IEEE 754-2019
has these operations (DEDUCED beside R26, notes/assumptions/16); otherwise the value is rounded into TF. -/
def signOp (op : VecOp) (sf tf : Fmt) (rm : Rm) (g : Nat) (a : Nat) : Nat × FlagByte :=
  let top := 2 ^ (sf.bits - 1)
  if tf = sf then (if op = .vabs ∨ top ≤ a % (2 * top) then a % top else a % top + top, 0)
  else
    let v := decodeBinary sf a
    roundVal tf rm g (if op = .vabs then v.abs else v.negate)

/-- An integer result, wrapping or saturating by opcode (R71). -/
def intOut (f : Fmt) (sats : Bool) (i : Int) : ElemOut :=
  if sats then
    let r := saturate f i
    ⟨r.1, 0, r.2⟩
  else ⟨encodeInt f i, 0, false⟩

/-- The result of one element, for every opcode but VCVT from or into a K or F8 format and the reductions. -/
def elemOut (op : VecOp) (f : VecF) (e : Elem) : ElemOut :=
  let sf := VecF.sfmt f
  let tf := VecF.tfmt f
  let rm := Rm.ofCode f.rm.toNat
  let nv := rmFlags f.rm.toNat
  let w := sf.bits
  let va := decodeElem sf e.a
  let vb := decodeElem sf e.b
  let vc := decodeElem sf e.c
  let ia := decodeInt sf e.a
  let ib := decodeInt sf e.b
  let fin (r : Val × FlagByte) : ElemOut :=
    let q := roundVal tf rm e.g r.1
    ⟨q.1, r.2 ||| q.2 ||| nv, false⟩
  let special (k : Nat) : ElemOut :=
    let r := specialFn k tf rm e.g va (Config.ulpUp k tf.code e.a)
    ⟨r.1, r.2 ||| nv, false⟩
  match op with
  | .vadd => fin (addVals rm va vb)
  | .vsub => fin (subVals rm va vb)
  | .vmul => fin (mulVals va vb)
  | .vmin => fin (minVals va vb)
  | .vmax => fin (maxVals va vb)
  | .vfma => fin (fmaVals rm va vb vc)
  | .vabs | .vneg =>
    let r := signOp op sf tf rm e.g e.a
    ⟨r.1, if tf = sf then 0 else r.2 ||| nv, false⟩
  | .vcmp =>
    let r := compareBy f.rm.toNat va vb
    ⟨(roundElem tf .rne 0 (.ofInt (b2n r.1))).1, r.2, false⟩
  | .vsel => ⟨if nonzeroCode sf e.c then e.a else e.b, 0, false⟩
  | .viadd => intOut sf false (ia + ib)
  | .viadds => intOut sf true (ia + ib)
  | .visub => intOut sf false (ia - ib)
  | .visubs => intOut sf true (ia - ib)
  | .vimul => intOut sf false (ia * ib)
  | .vimuls => intOut sf true (ia * ib)
  | .vimin => intOut sf false (min ia ib)
  | .vimax => intOut sf false (max ia ib)
  | .vand => ⟨e.a &&& e.b, 0, false⟩
  | .vor => ⟨e.a ||| e.b, 0, false⟩
  | .vxor => ⟨e.a ^^^ e.b, 0, false⟩
  | .vnot => ⟨2 ^ w - 1 - e.a % 2 ^ w, 0, false⟩
  | .vshl => ⟨shlBits w e.a e.b, 0, false⟩
  | .vshr => ⟨shrBits w e.a e.b, 0, false⟩
  | .vsra => ⟨sraBits w e.a e.b, 0, false⟩
  | .vcvt =>
    let r := roundElem tf rm e.g va
    ⟨r.1, r.2 ||| nv, false⟩
  | .vrcp => special 0
  | .vsqrt => special 1
  | .vrsq => special 2
  | .vexp2 => special 3
  | .vlog2 => special 4
  | .vrsum | .vrmax | .vrmin | .vrnz | .vrnan | .vdesc => ⟨0, 0, false⟩

/-- The value a VCVT reads for one element: scale and block exponent `x` applied (R28, R29, R117). -/
def cvtSource (sf : Fmt) (src : Option Desc) (x : Nat) (code : Nat) : Val :=
  if scaledFmt sf then scaledElem sf (sigmaOf ((src.map Desc.sigma).getD 0x3F800000)) x code
  else decodeElem sf code

/-- Whether a VCVT meets a non-finite scale (R574). -/
def cvtBadScale (f : VecF) (src tgt : Option Desc) : Bool :=
  (scaledFmt (VecF.sfmt f) && !(sigmaOf ((src.map Desc.sigma).getD 0x3F800000)).isFinite) ||
  (scaledFmt (VecF.tfmt f) && !(sigmaOf ((tgt.map Desc.sigma).getD 0x3F800000)).isFinite)

/-- One element of a VCVT into a target without block exponent, or against the held exponent `xt` (R36). -/
def cvtElem (f : VecF) (src tgt : Option Desc) (xs xt : Nat) (e : Elem) : ElemOut :=
  let tf := VecF.tfmt f
  let nv := rmFlags f.rm.toNat
  if cvtBadScale f src tgt then ⟨nanTarget tf, flagNV ||| nv, false⟩
  else
    let s := if scaledFmt tf then sigmaOf ((tgt.map Desc.sigma).getD 0x3F800000) else Sigma.one
    let r := toTarget tf (Rm.ofCode f.rm.toNat) e.g s xt (cvtSource (VecF.sfmt f) src xs e.a)
    ⟨r.1, r.2 ||| nv, false⟩

/-- One block of a VCVT whose exponent is chosen (R34, R35).  Each element comes with its source exponent. -/
def cvtBlock (f : VecF) (src tgt : Option Desc) (es : List Elem) : BlockOut :=
  let tf := VecF.tfmt f
  let nv := rmFlags f.rm.toNat
  if cvtBadScale f src tgt then
    { codes := es.map fun _ => nanTarget tf, flags := flagNV ||| nv, x := 0, chosen := true, limited := 0 }
  else
    let s := sigmaOf ((tgt.map Desc.sigma).getD 0x3F800000)
    let b := convertBlock tf (Rm.ofCode f.rm.toNat) s none
      (es.map fun e => (cvtSource (VecF.sfmt f) src e.b e.a, e.g))
    { b with flags := b.flags ||| nv }

/-- Elements that the range of a vendor format limited (R51). -/
def limitedOf (outs : List ElemOut) : Nat := (outs.filter fun o => o.flags &&& flagBO != 0).length

/-! ### Reductions (R74, R118) -/

/-- A sum limited to the integer range, with NV beyond it (R74). -/
def intSum (f : Fmt) (is : List Int) : Nat × FlagByte :=
  let r := saturate f (is.foldl (· + ·) 0)
  (r.1, flagIf r.2 flagNV)

/-- max or min over values, by R26 for a NaN. -/
def foldMinMax (wantMax : Bool) : List Val → Val × FlagByte
  | [] => (.zero, 0)
  | v :: vs =>
    vs.foldl (fun acc w =>
      let r := if wantMax then maxVals acc.1 w else minVals acc.1 w
      (r.1, acc.2 ||| r.2)) (v.quiet, flagIf v.isSNan flagNV)

/-- A count, added to qQ when ACC is 1, limited at 2^32 - 1 with NV. -/
def countOut (n : Nat) (acc : Bool) (q : Nat) : Nat × FlagByte :=
  let t := if acc then n + q % 2 ^ 32 else n
  if t < 2 ^ 32 then (t, 0) else (2 ^ 32 - 1, flagNV)

/-- The result of a reduction over the codes read, with qQ as one further element when ACC is 1. -/
def reduceOut (op : VecOp) (f : VecF) (codes : List Nat) (q : DWord) : Nat × FlagByte :=
  let sf := VecF.sfmt f
  let acc := f.acc == 1
  let sn := flagIf (sf.isBinary && (codes.map (decodeElem sf)).any Val.isSNan) flagNV
  let all := if acc then codes ++ [q.toNat % 2 ^ sf.bits] else codes
  match op with
  | .vrsum =>
    if sf.isInt then intSum sf (all.map (decodeInt sf))
    else
      let vs := all.map (decodeElem sf)
      let s := sumVals false vs vs false
      let r := roundVal sf .rne 0 s.1
      (r.1, s.2 ||| r.2)
  | .vrmax | .vrmin =>
    let m := foldMinMax (op == .vrmax) (all.map (decodeElem sf))
    if sf.isInt then
      ((roundToInt sf .rne 0 m.1).1, 0)
    else ((roundVal sf .rne 0 m.1).1, m.2)
  | .vrnz =>
    let r := countOut (codes.filter (nonzeroCode sf)).length acc q.toNat
    (r.1, r.2 ||| sn)
  | _ =>
    let r := countOut (codes.filter (isNanCode sf)).length acc q.toNat
    (r.1, r.2 ||| sn)

/-- The summary word of R75. -/
def summaryWord (flags : FlagByte) (nan : Bool) (sat : Nat) : DWord :=
  BitVec.ofNat 64 (flags.toNat + b2n nan <<< 8 + (min sat 65535) <<< 16)

end Sys2Proof.Machine
end

