-- ==== Sys2Proof/Machine/TileCompute.lean ====
section
/-! DEFINITION. What one tile's array, load unit and vector engine do in one fc: events that fall due, issues, and the
reads and results of what is under way (R53 to R75, R81, R82, R87 to R118, R569, R573 to R575, R580 to R584). -/

namespace Sys2Proof.Machine

/-! ### Registers and silt -/

def Tile.xGet (t : Tile) (r : Nat) : Word := t.x.getD r 0

def Tile.xSet (t : Tile) (r : Nat) (v : Word) : Tile := { t with x := t.x.setIfInBounds r v }

def Tile.qGet (t : Tile) (r : Nat) : DWord := t.q.getD r 0

/-- Bytes of silt in service (R81). -/
def siltSize : Nat := 0x180000

def siltIn (a n : Nat) : Bool := decide (a + n ≤ siltSize)

def Queued.reg (q : Queued) (r : BitVec 4) : Word := q.x.getD r.toNat 0

/-! ### Accesses to the banks (R81, R83) -/

/-- The 64-byte rows that `n` bytes from `a` touch. -/
def rowsOf (a n : Nat) : List Nat := if n = 0 then [] else (List.range ((a % 64 + n + 63) / 64)).map (a / 64 + ·)

/-- One access for each row. -/
def asksOf (rank seq : Nat) (rows : List Nat) : List BankAsk := rows.map fun r => ⟨rank, seq, 0, r⟩

/-- The rows of single bytes: bytes in one row are one access (notes/assumptions/83). -/
def rowsOfBytes (l : List Nat) : List Nat := l.foldl (fun rs a => setInsert rs (a / 64)) []

/-- Bytes cut where a row ends: each piece is one access. -/
def cutRows (a : Nat) (bs : List Byte) : List (Nat × List Byte) :=
  let f := 64 - a % 64
  (a, bs.take f) ::
    (List.range ((bs.length - f + 63) / 64)).map fun k => (a + f + 64 * k, (bs.drop (f + 64 * k)).take 64)

/-- A cause of Table 4.18 raised by the instruction numbered `pc`. -/
def stopAt (cause pc : Nat) : AbortRecord := { cause := cause, instr := pc }

/-- R134: of two causes in one fc, the one with the lower code. -/
def firstStop : Option AbortRecord → Option AbortRecord → Option AbortRecord
  | none, b => b
  | a, none => a
  | some a, some b => if b.cause < a.cause then some b else some a

/-! ### Descriptors (R99, R100, R580) -/

/-- Table 4.4; none when ESTRIDE is 0, which is illegal.  Reserved bits are ignored. -/
def parseDesc (bs : List Byte) : Option Desc :=
  let v := leNat bs
  let es := bitsOf v 111 96
  if es = 0 then none
  else some { ebase := bitsOf v 20 0, xbase := bitsOf v 52 32, sigma := BitVec.ofNat 32 (bitsOf v 95 64), estride := es,
              xstride := bitsOf v 127 112, bdim := bitOf v 134, bsize := 16 * 2 ^ bitsOf v 133 132,
              fmt := Fmt.ofCode (bitsOf v 131 128) }

/-- What an instruction finds in a descriptor slot. -/
inductive SlotRead where
  | illegal
  | wait
  | desc (d : Desc)
  deriving DecidableEq, Repr

/-- R100, R580: slot `i` as the instruction in place `seq` reads it; `queued` tells that a load of the slot dispatched
before it has not issued. -/
def readSlot (slots : Vector Slot 4) (i seq : Nat) (queued : Bool) : SlotRead :=
  let s := slots.getD i {}
  match s.firstSeq with
  | none => .illegal
  | some k =>
    if seq ≤ k then .illegal
    else if queued || s.pending.any (fun p => p.1 < seq) then .wait
    else match s.desc with
      | some d => .desc d
      | none => .wait

/-- A descriptor load into slot `i` has been dispatched in place `seq`. -/
def noteLoad (slots : Vector Slot 4) (i seq : Nat) : Vector Slot 4 :=
  let s := slots.getD i {}
  slots.setIfInBounds i { s with firstSeq := some (s.firstSeq.getD seq) }

def startLoad (slots : Vector Slot 4) (i seq at_ : Nat) (d : Desc) : Vector Slot 4 :=
  let s := slots.getD i {}
  slots.setIfInBounds i { s with pending := s.pending ++ [(seq, at_, d)] }

/-- Loads that have reached their fc become the slot's content. -/
def Slot.settle (now : Nat) (s : Slot) : Slot :=
  let due := s.pending.filter fun p => p.2.1 ≤ now
  { s with desc := (due.getLast?.map fun p => p.2.2).or s.desc, pending := s.pending.filter fun p => now < p.2.1 }

def Tile.matrixSlot (t : Tile) (i : BitVec 2) (seq : Nat) : SlotRead :=
  readSlot t.mslots i.toNat seq (t.loadQ.any fun q =>
    match q.word with
    | .mat .mdesc f => q.seq < seq && f.sla == i
    | _ => false)

def Tile.vectorSlot (t : Tile) (i : BitVec 2) (seq : Nat) : SlotRead :=
  readSlot t.vslots i.toNat seq (t.vecQ.any fun q =>
    match q.word with
    | .vec .vdesc f => q.seq < seq && f.sls == i
    | _ => false)

/-! ### Events that fall due -/

/-- R67: visible in the order of reservation, 3 fc after enqueue. -/
def showEntries (now : Nat) : List Entry → List Entry
  | [] => []
  | e :: es => if e.enqueued && e.enqueueAt + 3 ≤ now then { e with visible := true } :: showEntries now es else e :: es

/-- Enqueue, visibility and release of hand-off entries (R67, R68, R87). -/
def Tile.entriesDue (now : Nat) (t : Tile) : Tile :=
  let kept := t.hq.filter fun e => match e.releaseAt with
    | some r => now < r
    | none => true
  let marked := kept.map fun e => if e.enqueueAt ≤ now then { e with enqueued := true } else e
  { t with hq := showEntries now marked }

/-- R60: the shadow set is complete at s + L + 6. -/
def LoadRun.completeAt (r : LoadRun) : Nat := r.issue + r.rows + 6

def LoadRun.block (r : LoadRun) : Block :=
  let e := 64 * r.elems
  { fmt := r.desc.fmt, sigma := r.desc.sigma, bsize := r.desc.bsize, data := r.data.take e, exps := r.data.drop e }

def Tile.loadsDue (now : Nat) (t : Tile) : Tile :=
  match t.loads.find? fun r => r.completeAt ≤ now with
  | some r => { t with shadow := some r.block, loads := t.loads.filter fun l => now < l.completeAt }
  | none => t

/-- The result register write of a vector instruction (R75): reductions always write `qQ`. -/
def VecRun.writesQ (r : VecRun) : Bool := vecClass r.op == .reduce || (r.f.sum == 1 && r.op != .vdesc)

/-- R70: fc of the last result. -/
def VecRun.lastAt (r : VecRun) : Nat :=
  if r.op = .vdesc then r.issue + 7 else r.issue + r.groups - 1 + vecLatency r.op r.f + r.late

/-- The value a vector instruction leaves in `qQ`. -/
def VecRun.qValue (r : VecRun) : DWord :=
  if vecClass r.op = .reduce then BitVec.ofNat 64 (reduceOut r.op r.f (r.kept.map Elem.a) r.qIn).1
  else summaryWord r.flags r.nan r.sat

/-- R75 and R125: flags set in the fc of the last result, once the banks have taken it (R83), the summary register valid 4 fc
later; the blocks that were limited are on their way to the hub (R51). -/
def Tile.vecsDue (now : Nat) (t : Tile) : Tile :=
  let due := t.vecs.filter fun r => r.lastAt ≤ now
  { t with
    vflags := due.foldl (fun f r => f ||| r.flags) t.vflags
    vecs := t.vecs.filter fun r => now < r.lastAt
    limited := t.limited ++ due.flatMap fun r => r.limited.map fun b => (t.spec, min 255 b.2)
    qPend := t.qPend ++ (due.filter VecRun.writesQ).map fun r => ⟨r.seq, r.f.q, r.qValue, r.lastAt + 4⟩ }

def Tile.qDue (now : Nat) (t : Tile) : Tile :=
  let due := t.qPend.filter fun p => p.validAt ≤ now
  { t with
    q := due.foldl (fun q p => q.setIfInBounds p.q.toNat p.value) t.q
    qPend := t.qPend.filter fun p => now < p.validAt }

/-- R125: a pass's flags are set in the fc of its last result, after what a CWR of that fc clears (R7). -/
def Tile.passesDue (now : Nat) (t : Tile) : Tile :=
  let due := t.passes.filter fun p => passLast p ≤ now
  { t with
    mflags := due.foldl (fun f p => f ||| p.flags) t.mflags
    passes := t.passes.filter fun p => now < passLast p }

def freeDue (now : Nat) (a : Option Nat) : Option Nat := if a.any (· ≤ now) then none else a

/-- Everything that falls due as fc `now` begins. -/
def Tile.due (now : Nat) (t : Tile) : Tile :=
  let t := ((t.entriesDue now).loadsDue now).qDue now
  { t with
    mslots := t.mslots.map (Slot.settle now), vslots := t.vslots.map (Slot.settle now)
    accFree0 := freeDue now t.accFree0, accFree1 := freeDue now t.accFree1 }

/-! ### Issue -/

/-- What the front of a sub-queue may do. -/
inductive Try (α : Type) where
  | hold
  | bad (cause : Nat)
  | go (a : α)
  deriving DecidableEq, Repr

/-- Entries of the queue in use: a D64 pair counts twice (R64). -/
def heldEntries (hq : List Entry) : Nat := (hq.map fun e => if e.d64 then 2 else 1).foldl (· + ·) 0

/-- A K operand's slot: BDIM 0, B 16 or 32 (R105). -/
def kSlotLegal (d : Desc) : Bool := !d.fmt.isK || (!d.bdim && (d.bsize == 16 || d.bsize == 32))

/-- Fields of MPASS that its kind does not use are zero (R97, R110, R584). -/
def passFieldsLegal (f : MatF) : Bool :=
  f.rsv == 0 && f.kind != 3 &&
  (if f.kind = 2 then f.swp == 0 && (f.msk == 1 || f.sm == 0) else f.msk == 0 && f.slb == 0 && f.sm == 0)

/-- R102: element address of a matrix operand. -/
def operandAddr (d : Desc) (r : Word) : Nat := if scaledFmt d.fmt then d.ebase + r.toNat else r.toNat

/-- R105: exponents of streamed row m occupy bytes that do not cross a 64-byte boundary. -/
def expsLegal (base stride n : Nat) : Bool := (List.range 32).all fun m => decide ((base + m * stride) % 64 + n ≤ 64)

/-- What holds the front of the pass sub-queue, but for a free entry: a descriptor slot, an accumulator set that is being
drained, a block not yet complete (R60, R100, R573). -/
def Tile.passHeld (t : Tile) (q : Queued) (f : MatF) : Bool :=
  t.matrixSlot f.sla q.seq == .wait || (f.kind == 2 && t.matrixSlot f.slb q.seq == .wait) ||
    (if f.acc = 1 then t.accFree1 else t.accFree0).isSome || (f.kind != 2 && f.swp == 1 && t.shadow.isNone)

/-- Entries that the front of the pass sub-queue reserves if it drains: two for D64 (R64, R65). -/
def Tile.passEntries (t : Tile) (q : Queued) (f : MatF) : Nat :=
  if f.drn = 1 then
    (match t.matrixSlot f.sla q.seq with
     | .desc a => if a.fmt = .d64 then 2 else 1
     | _ => 1)
  else 0

/-- The front of the pass sub-queue in the fc in which it issues: its run, or the cause that it meets (R97 to R110, R581). -/
def Tile.passTry (t : Tile) (now : Nat) (q : Queued) (f : MatF) : Nat ⊕ PassRun :=
  match t.matrixSlot f.sla q.seq, t.matrixSlot f.slb q.seq with
  | .desc a, sb =>
    let b? : Option Desc := match sb with
      | .desc d => if f.kind = 2 then some d else none
      | _ => none
    let block := if f.kind = 2 then none else if f.swp = 1 then t.shadow else t.active
    let other := if f.kind = 2 then b?.map Desc.fmt else block.map Block.fmt
    let aAddr := operandAddr a (q.reg f.sa)
    let bAddr := match b? with
      | some d => operandAddr d (q.reg f.sx)
      | none => 0
    let aExp := a.xbase + (q.reg f.sx).toNat
    let nExp := expsPerColumn a.fmt a.bsize
    let mAddr := (q.reg f.sm).toNat
    if !passFieldsLegal f || other != some a.fmt || !passFormat f.kind.toNat a.fmt || !kSlotLegal a then .inl 1
    else if f.kind != 2 && !a.fmt.isK && f.sx != 0 then .inl 1
    else if aAddr % 64 != 0 || bAddr % 64 != 0 then .inl 1
    else if a.fmt.isK && !expsLegal aExp a.xstride nExp then .inl 1
    else if f.msk = 1 && mAddr % 8 != 0 then .inl 1
    else if f.msk = 1 && !siltIn mAddr 8 then .inl 2
    else
      let w := if f.msk = 1 then leNat (memRead t.silt mAddr 8) else 0x1FFFFFFFF
      .inr { seq := q.seq, pc := q.pc, issue := now, kind := f.kind.toNat, set := f.acc == 1, fmt := a.fmt,
             drn := f.drn == 1, clr := f.clr == 1, zero := !bitOf w 32, mask := BitVec.ofNat 32 w,
             a := a, aAddr := aAddr, aExp := aExp, b := b?, bAddr := bAddr, block := block, done := 0, flags := 0 }
  | _, _ => .inl 1

/-- A pass issues: the swap, the entry reserved, the set bound to the drain. -/
def Tile.passStart (t : Tile) (p : PassRun) (swap : Bool) : Tile :=
  let last := p.issue + enqueueAfter p.kind p.fmt p.zero
  let e : Entry := { seq := p.seq, d64 := p.fmt == .d64, words := [], enqueueAt := last, enqueued := false,
                     visible := false, releaseAt := none }
  let t := { t with
    passQ := t.passQ.drop 1, passes := t.passes ++ [p], passFree := p.issue + passOccupancy p.fmt p.zero
    heldEntry := none, heldSwap := none, hq := if p.drn then t.hq ++ [e] else t.hq }
  let t := if swap then { t with active := p.block, shadow := none } else t
  if p.drn && !p.zero then
    (if p.set then { t with accFree1 := some (last + 1) } else { t with accFree0 := some (last + 1) })
  else t

/-- The pass sub-queue at fc `now`.  A pass that a slot, a block or an accumulator set holds is not held for an entry: the
count of R66 runs only while nothing else holds it (DESIGN CHOICE: R65 does not say; notes/assumptions/84). -/
def Tile.issuePass (now : Nat) (t : Tile) : Tile × Option AbortRecord :=
  match t.passQ with
  | [] => (t, none)
  | q :: _ =>
    match q.word with
    | .mat .mpass f =>
      if now ≤ q.at_ || now < t.passFree then (t, none)
      else if t.passHeld q f then
        let starved := f.swp == 1 && f.kind != 2 && t.shadow.isNone
        ({ t with heldEntry := none, heldSwap := if starved then some (t.heldSwap.getD now) else none }, none)
      else if 4 < heldEntries t.hq + t.passEntries q f then
        ({ t with heldEntry := some (t.heldEntry.getD now), heldSwap := none }, none)
      else
        match t.passTry now q f with
        | .inl c => (t, some (stopAt c q.pc))
        | .inr p =>
          let mask := if f.msk = 1 then asksOf 2 q.seq (rowsOf (q.reg f.sm).toNat 8) else []
          ({ t.passStart p (f.swp == 1) with asks := t.asks ++ mask }, none)
    | _ => (t, none)

/-- Fields of MLOAD and MDESC that they do not use are zero (R584). -/
def loadFieldsLegal (f : MatF) : Bool :=
  f.rsv == 0 && f.kind == 0 && f.acc == 0 && f.clr == 0 && f.drn == 0 && f.swp == 0 && f.msk == 0 && f.slb == 0 &&
    f.sm == 0

/-- The stationary load sub-queue at fc `now` (R60, R99, R104, R105, R107). -/
def Tile.issueLoad (now : Nat) (t : Tile) : Tile × Option AbortRecord :=
  match t.loadQ with
  | [] => (t, none)
  | q :: rest =>
    if now ≤ q.at_ || now < t.loadFree then (t, none)
    else
      match q.word with
      | .mat .mdesc f =>
        let a := (q.reg f.sa).toNat
        if !loadFieldsLegal f || f.sx != 0 || a % 32 != 0 then (t, some (stopAt 1 q.pc))
        else if !siltIn a 32 then (t, some (stopAt 2 q.pc))
        else
          match parseDesc (memRead t.silt a 32) with
          | none => (t, some (stopAt 1 q.pc))
          | some d =>
            ({ t with loadQ := rest, loadFree := now + 1, mslots := startLoad t.mslots f.sla.toNat q.seq (now + 7) d
                      asks := t.asks ++ asksOf 2 q.seq [a / 64] },
              none)
      | .mat .mload f =>
        match t.matrixSlot f.sla q.seq with
        | .illegal => (t, some (stopAt 1 q.pc))
        | .wait => (t, none)
        | .desc d =>
          let addr := operandAddr d (q.reg f.sa)
          let xaddr := d.xbase + (q.reg f.sx).toNat
          if !loadFieldsLegal f || d.fmt.isInt || !kSlotLegal d || (!d.fmt.isK && f.sx != 0) || addr % 64 != 0 ||
              (d.fmt.isK && xaddr % 64 != 0) then (t, some (stopAt 1 q.pc))
          else
            let rows := elemRows d.fmt + expRows d.fmt d.bsize
            let r : LoadRun := { seq := q.seq, pc := q.pc, issue := now, rows := rows, elems := elemRows d.fmt, addr := addr,
                                 xaddr := xaddr, desc := d, data := [] }
            ({ t with loadQ := rest, loadFree := now + rows, loads := t.loads ++ [r] }, none)
      | _ => (t, none)

/-- A silt operand or destination of a vector instruction: address as R102 and R111 give it. -/
def vectorAddr (d : Option Desc) (r : Word) : Nat :=
  match d with
  | some d => d.ebase + r.toNat
  | none => r.toNat

/-- An earlier vector instruction that names `q` has not made it valid (R95, R118). -/
def Tile.qBusy (t : Tile) (q : BitVec 3) (before : Nat) : Bool :=
  (t.vecQ.any fun e => match e.word with
    | .vec op f => e.seq < before && f.q == q && op != .vdesc && (vecClass op == .reduce || f.sum == 1)
    | _ => false) ||
  (t.vecs.any fun r => r.seq < before && r.f.q == q && r.writesQ) ||
  (t.qPend.any fun p => p.seq < before && p.q == q)

/-- The descriptor slots a VCVT reads. -/
def cvtSlot (t : Tile) (seq : Nat) (fmt : Fmt) (i : BitVec 2) : SlotRead :=
  match t.vectorSlot i seq with
  | .desc d => if d.fmt = fmt then .desc d else .illegal
  | r => r

/-- The silt ranges a vector instruction reads and writes, with whether each must be 64-byte aligned (R111, R116,
R117). -/
def vectorRanges (op : VecOp) (f : VecF) (src tgt : Option Desc) (x : BitVec 4 → Word) : List (Nat × Nat × Bool) :=
  let n := VecF.n f
  let sf := VecF.sfmt f
  let tf := VecF.tfmt f
  let cvt := op == .vcvt
  let one (s : BitVec 6) : List (Nat × Nat × Bool) :=
    if selKind s = .silt then [((x (selReg s)).toNat, planeBytes sf n, true)] else []
  let a := if cvt && selKind f.oa == .silt then [(vectorAddr src (x (selReg f.oa)), planeBytes sf n, true)] else one f.oa
  let b :=
    if cvt then
      match src with
      | some d => if sf.isK then [(d.xbase + (x (selReg f.ob)).toNat, ceilDiv n d.bsize, false)] else []
      | none => []
    else one f.ob
  let c :=
    if cvt then
      match tgt with
      | some d => if tf.isK then [(d.xbase + (x (selReg f.oc)).toNat, ceilDiv n d.bsize, false)] else []
      | none => []
    else one f.oc
  let d := if vecClass op = .reduce then [] else [(vectorAddr tgt (x f.sd), planeBytes tf n, true)]
  a ++ b ++ c ++ d

/-- The slots that a vector instruction waits for: those of the F8 and K formats of a VCVT. -/
def Tile.vecSlots (t : Tile) (q : Queued) (op : VecOp) (f : VecF) : SlotRead × SlotRead :=
  let none' : SlotRead := .desc { ebase := 0, xbase := 0, sigma := 0, estride := 1, xstride := 0, bdim := false,
                                  bsize := 16, fmt := .s32 }
  (if op = .vcvt && scaledFmt (VecF.sfmt f) then cvtSlot t q.seq (VecF.sfmt f) f.sls else none',
    if op = .vcvt && scaledFmt (VecF.tfmt f) then cvtSlot t q.seq (VecF.tfmt f) f.slt else none')

/-- The oldest visible entry not released (R67). -/
def Tile.frontEntry (t : Tile) : Option Entry := t.hq.find? fun e => e.visible && e.releaseAt.isNone

/-- What holds the front of the vector sub-queue: a descriptor slot, an entry not yet visible, a summary register that a
reduction takes in (R67, R100, R118). -/
def Tile.vecHeld (t : Tile) (q : Queued) (op : VecOp) (f : VecF) : Bool :=
  (t.vecSlots q op f).1 == .wait || (t.vecSlots q op f).2 == .wait || (usesHandoff f && t.frontEntry.isNone) ||
    (vecClass op == .reduce && f.acc == 1 && t.qBusy f.q q.seq)

/-- The front of the vector sub-queue in the fc in which it issues: its run, or the cause that it meets (R97, R111 to R118,
R569, R580). -/
def Tile.vecTry (t : Tile) (now : Nat) (q : Queued) (op : VecOp) (f : VecF) : Nat ⊕ VecRun :=
  let sf := VecF.sfmt f
  let tf := VecF.tfmt f
  match t.vecSlots q op f with
  | (.desc ds, .desc dt) =>
    let src := if op = .vcvt && scaledFmt sf then some ds else none
    let tgt := if op = .vcvt && scaledFmt tf then some dt else none
    let entry := if usesHandoff f then t.frontEntry else none
    let ranges := vectorRanges op f src tgt q.reg
    if !fieldsLegal op f || usesHandoff f && decide (sf ≠ (if entry.any Entry.d64 then .d64 else .s32)) then .inl 1
    else if ranges.any fun r => r.2.2 && r.1 % 64 != 0 then .inl 1
    else if ranges.any fun r => !siltIn r.1 r.2.1 then .inl 2
    else
      .inr { seq := q.seq, pc := q.pc, issue := now, op := op, f := f, x := q.x, src := src, tgt := tgt,
             entry := entry.map Entry.words, entryD64 := entry.any Entry.d64, qIn := t.qGet f.q.toNat,
             groups := vecGroups op f, done := 0, kept := [], flags := 0, nan := false, sat := 0, limited := [],
             late := if vecClass op = .special then t.lateSpecial else 0 }
  | _ => .inl 1

/-- The entry that a releasing instruction reads is freed in the fc after its last read (R68). -/
def releaseFirst (at_ : Nat) : List Entry → List Entry
  | [] => []
  | e :: es => if e.visible && e.releaseAt.isNone then { e with releaseAt := some at_ } :: es else e :: releaseFirst at_ es

/-- The vector sub-queue at fc `now`. -/
def Tile.issueVec (now : Nat) (t : Tile) : Tile × Option AbortRecord :=
  match t.vecQ with
  | [] => (t, none)
  | q :: rest =>
    if now ≤ q.at_ || now < t.vecFree then (t, none)
    else
      match q.word with
      | .vec .vdesc f =>
        let a := (q.reg f.sd).toNat
        if !fieldsLegal .vdesc f || a % 32 != 0 then (t, some (stopAt 1 q.pc))
        else if !siltIn a 32 then (t, some (stopAt 2 q.pc))
        else
          match parseDesc (memRead t.silt a 32) with
          | none => (t, some (stopAt 1 q.pc))
          | some d =>
            ({ t with vecQ := rest, vecFree := now + 1, vslots := startLoad t.vslots f.sls.toNat q.seq (now + 7) d
                      asks := t.asks ++ asksOf 3 q.seq [a / 64] },
              none)
      | .vec op f =>
        if t.vecHeld q op f then (t, none)
        else
          match t.vecTry now q op f with
          | .inl c => (t, some (stopAt c q.pc))
          | .inr r =>
            let hq := if usesHandoff f && f.rel == 1 then releaseFirst (now + r.groups) t.hq else t.hq
            ({ t with vecQ := rest, vecFree := now + r.groups, vecs := t.vecs ++ [r], hq := hq }, none)
      | _ => (t, none)

/-! ### Reads and results -/

/-- One streamed row, or pair of rows, of a pass taken at fc `now`: silt addresses checked, products added, and with the
last row the entry's words formed (R53 to R58, R62). -/
def passRow (silt : Map Byte) (acc : Map Word) (p : PassRun) (m : Nat) : Option (PassRun × Map Word) :=
  let n := rowBytes p.kind p.fmt
  let ra := p.aAddr + m * 64 * p.a.estride
  let ne := expsPerColumn p.fmt p.a.bsize
  let re := p.aExp + m * p.a.xstride
  let rb := p.bAddr + m * 64 * ((p.b.map Desc.estride).getD 0)
  if !siltIn ra n || (p.fmt.isK && !siltIn re ne) || (p.kind == 2 && !siltIn rb n) then none
  else
    let acc := if p.clr && m == 0 then [] else acc
    let elems := 32 * perCell p.kind p.fmt
    let a := rowVals p.fmt elems (max p.a.bsize 1) (memRead silt ra n) (memRead silt re ne)
    let r :=
      if p.kind = 2 then
        addOuter p.fmt p.mask a (rowVals p.fmt elems 1 (memRead silt rb n) []) acc
      else
        let cols := match p.block with
          | some b => (List.range 32).map (b.column p.kind)
          | none => []
        addRow p.fmt p.kind m a cols acc
    some ({ p with done := m + 1, flags := p.flags ||| r.2 }, r.1)

/-- The accesses of streamed row `m` and its exponents, and of row b of an outer-product pass (R87, R105). -/
def PassRun.rowAsks (p : PassRun) (m : Nat) : List BankAsk :=
  let n := rowBytes p.kind p.fmt
  asksOf 1 p.seq (rowsOf (p.aAddr + m * 64 * p.a.estride) n ++
    (if p.fmt.isK then rowsOf (p.aExp + m * p.a.xstride) (expsPerColumn p.fmt p.a.bsize) else []) ++
    (if p.kind = 2 then rowsOf (p.bAddr + m * 64 * ((p.b.map Desc.estride).getD 0)) n else []))

def Tile.accOf (t : Tile) (set : Bool) : Map Word := if set then t.acc1 else t.acc0

def Tile.setAcc (t : Tile) (set : Bool) (v : Map Word) : Tile := if set then { t with acc1 := v } else { t with acc0 := v }

/-- The words of the entry that place `seq` reserved. -/
def fillEntry (seq : Nat) (w : Map Word) (hq : List Entry) : List Entry :=
  hq.map fun e => if e.seq = seq then { e with words := w } else e

/-- The pass that takes a row at fc `now`. -/
def Tile.readPass (now : Nat) (t : Tile) : Tile × Option AbortRecord :=
  let r (p : PassRun) := fcPerRow p.fmt
  match t.passes.find? fun p => !p.zero && p.done < 32 && now == p.issue + p.done * r p with
  | none => (t, none)
  | some p =>
    match passRow t.silt (t.accOf p.set) p p.done with
    | none => (t, some (stopAt 2 p.pc))
    | some (p', acc) =>
      let (w, fl) := if p'.done = 32 && p.drn then drainWords p' acc else ([], 0)
      let p'' := { p' with flags := p'.flags ||| fl }
      let t := t.setAcc p.set acc
      let t := { t with passes := t.passes.map (fun o => if o.seq = p.seq then p'' else o)
                        asks := t.asks ++ p.rowAsks p.done }
      (if p'.done = 32 && p.drn then { t with hq := fillEntry p.seq w t.hq } else t, none)

/-- Silt row `j` of a stationary load: element plane first, then exponents. -/
def LoadRun.rowAddr (r : LoadRun) (j : Nat) : Nat :=
  if j < r.elems then r.addr + 64 * j else r.xaddr + 64 * (j - r.elems)

/-- The load that reads a row at fc `now`; a first row that arrives spoils a block not swapped (R107). -/
def Tile.readLoad (now : Nat) (t : Tile) : Tile × Option AbortRecord :=
  let t := if t.loads.any fun r => now == r.issue + 6 then { t with shadow := none } else t
  match t.loads.find? fun r => now == r.issue + r.data.length / 64 && decide (now < r.issue + r.rows) with
  | none => (t, none)
  | some r =>
    let a := r.rowAddr (r.data.length / 64)
    if !siltIn a 64 then (t, some (stopAt 2 r.pc))
    else
      let r' := { r with data := r.data ++ memRead t.silt a 64 }
      ({ t with loads := t.loads.map (fun o => if o.seq = r.seq then r' else o)
                asks := t.asks ++ asksOf 2 r.seq [a / 64] }, none)

/-- Element `i` of a selector, in format `sf` (R111 to R113). -/
def operandCode (silt : Map Byte) (r : VecRun) (sel : BitVec 6) (src : Option Desc) (i : Nat) : Nat :=
  let sf := VecF.sfmt r.f
  match selKind sel with
  | .silt =>
    let a := vectorAddr src (r.x.getD (selReg sel).toNat 0)
    let bit := i * sf.bits
    let bytes := memRead silt (a + bit / 8) ((bit % 8 + sf.bits + 7) / 8)
    (leNat bytes >>> (bit % 8)) % 2 ^ sf.bits
  | .broadcast =>
    let k := (selReg sel).toNat
    let lo := (r.x.getD k 0).toNat
    if sf = .d64 then lo + (r.x.getD (k + 1) 0).toNat * 2 ^ 32 else lo % 2 ^ sf.bits
  | .handoff =>
    let w := r.entry.getD []
    if r.entryD64 then (mapGet 0 w (2 * i)).toNat + (mapGet 0 w (2 * i + 1)).toNat * 2 ^ 32 else (mapGet 0 w i).toNat
  | .absent => 0

/-- R575, R117: the exponent byte of element `i`, read when its block's first element is read, kept until then. -/
def exponentCode (silt : Map Byte) (r : VecRun) (sel : BitVec 6) (d : Option Desc) (i prev : Nat) : Nat :=
  match d with
  | some d =>
    if d.fmt.isK then
      (if i % d.bsize = 0 then (mapGet 0 silt (d.xbase + (r.x.getD (selReg sel).toNat 0).toNat + i / d.bsize)).toNat
       else prev)
    else 0
  | none => 0

/-- The grit draw of an element (R80): the lowest byte lane it occupies in the target, in the fc that R70 gives its write
(notes/assumptions/83). -/
def elementDraw (gen unit off : Nat) (r : VecRun) (at_ i : Nat) : Nat :=
  if r.f.rm = 6 then
    gritDraw gen unit ((i % elemsPerFc r.op r.f) * (VecF.tfmt r.f).bits / 8) (at_ - off)
  else 0

/-- The elements of the group read at fc `now`. -/
def groupElems (silt : Map Byte) (gen unit off : Nat) (r : VecRun) (now : Nat) : List Elem :=
  let e := elemsPerFc r.op r.f
  let n := VecF.n r.f
  let first := r.done * e
  let cnt := min e (n - first)
  let step (acc : List Elem × Elem) (k : Nat) : List Elem × Elem :=
    let i := first + k
    let g := elementDraw gen unit off r (now + vecLatency r.op r.f + r.late) i
    let el : Elem :=
      if r.op = .vcvt then
        { a := operandCode silt r r.f.oa r.src i, b := exponentCode silt r r.f.ob r.src i acc.2.b,
          c := exponentCode silt r r.f.oc r.tgt i acc.2.c, g := g }
      else
        { a := operandCode silt r r.f.oa none i, b := operandCode silt r r.f.ob none i,
          c := operandCode silt r r.f.oc none i, g := g }
    (acc.1 ++ [el], el)
  ((List.range cnt).foldl step ([], r.kept.getLast?.getD ⟨0, 0, 0, 0⟩)).1

/-- The writes of results that fall in one fc, row by row. -/
def ownWrites (seq plane at_ : Nat) (w : Nat × List Byte) : List SiltWrite :=
  (cutRows w.1 w.2).map fun p => { at_ := at_, addr := p.1, bytes := p.2, own := some (seq, plane) }

/-- Codes packed from element `first` on, the other bits of the last byte as silt holds them. -/
def packInto (silt : Map Byte) (f : Fmt) (base first : Nat) (codes : List Nat) : Nat × List Byte :=
  let a := base + first * f.bits / 8
  let bs := planePack f.bits codes
  let used := codes.length * f.bits % 8
  let keep := (mapGet 0 silt (a + bs.length - 1)) &&& ~~~(BitVec.ofNat 8 (2 ^ used - 1))
  (a, if used = 0 then bs else bs.set (bs.length - 1) ((bs.getLastD 0) ||| keep))

/-- A block of a conversion into a K format has its exponent chosen: it lies wholly within the elements and begins on a
block boundary of the destination (R116). -/
def blockChosen (r : VecRun) (d : Desc) (j : Nat) : Bool :=
  let off := (r.x.getD r.f.sd.toNat 0).toNat
  decide (off * 8 % (d.bsize * d.fmt.bits) = 0) && decide ((j + 1) * d.bsize ≤ VecF.n r.f)

/-- The accesses of a group: the rows of each stream of elements, and the block exponents that the group reads (R575). -/
def VecRun.groupAsks (r : VecRun) : List BankAsk :=
  let e := elemsPerFc r.op r.f
  let sf := VecF.sfmt r.f
  let first := r.done * e
  let cnt := min e (VecF.n r.f - first)
  let reg (sel : BitVec 6) : Nat := (r.x.getD (selReg sel).toNat 0).toNat
  let plane (base : Nat) : List Nat := rowsOf (base + first * sf.bits / 8) ((cnt * sf.bits + 7) / 8)
  let elems (sel : BitVec 6) : List Nat := if selKind sel = .silt then plane (reg sel) else []
  let exps (d : Desc) (sel : BitVec 6) (all : Bool) : List Nat :=
    rowsOfBytes (((List.range (ceilDiv (VecF.n r.f) d.bsize)).filter fun j =>
      decide (first ≤ j * d.bsize) && decide (j * d.bsize < first + cnt) && (all || !blockChosen r d j)).map
        fun j => d.xbase + reg sel + j)
  let k (d : Option Desc) (sel : BitVec 6) (all : Bool) : List Nat := match d with
    | some d => if d.fmt.isK then exps d sel all else []
    | none => []
  asksOf 3 r.seq
    (if r.op = .vcvt then
      (if selKind r.f.oa = .silt then plane (vectorAddr r.src (r.x.getD (selReg r.f.oa).toNat 0)) else []) ++
        k r.src r.f.ob true ++ k r.tgt r.f.oc false
    else elems r.f.oa ++ elems r.f.ob ++ elems r.f.oc)

/-- Results of a group of a VCVT into a K format: blocks completed, and elements of held blocks (R36, R116, R575). -/
def cvtGroup (silt : Map Byte) (r : VecRun) (d : Desc) (at_ first : Nat) (all es : List Elem) :
    List SiltWrite × FlagByte × Map Nat :=
  let base := d.ebase + (r.x.getD r.f.sd.toNat 0).toNat
  let xb := d.xbase + (r.x.getD (selReg r.f.oc).toNat 0).toNat
  let stop := first + es.length
  let js := (List.range (ceilDiv stop d.bsize)).filter fun j => decide (first < (j + 1) * d.bsize)
  js.foldl (fun acc j =>
    if blockChosen r d j then
      if (j + 1) * d.bsize ≤ stop then
        let o := cvtBlock r.f r.src r.tgt ((all.drop (j * d.bsize)).take d.bsize)
        let w := packInto silt d.fmt base (j * d.bsize) o.codes
        (acc.1 ++ ownWrites r.seq 0 at_ w ++ ownWrites r.seq 1 at_ (xb + j, [BitVec.ofNat 8 o.x]), acc.2.1 ||| o.flags,
          mapSet 0 acc.2.2 j o.limited)
      else acc
    else
      let lo := max first (j * d.bsize)
      let hi := min stop ((j + 1) * d.bsize)
      let outs := (((all.drop lo).take (hi - lo)).map fun e => cvtElem r.f r.src r.tgt e.b e.c e)
      let w := packInto silt d.fmt base lo (outs.map ElemOut.code)
      (acc.1 ++ ownWrites r.seq 0 at_ w, acc.2.1 ||| flagsOr (outs.map ElemOut.flags),
        mapSet 0 acc.2.2 j (mapGet 0 acc.2.2 j + limitedOf outs))) ([], 0, r.limited)

/-- What elements of a target without blocks leave in the instruction's flags and counts (R51, R71, R75). -/
def VecRun.plain (tf : Fmt) (outs : List ElemOut) (r : VecRun) : VecRun :=
  { r with
    flags := r.flags ||| flagsOr (outs.map ElemOut.flags)
    sat := r.sat + (outs.filter ElemOut.sat).length
    nan := r.nan || outs.any fun o => isNanCode tf o.code
    limited := mapSet 0 r.limited 0 (mapGet 0 r.limited 0 + limitedOf outs) }

/-- One fc group of a vector instruction (R69, R74, R75). -/
def vecGroup (silt : Map Byte) (gen unit off : Nat) (r : VecRun) (now : Nat) : VecRun × List SiltWrite :=
  let at_ := now + vecLatency r.op r.f + r.late
  let first := r.done * elemsPerFc r.op r.f
  let es := groupElems silt gen unit off r now
  let all := r.kept ++ es
  let r := { r with done := r.done + 1, kept := all }
  let tf := VecF.tfmt r.f
  if vecClass r.op = .reduce then
    (if r.done = r.groups then { r with flags := (reduceOut r.op r.f (all.map Elem.a) r.qIn).2 } else r, [])
  else
    match r.tgt with
    | some d =>
      if d.fmt.isK then
        let o := cvtGroup silt r d at_ first all es
        ({ r with flags := r.flags ||| o.2.1, limited := o.2.2 }, o.1)
      else
        let outs := es.map fun e => cvtElem r.f r.src r.tgt e.b 0 e
        let w := packInto silt tf (d.ebase + (r.x.getD r.f.sd.toNat 0).toNat) first (outs.map ElemOut.code)
        (r.plain tf outs, ownWrites r.seq 0 at_ w)
    | none =>
      let outs := es.map fun e => if r.op = .vcvt then cvtElem r.f r.src none e.b 0 e else elemOut r.op r.f e
      let w := packInto silt tf (r.x.getD r.f.sd.toNat 0).toNat first (outs.map ElemOut.code)
      (r.plain tf outs, ownWrites r.seq 0 at_ w)

/-- The vector instruction that handles a group at fc `now`. -/
def Tile.readVec (gen unit off now : Nat) (t : Tile) : Tile :=
  match t.vecs.find? fun r => now == r.issue + r.done && decide (r.done < r.groups) with
  | none => t
  | some r =>
    let o := vecGroup t.silt gen unit off r now
    { t with vecs := t.vecs.map (fun v => if v.seq = r.seq then o.1 else v), landing := t.landing ++ o.2
             asks := t.asks ++ r.groupAsks }

/-- Bytes that land at the end of fc `now`. -/
def Tile.land (now : Nat) (t : Tile) : Tile :=
  { t with
    silt := t.landing.foldl (fun m w => if w.at_ ≤ now then memWrite m w.addr w.bytes else m) t.silt
    landing := t.landing.filter fun w => now < w.at_ }

/-! ### Timeouts (R66, R108) -/

def Tile.timeouts (now : Nat) (t : Tile) : Option AbortRecord :=
  let frontPc := (t.passQ.head?.map Queued.pc).getD 0
  let a := if t.heldEntry.any fun s => s + 4096 ≤ now then some (stopAt 4 frontPc) else none
  let b := if t.heldSwap.any fun s => s + 4096 ≤ now then some (stopAt 5 frontPc) else none
  firstStop a b

/-! ### The place of dispatch (R91, R97, R98) -/

/-- The tile stands at a place of its program that no instruction can be dispatched from: past instruction 4,095, or at a word
that spells no instruction. -/
def Tile.atNone (t : Tile) : Bool :=
  t.phase == .running && (t.pc == 4096 || (decodeTile (mapGet 0 t.store t.pc)).isNone)

/-- The cause that such a place raises in the fc in which the next dispatch would be made. -/
def Tile.fetchStop (now : Nat) (t : Tile) : Option AbortRecord :=
  if t.atNone && decide (t.nextDispatch ≤ now) && t.heldEntry.isNone then
    (if t.pc = 4096 then some (stopAt 9 4095) else some (stopAt 1 t.pc))
  else none

/-! ### Finishing (R124, R188) -/

/-- Whether every instruction of the named sub-queues in a place below `upTo` has written its last result by fc `now`;
bits of `mask` as SYNC names them. -/
def Tile.finished (t : Tile) (mask : BitVec 4) (upTo now : Nat) : Bool :=
  let early (q : List Queued) := q.any fun e => e.seq < upTo
  let slots (v : Vector Slot 4) := v.toList.any fun s => s.pending.any fun p => p.1 < upTo && decide (now < p.2.1)
  (!mask.getLsbD 0 || !(early t.passQ || t.passes.any fun p => p.seq < upTo && decide (now < passLast p))) &&
  (!mask.getLsbD 1 ||
    !(early t.loadQ || slots t.mslots || t.loads.any fun r => r.seq < upTo && decide (now < r.issue + r.rows + 5))) &&
  (!mask.getLsbD 2 ||
    !(early t.vecQ || slots t.vslots || t.vecs.any fun r => r.seq < upTo && decide (now < r.lastAt))) &&
  (!mask.getLsbD 3 || !(early t.xferQ || t.xfer.any fun r => r.seq < upTo))

/-- Whether nothing of the tile changes as fc pass. -/
def Tile.quiet (t : Tile) : Bool :=
  t.passQ.isEmpty && t.loadQ.isEmpty && t.vecQ.isEmpty && t.xferQ.isEmpty && t.passes.isEmpty && t.loads.isEmpty &&
    t.vecs.isEmpty && t.qPend.isEmpty && t.xfer.isNone && t.landing.isEmpty && t.asks.isEmpty && t.accFree0.isNone &&
    t.accFree1.isNone && (t.hq.all fun e => e.visible && e.releaseAt.isNone) &&
    (t.mslots.toList.all fun s => s.pending.isEmpty) && (t.vslots.toList.all fun s => s.pending.isEmpty) &&
    !t.begun && t.later.isNone && !t.atNone &&
    (match t.phase with
     | .syncHold _ _ => false
     | _ => true)

/-- R132: everything under way is discarded; silt, scalar and summary registers keep their contents. -/
def Tile.halt (cause : Nat) (t : Tile) : Tile :=
  { t with
    phase := .aborted cause, passQ := [], loadQ := [], vecQ := [], xferQ := [], passes := [], loads := [], vecs := []
    qPend := [], xfer := none, hq := [], acc0 := [], acc1 := [], accFree0 := none, accFree1 := none, active := none
    shadow := none, heldEntry := none, heldSwap := none, mslots := t.mslots.map (fun s => { s with pending := [] })
    vslots := t.vslots.map (fun s => { s with pending := [] }), landing := t.landing.filter fun w => w.own.isNone
    asks := [], begun := false, stop := none, later := none, port := false }

end Sys2Proof.Machine
end

