-- ==== Sys2Proof/Machine/Banks.lean ====
section
/-! DEFINITION. Silt banks: one access per bank and fc, the order of R83, what a refusal shifts, and the repeat of a read that
fails parity (R83, R84, R86, R100, R109, R119, R190, R575; notes/assumptions/83, 85). -/

namespace Sys2Proof.Machine

/-- R81: the bank of a 64-byte row. -/
def BankAsk.bank (a : BankAsk) : Nat := a.row % 16

/-- The order in which a bank serves: by rank, then the older instruction. -/
def BankAsk.before (a b : BankAsk) : Bool := decide (a.rank < b.rank) || (a.rank == b.rank && decide (a.seq ≤ b.seq))

/-- An access takes its turn behind those that come before it. -/
def insertAsk (a : BankAsk) : List BankAsk → List BankAsk
  | [] => [a]
  | b :: l => if b.before a then b :: insertAsk a l else a :: b :: l

def sortAsks (l : List BankAsk) : List BankAsk := l.foldl (fun s a => insertAsk a s) []

/-- R83: each bank serves the first that asks it; the accesses served, and those refused. -/
def serve : List BankAsk → List Nat → List BankAsk × List BankAsk
  | [], _ => ([], [])
  | a :: l, taken =>
    if taken.contains a.bank then
      let r := serve l taken
      (r.1, a :: r.2)
    else
      let r := serve l (a.bank :: taken)
      (a :: r.1, r.2)

/-- The access of a write of the tile's own. -/
def SiltWrite.ask (w : SiltWrite) : Option BankAsk := w.own.map fun o => ⟨4, o.1, o.2, w.addr / 64⟩

/-- The writes of the tile's own results due in fc `now`, one access for each row of a plane. -/
def Tile.writeAsks (now : Nat) (t : Tile) : List BankAsk :=
  (t.landing.filter fun w => w.at_ ≤ now).foldl (fun l w => match w.ask with
    | some a => if l.contains a then l else l ++ [a]
    | none => l) []

/-- The row of its own that an XPUT or XTILE reads in fc `now` (R189). -/
def Tile.xferAsks (now : Nat) (t : Tile) : List BankAsk :=
  match t.xfer with
  | some r =>
    if r.op != .xget && now == r.issue + 8 + r.done && r.done < r.record.len / 64 then
      asksOf 5 r.seq [(r.addr + 64 * r.done) / 64]
    else []
  | none => []

/-- The delivery that stands at the mesh port in fc `now`: the one that came first. -/
def Tile.delivery? (now : Nat) (t : Tile) : Option SiltWrite := t.landing.find? fun w => w.own.isNone && decide (w.at_ ≤ now)

/-- R190: of the deliveries due in fc `now` the first enters, where it may, and the others wait. -/
def portWaits (now : Nat) : Bool → List SiltWrite → List SiltWrite
  | _, [] => []
  | enters, w :: l =>
    if w.own.isNone && decide (w.at_ ≤ now) then
      (if enters then w else { w with at_ := now + 1 }) :: portWaits now false l
    else w :: portWaits now enters l

/-- Loads of a descriptor slot under way fall due one fc later. -/
def Slot.shift (seq : Nat) (s : Slot) : Slot :=
  { s with pending := s.pending.map fun p => if p.1 = seq then (p.1, p.2.1 + 1, p.2.2) else p }

/-- R83: the remaining events of the instruction in place `q` shift one fc later: its reads and results, the fc in which the
next instruction of its unit may issue, its entry and its accumulator set.  An entry that it releases is freed in the fc
after its last read (R68), which shifts while reads remain (`reads`). -/
def Tile.shift (q : Nat) (reads : Bool) (t : Tile) : Tile :=
  let pass? := t.passes.find? fun p => p.seq == q
  let vec? := t.vecs.find? fun r => r.seq == q
  let names (v : Vector Slot 4) : Bool := v.toList.any fun s => s.pending.any fun p => p.1 == q
  let later := (t.vecs.any fun r => q < r.seq) || t.vslots.toList.any fun s => s.pending.any fun p => q < p.1
  let frees (set : Bool) : Bool := pass?.any fun p => p.drn && !p.zero && p.set == set
  { t with
    passes := t.passes.map fun p => if p.seq = q then { p with issue := p.issue + 1 } else p
    passFree := if pass?.isSome then t.passFree + 1 else t.passFree
    accFree0 := if frees false then t.accFree0.map (· + 1) else t.accFree0
    accFree1 := if frees true then t.accFree1.map (· + 1) else t.accFree1
    hq := t.hq.map fun e =>
      if pass?.isSome && e.seq == q then { e with enqueueAt := e.enqueueAt + 1 }
      else if reads && (vec?.any fun r => e.releaseAt == some (r.issue + r.groups)) then
        { e with releaseAt := e.releaseAt.map (· + 1) }
      else e
    loads := t.loads.map fun r => if r.seq = q then { r with issue := r.issue + 1 } else r
    loadFree := if (t.loads.any fun r => r.seq == q) || names t.mslots then t.loadFree + 1 else t.loadFree
    mslots := t.mslots.map (Slot.shift q)
    vecs := t.vecs.map fun r => if r.seq = q then { r with issue := r.issue + 1 } else r
    vecFree := if (vec?.isSome || names t.vslots) && !later then t.vecFree + 1 else t.vecFree
    vslots := t.vslots.map (Slot.shift q)
    xfer := t.xfer.map fun r => if r.seq = q then { r with issue := r.issue + 1 } else r }

/-- The accesses of fc `now` in the order in which their banks serve them: the tile's own, then the delivery at the port,
unless the port is taken. -/
def Tile.turns (now : Nat) (port : Bool) (t : Tile) : List BankAsk :=
  sortAsks (t.asks ++ t.writeAsks now ++ t.xferAsks now) ++
    (match t.delivery? now with
     | some w => if port then [] else [⟨5, t.seq, 1, w.addr / 64⟩]
     | none => [])

/-- R86: an access that was served but read a row that fails parity, to be repeated in the next fc. -/
def Tile.failsParity (t : Tile) (a : BankAsk) : Bool :=
  (a.rank ≤ 3 || (a.rank == 5 && a.plane == 0)) && t.weak.contains a.row

/-- The banks serve fc `now` (R83): what is refused, or fails parity (R86), is asked again in the next fc, and its instruction
shifts; `port` tells that a row of the tile's own transfer has the mesh port (R119, R190).  With the tile, how many accesses
were refused. -/
def Tile.arbitrate (now : Nat) (port : Bool) (t : Tile) : Tile × Nat :=
  let r := serve (t.turns now port) []
  let failed := r.1.filter t.failsParity
  let mine := (r.2.filter fun a => !(a.rank == 5 && a.plane == 1)) ++ failed
  let late := mine.foldl (fun l a => setInsert l a.seq) []
  let reads (q : Nat) : Bool :=
    (mine.any fun a => a.rank == 3 && a.seq == q) || t.vecs.any fun v => v.seq == q && decide (v.done < v.groups)
  let u := late.foldl (fun u q => u.shift q (reads q)) t
  let enters := !port && r.1.any fun a => a.rank == 5 && a.plane == 1
  ({ u with
      asks := mine.filter fun a => decide (a.rank ≤ 3)
      weak := t.weak.filter fun row => !(failed.any fun a => a.row == row)
      landing := portWaits now enters (t.landing.map fun w => match w.own with
        | some o =>
          if late.contains o.1 && !(decide (w.at_ ≤ now) && w.ask.any fun a => r.1.contains a) then { w with at_ := w.at_ + 1 }
          else w
        | none => w) },
    r.2.length)

/-- R119: the row that holds the record of a transfer that would issue in fc `now`. -/
def Tile.recordRow (before t : Tile) (now : Nat) : Option Nat :=
  match t.xferQ with
  | [] => none
  | q :: _ =>
    match q.word with
    | .xfer _ f =>
      let ra := (q.reg f.sr).toNat
      if now ≤ q.at_ || t.xfer.isSome || now < t.xferFree || !before.finished 7 q.seq (now - 1) || f.rsv != 0 ||
          ra % 32 != 0 || !siltIn ra 32 then none
      else some (ra / 64)
    | _ => none

/-- The banks that instructions under way ask in fc `now` at the ranks before the mesh port's. -/
def Tile.asked (now : Nat) (t : Tile) : List Nat :=
  let pass := match t.passes.find? fun p => !p.zero && p.done < 32 && now == p.issue + p.done * fcPerRow p.fmt with
    | some p => p.rowAsks p.done
    | none => []
  let load := match t.loads.find? fun r => now == r.issue + r.data.length / 64 && decide (now < r.issue + r.rows) with
    | some r => asksOf 2 r.seq [r.rowAddr (r.data.length / 64) / 64]
    | none => []
  let vec := match t.vecs.find? fun r => now == r.issue + r.done && decide (r.done < r.groups) with
    | some r => r.groupAsks
    | none => []
  (t.asks ++ pass ++ load ++ vec ++ t.writeAsks now).map BankAsk.bank

/-- R83, R119: the record of the transfer that would issue in fc `now` is refused by its bank. -/
def Tile.recordRefused (before t : Tile) (now : Nat) : Bool :=
  (before.recordRow t now).any fun row => (t.asked now).contains (row % 16)

end Sys2Proof.Machine
end

