-- ==== Sys2Proof/Machine/Transport.lean ====
section
/-! DEFINITION. Data on the move: reads and writes of a range of the local range, and frames that leave by a fabric port
(R138, R142, R146, R152, R153, R163, R165, R340 to R355, R470). -/

namespace Sys2Proof.Machine

/-! ### Counting bytes and flits -/

/-- CLAY_RD_BYTES (0x0201) or CLAY_WR_BYTES (0x0202) for `n` bytes from `pa` that die `who` reads or writes, granule by granule,
and the die links between them (R18, Table 18.2). -/
def countClay (source who : Nat) (spec : Bool) : Nat → Nat → Nat → State → State
  | 0, _, _, s => s
  | fuel + 1, pa, n, s =>
    if n = 0 then s
    else
      let k := min n (4096 - pa % 4096)
      let st := stackOf pa
      let s := s.countSource 1 (st / 4) 0 source st k spec
      let s := if source = 0x0201 then s.countPath spec (st + 5) who k else s.countPath spec who (st + 5) k
      countClay source who spec fuel (pa + k) (n - k) s

def State.countClay (source who : Nat) (spec : Bool) (pa n : Nat) (s : State) : State :=
  if s.cnt.select.isEmpty then s else Sys2Proof.Machine.countClay source who spec (n / 4096 + 2) pa n s

/-! ### Frames (R339 to R348, R354, R355) -/

def flitsOf (n : Nat) : Nat := ceilDiv n 64

/-- The virtual channel of a frame kind on the job's own traffic (Table 11.5). -/
def vcOf (fkind : Nat) : Nat :=
  match fkind with
  | 3 | 5 | 8 => 0
  | 6 => 2
  | 7 => 3
  | _ => 1

/-- Ingress buffer of each VC (Table 11.7). -/
def vcBuffer (vc : Nat) : Nat := if vc = 0 then 192 else 1984

/-- Credits of a port, by VC. -/
def Port.creditsOf (p : Port) (vc : Nat) : Nat := p.credits.getD vc (vcBuffer vc)

def listSet4 (l : List Nat) (d : Nat → Nat) (i v : Nat) : List Nat :=
  (List.range 4).map fun k => if k = i then v else l.getD k (d k)

/-! ### What a port sends (R224, R225, R344, R347, R348, R356, R359) -/

/-- A frame of a migration, which is background work (R158, R226). -/
def State.isMigration (s : State) (f : Frame) : Bool :=
  f.src == s.fab.coord && f.vc == 3 && s.mem.migrations.any fun m => m.ask.isSome && m.ctx == f.ctx && m.lender == f.dst

/-- Some slot of port `p` that can carry frames is not assigned by the running image's slot plan. -/
def State.slotFree (s : State) (p : Nat) : Bool :=
  (List.range 31).any fun k => !(s.image Image.slotPlan).any fun a => a.port == some p && a.slot == k

/-- No slot of port `p` is open to this frame: background while the plan leaves none (R224), transit without a slot of its own
or of a lend (R356, R357), lent traffic without a reserved one (R359). -/
def State.frameHeld (p : Nat) (o : OutFrame) (s : State) : Bool :=
  let f := o.frame
  let lend := s.mem.lendSlots.getD p 0 != 0
  let run := s.job.image.isSome
  (run && o.background && !s.slotFree p) ||
  (run && f.src != s.fab.coord && !(lend && f.vc == 3) &&
    !(s.image Image.slotPlan).any fun a => a.port == some p && a.transit) ||
  (f.src == s.fab.coord && f.vc == 3 && s.mem.borrowers.contains f.dst && !lend)

/-- The place of a frame in the order of R348: frames begun by VC number, new ones of VC 0, 1, 3, 2, background. -/
def OutFrame.rank (o : OutFrame) : Nat :=
  if 0 < o.sent then o.frame.vc
  else if o.background then 8
  else if o.frame.vc ≤ 1 then 4 + o.frame.vc
  else if o.frame.vc = 3 then 6 else 7

/-- The first of the frames of lowest rank, with its place in the queue. -/
def bestOut : List (OutFrame × Nat) → Option (OutFrame × Nat)
  | [] => none
  | o :: l => some (l.foldl (fun b x => if x.1.rank < b.1.rank then x else b) o)

/-- The next flits of a port: as many of one frame as credits and the replay buffer allow (R344, R347). -/
def State.portSendsOne (p : Nat) (s : State) : Option State :=
  let d := mapGet {} s.fab.ports p
  let room := 2047 - d.replay
  let can := d.queue.zipIdx.filter fun o => !s.frameHeld p o.1 && decide (0 < d.creditsOf o.1.frame.vc)
  if room = 0 ∨ d.state ≠ 2 ∨ (d.quiet ≠ 0 ∧ (s.scSince (d.quiet - 1)).isNone) then none
  else
    (bestOut can).map fun o =>
      let f := o.1.frame
      let left := 1 + f.nflit - o.1.sent
      let k := min left (min room (d.creditsOf f.vc))
      let d' := { d with
        fseq := (d.fseq + k) % 2048, replay := d.replay + k
        unacked := d.unacked ++ [(k, f.flags % 2 == 1, if f.src = s.fab.coord then some f.ctx else none)]
        credits := listSet4 d.credits vcBuffer f.vc (d.creditsOf f.vc - k)
        queue := if k = left then d.queue.eraseIdx o.2 else d.queue.set o.2 { o.1 with sent := o.1.sent + k } }
      let fab := { s.fab with
        ports := mapSet {} s.fab.ports p d'
        sentFrames := if k = left then s.fab.sentFrames ++ [(p, f)] else s.fab.sentFrames }
      ({ s with fab := fab }).countSource 3 (21 + p / 4) 0 0x0401 p k (f.flags % 2 == 1)

def State.portSendsAll (p : Nat) : Nat → State → State
  | 0, s => s
  | n + 1, s =>
    match s.portSendsOne p with
    | some s => State.portSendsAll p n s
    | none => s

/-- CREDIT_WAIT up to now: fc in which flits of a VC have waited at port `p` for a credit, those of a frame with SPEC in the
shadow (R559, Table 18.2). -/
def State.countWaits (p : Nat) (s : State) : State :=
  let d := mapGet {} s.fab.ports p
  let spec (v : Nat) : Bool := (d.queue.find? fun o => o.frame.vc == v && !s.frameHeld p o).any fun o => o.frame.flags % 2 == 1
  let s' := d.waits.foldl (fun (s : State) w => s.countSource 3 (21 + p / 4) 0 0x0403 w.1 (s.fc + 1 - w.2) (spec w.1)) s
  { s' with fab := { s.fab with
    ports := mapSet {} s.fab.ports p { d with waits := d.waits.map fun w => (w.1, s.fc + 1) } } }

/-- Port `p` sends what it may; VCs whose flits then lack a credit wait. -/
def State.portSends (p : Nat) (s : State) : State :=
  let s := if (mapGet {} s.fab.ports p).waits.isEmpty then s else s.countWaits p
  let s := s.portSendsAll p (2 * (mapGet {} s.fab.ports p).queue.length)
  let d := mapGet {} s.fab.ports p
  let waiting (v : Nat) : Bool := d.creditsOf v == 0 && d.queue.any fun o => o.frame.vc == v && !s.frameHeld p o
  let waits := ((List.range 4).filter waiting).foldl (fun m v => mapSet 0 m v (s.fc + 1)) []
  { s with fab := { s.fab with ports := mapSet {} s.fab.ports p { d with waits := waits } } }

/-- Every port sends what it may. -/
def State.portsSend (s : State) : State := (s.fab.ports.map Prod.fst).foldl (fun s p => s.portSends p) s

/-- A frame reaches its egress port `p`. -/
def State.sendFrame (p : Nat) (f : Frame) (s : State) : State :=
  let d := mapGet {} s.fab.ports p
  let own : Bool := f.src == s.fab.coord
  let o : OutFrame := { frame := if own then { f with sport := p } else f, background := s.isMigration f }
  ({ s with fab := { s.fab with ports := mapSet {} s.fab.ports p { d with queue := d.queue ++ [o] } } }).portSends p

/-- Data cut into pieces of `n` bytes. -/
def cutData (n : Nat) : Nat → List Byte → List (List Byte)
  | 0, _ => []
  | fuel + 1, bs => if bs.isEmpty then [] else bs.take n :: cutData n fuel (bs.drop n)

/-- A stream cut over the ports of its set (R355): frame j on the (j mod k)-th port; the last carries LASTF.  Its JOB is
the running job, or the borrower's that a lender answers. -/
def State.sendStream (h : Frame) (data : List Byte) (s : State) : State :=
  let h := { h with
    src := s.fab.coord, hops := 15, job := if h.job = 0 then s.jobId else h.job
    vc := if h.vc = 3 then 3 else vcOf h.fkind }
  let ports := s.fab.portSet h.dst
  let most := if h.fkind = 2 then 24576 else 32768
  let per := 64 * (if 2 ≤ ports.length then 512 else most)
  let pieces := cutData per (data.length / per + 1) data
  ((pieces.zip (List.range pieces.length)).foldl (fun (s : State) pj =>
    let f := { h with
      nflit := flitsOf pj.1.length, data := pj.1, laddr := h.laddr + pj.2 * per, offset := pj.2
      flags := if pj.2 + 1 = pieces.length then h.flags ||| 4 else h.flags }
    match ports[pj.2 % ports.length]? with
    | some p => s.sendFrame p f
    | none => s) s)

/-- A frame without data, by the lowest port of its set. -/
def State.sendHeader (h : Frame) (s : State) : State :=
  let h := { h with
    src := s.fab.coord, hops := 15, job := if h.job = 0 then s.jobId else h.job
    vc := if h.vc = 3 then 3 else vcOf h.fkind }
  match s.fab.portSet h.dst with
  | p :: _ => s.sendFrame p h
  | [] => s

/-- A READ_REQ for `n` bytes at `la` on `peer`, answered to `to_` under context `ctx`, in requests of at most 32,768
flits. -/
def State.sendReads (h : Frame) (la n to_ : Nat) (s : State) : State :=
  let most := 64 * 32768
  (List.range (ceilDiv n most)).foldl (fun (s : State) i =>
    let k := min most (n - i * most)
    s.sendHeader { h with fkind := 3, laddr := la + i * most, opx := flitsOf k, opy := to_ + i * most, offset := i }) s

/-! ### Reads and writes of the local range -/

/-- How work reaches the range: its epoch, whether it is speculative, the header its frames carry, and the die it runs on. -/
structure Work where
  epoch : Nat
  spec : Bool
  head : Frame
  die : Nat := 4
  deriving DecidableEq, Repr

/-- A memory fault: its code, the local address and the package (R153). -/
structure MemFault where
  code : Nat
  addr : Nat
  pkg : Nat
  deriving DecidableEq, Repr

/-- Bytes returned by a lender for context `ctx` at local address `la` (READ_REPLY). -/
def FabState.replyBytes (f : FabState) (ctx la n : Nat) : Option (List Byte) :=
  let hit (a : Nat) : Option Byte :=
    match f.replies.find? fun r => r.1 == ctx && r.2.1 ≤ a && a < r.2.1 + r.2.2.length with
    | some r => r.2.2[a - r.2.1]?
    | .none => Option.none
  (List.range n).mapM fun i => hit (la + i)

/-- What a page of a lender holds at a moment: the package does not determine it (notes/assumptions/90). -/
def lenderBytes (peer addr n now : Nat) : List Byte := (List.range n).map fun i => Config.lenderByte peer (addr + i) now

/-- R156: the frame that a transfer of stream context `ctx` resolved a page to before the page moved. -/
def MemState.retired (m : MemState) (page ctx : Nat) : Option Nat :=
  if (m.page page).loc = .moved then (m.retiring.find? fun r => r.1 == page && r.2.2 == ctx).map fun r => r.2.1 else none

/-- Where `n` bytes at offset `off` of a page are read by work `w`; no such access reaches an inlet (R142, R151, R156, R579). -/
def State.readReach (s : State) (w : Work) (page off n : Nat) : Reach :=
  if s.meetsInlet (page * frameBytes + off) n then .fault 1
  else
    match s.mem.retired page w.head.ctx with
    | some f => .frame f
    | none => s.mem.reachRead s.job.epoch w.epoch page

/-- Where they are written. -/
def State.writeReach (s : State) (w : Work) (page off n : Nat) : Reach :=
  if s.meetsInlet (page * frameBytes + off) n then .fault 1 else s.mem.reachWrite s.job.epoch w.epoch page

/-- Bytes of a lender's page as speculative work sees them: its own writes there are held here (R262). -/
def State.overHeld (s : State) (w : Work) (page off : Nat) (bs : List Byte) : List Byte :=
  if w.spec then
    (s.mem.heldWrites.filter fun h => h.page == page).foldl (fun (l : List Byte) h =>
      l.zipIdx.map fun b =>
        let i := off + b.2
        if h.off ≤ i then (h.bytes[i - h.off]?).getD b.1 else b.1) bs
  else bs

/-- `n` bytes at `la` read by work `w`: bytes in order up to the first fault. -/
def State.readRange (s : State) (w : Work) (la n : Nat) : List Byte × Option MemFault :=
  (chunksOf la n).foldl (fun acc c =>
    match acc.2 with
    | some _ => acc
    | none =>
      match s.readReach w c.1 c.2.1 c.2.2 with
      | .fault code => (acc.1, some ⟨code, c.1 * frameBytes, s.fab.coord⟩)
      | .frame f =>
        let pa := f * frameBytes + c.2.1
        if s.mem.poisoned pa c.2.2 then
          (acc.1, some ⟨0x14, c.1 * frameBytes + c.2.1 + (s.mem.poisonAt pa c.2.2 - pa), s.fab.coord⟩)
        else (acc.1 ++ s.mem.read pa c.2.2, none)
      | .away peer lp =>
        (acc.1 ++ s.overHeld w c.1 c.2.1 ((s.fab.replyBytes w.head.ctx (c.1 * frameBytes + c.2.1) c.2.2).getD
          (lenderBytes peer (lp * frameBytes + c.2.1) c.2.2 s.fc)), none))
    ([], none)

/-- Read requests for the parts of a range that lie on another package. -/
def State.requestAway (w : Work) (la n : Nat) (s : State) : State :=
  (chunksOf la n).foldl (fun (s : State) c =>
    match s.readReach w c.1 c.2.1 c.2.2 with
    | .away peer lp =>
      s.sendReads { w.head with dst := peer, vc := 3 } (lp * frameBytes + c.2.1) c.2.2 (c.1 * frameBytes + c.2.1)
    | _ => s) s

/-- Whether every part of a range that lies on another package has come back. -/
def State.repliesHere (s : State) (w : Work) (la n : Nat) : Bool :=
  (chunksOf la n).all fun c =>
    match s.readReach w c.1 c.2.1 c.2.2 with
    | .away _ _ => (s.fab.replyBytes w.head.ctx (c.1 * frameBytes + c.2.1) c.2.2).isSome
    | _ => true

/-- A page on which a speculatively tagged write has landed (R152). -/
def MemState.tagSpec (m : MemState) (page : Nat) (spec : Bool) : MemState :=
  if spec then m.setPage page { m.page page with spec := true } else m

/-- A speculative write to a lender's page is held (R171, R262). -/
def MemState.holdWrite (m : MemState) (page off : Nat) (head : Frame) (bs : List Byte) : MemState :=
  { m with heldWrites := m.heldWrites ++ [{ page := page, off := off, head := head, bytes := bs }] }

/-- Held writes leave, once the commit has made them work of the current epoch (R262, R264). -/
def State.releaseWrites (s : State) : State :=
  s.mem.heldWrites.foldl (fun (s : State) h => s.sendStream { h.head with flags := h.head.flags / 2 * 2 } h.bytes)
    { s with mem := { s.mem with heldWrites := [] } }

/-- Bytes written at `la` by work `w`, page by page up to the first fault (R142, R146, R153); speculative ones for a page of a
lender are held. -/
def State.writeRange (w : Work) (la : Nat) (bs : List Byte) (s : State) : State × Option MemFault :=
  let r := (chunksOf la bs.length).foldl (fun (acc : State × Option MemFault × List Byte) c =>
    match acc.2.1 with
    | some _ => acc
    | none =>
      let s := acc.1
      let now := acc.2.2.take c.2.2
      let later := acc.2.2.drop c.2.2
      match s.writeReach w c.1 c.2.1 now.length with
      | .fault code => (s, some ⟨code, c.1 * frameBytes, s.fab.coord⟩, later)
      | .frame f =>
        let pa := f * frameBytes + c.2.1
        (({ s with mem := (s.mem.write pa now).tagSpec c.1 w.spec }).countClay 0x0202 w.die w.spec pa now.length, none, later)
      | .away peer lp =>
        let s := s.countPath w.spec w.die 4 now.length
        let head : Frame := { w.head with fkind := 1, dst := peer, vc := 3, laddr := lp * frameBytes + c.2.1 }
        (if w.spec then { s with mem := ((s.mem.holdWrite c.1 c.2.1 head now).tagSpec c.1 true) } else s.sendStream head now, none,
          later)) (s, none, bs)
  (r.1, r.2.1)

/-- The bytes of a range that were read, counted by stack. -/
def State.countRead (w : Work) (la n : Nat) (s : State) : State :=
  if s.cnt.select.isEmpty then s
  else
    (chunksOf la n).foldl (fun (s : State) c =>
      match s.readReach w c.1 c.2.1 c.2.2 with
      | .frame f => s.countClay 0x0201 w.die w.spec (f * frameBytes + c.2.1) c.2.2
      | _ => s) s

/-- The shard of the running image that holds its weights at an address here. -/
def State.shardAt (s : State) (la : Nat) : Option ShardDecl :=
  (s.image Image.shards).find? fun h => h.held && h.addr ≤ la && la < h.addr + 2 * (h.rows * h.cols)

/-- R471: what follows a word found uncorrectable at a local address.  Weights that are current are repaired with their
shard, a sealed page with copies from a copy; any other word stays poisoned until it is written. -/
def State.poisonFound (la : Nat) (s : State) : State :=
  let p := s.mem.page (pageOf la)
  let bad := s.mem.poisoned (p.frameOf s.job.epoch * frameBytes + la % frameBytes) 1
  let tell (k : Nat) (s : State) : State := s.faultNotice 0x814 [BitVec.ofNat 32 la, BitVec.ofNat 32 (la / 2 ^ 32), BitVec.ofNat 32 k]
  match if p.banked && bad then s.shardAt la else none with
  | some h => tell 1 { s with job := { s.job with toRepair := pairInsert s.job.toRepair (h.layer, h.shard) } }
  | none => tell (b2n (!p.banked && p.state == .sealed && p.copies)) s

/-- What follows a memory fault that poison raised. -/
def State.poisonNotice (f : MemFault) (s : State) : State := if f.code = 0x14 then s.poisonFound f.addr else s

/-- R471 at an abort boundary: bursts of sealed unbanked pages that have copies are copied back. -/
def MemState.restoreCopies (m : MemState) : MemState :=
  { m with poison := m.poison.filter fun w =>
    !((m.pageOfFrame (8 * w / frameBytes)).any fun e => !e.2.banked && e.2.state == .sealed && e.2.copies) }

/-- R470: the word at a local address, in the frame that work of epoch `e` reads, is marked poisoned. -/
def State.poison (e la : Nat) (s : State) : State :=
  let p := s.mem.page (pageOf la)
  if p.valid ∧ p.loc ≠ .moved ∧ (p.loc ≠ .remote ∨ p.copies) then
    { s with mem := { s.mem with poison := setInsert s.mem.poison ((p.frameOf e * frameBytes + la % frameBytes) / 8) } }
  else s

end Sys2Proof.Machine
end

