-- ==== Sys2Proof/Machine/Buckets.lean ====
section
/-! DEFINITION. Gradient buckets: the record of Table 8.1, its checks, the inlets that take it, and the sum of one hop
(R235 to R237, R240, R579). -/

namespace Sys2Proof.Machine

/-- The 4,160 bytes of a record. -/
def bucketBytes (r : BucketRecord) : List Byte :=
  padTo 4096 (r.elems.flatMap fun e => leBytes 2 e.toNat) ++ [r.y, BitVec.ofNat 8 r.fmt] ++ leBytes 2 r.layer ++
    leBytes 4 r.shard ++ leBytes 4 r.bucket ++ leBytes 2 r.count ++ leBytes 2 r.contrib ++ leBytes 4 r.tag ++
    List.replicate 44 0

/-- The record that 4,160 bytes spell. -/
def parseBucket (bs : List Byte) : BucketRecord :=
  let f (a n : Nat) : Nat := leNat ((bs.drop a).take n)
  { elems := (cutData 2 2049 (bs.take 4096)).map fun b => BitVec.ofNat 16 (leNat b), y := BitVec.ofNat 8 (f 4096 1),
    fmt := f 4097 1, layer := f 4098 2, shard := f 4100 4, bucket := f 4104 4, count := f 4108 2, contrib := f 4110 2,
    tag := f 4112 4 }

/-- The row of a sparse table that a row gradient names (R300). -/
def rowOf (r : BucketRecord) : Nat := r.bucket % 2 ^ 32 + r.shard % 256 * 2 ^ 32

/-! ### Inlets (R579) -/

/-- The inlet that `n` bytes at `la` fill exactly. -/
def State.inletOf (s : State) (la n : Nat) : Option Nat :=
  if n = recordBytes then s.inletBases.findIdx? fun b => b == la else none

/-- R579: an access that touches an inlet otherwise than by one whole record. -/
def State.breaksInlet (s : State) (la n : Nat) : Bool := s.meetsInlet la n && (s.inletOf la n).isNone

/-- The gradient format of a layer. -/
def State.gradFmt (s : State) (l : Nat) : Option Nat :=
  ((s.image Image.layers).find? fun x => x.layer == l).map LayerDecl.gradFmt

/-- R235: a record agrees with its layer's gradient format and with what bucket or table number `i` declares. -/
def State.recordFits (s : State) (i : Nat) (r : BucketRecord) : Bool :=
  let n := (s.image Image.buckets).length
  s.gradFmt r.layer == some r.fmt && decide (1 ≤ r.count) && decide (r.count ≤ 2048) &&
    match (s.image Image.buckets)[i]?, (s.image Image.sparse)[i - n]? with
    | some d, _ => r.count == d.count && r.layer == d.layer && r.shard == d.shard && r.bucket == d.bucket
    | none, some t => r.count == t.len && r.layer == t.layer && decide (rowOf r < t.rows)
    | none, none => false

/-- A record joins the queue of an inlet, under the step tag of the work that brought it. -/
def State.queueInlet (i tag : Nat) (r : BucketRecord) (s : State) : State :=
  { s with job := { s.job with
    inlets := mapSet [] s.job.inlets i (mapGet [] s.job.inlets i ++ [{ r with tag := tag }]) } }

/-- The bytes of an `XPUT` reach inlet `i`. -/
def State.intoInlet (i : Nat) (w : Work) (la : Nat) (bs : List Byte) (s : State) : State × Option MemFault :=
  let r := parseBucket bs
  if s.recordFits i r then (s.queueInlet i w.head.stag r, none) else (s, some ⟨0x15, la, s.fab.coord⟩)

/-! ### One hop (R236, R237, R240) -/

/-- The value of element `j`. -/
def bucketVal (r : BucketRecord) (j : Nat) : Val :=
  (decodeBinary (Fmt.ofCode r.fmt) (r.elems.getD j 0).toNat).scale2 ((r.y.toNat : Int) - 127)

/-- R237: the smallest Y for which M / 2^(Y - 127) is below 2^15; 255 when there is none. -/
def hopScale (m : Val) : Nat :=
  match m with
  | .fin _ m e => if m = 0 then 0 else (min 255 (max 0 ((Nat.log2 m : Int) + e + 113))).toNat
  | _ => 255

structure HopOut where
  record : BucketRecord
  flags : FlagByte
  /-- R240: a sum that is not finite, or that exceeds the format at Y = 255. -/
  nan : Bool
  deriving DecidableEq, Repr

/-- The records of one bucket added: exact sums, one scale, one rounding by RTO.  `draw` is the scale byte where a sum is
not finite, for which R237 gives none. -/
def hopSum (draw : Nat) (first : BucketRecord) (rs : List BucketRecord) : HopOut :=
  let f := Fmt.ofCode first.fmt
  let all := first :: rs
  let sums := (List.range first.count).map fun j =>
    let vs := all.map fun r => bucketVal r j
    sumVals false vs vs false
  let bad := sums.any fun v => !v.1.isFinite
  let m := maxFinite (sums.map Prod.fst)
  let y := if bad then draw % 256 else hopScale m
  let beyond := cmpVals m ((decodeBinary f (maxFiniteCode f)).scale2 128) == some .gt
  let out := sums.map fun v => roundVal f .rto 0 (v.1.scale2 (127 - (y : Int)))
  { record := { first with
      elems := out.map fun c => BitVec.ofNat 16 c.1, y := BitVec.ofNat 8 y
      contrib := (all.map BucketRecord.contrib).foldl (· + ·) 0 }
    flags := flagsOr (out.map Prod.snd) ||| flagsOr (sums.map Prod.snd), nan := bad || beyond }

end Sys2Proof.Machine
end

