-- ==== Sys2Proof/Machine/TileEngine.lean ====
section
/-! DEFINITION. The tile as it runs: transfers (R119 to R122, R184 to R195), the abort of a tile (R131 to R134, R192), one
fc of a tile, and dispatch (R91 to R95, R98, R124, R126). -/

namespace Sys2Proof.Machine

/-! ### Transfers -/

/-- Table 4.9; none when a reserved bit is not zero (R119). -/
def parseXfer (bs : List Byte) : Option XferRec :=
  let v := leNat bs
  if bitsOf v 71 68 ≠ 0 ∨ bitsOf v 79 73 ≠ 0 ∨ bitsOf v 127 112 ≠ 0 ∨ bitsOf v 159 148 ≠ 0 ∨ bitsOf v 191 174 ≠ 0 ∨
      bitsOf v 223 213 ≠ 0 ∨ bitsOf v 255 224 ≠ 0 then none
  else some { laddr := bitsOf v 47 0, pkg := bitsOf v 67 48, glb := bitOf v 72, len := bitsOf v 111 80,
              ctx := bitsOf v 147 128, ddie := bitsOf v 173 169, dtile := bitsOf v 168 160, daddr := bitsOf v 212 192 }

/-- The task's work on a die, as its frames and accesses name it. -/
def State.workOf (s : State) (die task ctx : Nat) : Work :=
  let t := s.task task
  let e := if t.step then t.epoch else s.job.epoch
  { epoch := e, spec := t.spec, die := die
    head := { fkind := 1, ctx := ctx, task := task, stag := s.stepTag e, flags := b2n t.spec } }

/-- R184, R186: whether a transfer under context `ctx` may move `[la, la + n)`. -/
def State.ctxAllows (s : State) (task ctx la n : Nat) (staged : Bool) : Bool :=
  let c := s.ctx ctx
  let size := 2 ^ c.bufLog2
  (c.state == .ready || c.state == .active) && c.task == task &&
  (c.kind == 0 ||
    (c.kind == 2 && staged && decide (c.bufBase ≤ la) && decide ((la - c.bufBase) / size < c.bufCount) &&
      decide ((la - c.bufBase) % size + n ≤ size)))

/-- R122: the schedule image attaches ring `r` to the task. -/
def State.ringOfTask (s : State) (task r : Nat) : Bool := (s.taskDecl task).any fun d => d.rings.contains r

/-- A transfer fault of Table 5.5 or Table 6.5. -/
def faultStop (pc code addr pkg : Nat) : AbortRecord := { cause := 0x0B, code := code, instr := pc, addr := addr, pkg := pkg }

/-- What the front of the transfer sub-queue may do at fc `now` (R119, R122, R186 to R188, R579); `before` is the tile at the
end of the fc before, whose last results must all have been written. -/
def State.xferTry (s : State) (before t : Tile) (now : Nat) : Try (Queued × XferOp × XferF × XferRec × Nat) ⊕ AbortRecord :=
  match t.xferQ with
  | [] => .inl .hold
  | q :: _ =>
    match q.word with
    | .xfer op f =>
      if now ≤ q.at_ || t.xfer.isSome || now < t.xferFree || !before.finished 7 q.seq (now - 1) then .inl .hold
      else
        let ra := (q.reg f.sr).toNat
        let a := (q.reg f.sa).toNat
        if f.rsv != 0 || ra % 32 != 0 then .inr (stopAt 1 q.pc)
        else if !siltIn ra 32 then .inr (stopAt 2 q.pc)
        else
          match parseXfer (memRead t.silt ra 32) with
          | none => .inr (stopAt 1 q.pc)
          | some r =>
            if r.len % 64 != 0 || r.len == 0 || siltSize < r.len || a % 64 != 0 ||
                (op == .xtile && (r.daddr % 64 != 0 || 3 < r.ddie || 287 < r.dtile)) then .inr (stopAt 1 q.pc)
            else if !siltIn a r.len || (op == .xtile && !siltIn r.daddr r.len) then .inr (stopAt 2 q.pc)
            else if f.post == 1 && !(op == .xtile && r.glb && r.pkg != s.fab.coord) &&
                !s.ringOfTask t.task f.ring.toNat then .inr (stopAt 8 q.pc)
            else if !s.ctxAllows t.task r.ctx r.laddr r.len (op != .xtile) then
              .inr (faultStop q.pc 0x13 (if op == .xtile then 0 else r.laddr) s.fab.coord)
            else if op == .xput && !(r.glb && r.pkg != s.fab.coord) && s.breaksInlet r.laddr r.len then
              .inr (faultStop q.pc 0x15 r.laddr s.fab.coord)
            else .inl (.go (q, op, f, r, a))
    | _ => .inl .hold

/-- Whether the record names another package. -/
def XferRun.remote (r : XferRun) (s : State) : Bool := r.record.glb && r.record.pkg != s.fab.coord

/-- Rows of a transfer. -/
def XferRun.total (r : XferRun) : Nat := r.record.len / 64

/-- R189, R211, R213, Tables 7.2 and 7.3: P of a transfer whose path lies on this package; none where another package has a
part in it.  A range that spans stacks has the path of its first row (notes/assumptions/86). -/
def State.pathCount (s : State) (id : TileId) (op : XferOp) (r : XferRec) (task : Nat) : Option Nat :=
  let die := id.die.val
  let mesh (edge : Nat) : Nat := 2 * s.hops die id.tile.val edge
  let clay (near far turns : Nat) (at_ : Reach) : Option Nat := match at_ with
    | .frame f =>
      let driver := stackOf (f * frameBytes + r.laddr % frameBytes) / 4
      some (if driver = die then turns * mesh 5 + near else turns * mesh driver + far)
    | _ => none
  if r.glb && r.pkg != s.fab.coord then none
  else
    let w := s.workOf die task r.ctx
    match op with
    | .xtile =>
      some (if r.ddie = die then mesh (512 + r.dtile) else mesh r.ddie + 28 + 2 * s.hops r.ddie r.dtile die)
    | .xget => clay 214 252 2 (s.mem.reachRead s.job.epoch w.epoch (pageOf r.laddr))
    | .xput =>
      if (s.inletOf r.laddr r.len).isSome then some (mesh 4 + 28)
      else clay 48 76 1 (s.mem.reachWrite s.job.epoch w.epoch (pageOf r.laddr))

/-- A task that belongs to no step has taken speculative data: a handle with its tag, or a page marked SPEC (R263). -/
def State.taint (n : Nat) (yes : Bool) (s : State) : State :=
  let k := s.task n
  if yes && !k.step && !k.tainted then s.setTask n { k with tainted := true } else s

/-- A transfer issues: its context becomes ACTIVE and, for an XGET, its requests leave. -/
def State.xferStart (id : TileId) (now : Nat) (q : Queued) (op : XferOp) (f : XferF) (r : XferRec) (a : Nat) (s : State) :
    State :=
  let t := s.tile id
  let run : XferRun := { seq := q.seq, pc := q.pc, issue := now, op := op, f := f, x := q.x, record := r, addr := a,
                         path := s.pathCount id op r t.task, extra := none, done := 0, landed := 0, rows := [],
                         flight := [], landedAt := none }
  let s := (s.setTile id { t with xferQ := t.xferQ.drop 1, xfer := some run }).ctxStart r.ctx now
  if op = XferOp.xget then
    let w := s.workOf id.die.val t.task r.ctx
    if r.glb && r.pkg != s.fab.coord then s.sendReads { w.head with dst := r.pkg } r.laddr r.len r.laddr
    else (s.taint t.task ((chunksOf r.laddr r.len).any fun c => (s.mem.page c.1).spec)).requestAway w r.laddr r.len
  else s

/-- R188: the transfer holds compute issue at fc `now`. -/
def Tile.xferHolds (now : Nat) (t : Tile) : Bool :=
  match t.xfer with
  | some r => r.op == .xget || decide (now ≤ r.issue + 7 + r.total)
  | none => false

/-! ### Handles of what has landed (R120, R129, R133, R195, R205) -/

/-- A handle of task `n` enters ring `r` at fc `at_`, unless the task has aborted; a full ring aborts the task. -/
def State.postFor (n r : Nat) (h : Word) (at_ poster die : Nat) (s : State) : State :=
  let k := s.task n
  if k.phase = .aborting ∨ k.phase = .aborted then s
  else
    let p := s.postHandle r h at_ poster
    if p.2 then p.1 else p.1.taskCauseAt n at_ { cause := 7, die := die, tile := 0x1FF }

/-- R195: the handle of a stream of another package enters its ring, when the task here owns the ring. -/
def State.postStream (f : Frame) (at_ : Nat) (s : State) : State :=
  if s.ringOfTask f.task f.ring then s.postFor f.task f.ring (BitVec.ofNat 32 f.handle) at_ hubPoster 4
  else if (s.task f.task).phase = .aborting ∨ (s.task f.task).phase = .aborted then s
  else s.taskCauseAt f.task at_ { cause := 8, die := 4, tile := 0x1FF }

/-- R355: a frame of a stream has landed in fc `at_`; after the last of them, whichever it is, the handle is posted. -/
def State.frameLanded (f : Frame) (at_ : Nat) (s : State) : State :=
  let key := f.src * 2 ^ 20 + f.ctx
  let old := mapGet (0, none) s.fab.landed key
  let last := if bitOf f.flags 2 then some (f.offset + 1) else old.2
  let whole := last == some (old.1 + 1)
  let c := s.ctx f.ctx
  let here := c.task == f.task && (c.kind == 0 || c.kind == 2)
  let s := if here && old.1 == 0 then s.ctxStart f.ctx at_ else s
  let s := if here then s.ctxMoved f.ctx f.nflit whole else s
  let now : Nat × Option Nat := if whole then (0, none) else (old.1 + 1, last)
  let s := { s with fab := { s.fab with landed := mapSet (0, none) s.fab.landed key now } }
  if whole && bitOf f.flags 1 then s.postStream f (at_ + 1) else s

/-- The last row of the XTILE of tile `id` has entered the other tile's silt in fc `at_`. -/
def State.xtileLanded (id : TileId) (at_ : Nat) (s : State) : State :=
  let u := s.tile id
  match u.xfer with
  | some run =>
    if run.op = XferOp.xtile then
      let s := s.setTile id { u with xfer := some { run with landed := run.total, landedAt := some at_ } }
      if run.f.post = 1 then
        let p := s.postHandle run.f.ring.toNat (tagHandle u.spec (run.x.getD run.f.sh.toNat 0)) (at_ + 1) id.key
        if p.2 then p.1 else s.modTile id fun u => { u with later := some (stopAt 7 run.pc) }
      else s
    else s
  | none => s

/-- What follows the entry of a delivered row in fc `at_`. -/
def State.rowLanded (n : RowNote) (at_ : Nat) (s : State) : State :=
  match n with
  | .xtile src => match tileOfKey src with
    | some id => s.xtileLanded id at_
    | none => s
  | .fill ring h task die => s.postFor task ring h (at_ + 1) (die * 512 + 511) die
  | .frame f => s.frameLanded f at_

/-- Bytes written into the silt of a tile by another source (R190): at fc `at_` when its program has not run that far. -/
def State.deliver (id : TileId) (at_ addr : Nat) (bs : List Byte) (note : Option RowNote) (s : State) : State :=
  if (s.tile id).clock ≤ at_ then
    s.modTile id fun t =>
      { t with landing := t.landing ++ [{ at_ := at_, addr := addr, bytes := bs, own := none, note := note }] }
  else
    let s := s.modTile id fun t => { t with silt := memWrite t.silt addr bs }
    match note with
    | some n => s.rowLanded n at_
    | none => s

/-- Rows delivered one by one from fc `first` on; `note` goes with the last. -/
def State.deliverRows (id : TileId) (first addr : Nat) (bs : List Byte) (note : Option RowNote) (s : State) : State :=
  let rows := cutData 64 (bs.length / 64 + 1) bs
  rows.zipIdx.foldl (fun (s : State) r =>
    s.deliver id (first + r.2) (addr + 64 * r.2) r.1 (if r.2 + 1 = rows.length then note else none)) s

/-! ### The rows of a transfer (R189, R190, R192, R576) -/

/-- A stream that has ended takes its returned data with it. -/
def State.dropReplies (ctx : Nat) (s : State) : State :=
  { s with fab := { s.fab with replies := s.fab.replies.filter fun r => r.1 != ctx } }

/-- The stream of context `ctx` has met a fault (Table 6.3). -/
def State.ctxFault (ctx code : Nat) (s : State) : State :=
  s.setCtx ctx { s.ctx ctx with state := .aborted, fault := code }

/-- The transfer's last byte has landed in fc `last`; its handle is posted in the next (R120, R129, R133).  That of an XTILE
was posted as its last row entered. -/
def State.xferDone (id : TileId) (run : XferRun) (last : Nat) (s : State) : State :=
  let u := s.tile id
  let s := s.setTile id { u with xfer := none, xferFree := last + 1 }
  let s := (s.ctxMoved run.record.ctx 0 true).dropReplies run.record.ctx
  if run.f.post == 1 && run.op != .xtile then
    let p := s.postHandle run.f.ring.toNat (tagHandle u.spec (run.x.getD run.f.sh.toNat 0)) (last + 1) id.key
    if p.2 then p.1 else s.modTile id fun u => { u with later := some (stopAt 7 run.pc) }
  else s

/-- A transfer meets a memory fault: its stream ends with it, and the tile stops (R153). -/
def State.xferFault (run : XferRun) (e : MemFault) (s : State) : State × Option AbortRecord :=
  ((s.ctxFault run.record.ctx e.code).poisonNotice e, some (faultStop run.pc e.code e.addr e.pkg))

/-- Rows of a transfer whose last has its fc told by TRANSFER_COMPLETE, the others by P alone. -/
def XferRun.due (run : XferRun) (now : Nat) : Nat :=
  let first := run.issue + 8 + run.path.getD 0 + run.extra.getD 0
  if run.extra.isSome then min run.total (now + 1 - first)
  else if run.path.isSome then min (run.total - 1) (now + 1 - first)
  else 0

/-- The rows of an XGET that enter the tile's silt in fc `now`: from here, or from what another package has returned. -/
def State.xgetRows (id : TileId) (now : Nat) (run : XferRun) (s : State) : State × Option AbortRecord :=
  let k := run.due now - run.landed
  if k = 0 then (s, none)
  else
    let w := s.workOf id.die.val (s.tile id).task run.record.ctx
    let la := run.record.laddr + 64 * run.landed
    let b := if run.remote s then ((s.fab.replyBytes run.record.ctx la (64 * k)).getD [], none) else s.readRange w la (64 * k)
    let s := if run.remote s then s else s.countRead w la (64 * k)
    let run' := { run with landed := run.landed + k }
    let s := (s.modTile id fun u =>
      { u with silt := memWrite u.silt (run.addr + 64 * run.landed) b.1, xfer := some run', port := true }).ctxMoved
        run.record.ctx (b.1.length / 64) false
    match b.2 with
    | some e => s.xferFault run e
    | none => (if run'.landed = run.total then s.xferDone id run' now else s, none)

/-- Rows of an XPUT reach clay, or an inlet of which they are the record (R579). -/
def State.putRows (die task : Nat) (run : XferRun) (first : Nat) (bs : List Byte) (s : State) : State × Option MemFault :=
  let w := s.workOf die task run.record.ctx
  match s.inletOf run.record.laddr run.record.len with
  | some i =>
    if 64 * first + bs.length = run.record.len then s.intoInlet i w run.record.laddr (run.rows.take run.record.len)
    else (s, none)
  | none => s.writeRange w (run.record.laddr + 64 * first) bs

/-- The rows of an XPUT that land in fc `now`. -/
def State.xputRows (id : TileId) (now : Nat) (run : XferRun) (s : State) : State × Option AbortRecord :=
  let due := run.flight.takeWhile fun r => decide (r.1 ≤ now)
  let due := if run.extra.isSome then due else due.take (run.total - 1 - run.landed)
  if due.isEmpty then (s, none)
  else
    let run' := { run with landed := run.landed + due.length, flight := run.flight.drop due.length }
    let b := (s.modTile id fun u => { u with xfer := some run' }).putRows id.die.val (s.tile id).task run run.landed
      (due.flatMap Prod.snd)
    match b.2 with
    | some e => (b.1.modTile id fun u => { u with xfer := some { run' with flight := [] } }).xferFault run e
    | none => (if run'.landed = run.total then b.1.xferDone id run' now else b.1, none)

/-- The transfer in fc `now`: rows that land, and its end. -/
def State.moveXfer (id : TileId) (now : Nat) (s : State) : State × Option AbortRecord :=
  match (s.tile id).xfer with
  | none => (s, none)
  | some run =>
    match run.op with
    | .xget => s.xgetRows id now run
    | .xtile =>
      match run.landedAt with
      | some f => (if f ≤ now then s.xferDone id run f else s, none)
      | none =>
        (if run.remote s && run.extra.isSome && run.done == run.total && run.issue + 7 + run.total + run.extra.getD 0 ≤ now
          then s.xferDone id run now else s, none)
    | .xput =>
      if run.remote s then
        (if run.extra.isSome && run.done == run.total && run.issue + 7 + run.total + run.extra.getD 0 ≤ now
          then s.xferDone id run now else s, none)
      else s.xputRows id now run

/-- Rows of a transfer to another package that have left: its frames (R192, R195, R355).  Only the handle of an XTILE goes with
them. -/
def State.sendRows (die task : Nat) (run : XferRun) (whole : Bool) (s : State) : State :=
  let r := run.record
  let w := s.workOf die task r.ctx
  let s := s.countPath w.spec die 4 run.rows.length
  let h := { w.head with
    dst := r.pkg, ring := run.f.ring.toNat, handle := (tagHandle w.spec (run.x.getD run.f.sh.toNat 0)).toNat
    flags := w.head.flags + (if whole && run.op == XferOp.xtile && run.f.post == 1 then 2 else 0) }
  match run.op with
  | .xput => s.sendStream { h with fkind := 1, laddr := r.laddr } run.rows
  | .xtile => s.sendStream { h with fkind := 2, laddr := r.daddr, dtile := r.ddie * 512 + r.dtile } run.rows
  | .xget => s

/-- The row of its own silt that an XPUT or XTILE reads in fc `now`, at issue + 8 + j unless its bank refused it, leaves. -/
def State.readXfer (id : TileId) (now : Nat) (s : State) : State :=
  let t := s.tile id
  match t.xfer with
  | none => s
  | some run =>
    if run.op == .xget || now != run.issue + 8 + run.done || run.total ≤ run.done then s
    else
      let row := memRead t.silt (run.addr + 64 * run.done) 64
      let lands := now + run.path.getD 0 + run.extra.getD 0
      let s := s.ctxMoved run.record.ctx 1 false
      let keep := run.remote s || (run.op == .xput && (s.inletOf run.record.laddr run.record.len).isSome)
      let run' := { run with
        done := run.done + 1, rows := if keep then run.rows ++ row else run.rows
        flight := if run.op == .xput && !run.remote s then run.flight ++ [(lands, row)] else run.flight }
      let s := s.setTile id { t with xfer := some run' }
      let last := run'.done == run.total
      if run.remote s then (if last then s.sendRows id.die.val t.task run' true else s)
      else if run.op = XferOp.xtile then
        match tileId? run.record.ddie run.record.dtile with
        | some d =>
          (s.countPath (s.task t.task).spec id.die.val d.die.val 64).deliver d lands (run.record.daddr + 64 * run.done) row (if last then some (.xtile id.key) else none)
        | none => s
      else s

/-! ### Abort of a tile (R131 to R134, R192, R203) -/

/-- A free number below `n`. -/
def State.drawBelow (n : Nat) (s : State) : Nat × State :=
  ((if n = 0 then 0 else Config.freeNat s.free % n), { s with free := s.free + 1 })

/-- R192: a transfer is cut at the end of an fc.  What left its source lands: rows of an XPUT on their way reach clay, and those
for another package leave in their frames; rows of an XTILE are with the other tile already; no more rows of an XGET enter. -/
def State.cutXfer (die task : Nat) (run : XferRun) (s : State) : State :=
  if run.op = XferOp.xget then s
  else if run.remote s then (if run.done < run.total then s.sendRows die task run false else s)
  else if run.op = XferOp.xput then
    (if run.flight.isEmpty then s else (s.putRows die task run run.landed (run.flight.flatMap Prod.snd)).1)
  else s

/-- The tile's part of its task ends by an abort at the end of an fc: the rest is discarded. -/
def State.haltTile (id : TileId) (cause : Nat) (s : State) : State :=
  let t := s.tile id
  let s := match t.xfer with
    | some run => s.cutXfer id.die.val t.task run
    | none => s
  s.modTile id (Tile.halt cause)

/-- A cause ends the tile's part at the end of fc `now`: the record names the tile and the task aborts everywhere; for a notice
of an abort elsewhere (PEER_ABORT), the tile's part alone. -/
def State.stopTile (id : TileId) (now : Nat) (r : AbortRecord) (s : State) : State :=
  let task := (s.tile id).task
  let s := s.haltTile id r.cause
  if r.cause = 0x0C then s else s.taskCauseAt task now { r with die := id.die.val, tile := id.tile.val }

/-! ### One fc -/

/-- One count of Table 18.2 for the tile. -/
def State.tileCount (id : TileId) (t : Tile) (source k : Nat) (c : Bool) (s : State) : State :=
  if c then s.countSource 0 id.die.val id.tile.val source t.task k t.spec else s

/-- The counts of Table 18.2 for one fc of the tile, what it has issued standing in it. -/
def State.countTile (id : TileId) (now : Nat) (t : Tile) (s : State) : State :=
  if s.cnt.select.isEmpty then s
  else
    let waits := match t.vecQ.head? with
      | some q => match q.word with
        | .vec op f => op != .vdesc && usesHandoff f && !(t.hq.any fun e => e.visible && e.releaseAt.isNone)
        | _ => false
      | none => false
    let macs := match t.passes.find? fun p => !p.zero && p.done < 32 && now == p.issue + p.done * fcPerRow p.fmt with
      | some p =>
        if p.kind = 2 then 32 * ((List.range 32).filter p.mask.getLsbD).length
        else 32 * 32 * perCell p.kind p.fmt
      | none => 0
    let s := s.tileCount id t 0x0101 1 (t.phase != .free)
    let s := s.tileCount id t 0x0102 1 (t.passes.any fun p => p.issue ≤ now && now < p.issue + passOccupancy p.fmt p.zero)
    let s := s.tileCount id t 0x0103 1 (t.vecs.any fun r => r.issue ≤ now && now < r.issue + r.groups)
    let s := s.tileCount id t 0x0104 1 t.heldEntry.isSome
    let s := s.tileCount id t 0x0105 1 waits
    let s := s.tileCount id t 0x0106 1 (t.xferHolds now && !(t.passQ.isEmpty && t.loadQ.isEmpty && t.vecQ.isEmpty))
    s.tileCount id t 0x0109 macs (macs != 0)

/-- Dispatch is held by an HGET (Table 18.2). -/
def Tile.waitsHandle (t : Tile) : Bool :=
  match t.phase with
  | .handleHold _ _ => true
  | _ => false

/-- SYNC and END resolve at the end of an fc (R124, R126). -/
def Tile.resolve (now : Nat) (t : Tile) : Tile :=
  match t.phase with
  | .syncHold mask upTo => if t.finished mask upTo now then { t with phase := .running, nextDispatch := now + 1 } else t
  | _ => t

/-- R184, R186, R579: a transfer refused at its issue ends with its fault the stream of its context, where that context is
one of its own task's streams (Table 6.3, notes/assumptions/42). -/
def State.refusedStream (t : Tile) (c : AbortRecord) (s : State) : State :=
  match t.xferQ with
  | [] => s
  | q :: _ =>
    match q.word with
    | .xfer _ f =>
      match parseXfer (memRead t.silt (q.reg f.sr).toNat 32) with
      | none => s
      | some r =>
        let k := s.ctx r.ctx
        if (c.code = 0x13 ∨ c.code = 0x15) ∧ c.cause = 0x0B ∧ k.task = t.task ∧ (k.state = .ready ∨ k.state = .active) then
          s.setCtx r.ctx { k with fault := c.code }
        else s
    | _ => s

/-- R128, R133: an HGET has waited to its limit, and no handle entered its ring before that fc. -/
def State.handleLate (s : State) (t : Tile) (now : Nat) : Option AbortRecord :=
  match t.phase with
  | .handleHold f since =>
    let limit := since + 64 * f.wait.toNat
    if limit ≤ now && !(s.handles f.ring.toNat).any fun h => decide (h.at_ < limit) then some (stopAt 6 (t.pc - 1)) else none
  | _ => none

/-- Fc `clock` of the tile begins: what falls due, time limits, rows of its transfer, issues and silt reads.  Every fc below
`clock` has been carried out. -/
def State.tileBegin (id : TileId) (s : State) : State :=
  let t0 := s.tile id
  let now := t0.clock
  if t0.begun || !t0.busy then s
  else
    let t1 := t0.due now
    let late := firstStop t0.later (firstStop (t1.timeouts now) (s.handleLate t1 now))
    let x := (s.setTile id { t1 with later := none }).moveXfer id now
    let s := x.1
    let t1 := s.tile id
    let refused := t0.recordRefused t1 now
    let tried := if refused then .inl .hold else s.xferTry t0 t1 now
    let (s, c0) := match tried with
      | .inl (.go (q, op, f, r, a)) => (s.xferStart id now q op f r a, none)
      | .inl _ => (s, none)
      | .inr c => (s.refusedStream t1 c, some c)
    let t2 := s.tile id
    let issued :=
      if refused || t2.xferHolds now then (t2, none)
      else
        let a := t2.issueLoad now
        let b := a.1.issuePass now
        let c := b.1.issueVec now
        (c.1, firstStop a.2 (firstStop b.2 c.2))
    let p := issued.1.readPass now
    let l := p.1.readLoad now
    let v := l.1.readVec s.units.seedings (0x20000 + id.key)
      (mapGet 0 s.units.stopped (UnitId.key ⟨0, id.die.val, id.tile.val / 18⟩)) now
    let s := (s.countTile id now issued.1).tileCount id v 0x0108 1 (refused && !s.cnt.select.isEmpty)
    s.setTile id { v with
      begun := true, port := v.port || refused || v.xfer.any fun r => r.issue == now
      stop := firstStop late (firstStop x.2 (firstStop c0 (firstStop issued.2 (firstStop p.2 l.2)))) }

/-- Rows of other sources that enter silt in the fc, with what follows them. -/
def Tile.entered (now : Nat) (t : Tile) : List RowNote :=
  (t.landing.filter fun w => w.own.isNone && decide (w.at_ ≤ now)).filterMap SiltWrite.note

/-- The fc of the tile ends: the turns of the banks, rows that enter or leave, last results, and the stop that a cause of this
fc brings (R132). -/
def State.tileEnd (id : TileId) (s : State) : State :=
  let t := s.tile id
  let now := t.clock
  let b := t.arbitrate now (t.port && t.begun)
  let s := if s.cnt.select.isEmpty then s
    else (s.tileCount id t 0x0107 1 t.waitsHandle).tileCount id t 0x0108 b.2 (b.2 != 0 && t.busy)
  let s := (s.setTile id b.1).readXfer id now
  let notes := (s.tile id).entered now
  let s := s.modTile id fun t => (((t.land now).vecsDue now).passesDue now).resolve now
  let s := s.modTile id fun t => { t with clock := now + 1, begun := false, port := false, stop := none }
  let s := notes.foldl (fun (s : State) n => s.rowLanded n now) s
  if t.busy then
    match firstStop t.stop (t.fetchStop now) with
    | some r => s.stopTile id now r
    | none => s
  else s

/-- Fc `clock` of the tile, or what is left of it, is carried out. -/
def State.tileFc (id : TileId) (s : State) : State := (s.tileBegin id).tileEnd id

/-- The fc up to which a quiet tile may be passed over: an HGET that waits has its limit (R128). -/
def Tile.idleTo (t : Tile) (h : Nat) : Nat :=
  match t.phase with
  | .handleHold f since => if t.clock ≤ since + 64 * f.wait.toNat then min h (since + 64 * f.wait.toNat) else h
  | _ => h

/-- Every fc of the tile below `h` is carried out; fc in which nothing changes are passed at once. -/
def State.tileTo (id : TileId) (h : Nat) : Nat → State → State
  | 0, s => s
  | n + 1, s =>
    let t := s.tile id
    if h ≤ t.clock then s
    else if t.quiet && decide (t.clock < t.idleTo h) then
      let k := t.idleTo h
      let s := if t.phase = .free then s
        else
          let s := s.countSource 0 id.die.val id.tile.val 0x0101 t.task (k - t.clock) t.spec
          if t.waitsHandle then s.countSource 0 id.die.val id.tile.val 0x0107 t.task (k - t.clock) t.spec else s
      State.tileTo id h n (s.setTile id { t with clock := k })
    else State.tileTo id h n (s.tileFc id)

/-- The tile runs up to fc `h`. -/
def State.runTo (id : TileId) (h : Nat) (s : State) : State := s.tileTo id h (h - (s.tile id).clock + 1)

/-- The tile runs until `p` holds of it, for at most `n` fc. -/
def State.tileUntil (id : TileId) (p : Tile → Bool) : Nat → State → Option State
  | 0, _ => none
  | n + 1, s => if p (s.tile id) then some s else State.tileUntil id p n (s.tileFc id)

/-- The tile runs until `p` holds of it in an fc that has begun, for at most `n` fc. -/
def State.tileWhen (id : TileId) (p : Tile → Bool) : Nat → State → Option State
  | 0, _ => none
  | n + 1, s =>
    let s := s.tileBegin id
    if p (s.tile id) then some s else State.tileWhen id p n (s.tileEnd id)

/-- The package's time is never behind the tile's. -/
def State.catchUp (id : TileId) (s : State) : State := s.toFc (s.tile id).clock

/-- Tiles that work, and the waits of the ports, are brought up to now, so that their events stand in the counters. -/
def State.countsNow (s : State) : State :=
  let s := (s.tiles.filter fun e => e.2.busy).foldl (fun (s : State) e =>
    match tileOfKey e.1 with
    | some id => s.runTo id s.fc
    | none => s) s
  (s.fab.ports.map Prod.fst).foldl (fun (s : State) p => s.countWaits p) s

/-- The tile stops in its present fc with cause `r`, unless a cause of a lower code arises in the same fc (R132, R134). -/
def State.stopAtEnd (id : TileId) (r : AbortRecord) (s : State) : State :=
  (((s.tileBegin id).modTile id fun t => { t with stop := firstStop t.stop (some r) }).tileEnd id).catchUp id

/-- The most fc for which one command runs a tile: more than its work in hand, each part with its waits, can take, but for a wait
on another unit. -/
def Tile.fuel (t : Tile) : Nat :=
  32768 * (1 + t.passQ.length + t.loadQ.length + t.vecQ.length + t.xferQ.length + t.passes.length + t.loads.length +
    t.vecs.length + t.xfer.toList.length) + t.clock + ((t.landing.map SiltWrite.at_).foldl max 0)

def State.fuelOf (s : State) (id : TileId) : Nat := (s.tile id).fuel

/-! ### Dispatch -/

/-- The sub-queue of eight that an instruction needs has room (R90, R91). -/
def Tile.hasRoom (t : Tile) (w : TileWord) : Bool :=
  match w with
  | .mat .mpass _ => decide (t.passQ.length < 8)
  | .mat _ _ => decide (t.loadQ.length < 8)
  | .vec _ _ => decide (t.vecQ.length < 8)
  | .xfer _ _ => decide (t.xferQ.length < 8)
  | _ => true

/-- R95: the summary register a control instruction reads is valid. -/
def Tile.qReady (t : Tile) (w : TileWord) : Bool :=
  match w with
  | .ctl op f =>
    if op = .bq || op = .bqz || op = .qmov || op = .csig then !t.qBusy (f.xd.setWidth 3) t.seq else true
  | _ => true

/-- R91, R65: the next dispatch may be made in the fc that has begun.  A pass held for an entry holds it, up to the fc in which
that pass issues (DESIGN CHOICE: whether dispatch goes on in that fc or in the next, R65 and R92 leave open;
notes/assumptions/84). -/
def Tile.mayDispatch (t : Tile) (w : TileWord) : Bool :=
  decide (t.nextDispatch ≤ t.clock) && t.heldEntry.isNone && t.stop.isNone && t.hasRoom w && t.qReady w

/-- The tile is at instruction `w`: it runs, and its store holds `w` where it would dispatch next. -/
def Tile.atWord (t : Tile) (w : TileWord) : Bool :=
  t.phase == .running && decide (t.pc < 4096) && mapGet 0 t.store t.pc == encodeTile w

/-- Dispatch of `w`, with `act` the instruction's own effect at its fc: the tile runs until the dispatch may be made,
and then makes it.  A tile that is not at `w` is not changed (notes/assumptions/5); one at a word that spells no instruction runs
to the abort that this brings (R97). -/
def State.dispatch (id : TileId) (w : TileWord) (act : State → State) (s : State) : State :=
  if (s.tile id).atWord w then
    match s.tileWhen id (fun t => !t.atWord w || t.mayDispatch w) (s.fuelOf id) with
    | some s' => (if (s'.tile id).atWord w then act s' else s').catchUp id
    | none => s
  else if (s.tile id).atNone && decide ((s.tile id).pc < 4096) then
    ((s.tileUntil id (fun t => !t.atNone) (s.fuelOf id)).getD s).catchUp id
  else s

/-- The instruction takes one fc of dispatch, and the next follows it. -/
def Tile.next (t : Tile) : Tile := { t with pc := t.pc + 1, seq := t.seq + 1, nextDispatch := t.clock + 1 }

/-- A taken branch (R94). -/
def Tile.branch (target : Nat) (t : Tile) : Tile := { t with pc := target, seq := t.seq + 1, nextDispatch := t.clock + 2 }

/-- An instruction enters its sub-queue with the registers as they stand (R582). -/
def Tile.queued (t : Tile) (w : TileWord) : Queued := { seq := t.seq, at_ := t.clock, pc := t.pc, word := w, x := t.x }

end Sys2Proof.Machine
end

