-- ==== Sys2Proof/Machine/TileControl.lean ====
section
/-! DEFINITION. Control and handle instructions of a tile, and the events of its control core (R94, R98, R121 to R131;
Tables 4.2, 4.10 to 4.17). -/

namespace Sys2Proof.Machine

/-! ### Shared forms -/

/-- The tile stops at the end of the fc in which it dispatches (R132). -/
def State.stopNow (id : TileId) (cause code : Nat) (s : State) : State :=
  (s.modTile id fun t => { t with stop := some { cause := cause, instr := t.pc, code := code } }).tileEnd id

/-- A control instruction whose effect is on the tile alone.  Fields of its word that the opcode does not use are not looked at:
the spec reserves none of them but bit [55] of Table 4.2 (DESIGN CHOICE; notes/assumptions/84). -/
def State.control (id : TileId) (op : CtlOp) (f : CtlF) (act : Tile → Tile) (s : State) : State :=
  s.dispatch id (.ctl op f) fun s => s.modTile id act

/-- The second source of an arithmetic instruction: IMM when I is 1, else XB. -/
def ctlSecond (f : CtlF) (t : Tile) : Word := if f.tgt.getLsbD 11 then f.imm else t.xGet f.xb.toNat

/-- XD takes `g` of XA and the second source. -/
def State.arith (id : TileId) (op : CtlOp) (f : CtlF) (g : Word → Word → Word) (s : State) : State :=
  s.control id op f fun t => (t.xSet f.xd.toNat (g (t.xGet f.xa.toNat) (ctlSecond f t))).next

/-- A branch to TGT when `c` holds (R94). -/
def State.branchIf (id : TileId) (op : CtlOp) (f : CtlF) (c : Tile → Bool) (s : State) : State :=
  s.control id op f fun t => if c t then t.branch f.tgt.toNat else t.next

/-- The summary register a control instruction names; bit [55] is reserved (Table 4.2). -/
def ctlQk (f : CtlF) : Nat := (f.xd.setWidth 3).toNat

/-- An instruction that reads `qk`: illegal when bit [55] is set. -/
def State.readsQ (id : TileId) (op : CtlOp) (f : CtlF) (act : Tile → Tile) (s : State) : State :=
  s.dispatch id (.ctl op f) fun s => if f.xd.getLsbD 3 then s.stopNow id 1 0 else s.modTile id act

def ok (s : State) : Host.Outcome State Fault Refusal := .next s

/-! ### Scalar instructions (Table 4.11) -/

def execNop (t : TileId) (f : CtlF) (s : State) : Host.Outcome State Fault Refusal :=
  ok (s.control t .nop f Tile.next)

def execLi (t : TileId) (f : CtlF) (s : State) : Host.Outcome State Fault Refusal :=
  ok (s.control t .li f fun u => (u.xSet f.xd.toNat f.imm).next)

def execAdd (t : TileId) (f : CtlF) (s : State) : Host.Outcome State Fault Refusal :=
  ok (s.arith t .add f fun a b => a + b)

def execSub (t : TileId) (f : CtlF) (s : State) : Host.Outcome State Fault Refusal :=
  ok (s.arith t .sub f fun a b => a - b)

def execMul (t : TileId) (f : CtlF) (s : State) : Host.Outcome State Fault Refusal :=
  ok (s.arith t .mul f fun a b => a * b)

def execAnd (t : TileId) (f : CtlF) (s : State) : Host.Outcome State Fault Refusal :=
  ok (s.arith t .and f fun a b => a &&& b)

def execOr (t : TileId) (f : CtlF) (s : State) : Host.Outcome State Fault Refusal :=
  ok (s.arith t .or f fun a b => a ||| b)

def execXor (t : TileId) (f : CtlF) (s : State) : Host.Outcome State Fault Refusal :=
  ok (s.arith t .xor f fun a b => a ^^^ b)

/-- R72: an amount of 32 or more gives 0. -/
def execShl (t : TileId) (f : CtlF) (s : State) : Host.Outcome State Fault Refusal :=
  ok (s.arith t .shl f fun a b => a <<< b.toNat)

def execShr (t : TileId) (f : CtlF) (s : State) : Host.Outcome State Fault Refusal :=
  ok (s.arith t .shr f fun a b => a >>> b.toNat)

/-- R72: an amount of 32 or more fills the word with the sign. -/
def execSra (t : TileId) (f : CtlF) (s : State) : Host.Outcome State Fault Refusal :=
  ok (s.arith t .sra f fun a b => a.sshiftRight b.toNat)

def execSlt (t : TileId) (f : CtlF) (s : State) : Host.Outcome State Fault Refusal :=
  ok (s.arith t .slt f fun a b => if a.slt b then 1 else 0)

def execSltu (t : TileId) (f : CtlF) (s : State) : Host.Outcome State Fault Refusal :=
  ok (s.arith t .sltu f fun a b => if a.ult b then 1 else 0)

/-! ### Branches -/

def execB (t : TileId) (f : CtlF) (s : State) : Host.Outcome State Fault Refusal :=
  ok (s.branchIf t .b f fun _ => true)

def execBeq (t : TileId) (f : CtlF) (s : State) : Host.Outcome State Fault Refusal :=
  ok (s.branchIf t .beq f fun u => u.xGet f.xa.toNat == u.xGet f.xb.toNat)

def execBne (t : TileId) (f : CtlF) (s : State) : Host.Outcome State Fault Refusal :=
  ok (s.branchIf t .bne f fun u => u.xGet f.xa.toNat != u.xGet f.xb.toNat)

def execBlt (t : TileId) (f : CtlF) (s : State) : Host.Outcome State Fault Refusal :=
  ok (s.branchIf t .blt f fun u => (u.xGet f.xa.toNat).slt (u.xGet f.xb.toNat))

def execBge (t : TileId) (f : CtlF) (s : State) : Host.Outcome State Fault Refusal :=
  ok (s.branchIf t .bge f fun u => !(u.xGet f.xa.toNat).slt (u.xGet f.xb.toNat))

/-- Bits [31:0] of `qk` AND IMM. -/
def ctlQMasked (f : CtlF) (t : Tile) : Word := (t.qGet (ctlQk f)).setWidth 32 &&& f.imm

def execBq (t : TileId) (f : CtlF) (s : State) : Host.Outcome State Fault Refusal :=
  ok (s.readsQ t .bq f fun u => if ctlQMasked f u != 0 then u.branch f.tgt.toNat else u.next)

def execBqz (t : TileId) (f : CtlF) (s : State) : Host.Outcome State Fault Refusal :=
  ok (s.readsQ t .bqz f fun u => if ctlQMasked f u == 0 then u.branch f.tgt.toNat else u.next)

/-- XA takes XA - 1, and the branch is taken while the new value is nonzero. -/
def execLoop (t : TileId) (f : CtlF) (s : State) : Host.Outcome State Fault Refusal :=
  ok (s.control t .loop f fun u =>
    let v := u.xGet f.xa.toNat - 1
    let u := u.xSet f.xa.toNat v
    if v != 0 then u.branch f.tgt.toNat else u.next)

/-! ### Summary and control registers -/

def execQmov (t : TileId) (f : CtlF) (s : State) : Host.Outcome State Fault Refusal :=
  ok (s.readsQ t .qmov f fun u =>
    let q := u.qGet (ctlQk f)
    (u.xSet f.xa.toNat (if f.imm.getLsbD 0 then (q >>> 32).setWidth 32 else q.setWidth 32)).next)

/-- The codes CSIG takes: M in a float format, a target in F8 or a K format, IMM[31:8] zero. -/
def csigLegal (imm : Word) : Bool :=
  let v := imm.toNat
  decide (v < 256) && (Fmt.ofCode (v % 16)).isFloat && scaledFmt (Fmt.ofCode (v / 16))

/-- CSIG (R38): the register named by XA takes σ; NX and NV go to VFLAGS. -/
def execCsig (t : TileId) (f : CtlF) (s : State) : Host.Outcome State Fault Refusal :=
  ok (s.dispatch t (.ctl .csig f) fun s =>
    if f.xd.getLsbD 3 || !csigLegal f.imm then s.stopNow t 1 0
    else s.modTile t fun u =>
      let mf := Fmt.ofCode (f.imm.toNat % 16)
      let m := (decodeElem mf ((u.qGet (ctlQk f)).toNat % 2 ^ mf.bits)).abs
      let r := pinSigma (Fmt.ofCode (f.imm.toNat / 16)) m
      { (u.xSet f.xa.toNat (BitVec.ofNat 32 r.1)).next with vflags := u.vflags ||| r.2 })

/-- Entries visible and not released, and entries reserved and not released (Table 4.16). -/
def Tile.hqState (t : Tile) : Word :=
  BitVec.ofNat 32 (heldEntries (t.hq.filter Entry.visible) * 8 + heldEntries t.hq)

/-- The tile control registers, Tables 4.12 to 4.17; other indices read as zero. -/
def Tile.controlReg (id : TileId) (t : Tile) (i : Nat) : Word :=
  if i = 0 then t.mflags.setWidth 32
  else if i = 1 then t.vflags.setWidth 32
  else if i = 2 then BitVec.ofNat 32 id.key
  else if i = 3 then BitVec.ofNat 32 (t.clock - t.origin)
  else if i = 4 then t.hqState
  else if i = 5 then BitVec.ofNat 32 (b2n t.spec)
  else 0

def execCrd (t : TileId) (f : CtlF) (s : State) : Host.Outcome State Fault Refusal :=
  ok (s.control t .crd f fun u => (u.xSet f.xd.toNat (u.controlReg t (f.imm.toNat % 256))).next)

/-- CWR: MFLAGS and VFLAGS are W1C; every other register is RO or not listed. -/
def execCwr (t : TileId) (f : CtlF) (s : State) : Host.Outcome State Fault Refusal :=
  ok (s.control t .cwr f fun u =>
    let v := u.xGet f.xa.toNat
    let i := f.imm.toNat % 256
    let u := if i = 0 then { u with mflags := writeFlagsReg u.mflags v }
      else if i = 1 then { u with vflags := writeFlagsReg u.vflags v } else u
    u.next)

/-! ### SYNC, END, ABORT -/

/-- SYNC (R124): dispatch holds until the named sub-queues have finished, which the end of its own fc may show. -/
def execSync (t : TileId) (f : CtlF) (s : State) : Host.Outcome State Fault Refusal :=
  ok (s.dispatch t (.ctl .sync f) fun s =>
    (s.modTile t fun u => { u.next with phase := .syncHold (f.imm.setWidth 4) u.seq }).tileEnd t)

/-- END (R126): the tile's part waits for its end. -/
def execEnd (t : TileId) (f : CtlF) (s : State) : Host.Outcome State Fault Refusal :=
  ok (s.control t .end_ f fun u => { u.next with phase := .endHold })

/-- ABORT (R131): cause PROGRAM_ABORT with the code IMM[15:0]. -/
def execAbort (t : TileId) (f : CtlF) (s : State) : Host.Outcome State Fault Refusal :=
  ok (s.dispatch t (.ctl .abort f) fun s => s.stopNow t 0x0A (f.imm.toNat % 65536))

/-! ### Handles (R121, R122, R127 to R130, R133, R193) -/

/-- R193: the tile is the consumer that the image names for the ring. -/
def State.consumes (s : State) (id : TileId) (r : Nat) : Bool :=
  let d := s.ring r
  d.kind == .handle && d.die == id.die.val && d.tile == some id.tile.val

/-- The oldest handle of a ring. -/
def State.oldest (s : State) (r : Nat) : Option HandleIn := (s.handles r).head?

/-- A delivered row whose entry posts a handle on ring `r`. -/
def State.postsOn (s : State) (r : Nat) (n : RowNote) : Bool :=
  match n with
  | .fill ring _ _ _ => ring == r
  | .frame f => bitOf f.flags 1 && f.ring == r
  | .xtile src => (tileOfKey src).any fun id => (s.tile id).xfer.any fun x => x.f.post == 1 && x.f.ring.toNat == r

/-- Tiles whose silt is to take rows that post on ring `r` run up to fc `h`, so that the ring holds what entered before it. -/
def State.pullRing (r h : Nat) (s : State) : State :=
  (mapKeys (fun _ (t : Tile) => t.landing.any fun w => w.note.any (s.postsOn r)) s.tiles).foldl (fun (s : State) k =>
    match tileOfKey k with
    | some id => s.runTo id h
    | none => s) s

/-- HGET (R122, R127, R128, R193): the oldest handle is taken at once, or dispatch holds for one.  On a ring that is not the
task's, RING_RIGHTS alone is recorded, whether the ring holds a handle or not (DESIGN CHOICE; notes/assumptions/84). -/
def execHget (t : TileId) (f : HdlF) (s : State) : Host.Outcome State Fault Refusal :=
  ok (s.dispatch t (.hdl .hget f) fun s =>
    let r := f.ring.toNat
    let s := s.pullRing r (s.tile t).clock
    let u := s.tile t
    if f.rsvHigh != 0 || f.rsvLow != 0 then s.stopNow t 1 0
    else if !s.ringOfTask u.task r || !s.consumes t r then s.stopNow t 8 0
    else
      match s.oldest r with
      | some h =>
        if h.at_ ≤ u.clock then
          ((s.takeHandle r).taint u.task h.word.msb).modTile t fun u => (u.xSet f.xh.toNat h.word).next
        else if f.wait = 0 then s.stopNow t 6 0
        else s.modTile t fun u => { u.next with phase := .handleHold f u.clock }
      | none =>
        if f.wait = 0 then s.stopNow t 6 0
        else s.modTile t fun u => { u.next with phase := .handleHold f u.clock })

/-- HPUT (R121, R122, R129): the handle enters with the hardware's speculative tag in the issue fc.  On a ring that is not the
task's, RING_RIGHTS alone is recorded, whether the ring is full or not (DESIGN CHOICE; notes/assumptions/84). -/
def execHput (t : TileId) (f : HdlF) (s : State) : Host.Outcome State Fault Refusal :=
  ok (s.dispatch t (.hdl .hput f) fun s =>
    let u := s.tile t
    let r := f.ring.toNat
    if f.rsvHigh != 0 || f.rsvLow != 0 || f.wait != 0 then s.stopNow t 1 0
    else if !s.ringOfTask u.task r then s.stopNow t 8 0
    else
      let p := s.postHandle r (tagHandle u.spec (u.xGet f.xh.toNat)) u.clock t.key
      if p.2 then p.1.modTile t Tile.next else s.stopNow t 7 0)

/-! ### Events of the control core -/

/-- The tile runs to the fc that `when_` gives, which bank refusals on the way may shift, and what falls due there happens. -/
def State.eventAt (id : TileId) (when_ : Tile → Option Nat) (s : State) : State :=
  match when_ (s.tile id) with
  | none => s
  | some _ =>
    match s.tileUntil id (fun t => (when_ t).all (· ≤ t.clock)) (s.fuelOf id) with
    | some s => (s.modTile id fun t => if when_ t = some t.clock then t.due t.clock else t).catchUp id
    | none => s

/-- The tile runs through fc `h`, that fc included. -/
def State.through (id : TileId) (h : Nat) (s : State) : State := (s.runTo id (h + 1)).catchUp id

/-- SYNC_SATISFIED (R124): the last awaited write lands, and dispatch resumes in the next fc. -/
def execSyncSatisfied (t : TileId) (s : State) : Host.Outcome State Fault Refusal :=
  let held (u : Tile) : Bool := match u.phase with
    | .syncHold _ _ => true
    | _ => false
  ok (if held (s.tile t) then
    match s.tileUntil t (fun u => !held u) (s.fuelOf t) with
    | some s' => s'.catchUp t
    | none => s
  else s)

/-- PC_RANGE (R98): dispatch would pass instruction 4,095. -/
def execPcRange (t : TileId) (s : State) : Host.Outcome State Fault Refusal :=
  let out (u : Tile) : Bool := u.phase == .running && u.pc == 4096
  ok (if out (s.tile t) then
    match s.tileUntil t (fun u => !out u) (s.fuelOf t) with
    | some s' => s'.catchUp t
    | none => s
  else s)

/-- HGET_HANDLE (R127, R133): the fc in which the handle enters is carried out, and unless it stops the tile the handle is removed
and written to XH 2 fc after it entered. -/
def execHgetHandle (t : TileId) (s : State) : Host.Outcome State Fault Refusal :=
  ok (match (s.tile t).phase with
    | .handleHold f since =>
      let s := s.pullRing f.ring.toNat (since + 64 * f.wait.toNat)
      match s.oldest f.ring.toNat with
      | some h =>
        let a := max h.at_ since
        if a < since + 64 * f.wait.toNat then
          let s := s.runTo t (a + 1)
          (match (s.tile t).phase with
           | .handleHold _ _ =>
             ((s.takeHandle f.ring.toNat).taint (s.tile t).task h.word.msb).modTile t fun u =>
               { u.xSet f.xh.toNat h.word with phase := .running, nextDispatch := a + 2 }
           | _ => s).catchUp t
        else s
      | none => s
    | _ => s)

/-- HANDLE_TIMEOUT (R128): the wait limit passes without a handle, and the task aborts. -/
def execHandleTimeout (t : TileId) (s : State) : Host.Outcome State Fault Refusal :=
  ok (match (s.tile t).phase with
    | .handleHold f since =>
      let limit := since + 64 * f.wait.toNat
      let s := s.pullRing f.ring.toNat limit
      if (s.handles f.ring.toNat).any fun h => decide (h.at_ < limit) then s else s.through t limit
    | _ => s)

end Sys2Proof.Machine
end

