-- ==== Sys2Proof/Machine/CommandsAdmin.lean ====
section
/-! DEFINITION. Administration commands (Table 12.6), the queries of contexts and abort records, and doorbells (R177 to
R183, R386, R394, R395, R407, R408, R413). -/

namespace Sys2Proof.Machine

/-! ### Plain commands -/

/-- NOP: DONE. -/
def execNopCommand (ring : Nat) (s : State) : Host.Outcome State Fault Refusal :=
  ok (s.command 0x00 ring fun c s => paramOr c [] false true (fun s => s.done c.ask []) s)

/-- HOST_TIME: the timestamp is kept (R520), and RESULT0 and RESULT1 hold the local sc count. -/
def execHostTime (ring : Nat) (s : State) : Host.Outcome State Fault Refusal :=
  ok (s.command 0x02 ring fun c s => paramOr c [(16, 8)] false true (fun s =>
    ({ s with host := { s.host with hostTime := c.p 16 8 } }).done c.ask (wordsOf 2 s.sc)) s)

/-! ### Rings -/

/-- The storage that the allocated command and completion rings take: offset and size. -/
def RingState.extents (rs : RingState) : List (Nat × Nat) :=
  (rs.rings.filter fun e => e.2.kind == .command || e.2.kind == .completion).map fun e =>
    (e.2.base * 64, e.2.depth * e.2.entrySize)

def storageBytes : Nat := 2 ^ 30

def overlaps (a n b m : Nat) : Bool := decide (a < b + m) && decide (b < a + n)

/-- R413: the lowest offset that fits and is aligned to the ring's size. -/
def RingState.place (rs : RingState) (size : Nat) : Option Nat :=
  let starts := 0 :: rs.extents.map fun e => ceilDiv (e.1 + e.2) size * size
  let fits := starts.filter fun a => decide (a + size ≤ storageBytes) && rs.extents.all fun e => !overlaps a size e.1 e.2
  match fits with
  | [] => none
  | a :: as => some (as.foldl min a)

/-- The rings that are not free, in rising order. -/
def RingState.used (rs : RingState) : List Nat := mapKeys (fun _ (d : Ring) => d.kind != .free) rs.rings

/-- RING_ALLOC (R180, R381, R413): the lowest free number. -/
def execRingAlloc (ring : Nat) (s : State) : Host.Outcome State Fault Refusal :=
  ok (s.command 0x03 ring fun c s =>
    let kind := c.p 16 1
    let lg := c.p 17 1
    let pair := c.p 20 4
    let core := c.p 24 1
    let good := (kind == 1 || kind == 2) && decide (6 ≤ lg) && decide (lg ≤ 16) &&
      (kind == 1 || (pair == 0 && core == 0))
    paramOr c [(16, 2), (20, 5)] false good (fun s =>
      if kind = 1 ∧ (s.ring pair).kind ≠ .completion then s.refuse c.ask refState
      else
        let size := 2 ^ lg * (if kind = 1 then 64 else 32)
        match lowestFree s.rs.used 262144 0, s.rs.place size with
        | some n, some base =>
          if 262144 ≤ n then s.refuse c.ask refResource
          else
            let d : Ring := { kind := if kind = 1 then .command else .completion, base := base / 64, die := 4,
                              log2d := lg, pair := if kind = 1 then pair else 0 }
            let claim := if c.ask.flags % 2 = 1 && (c.ask.role == 1 || c.ask.role == 2) then some (c.ask.role, c.ask.keyId)
              else none
            let s := { s with rs := { s.rs with storage := mapClearRange base size s.rs.storage } }
            ((s.setRing n d).setAux n { claim := claim, coreSet := core }).done c.ask [BitVec.ofNat 32 n]
        | _, _ => s.refuse c.ask refResource) s)

/-- RING_FREE: STATE in the cases of its row. -/
def State.ringBusy (s : State) (n : Nat) (a : Ask) : Bool :=
  let d := s.ring n
  n == 0 || n == 1 || d.kind == .free || d.kind == .handle ||
  (d.kind == .command && d.used != 0) ||
  (d.kind == .completion && s.rs.rings.any fun e => e.2.kind == .command && e.2.pair == n) ||
  (match s.claimOf n with
   | some k => k != (a.role, a.keyId)
   | none => false)

def execRingFree (ring : Nat) (s : State) : Host.Outcome State Fault Refusal :=
  ok (s.command 0x04 ring fun c s =>
    let n := c.p 16 4
    paramOr c [(16, 4)] false (decide (n ≤ 262143)) (fun s =>
      if s.ringBusy n c.ask then s.refuse c.ask refState
      else
        let s := { s with rs := { s.rs with served := s.rs.served.filter fun e => e.1 % 2 ^ 18 != n } }
        ((s.setRing n {}).setAux n {}).done c.ask []) s)

def kindCode : RingKind → Nat
  | .free => 0 | .command => 1 | .completion => 2 | .handle => 3

/-- The 256-bit ring descriptor, Table 6.2. -/
def Ring.record (d : Ring) : List Byte :=
  leBytes 32 (packBits [(d.posted, 64), (0, 14), (d.tail, 17), (d.head, 17), (d.task, 16), (0, 3), (d.pair, 18),
    (kindCode d.kind, 2), (d.log2d, 5), (d.die, 5), (d.base, 31), (d.ctx, 20), (0, 44)])

/-- RING_QUERY (R181). -/
def execRingQuery (ring : Nat) (s : State) : Host.Outcome State Fault Refusal :=
  ok (s.command 0x05 ring fun c s =>
    let n := c.p 16 8
    paramOr c [(16, 8), bufBytes] false (decide (n ≤ 262143)) (fun s => s.answerRecord c (s.ring n).record []) s)

/-! ### Contexts and abort records -/

def ctxStateCode : CtxState → Nat
  | .free => 0 | .ready => 1 | .active => 2 | .aborted => 3

/-- The 256-bit stream context record, Table 6.3; a FREE context reads as its number alone (R183). -/
def Ctx.record (n : Nat) (c : Ctx) : List Byte :=
  let c := if c.state = .free then {} else c
  leBytes 32 (packBits [(n, 20), (0, 12), (c.fault, 8), (b2n c.spec, 1), (ctxStateCode c.state, 3), (c.kind, 4),
    (c.task, 16), (0, 14), (c.ring, 18), (c.limit, 32), (c.moved, 32), (0, 22), (c.bufCount, 21), (c.bufLog2, 5),
    (c.bufBase, 48)])

/-- CONTEXT_QUERY (R183). -/
def execContextQuery (ring : Nat) (s : State) : Host.Outcome State Fault Refusal :=
  ok (s.command 0xE4 ring fun c s =>
    let n := c.p 16 4
    paramOr c [(16, 4), bufBytes] false (decide (n ≤ 1048575)) (fun s => s.answerRecord c ((s.ctx n).record n) []) s)

/-- ABORT_READ: the record the package keeps for the task (R203). -/
def execAbortRead (ring : Nat) (s : State) : Host.Outcome State Fault Refusal :=
  ok (s.command 0xE5 ring fun c s =>
    paramOr c [] true (decide (c.object < 65536)) (fun s =>
      s.done c.ask (wordsOf 4 (AbortRecord.bits (s.task c.object).record))) s)

/-! ### FENCE (R394, R395) -/

/-- The eight-byte pairs of a fence: ring, then SEQ. -/
def Cmd.pairs (c : Cmd) : List (Nat × Nat) := (List.range (c.p 18 1)).map fun i => (c.p (24 + 8 * i) 4, c.p (28 + 8 * i) 4)

/-- The other command rings with their TAIL when the doorbell that covers this command arrived. -/
def State.bellSnap (s : State) (a : Ask) : List (Nat × Nat) :=
  let head := (s.ring a.ring).head
  ((s.aux a.ring).bells.find? fun b => decide (1 + a.next ≤ (b.1 + 2 ^ 17 - head) % 2 ^ 17)).elim [] Prod.snd

/-- The rings that a ring's waiting fence waits on. -/
def State.waitsOn (s : State) (r : Nat) : List Nat := ((s.aux r).fence.map s.fenceUnmet).getD []

/-- Rings reached through waiting fences in at most `n` steps. -/
def State.fenceReach (s : State) : Nat → List Nat → List Nat
  | 0, rs => rs
  | n + 1, rs => s.fenceReach n (rs ++ (rs.flatMap s.waitsOn).filter fun r => !rs.contains r)

/-- FENCE: it waits until its condition holds; FENCE_CYCLE when its own ring is among those it would wait on through
other fences. -/
def execFence (ring : Nat) (s : State) : Host.Outcome State Fault Refusal :=
  ok (s.command 0x06 ring fun c s =>
    let mode := c.p 16 1
    let fl := c.p 17 1
    let n := c.p 18 1
    let limit := c.p 20 4
    let good := decide (mode ≤ 1) && decide (fl ≤ 1) && decide (n ≤ 5) && c.pairs.all fun p => decide (p.1 ≤ 262143)
    paramOr c [(16, 3), (20, 4), (24, 8 * n)] false good (fun s =>
      let f : Fence := { all := mode == 1, final := fl == 1, limit := if limit = 0 then none else some (s.sc + 1024 * limit),
                         named := c.pairs, others := if mode = 1 then s.bellSnap c.ask else [] }
      let unmet := s.fenceUnmet f
      if unmet.isEmpty then s.done c.ask []
      else if (s.fenceReach s.rs.aux.length unmet).contains ring then s.refuse c.ask refCycle
      else s.setAux ring { s.aux ring with current := some c.ask, fence := some f }) s)

/-- FENCE_TIMEOUT (R395): the limit passes first; RESULT0 is the first ring still unmet. -/
def execFenceTimeout (ring : Nat) (s : State) : Host.Outcome State Fault Refusal :=
  ok (match (s.aux ring).fence, (s.aux ring).current with
    | some f, some a =>
      match f.limit with
      | some t => (s.toSc t).answer a 3 0x41 [BitVec.ofNat 32 ((s.fenceUnmet f).headD 0)]
      | none => s
    | _, _ => s)

/-! ### Doorbells -/

/-- A discarded doorbell (R407). -/
def State.doorbellError (cq : Bool) (ring : BitVec 18) (s : State) : State :=
  ({ s with host := { s.host with dbValid := true, dbCq := cq, dbRing := ring } }).setCause 1

/-- COMMAND_DOORBELL (R407): TAIL of the ring, or a discarded write. -/
def execCommandDoorbell (ring : BitVec 18) (v : BitVec 32) (s : State) : Host.Outcome State Fault Refusal :=
  let r := ring.toNat
  let d := s.ring r
  let t := v.toNat % 2 ^ 17
  ok (if d.kind = .command ∧ v.toNat < 2 ^ 17 ∧ (t + 2 ^ 17 - d.tail) % 2 ^ 17 ≤ d.depth ∧
      (t + 2 ^ 17 - d.head) % 2 ^ 17 ≤ d.depth then
    let others := (s.rs.rings.filter fun e => e.2.kind == .command && e.1 != r).map fun e => (e.1, e.2.tail)
    let posted := (d.posted + (t + 2 ^ 17 - d.tail) % 2 ^ 17) % 2 ^ 64
    let n := (t + 2 ^ 17 - d.tail) % 2 ^ 17
    let k := min n (s.aux r).skip
    let s := s.setRing r { d with tail := t, posted := posted, head := (d.head + k) % 2 ^ 17 }
    (s.setAux r { s.aux r with skip := (s.aux r).skip - k, bells := (s.aux r).bells ++ [(t, others)] }).settled
  else s.doorbellError false ring)

/-- The replies that wait for a ring. -/
def State.setHeld (r : Nat) (held : List HeldReply) (s : State) : State := s.setAux r { s.aux r with held := held }

/-- Held replies of a completion ring are posted while it has room (R379). -/
def State.flushHeld (r : Nat) : Nat → State → State
  | 0, s => s
  | n + 1, s =>
    match (s.aux r).held with
    | b :: rest => if (s.ring r).full then s else State.flushHeld r n (((s.setHeld r []).postReply r b).setHeld r rest)
    | [] => s

/-- COMPLETION_DOORBELL (R408): HEAD of the ring, and the replies and notices that waited for room. -/
def execCompletionDoorbell (ring : BitVec 18) (v : BitVec 32) (s : State) : Host.Outcome State Fault Refusal :=
  let r := ring.toNat
  let d := s.ring r
  let h := v.toNat % 2 ^ 17
  ok (if d.kind = .completion ∧ v.toNat < 2 ^ 17 ∧ (d.tail + 2 ^ 17 - h) % 2 ^ 17 ≤ d.used then
    let s := s.setRing r { d with head := h }
    let s := s.flushHeld r (s.aux r).held.length
    let s := if r = 1 then s.drainNotices 257 else s
    s.settled
  else s.doorbellError true ring)

end Sys2Proof.Machine
end

