-- ==== Sys2Proof/Machine/Pages.lean ====
section
/-! DEFINITION. Pages, migrations and lending: the commands of Table 12.7 and their effects (R141 to R166, R570). -/

namespace Sys2Proof.Machine

/-! ### Frames -/

/-- Frames of this package's clay that a page holds. -/
def Page.frames (p : Page) : List Nat :=
  if !p.valid then []
  else
    match p.loc with
    | .home | .lent => if p.banked then [p.frame0, p.frame1] else [p.frame0]
    | .remote => if p.copies then (if p.banked then [p.frame0, p.frame1] else [p.frame0]) else []
    | .moved => []

/-- Every frame in use: by pages, by maps that clear or wait, as the destination of a migration, and by transfers (R156). -/
def MemState.usedFrames (m : MemState) : List Nat :=
  m.pages.flatMap (fun e => e.2.frames) ++ m.clearing.flatMap Clearing.frames ++ m.cleared.flatMap Prod.snd ++
    (m.migrations.filter Migration.home).map Migration.frame ++ m.retiring.map fun r => r.2.1

/-- R156: source frames whose transfers have all completed are free. -/
def State.freeRetired (s : State) : State :=
  { s with mem := { s.mem with retiring := s.mem.retiring.filter fun r => (s.ctx r.2.2).state == .active } }

/-- At most `k` frames from `a` on that are not in use. -/
def freeFrames (used : List Nat) : Nat → Nat → Nat → List Nat
  | 0, _, _ => []
  | fuel + 1, a, k =>
    if k = 0 then [] else if used.contains a then freeFrames used fuel (a + 1) k
    else a :: freeFrames used fuel (a + 1) (k - 1)

/-- R139, R160: frames of the job, below the lent ones. -/
def MemState.jobFrames (m : MemState) : Nat := 784384 - m.lendFrames

/-- `k` free job frames, the lowest ones (notes/assumptions/21); none when there are fewer (R166). -/
def MemState.takeFrames (m : MemState) (k : Nat) : Option (List Nat) :=
  let l := freeFrames m.usedFrames m.jobFrames 0 k
  if l.length = k then some l else none

/-! ### The page descriptor (Table 5.2) -/

def pageStateCode : PageState → Nat
  | .open_ => 0 | .sealed => 1 | .migrating => 2 | .lost => 3

def pageWhereCode : PageWhere → Nat
  | .home => 0 | .remote => 1 | .moved => 2 | .lent => 3

def Page.bits (p : Page) : Nat :=
  packBits [(p.frame0, 20), (p.frame1, 20), (0, 16), (b2n p.copies, 1), (pageWhereCode p.loc, 2), (b2n p.spec, 1),
    (b2n p.banked, 1), (pageStateCode p.state, 2), (b2n p.valid, 1), (p.peer, 20), (p.lpage, 27), (0, 17)]

/-- PAGE_QUERY (R144, R145): Table 5.2 in the result words; a LOST page is refused. -/
def execPageQuery (ring : Nat) (s : State) : Host.Outcome State Fault Refusal :=
  ok (s.command 0x25 ring fun c s =>
    let p := s.mem.page (c.p 16 8)
    paramOr c [(16, 8)] false (decide (c.p 16 8 < 2 ^ 27)) (fun s =>
      if p.valid && p.state == .lost then s.refuse c.ask refState else s.done c.ask (wordsOf 4 p.bits)) s)

/-! ### Page commands: what they check and what they do -/

def Cmd.first (c : Cmd) : Nat := c.p 16 8
def Cmd.count (c : Cmd) : Nat := c.p 24 4
def Cmd.pages (c : Cmd) : List Nat := (List.range c.count).map (c.first + ·)

/-- The page range lies in the local range (R135). -/
def Cmd.pagesGood (c : Cmd) : Bool := decide (c.first + c.count ≤ 2 ^ 27) && decide (c.first < 2 ^ 27)

def Cmd.banked (c : Cmd) : Bool := bitOf (c.p 28 1) 0
def Cmd.sealedFlag (c : Cmd) : Bool := bitOf (c.p 28 1) 1
def Cmd.remote (c : Cmd) : Bool := bitOf (c.p 28 1) 2

/-- The STATE condition of a page command for one page (Table 5.3). -/
def Page.allows (p : Page) (op : Nat) : Bool :=
  match op with
  | 0x20 => !p.valid
  | 0x21 => p.valid && p.state != .migrating
  | 0x22 => p.valid && !p.banked && p.state == .open_
  | 0x23 => p.valid && !p.banked && p.state == .sealed && (p.loc == .home || p.loc == .remote)
  | _ => false

/-- The REMOTE shard whose weights page `n` holds, when this package keeps copies of it (R170 to R174). -/
def State.copyPage (s : State) (n : Nat) : Bool :=
  s.job.image.any fun i => i.shards.any fun h =>
    h.remote && h.held && decide (h.addr / frameBytes ≤ n) &&
      decide (n ≤ (h.addr + h.rows * h.cols * 2 - 1) / frameBytes)

/-- Frames that a map takes here for page `n`: two of a banked page, one of any other; of a page REMOTE, two for the weights
that this package keeps copies of (R170 to R174). -/
def State.framesFor (s : State) (c : Cmd) (n : Nat) : Nat :=
  if c.remote then (if c.banked && s.copyPage n then 2 else 0) else if c.banked then 2 else 1

def State.framesNeeded (s : State) (c : Cmd) : Nat := (c.pages.map (s.framesFor c)).foldl (· + ·) 0

/-- One page mapped, with the frames taken for it.  A REMOTE page's place on the lender is the lender's choice, a free value. -/
def State.mapPage (c : Cmd) (n : Nat) (frames : List Nat) (s : State) : State :=
  let st : PageState := if c.sealedFlag then .sealed else .open_
  let (lp, s) := if c.remote then s.drawBelow (2 ^ 27) else (0, s)
  let p : Page := {
    valid := true, state := st, banked := c.banked, loc := if c.remote then .remote else .home
    copies := c.remote && !frames.isEmpty, frame0 := frames.getD 0 0, frame1 := frames.getD 1 0
    peer := if c.remote then c.p 32 3 else 0, lpage := lp }
  { s with mem := s.mem.setPage n p }

/-- The entry of a change of `count` pages from `first` on: their number and the first one's descriptor, before and after
(Table 16.6); without a command, the schedule image made it. -/
def State.auditPages (a : Option Ask) (first count old : Nat) (s : State) : State :=
  let was := leBytes 4 count ++ leBytes 16 old
  let now := leBytes 4 count ++ leBytes 16 (s.mem.page first).bits
  match a with
  | some a => s.auditFor a 0x206 first was now
  | none => s.audit 0x206 first was now

/-- Every page of a map, with the frames that were taken and cleared for it. -/
def State.mapPages (c : Cmd) (frames : List Nat) (s : State) : State :=
  let old := (s.mem.page c.first).bits
  let r := c.pages.foldl (fun (a : State × List Nat) n =>
    let k := a.1.framesFor c n
    (a.1.mapPage c n (a.2.take k), a.2.drop k)) (s, frames)
  r.1.auditPages (some c.ask) c.first c.count old

/-- Frames are written to zero, with good check bits (R570). -/
def State.clearFrames (fs : List Nat) (s : State) : State :=
  fs.foldl (fun (s : State) f => ({ s with mem := s.mem.clearFrame f }).countClay 0x0202 4 false (f * frameBytes) frameBytes) s

/-- A page sealed, opened or unmapped. -/
def MemState.change (op n : Nat) (m : MemState) : MemState :=
  let p := m.page n
  match op with
  | 0x21 => m.setPage n {}
  | 0x22 => m.setPage n { p with state := .sealed }
  | 0x23 => m.setPage n { p with state := .open_, copies := false, frame0 := if p.loc = .remote then 0 else p.frame0,
                                 frame1 := if p.loc = .remote then 0 else p.frame1 }
  | _ => m

/-- PAGE_UNMAP, PAGE_SEAL or PAGE_OPEN of all its pages; none of them when one page does not allow it. -/
def State.pageChange (c : Cmd) (s : State) : State × Bool :=
  if c.pages.all fun n => (s.mem.page n).allows c.ask.opcode then
    (({ s with mem := c.pages.foldl (fun m n => m.change c.ask.opcode n) s.mem }).auditPages (some c.ask) c.first c.count
      (s.mem.page c.first).bits, true)
  else (s, false)

/-- Whether a job runs (R371). -/
def State.jobRuns (s : State) : Bool := s.job.image.isSome

/-- R162, R166: what the lender answers to a REMOTE map: 0 granted, 1 no free frame, 2 a banked page without reserved
tilth units.  The lender's state is not this package's: its answer is a free value. -/
def State.lenderAnswer (banked : Bool) (s : State) : Nat × State := s.drawBelow (if banked then 3 else 2)

/-! ### PAGE_MAP, PAGE_UNMAP, PAGE_SEAL, PAGE_OPEN (R145, R150, R570) -/

/-- R579: a page on which the image has an inlet. -/
def State.inletPage (s : State) (n : Nat) : Bool := s.meetsInlet (n * frameBytes) frameBytes

/-- The pages of a map are unmapped, and no inlet of the image lies on them (R145, R579). -/
def State.mapAllowed (s : State) (c : Cmd) : Bool :=
  c.pages.all fun n => (s.mem.page n).allows 0x20 && !s.inletPage n

/-- PAGE_MAP: the frames are taken and cleared; while a job runs the command is answered when the clearing has ended. -/
def State.mapStart (c : Cmd) (s : State) : State :=
  let s := s.freeRetired
  if (!s.jobRuns && !s.mapAllowed c) || c.pages.any s.inletPage then s.refuse c.ask refState
  else
    match s.mem.takeFrames (s.framesNeeded c) with
    | none => s.refuse c.ask refResource
    | some fs =>
      let (ans, s) := if c.remote then s.lenderAnswer c.banked else (0, s)
      if ans = 1 then s.refuse c.ask refResource
      else if ans = 2 then s.refuse c.ask refState
      else if s.jobRuns then
        let k : Clearing := { ask := c.ask, first := c.first, count := c.count, flags := c.p 28 1, lender := c.p 32 3,
                              frames := fs, since := s.sc }
        let s := { s with mem := { s.mem with clearing := s.mem.clearing ++ [k] } }
        s.setAux c.ask.ring { s.aux c.ask.ring with current := some c.ask }
      else ((s.clearFrames fs).mapPages c fs).done c.ask []

def execPageMap (ring : Nat) (s : State) : Host.Outcome State Fault Refusal :=
  ok (s.command 0x20 ring fun c s =>
    let good := c.pagesGood && decide (c.p 28 1 < 8) && decide (c.p 32 3 < 2 ^ 20) && !(c.banked && c.sealedFlag)
    paramOr c [(16, 13), (32, 3)] false good (fun s => s.mapStart c) s)

/-- The command whose frames have been cleared, as its packet stands at the HEAD of its ring still. -/
def Clearing.cmd (s : State) (k : Clearing) : Cmd :=
  { (s.front k.ask.ring).getD { ask := k.ask, object := 0, packet := [], ext := [], trailer := [] } with ask := k.ask }

/-- Every stack channel has given `n` slots. -/
def allSlots (n : Nat) (slots : Map Nat) : Bool := (List.range 512).all fun k => decide (n ≤ mapGet 0 slots k)

/-- Bursts of one frame on one channel: 2 MiB over 512 channels. -/
def frameBursts : Nat := 64

/-- MAP_CLEAR_COMPLETE (R570): while a job runs, the fallow slots have sufficed; the frames are zero with good check bits, and the
map is answered DEFERRED to the commit of E; when the job has ended meanwhile it takes effect and is answered DONE. -/
def execMapClearComplete (ring : Nat) (s : State) : Host.Outcome State Fault Refusal :=
  ok (match s.mem.clearing.find? fun k => k.ask.ring == ring with
    | none => s
    | some k =>
      if s.jobRuns && !allSlots (frameBursts * k.frames.length) k.slots then s
      else
        let c := k.cmd s
        let m := { s.mem with clearing := s.mem.clearing.filter fun x => x.ask.ring != ring }
        if s.jobRuns then
          (({ s with mem := { m with cleared := m.cleared ++ [(k.first, k.frames)] } }).clearFrames k.frames).defer_ c 1 s.job.epoch
        else
          let s := ({ s with mem := m }).clearFrames k.frames
          if s.mapAllowed c then (s.mapPages c k.frames).done c.ask []
          else s.refuse c.ask refState)

/-- A map that falls due (R150, R392): its pages are still unmapped, or it is refused and its frames are free again. -/
def State.mapDue (c : Cmd) (s : State) : State :=
  let fs := ((s.mem.cleared.find? fun k => k.1 == c.first).map Prod.snd).getD []
  let rest := s.mem.cleared.erase (c.first, fs)
  let s := { s with mem := { s.mem with cleared := rest } }
  if s.mapAllowed c then (s.mapPages c fs).final c.ask 0 0 []
  else s.final c.ask 4 refState [0]

/-- Another page command: DEFERRED to the commit of E while a job runs, else done at once.  An unmap of a page that
migrates is DEFERRED to the migration's end (R145). -/
def State.pageStart (c : Cmd) (s : State) : State :=
  let moving := c.pages.find? fun n => (s.mem.page n).state == .migrating
  if c.ask.opcode = 0x21 ∧ moving.isSome then s.defer_ c 5 (moving.getD 0)
  else if s.jobRuns then s.defer_ c 1 s.job.epoch
  else
    let r := s.pageChange c
    if r.2 then r.1.done c.ask [] else s.refuse c.ask refState

/-- A page command that falls due at a commit or at a migration's end. -/
def State.pageDue (c : Cmd) (s : State) : State :=
  if c.ask.opcode = 0x20 then s.mapDue c
  else
    let r := s.pageChange c
    if r.2 then r.1.final c.ask 0 0 [] else s.final c.ask 4 refState [0]

def execPageUnmap (ring : Nat) (s : State) : Host.Outcome State Fault Refusal :=
  ok (s.command 0x21 ring fun c s => paramOr c [(16, 12)] false c.pagesGood (fun s => s.pageStart c) s)

def execPageSeal (ring : Nat) (s : State) : Host.Outcome State Fault Refusal :=
  ok (s.command 0x22 ring fun c s => paramOr c [(16, 12)] false c.pagesGood (fun s => s.pageStart c) s)

def execPageOpen (ring : Nat) (s : State) : Host.Outcome State Fault Refusal :=
  ok (s.command 0x23 ring fun c s => paramOr c [(16, 12)] false c.pagesGood (fun s => s.pageStart c) s)

/-- The command of a deferred change. -/
def Deferred.cmd (d : Deferred) : Cmd :=
  { ask := d.ask, object := leNat ((d.bytes.drop 8).take 8), packet := d.bytes.take 64, ext := d.bytes.drop 64,
    trailer := [] }

/-! ### Migration (R154 to R158) -/

/-- The STATE condition of a migration of one page. -/
def Page.migrates (p : Page) (home : Bool) : Bool :=
  p.valid && !p.banked && p.state == .sealed && (if home then p.loc == .moved else p.loc == .home)

/-- The lowest stream context that is FREE (notes/assumptions/21). -/
def State.freeCtx (s : State) : Option Nat :=
  (lowestFree (mapKeys (fun _ (c : Ctx) => c.state != .free) s.rs.ctxs) 1048576 0).filter fun n => decide (n < 1048576)

/-- The answer of a migrate command: its final reply when it was answered DEFERRED.  What the image names has none. -/
def State.migrateAnswer (m : Migration) (cls code : Nat) (results : List Word) (s : State) : State :=
  match m.ask with
  | none => s
  | some a => if (s.aux a.ring).current = some a then s.answer a cls code results else s.final a cls code results

/-- The header of what a migration or copy sends or asks for. -/
def State.moveHead (s : State) (m : Migration) : Frame :=
  { fkind := 1, dst := m.lender, ctx := m.ctx, vc := if m.copy && s.packages.contains m.lender then 1 else 3
    laddr := m.lpage * frameBytes, stag := s.stepTag s.job.epoch }

/-- The bytes of a page that moves or is copied leave for the lender. -/
def State.sendMoved (m : Migration) (s : State) : State :=
  let pa := (s.mem.page m.page).frameOf m.epoch * frameBytes
  (s.countClay 0x0201 4 false pa frameBytes).sendStream (s.moveHead m) (s.mem.read pa frameBytes)

/-- The copy of a page starts as `o` says, but for its frame, context and place on the lender: the page is MIGRATING, its
destination is taken, and its bytes are asked for, or leave when they need wait for no fallow slot. -/
def State.moveStart (o : Migration) (s : State) : Option State :=
  let s := s.freeRetired
  let p := s.mem.page o.page
  match s.mem.takeFrames (b2n o.home), s.freeCtx with
  | some fs, some ctx =>
    let (lp, s) := if o.home then (p.lpage, s) else if o.copy then (o.lpage, s) else s.drawBelow (2 ^ 27)
    let m : Migration := { o with
      frame := fs.getD 0 0, lender := if o.home then p.peer else o.lender, lpage := lp, ctx := ctx
      free := o.ask.isNone || !s.jobRuns, slots := [] }
    let mem := if o.copy then s.mem else s.mem.setPage o.page { p with state := .migrating }
    let s := ({ s with mem := { mem with migrations := s.mem.migrations ++ [m] } }).setCtx ctx
      { state := .active, kind := 6, since := s.fc, activity := 1 }
    some (if m.home then s.sendReads (s.moveHead m) (lp * frameBytes) frameBytes (o.page * frameBytes)
      else if m.free then s.sendMoved m else s)
  | _, _ => none

/-- PAGE_MIGRATE: answered DEFERRED while a job runs, and run in slices otherwise (R157). -/
def State.migrateStart (c : Cmd) (s : State) : State :=
  let home := c.p 28 1 == 1
  if !(c.pages.all fun n => (s.mem.page n).migrates home) then s.refuse c.ask refState
  else if c.count = 0 then s.done c.ask []
  else
    let (ans, s) := if home then (0, s) else s.lenderAnswer false
    let o : Migration := {
      page := c.first, home := home, frame := 0, lender := c.p 32 3, lpage := 0, ask := some c.ask, since := s.sc
      deadline := c.p 36 4 * scPerSecond, left := c.count - 1, ctx := 0 }
    if ans = 1 then s.refuse c.ask refResource
    else
      match s.moveStart o with
      | none => s.refuse c.ask refResource
      | some s =>
        if s.jobRuns then s.answer c.ask 1 0 (5 :: wordsOf 2 c.first)
        else s.setAux c.ask.ring { s.aux c.ask.ring with current := some c.ask, work := some .migrate, slices := 1 }

def execPageMigrate (ring : Nat) (s : State) : Host.Outcome State Fault Refusal :=
  ok (s.command 0x24 ring fun c s =>
    let good := c.pagesGood && decide (c.p 28 1 < 2) && decide (c.p 32 3 < 2 ^ 20)
    paramOr c [(16, 13), (32, 3), (36, 4)] false good (fun s => s.migrateStart c) s)

/-- A page of this package's own that may be copied: sealed and unbanked, or banked for its current frame (R159). -/
def Page.copied (p : Page) : Bool := p.valid && p.loc == .home && (if p.banked then p.state != .lost else p.state == .sealed)

/-- Migrations and copies that the image names for epoch `e` start; one whose page does not allow it, or that finds no frame,
does not (R157, R159, R166; notes/assumptions/92). -/
def State.movesStart (e : Nat) (s : State) : State :=
  ((s.image Image.moves).filter fun d => d.epoch == e).foldl (fun (s : State) d =>
    let p := s.mem.page d.page
    let o : Migration := {
      page := d.page, home := d.home, frame := 0, lender := d.peer, lpage := d.copyTo.getD 0, ask := none
      copy := d.copyTo.isSome, epoch := e, since := s.sc, left := 0, ctx := 0 }
    if d.copyTo.isSome then (if p.copied && !d.home then (s.moveStart o).getD s else s)
    else if p.migrates d.home then (s.moveStart o).getD s
    else s) { s with job := { s.job with movesFrom := e + 1 } }

/-- The job is over: migrations that waited for fallow slots use every slot (R157). -/
def State.movesFree (s : State) : State :=
  let waits := s.mem.migrations.filter fun m => !m.free
  let ms := s.mem.migrations.map fun m => { m with free := true }
  waits.foldl (fun (s : State) m => if m.home || allSlots frameBursts m.slots then s else s.sendMoved m)
    { s with mem := { s.mem with migrations := ms } }

/-- Unmaps that waited for a migration's end and meet no migrating page any more take effect (R145). -/
def State.unmapsDue (s : State) : State :=
  let due (s : State) (d : Deferred) : Bool :=
    d.kind == 5 && d.cmd.pages.all fun n => (s.mem.page n).state != .migrating
  let now := s.job.deferred.filter (due s)
  let s := { s with job := { s.job with deferred := s.job.deferred.filter fun d => !due s d } }
  now.foldl (fun s d => s.pageDue d.cmd) s

/-- A migration or copy is over: its page stands as `p`, SEALED when it moved, and its context is free. -/
def State.migrationEnd (m : Migration) (p : Page) (s : State) : State :=
  let mem := { s.mem.setPage m.page (if m.copy then p else { p with state := .sealed }) with
    migrations := s.mem.migrations.filter fun x => x.ctx != m.ctx }
  let s := ({ s with mem := mem }).setCtx m.ctx {}
  { s with fab := { s.fab with replies := s.fab.replies.filter fun r => r.1 != m.ctx } }

/-- Stream contexts of the XGETs under way that cover a page, each of which resolved it as it issued (R156; notes/assumptions/26). -/
def State.readersOf (s : State) (page : Nat) : List Nat :=
  s.tiles.filterMap fun e => e.2.xfer.bind fun r =>
    if r.op == XferOp.xget && !r.remote s && (chunksOf r.record.laddr r.record.len).any (fun c => c.1 == page) then
      some r.record.ctx else none

/-- The page as a migration leaves it, when its bytes have been copied: at its destination, or where it was with a copy
elsewhere; a copy of a frame that is no longer sealed counts for nothing. -/
def Migration.result (m : Migration) (E : Nat) (p : Page) : Page :=
  if m.copy then (if p.copied && (!p.banked || m.epoch == E) then { p with copies := true } else p)
  else if m.home then { p with loc := .home, frame0 := m.frame, peer := 0, lpage := 0 }
  else { p with loc := .moved, frame0 := 0, peer := m.lender, lpage := m.lpage }

/-- The switch of a migration's page, its bytes `bs` at hand when they come here. -/
def State.moveSwitch (m : Migration) (bs : List Byte) (s : State) : State :=
  let p := s.mem.page m.page
  let s := if m.home then
      ({ s with mem := (s.mem.clearFrame m.frame).write (m.frame * frameBytes) bs }).countClay 0x0202 4 false (m.frame * frameBytes)
        frameBytes
    else if m.copy then s
    else { s with mem := { s.mem with
      retiring := s.mem.retiring ++ (s.readersOf m.page).map fun c => (m.page, p.frame0, c) } }
  ((s.migrationEnd m (m.result s.job.epoch p)).auditPages m.ask m.page 1 p.bits).unmapsDue

/-- MIGRATION_SWITCH (R155, R157 to R159): the descriptor switches to the destination in one update, or the copy has failed and
the page stays at its source.  A copy in fallow slots takes 64 of every channel. -/
def execMigrationSwitch (page : Nat) (copied : Bool) (s : State) : Host.Outcome State Fault Refusal :=
  ok (match s.mem.migrations.find? fun m => m.page == page with
    | none => s
    | some m =>
      let data := if m.home then s.fab.replyBytes m.ctx (page * frameBytes) frameBytes else some []
      if !copied then
        ((s.migrationEnd m (s.mem.page page)).migrateAnswer m 5 2 (wordsOf 2 page)).unmapsDue
      else if !m.free && !allSlots frameBursts m.slots then s
      else
        match data with
        | none => s
        | some bs =>
          let s := s.moveSwitch m bs
          if m.left = 0 then s.migrateAnswer m 0 0 []
          else if !(s.mem.page (page + 1)).migrates m.home then s.migrateAnswer m 4 refState [0]
          else
            match s.moveStart { m with page := page + 1, left := m.left - 1 } with
            | some s => s
            | none => s.migrateAnswer m 4 refResource [0])

/-- A migration stopped by CANCEL (R390): pages not yet switched stay at their sources. -/
def State.migrationCancel (m : Migration) (s : State) : State :=
  ((s.migrationEnd m (s.mem.page m.page)).migrateAnswer m 3 0x40 (wordsOf 2 m.page)).unmapsDue

/-! ### Lending (R160 to R165) -/

/-- Frames in use by pages LENT. -/
def MemState.lentFrames (m : MemState) : Nat :=
  ((m.pages.filter fun e => e.2.valid && e.2.loc == .lent).map fun e => e.2.frames.length).foldl (· + ·) 0

/-- The settings as LEND_SET lays them out, with the frames in use after the borrowers' number (notes/assumptions/22). -/
def State.lendRecord (s : State) : List Byte :=
  let m := s.mem
  let head := leBytes 4 m.lendFrames ++ leBytes 1 m.lendTilth ++ leBytes 1 m.borrowers.length ++ leBytes 2 0 ++
    leBytes 4 m.lentFrames ++ List.replicate 52 0
  let who := padTo 64 (m.borrowers.flatMap fun b => leBytes 4 b)
  let masks := padTo 64 (m.lendSlots.flatMap fun v => leBytes 4 v.toNat)
  head ++ who ++ masks

/-- LEND_SET (R160, R164). -/
def execLendSet (ring : Nat) (s : State) : Host.Outcome State Fault Refusal :=
  ok (s.command 0x26 ring fun c s =>
    let n := c.p 21 1
    let who := (List.range n).map fun i => c.x (4 * i) 4
    let masks := (List.range 16).map fun i => BitVec.ofNat 32 (c.x (64 + 4 * i) 4)
    let good : Bool := decide (c.p 16 4 ≤ 784384) && decide (c.p 20 1 ≤ 32) && decide (1 ≤ n) && decide (n ≤ 16) &&
      c.ext.length == 128 && who.all (fun w => decide (w < 2 ^ 20)) &&
      ((c.ext.drop (4 * n)).take (64 - 4 * n)).all (· == 0)
    paramOr c [(16, 6)] false (good && masks.all fun m => !m.getLsbD 31) (fun s =>
      let lent := (s.mem.pages.filter fun e => e.2.valid && e.2.loc == .lent).map Prod.snd
      if masks.zipIdx.any fun m => m.1 != 0 && s.portAbsent m.2 then s.refuse c.ask refAbsent
      else if decide (c.p 16 4 < s.mem.lentFrames) || (c.p 20 1 == 0 && lent.any Page.banked) ||
          lent.any (fun p => !who.contains p.peer) then s.refuse c.ask refState
      else
        let old := sha3 s.lendRecord
        let s := { s with mem := { s.mem with
          lendFrames := c.p 16 4, lendTilth := c.p 20 1, borrowers := who, lendSlots := masks } }
        ((s.auditFor c.ask 0x103 0 old (sha3 s.lendRecord)).portsSend).done c.ask []) s)

/-- LEND_QUERY. -/
def execLendQuery (ring : Nat) (s : State) : Host.Outcome State Fault Refusal :=
  ok (s.command 0x27 ring fun c s =>
    paramOr c [bufBytes] false true (fun s => s.answerRecord c s.lendRecord []) s)

end Sys2Proof.Machine
end

