-- ==== Sys2Proof/Machine/TileUnits.lean ====
section
/-! DEFINITION. Matrix, vector and transfer instructions of a tile: their dispatch into the sub-queues, and the events of
the units (R60, R66 to R70, R75, R87, R90, R91, R100, R108, R120, R189, R573). -/

namespace Sys2Proof.Machine

/-! ### Dispatch into the sub-queues -/

def Tile.enqueueWord (w : TileWord) (t : Tile) : Tile :=
  let q := t.queued w
  match w with
  | .mat .mpass _ => { t.next with passQ := t.passQ ++ [q] }
  | .mat .mdesc f => { t.next with loadQ := t.loadQ ++ [q], mslots := noteLoad t.mslots f.sla.toNat t.seq }
  | .mat .mload _ => { t.next with loadQ := t.loadQ ++ [q] }
  | .vec .vdesc f => { t.next with vecQ := t.vecQ ++ [q], vslots := noteLoad t.vslots f.sls.toNat t.seq }
  | .vec _ _ => { t.next with vecQ := t.vecQ ++ [q] }
  | .xfer _ _ => { t.next with xferQ := t.xferQ ++ [q] }
  | _ => t

/-- Dispatch of an instruction that a unit executes. -/
def State.enqueueFor (id : TileId) (w : TileWord) (s : State) : State :=
  s.dispatch id w fun s => s.modTile id (Tile.enqueueWord w)

/-! ### Matrix instructions -/

/-- MPASS (Table 4.3): into the pass sub-queue. -/
def execMpass (t : TileId) (f : MatF) (s : State) : Host.Outcome State Fault Refusal :=
  ok (s.enqueueFor t (.mat .mpass f))

/-- MLOAD: into the stationary load sub-queue. -/
def execMload (t : TileId) (f : MatF) (s : State) : Host.Outcome State Fault Refusal :=
  ok (s.enqueueFor t (.mat .mload f))

/-- MDESC (R100): into the stationary load sub-queue. -/
def execMdesc (t : TileId) (f : MatF) (s : State) : Host.Outcome State Fault Refusal :=
  ok (s.enqueueFor t (.mat .mdesc f))

/-! ### Events of the matrix unit -/

/-- STATIONARY_LOAD_COMPLETE (R60): the shadow set is complete at s + L + 6. -/
def execStationaryLoadComplete (t : TileId) (s : State) : Host.Outcome State Fault Refusal :=
  ok (s.eventAt t fun u => u.loads.head?.map LoadRun.completeAt)

/-- DESCRIPTOR_VALID (R100): 7 fc after the load issued. -/
def execDescriptorValid (t : TileId) (vector : Bool) (slot : BitVec 2) (s : State) : Host.Outcome State Fault Refusal :=
  ok (s.eventAt t fun u =>
    ((if vector then u.vslots else u.mslots).getD slot.toNat {}).pending.head?.map fun p => p.2.1)

/-- ENTRY_ENQUEUE (R87): the oldest entry not yet enqueued. -/
def execEntryEnqueue (t : TileId) (s : State) : Host.Outcome State Fault Refusal :=
  ok (s.eventAt t fun u => (u.hq.find? fun e => !e.enqueued).map Entry.enqueueAt)

/-- ENTRY_VISIBLE (R67): 3 fc after enqueue, in the order of reservation. -/
def execEntryVisible (t : TileId) (s : State) : Host.Outcome State Fault Refusal :=
  ok (s.eventAt t fun u => (u.hq.find? fun e => !e.visible).map fun e => max u.clock (e.enqueueAt + 3))

/-- ENTRY_RELEASE (R68): in the fc after the releasing instruction's last read. -/
def execEntryRelease (t : TileId) (s : State) : Host.Outcome State Fault Refusal :=
  ok (s.eventAt t fun u => (u.hq.find? fun e => e.releaseAt.isSome).bind Entry.releaseAt)

/-- HANDOFF_TIMEOUT (R66): a pass held for an entry for 4,096 fc. -/
def execHandoffTimeout (t : TileId) (s : State) : Host.Outcome State Fault Refusal :=
  ok (match (s.tile t).heldEntry with
    | some h => s.through t (h + 4096)
    | none => s)

/-- STATIONARY_TIMEOUT (R108): a swapping pass held for 4,096 fc. -/
def execStationaryTimeout (t : TileId) (s : State) : Host.Outcome State Fault Refusal :=
  ok (match (s.tile t).heldSwap with
    | some h => s.through t (h + 4096)
    | none => s)

/-- ACCUMULATOR_SET_FREE (R573): a draining pass frees its set. -/
def execAccumulatorSetFree (t : TileId) (set : Bool) (s : State) : Host.Outcome State Fault Refusal :=
  ok (s.eventAt t fun u => if set then u.accFree1 else u.accFree0)

/-! ### Vector instructions -/

/-- VADD: A + B. -/
def execVadd (t : TileId) (f : VecF) (s : State) : Host.Outcome State Fault Refusal :=
  ok (s.enqueueFor t (.vec .vadd f))

/-- VSUB: A - B. -/
def execVsub (t : TileId) (f : VecF) (s : State) : Host.Outcome State Fault Refusal :=
  ok (s.enqueueFor t (.vec .vsub f))

/-- VMUL: A × B. -/
def execVmul (t : TileId) (f : VecF) (s : State) : Host.Outcome State Fault Refusal :=
  ok (s.enqueueFor t (.vec .vmul f))

/-- VMIN. -/
def execVmin (t : TileId) (f : VecF) (s : State) : Host.Outcome State Fault Refusal :=
  ok (s.enqueueFor t (.vec .vmin f))

/-- VMAX. -/
def execVmax (t : TileId) (f : VecF) (s : State) : Host.Outcome State Fault Refusal :=
  ok (s.enqueueFor t (.vec .vmax f))

/-- VFMA: A × B + C with one rounding. -/
def execVfma (t : TileId) (f : VecF) (s : State) : Host.Outcome State Fault Refusal :=
  ok (s.enqueueFor t (.vec .vfma f))

/-- VABS. -/
def execVabs (t : TileId) (f : VecF) (s : State) : Host.Outcome State Fault Refusal :=
  ok (s.enqueueFor t (.vec .vabs f))

/-- VNEG. -/
def execVneg (t : TileId) (f : VecF) (s : State) : Host.Outcome State Fault Refusal :=
  ok (s.enqueueFor t (.vec .vneg f))

/-- VCMP by the predicate in RM. -/
def execVcmp (t : TileId) (f : VecF) (s : State) : Host.Outcome State Fault Refusal :=
  ok (s.enqueueFor t (.vec .vcmp f))

/-- VSEL: A where C is nonzero, else B. -/
def execVsel (t : TileId) (f : VecF) (s : State) : Host.Outcome State Fault Refusal :=
  ok (s.enqueueFor t (.vec .vsel f))

/-- VIADD, wrapping. -/
def execViadd (t : TileId) (f : VecF) (s : State) : Host.Outcome State Fault Refusal :=
  ok (s.enqueueFor t (.vec .viadd f))

/-- VIADDS, saturating. -/
def execViadds (t : TileId) (f : VecF) (s : State) : Host.Outcome State Fault Refusal :=
  ok (s.enqueueFor t (.vec .viadds f))

/-- VISUB, wrapping. -/
def execVisub (t : TileId) (f : VecF) (s : State) : Host.Outcome State Fault Refusal :=
  ok (s.enqueueFor t (.vec .visub f))

/-- VISUBS, saturating. -/
def execVisubs (t : TileId) (f : VecF) (s : State) : Host.Outcome State Fault Refusal :=
  ok (s.enqueueFor t (.vec .visubs f))

/-- VIMUL, wrapping. -/
def execVimul (t : TileId) (f : VecF) (s : State) : Host.Outcome State Fault Refusal :=
  ok (s.enqueueFor t (.vec .vimul f))

/-- VIMULS, saturating. -/
def execVimuls (t : TileId) (f : VecF) (s : State) : Host.Outcome State Fault Refusal :=
  ok (s.enqueueFor t (.vec .vimuls f))

/-- VIMIN. -/
def execVimin (t : TileId) (f : VecF) (s : State) : Host.Outcome State Fault Refusal :=
  ok (s.enqueueFor t (.vec .vimin f))

/-- VIMAX. -/
def execVimax (t : TileId) (f : VecF) (s : State) : Host.Outcome State Fault Refusal :=
  ok (s.enqueueFor t (.vec .vimax f))

/-- VAND. -/
def execVand (t : TileId) (f : VecF) (s : State) : Host.Outcome State Fault Refusal :=
  ok (s.enqueueFor t (.vec .vand f))

/-- VOR. -/
def execVor (t : TileId) (f : VecF) (s : State) : Host.Outcome State Fault Refusal :=
  ok (s.enqueueFor t (.vec .vor f))

/-- VXOR. -/
def execVxor (t : TileId) (f : VecF) (s : State) : Host.Outcome State Fault Refusal :=
  ok (s.enqueueFor t (.vec .vxor f))

/-- VNOT. -/
def execVnot (t : TileId) (f : VecF) (s : State) : Host.Outcome State Fault Refusal :=
  ok (s.enqueueFor t (.vec .vnot f))

/-- VSHL (R72). -/
def execVshl (t : TileId) (f : VecF) (s : State) : Host.Outcome State Fault Refusal :=
  ok (s.enqueueFor t (.vec .vshl f))

/-- VSHR (R72). -/
def execVshr (t : TileId) (f : VecF) (s : State) : Host.Outcome State Fault Refusal :=
  ok (s.enqueueFor t (.vec .vshr f))

/-- VSRA (R72). -/
def execVsra (t : TileId) (f : VecF) (s : State) : Host.Outcome State Fault Refusal :=
  ok (s.enqueueFor t (.vec .vsra f))

/-- VCVT (R115 to R117, R574, R575). -/
def execVcvt (t : TileId) (f : VecF) (s : State) : Host.Outcome State Fault Refusal :=
  ok (s.enqueueFor t (.vec .vcvt f))

/-- VRCP (R73). -/
def execVrcp (t : TileId) (f : VecF) (s : State) : Host.Outcome State Fault Refusal :=
  ok (s.enqueueFor t (.vec .vrcp f))

/-- VSQRT (R73). -/
def execVsqrt (t : TileId) (f : VecF) (s : State) : Host.Outcome State Fault Refusal :=
  ok (s.enqueueFor t (.vec .vsqrt f))

/-- VRSQ (R73). -/
def execVrsq (t : TileId) (f : VecF) (s : State) : Host.Outcome State Fault Refusal :=
  ok (s.enqueueFor t (.vec .vrsq f))

/-- VEXP2 (R73). -/
def execVexp2 (t : TileId) (f : VecF) (s : State) : Host.Outcome State Fault Refusal :=
  ok (s.enqueueFor t (.vec .vexp2 f))

/-- VLOG2 (R73). -/
def execVlog2 (t : TileId) (f : VecF) (s : State) : Host.Outcome State Fault Refusal :=
  ok (s.enqueueFor t (.vec .vlog2 f))

/-- VRSUM (R74). -/
def execVrsum (t : TileId) (f : VecF) (s : State) : Host.Outcome State Fault Refusal :=
  ok (s.enqueueFor t (.vec .vrsum f))

/-- VRMAX (R74). -/
def execVrmax (t : TileId) (f : VecF) (s : State) : Host.Outcome State Fault Refusal :=
  ok (s.enqueueFor t (.vec .vrmax f))

/-- VRMIN (R74). -/
def execVrmin (t : TileId) (f : VecF) (s : State) : Host.Outcome State Fault Refusal :=
  ok (s.enqueueFor t (.vec .vrmin f))

/-- VRNZ (R118). -/
def execVrnz (t : TileId) (f : VecF) (s : State) : Host.Outcome State Fault Refusal :=
  ok (s.enqueueFor t (.vec .vrnz f))

/-- VRNAN (R118). -/
def execVrnan (t : TileId) (f : VecF) (s : State) : Host.Outcome State Fault Refusal :=
  ok (s.enqueueFor t (.vec .vrnan f))

/-- VDESC (R100). -/
def execVdesc (t : TileId) (f : VecF) (s : State) : Host.Outcome State Fault Refusal :=
  ok (s.enqueueFor t (.vec .vdesc f))

/-! ### Events of the vector unit -/

/-- VECTOR_LAST_RESULT (R70): the fc in which the oldest vector instruction under way writes its last result, that write
included. -/
def execVectorLastResult (t : TileId) (s : State) : Host.Outcome State Fault Refusal :=
  ok (match (s.tile t).vecs.head? with
    | some r =>
      match s.tileUntil t (fun u => !(u.vecs.any fun v => v.seq == r.seq)) (s.fuelOf t) with
      | some s => s.catchUp t
      | none => s
    | none => s)

/-- SUMMARY_VALID (R75): 4 fc after the last result. -/
def execSummaryValid (t : TileId) (q : BitVec 3) (s : State) : Host.Outcome State Fault Refusal :=
  ok (s.eventAt t fun u =>
    ((u.qPend.find? fun p => p.q == q).map QPending.validAt).or
      ((u.vecs.find? fun r => r.f.q == q && r.writesQ).map fun r => r.lastAt + 4))

/-! ### Transfers -/

/-- XGET: unified range to silt. -/
def execXget (t : TileId) (f : XferF) (s : State) : Host.Outcome State Fault Refusal :=
  ok (s.enqueueFor t (.xfer .xget f))

/-- XPUT: silt to unified range. -/
def execXput (t : TileId) (f : XferF) (s : State) : Host.Outcome State Fault Refusal :=
  ok (s.enqueueFor t (.xfer .xput f))

/-- XTILE: silt to another tile's silt. -/
def execXtile (t : TileId) (f : XferF) (s : State) : Host.Outcome State Fault Refusal :=
  ok (s.enqueueFor t (.xfer .xtile f))

/-- The data of an XGET has come: pages here are read now, and parts on other packages have been returned. -/
def State.xgetReady (s : State) (task : Nat) (run : XferRun) : Bool :=
  let w := s.workOf 4 task run.record.ctx
  if run.remote s then (s.fab.replyBytes run.record.ctx run.record.laddr run.record.len).isSome
  else s.repliesHere w run.record.laddr run.record.len

/-- A transfer that still waits in its sub-queue: the tile runs until it issues. -/
def State.xferIssued (id : TileId) (s : State) : State :=
  let t := s.tile id
  if t.xfer.isSome || t.xferQ.isEmpty then s
  else (s.tileUntil id (fun u => u.xfer.isSome || u.xferQ.isEmpty) (s.fuelOf id)).getD s

/-- A transfer is told what its path adds: its own rows still to land move by as much. -/
def XferRun.told (extra : Nat) (r : XferRun) : XferRun :=
  { r with extra := some extra, flight := r.flight.map fun x => (x.1 + extra, x.2) }

/-- Rows of the XTILE of tile `src` that wait to enter: they come `extra` fc later, and the last brings its note. -/
def Tile.tellRows (src extra : Nat) (t : Tile) : Tile :=
  if t.landing.any fun w => w.note == some (.xtile src) then
    { t with landing := t.landing.map fun w => if w.note == some (.xtile src) then { w with at_ := w.at_ + extra } else w }
  else t

/-- The tile runs until transfer `seq` is over. -/
def State.endXfer (id : TileId) (seq n : Nat) (s : State) : State :=
  (s.tileUntil id (fun u => !(u.xfer.any fun r => r.seq == seq)) n).getD s

/-- TRANSFER_COMPLETE (R120, R189): the last of n rows lands at issue + 7 + P + n, P with what `path` adds to it: the fc of its
retries (R219), and the whole of P where another package has a part in the path.  More retries on one crossing than the margin
abort the task (R221). -/
def execTransferComplete (t : TileId) (path : PathIn) (s : State) : Host.Outcome State Fault Refusal :=
  let s := (s.xferIssued t).catchUp t
  ok (match (s.tile t).xfer with
    | none => s
    | some run =>
      if run.op = XferOp.xget && !s.xgetReady (s.tile t).task run then s
      else if path.beyond s.margins then
        ((s.ctxFault run.record.ctx 0x11).stopAtEnd t (faultStop run.pc 0x11 run.record.laddr s.fab.coord))
      else
        let extra := path.added
        let s := s.count 4 path.onDie.sum (s.tile t).spec
        let n := s.fuelOf t + run.total + run.path.getD 0 + extra + run.issue
        let s := s.modTile t fun u => { u with xfer := u.xfer.map (XferRun.told extra) }
        let s :=
          if run.op = XferOp.xtile && !run.remote s then
            match tileId? run.record.ddie run.record.dtile with
            | some d =>
              let s := (s.tileUntil t (fun u => !(u.xfer.any fun r => r.seq == run.seq && r.done < r.total)) n).getD s
              let s := s.modTile d (Tile.tellRows t.key extra)
              (s.tileUntil d (fun u => !(u.landing.any fun w => w.note == some (.xtile t.key))) (n + s.fuelOf d)).getD s
            | none => s
          else s
        (s.endXfer t run.seq n).catchUp t)

end Sys2Proof.Machine
end

