-- ==== Sys2Proof/Machine/Tasks.lean ====
section
/-! DEFINITION. Tasks and streams: how a task's parts start, end and abort (R126, R167 to R169, R183 to R186, R190,
R200 to R205, R253, R267, R319, R576, R578), and lenders that do not answer (R153, R165, R497). -/

namespace Sys2Proof.Machine

/-! ### The parts of a task -/

def taskKeys (d : TaskDecl) : List Nat := d.tiles.map fun t => t.tile.key

/-- Tiles that carry out a part of task `n`. -/
def State.tilesOf (s : State) (n : Nat) : List TileId :=
  (s.tiles.filter fun e => e.2.busy && e.2.task == n).filterMap fun e => tileOfKey e.1

/-- Contexts of a task (R183). -/
def State.ctxsOf (s : State) (n : Nat) : List Nat :=
  mapKeys (fun _ (c : Ctx) => c.state != .free && c.task == n) s.rs.ctxs

/-- R205: the handle rings of a task are emptied. -/
def State.emptyRings (n : Nat) (s : State) : State :=
  let rings := mapKeys (fun _ (r : Ring) => r.kind == .handle && r.task == n) s.rs.rings
  rings.foldl (fun (s : State) r =>
    let d := s.ring r
    let s := s.setRing r { d with head := d.tail }
    { s with rs := { s.rs with handles := mapSet [] s.rs.handles r [] } }) s

/-- Every part of task `n` here stops now: tiles and streams abort, and its rings are emptied (R132, R205, R254). -/
def State.dropTask (n : Nat) (s : State) : State :=
  let s := (s.tilesOf n).foldl (fun (s : State) id =>
    let s := s.runTo id s.fc
    if (s.tile id).busy then s.stopAtEnd id { cause := 0x0C } else s) s
  let s := (s.ctxsOf n).foldl (fun (s : State) c => s.setCtx c { s.ctx c with state := .aborted }) s
  (s.emptyRings n).setTask n { s.task n with phase := .aborted }

/-- Tasks that are under way and belong to a step. -/
def State.stepTasks (s : State) (p : Task → Bool) : List Nat :=
  mapKeys (fun _ (t : Task) => t.step && (t.phase == .running || t.phase == .aborting) && p t) s.rs.tasks

/-- R319: the sampling offset of layer `l`, when it is sampled. -/
def State.sampleOf (s : State) (l : Nat) : Nat :=
  if s.num.sampleSix.contains l then 6 else bitsOf (mapGet 0 s.num.records l).toNat 39 36

def sampleOffset (smp l e a : Nat) : Nat :=
  ((e * 0x9E3779B9) % 2 ^ 32 + (l * 0x85EBCA6B) % 2 ^ 32 + (a * 0xC2B2AE35) % 2 ^ 32) % 2 ^ 32 % 2 ^ smp

/-- The sampling offset is written into the silt word that the image names, on each tile of the task (R319). -/
def State.writeSample (d : TaskDecl) (e a : Nat) (s : State) : State :=
  match d.sampleWord, d.layers with
  | some w, l :: _ =>
    let o := sampleOffset (s.sampleOf l) l e a
    d.tiles.foldl (fun (s : State) t =>
      s.modTile t.tile fun u => { u with silt := memWrite u.silt w (leBytes 4 o) }) s
  | _, _ => s

/-- A task starts: its contexts return to READY with MOVED and FAULT cleared, and it waits for its tiles (R90, R205). -/
def State.startTask (d : TaskDecl) (t : Task) (s : State) : State :=
  let s := (s.ctxsOf d.task).foldl (fun (s : State) c =>
    let x := s.ctx c
    if x.state = .aborted then s.setCtx c { x with state := .ready, moved := 0, fault := 0, activity := 0 } else s) s
  let s := if t.step then s.writeSample d t.epoch t.attempt else s
  s.setTask d.task { t with phase := .running, assigned := [], ended := [], record := {} }

/-- R90: the tile starts at the start instruction of the task, with the registers of the image.  The accumulator
sets start at zero (DESIGN CHOICE: R90 names registers, slots and stationary sets, and leaves open whether the sets keep the sums
of a task that ended by END; notes/assumptions/84). -/
def Tile.assign (d : TaskTile) (n : Nat) (spec : Bool) (now late : Nat) (t : Tile) : Tile :=
  { Tile.idle with
    x := d.regs.foldl (fun x r => x.setIfInBounds r.1 r.2) (Vector.replicate 16 0), pc := d.start, clock := now,
    nextDispatch := now, phase := .running, task := n, spec := spec, origin := now, store := t.store, silt := t.silt,
    landing := t.landing, weak := t.weak, badRows := t.badRows, remap := t.remap, lateSpecial := late }

/-- R489, Table 15.7: special functions take 2 fc more on a package with a compute die of stepping A1. -/
def State.lateSpecial (s : State) : Nat :=
  if (List.range 4).any fun i => decide (s.trust.fuses.steppings.getD i 0x20 < 0x20) then 2 else 0

/-- TASK_ASSIGN (R90, R326): a tile of a task that runs takes up its part; the layers that the attempt rescales wait for their
rescale tasks. -/
def execTaskAssign (t : TileId) (task : Nat) (s : State) : Host.Outcome State Fault Refusal :=
  ok (match s.taskDecl task with
    | none => s
    | some d =>
      let k := s.task task
      match d.tiles.find? fun x => x.tile = t with
      | none => s
      | some x =>
        let first := k.step && !k.spec && !d.rescale && d.layers.any s.job.rescale.contains
        if k.phase ≠ .running ∨ (s.tile t).busy ∨ k.assigned.contains t.key ∨ first then s
        else
          let s := s.runTo t s.fc
          (s.modTile t fun u => u.assign x task k.spec (max u.clock s.fc) s.lateSpecial).setTask task
            { k with assigned := setInsert k.assigned t.key })

/-! ### Numeric flags and NaNs at the end of a tile's part (R126, R253, R267) -/

/-- NANS counts the NaN of an attempt, once, on every package of the job (R252, R268, R269). -/
def State.countNan (s : State) : State :=
  if s.job.nanCounted then s
  else { s with job := { s.job with nanCounted := true, st := { s.job.st with nans := min 15 (s.job.st.nans + 1) } } }

/-- R268, R269: a NaN in the loss or in a gradient bucket. -/
def State.nanSeen (spec : Bool) (s : State) : State :=
  if spec then
    if s.job.abortNext = 2 then s else { s with job := { s.job with nansNext := min 15 (s.job.nansNext + 1) } }.specCause 2
  else if s.job.st.nanSeen then s
  else ({ s.countNan with job := { s.countNan.job with st := { s.countNan.job.st with nanSeen := true } } }).stepAbort 2

/-- An S32 word with an all-ones exponent field. -/
def wordNonfinite (w : Nat) : Bool := bitsOf w 30 23 == 255

/-- END_COMPLETE (R126): everything has finished, and the tile reports the end of its part with its flags. -/
def State.tileEnds (t : TileId) (s : State) : State :=
  let u := s.tile t
  let k := s.task u.task
  let s := s.setTile t { u with phase := .ended }
  let s := s.setTask u.task { k with ended := setInsert k.ended t.key }
  let now := k.step && !k.spec && k.epoch == s.job.epoch
  let s := if now then
      { s with job := { s.job with st := { s.job.st with flags := s.job.st.flags ||| u.mflags ||| u.vflags } } }
    else s
  let s := if k.step && k.spec then
      { s with job := { s.job with flagsNext := s.job.flagsNext ||| u.mflags ||| u.vflags } } else s
  let words := ((s.job.image.map Image.lossWords).getD []).filter fun w => w.task == u.task && w.tile == t
  if k.step && words.any (fun w => wordNonfinite (leNat (memRead u.silt w.addr 4))) then s.nanSeen (!now) else s

def execEndComplete (t : TileId) (s : State) : Host.Outcome State Fault Refusal :=
  let held (u : Tile) : Bool := u.phase == .endHold && !u.finished 15 u.seq (u.clock - 1)
  ok (if (s.tile t).phase = .endHold then
    match s.tileUntil t (fun u => !held u) (s.fuelOf t) with
    | some s' => (if (s'.tile t).phase = .endHold then s'.tileEnds t else s').catchUp t
    | none => s
  else s)

/-! ### The end of a task (R578) -/

/-- R363: the hops of collective `c` here are done: what this package sums for it has been passed on, and nothing that has
arrived for it waits. -/
def State.hopsDone (s : State) (c : CollDecl) : Bool :=
  let n := (s.image Image.buckets).length
  ((s.image Image.buckets).zipIdx.all fun d => d.1.coll != some c.number ||
    ((mapGet {} s.job.buckets d.2).passed && (mapGet [] s.job.arrivals d.2).isEmpty)) &&
  (s.image Image.sparse).zipIdx.all fun t => t.1.coll != c.number ||
    ((mapGet [] s.job.arrivals (n + t.2)).isEmpty && (mapGet [] s.job.inlets (n + t.2)).isEmpty)

/-- Pairs that the image expects of a layer in the attempt. -/
def State.pairsOf (s : State) (l : Nat) (v : SieveDecl) : Nat := if s.num.sampleSix.contains l then v.pairsSix else v.pairs

/-- The comparisons of the sieve whose ring the task posts to have been made (R320): every expected pair has passed, or one has
failed. -/
def State.sieveDone (s : State) (d : TaskDecl) (spec : Bool) : Bool :=
  (s.image Image.layers).all fun l =>
    match l.sieve with
    | some v => s.sampleOf l.layer = 0 || !d.rings.contains v.ring || s.job.st.sieveFail ||
        decide (s.pairsOf l.layer v ≤ mapGet 0 (if spec then s.num.passedNext else s.num.passed) l.layer)
    | none => true

/-- Every tile of the task has ended by END, every stream has completed, and every part of its unit work (R578): for an update
task, that its layers are sealed; the hops of its collectives; its sieve comparisons; for a rescale task, that its layers'
scales are written. -/
def State.taskDone (s : State) (d : TaskDecl) : Bool :=
  let k := s.task d.task
  let layers := ((s.job.image.map Image.layers).getD []).filter fun l => l.updateTask == d.task
  k.phase == .running && ((taskKeys d).all fun t => k.ended.contains t) &&
    ((s.ctxsOf d.task).all fun c => (s.ctx c).state != .active) &&
    (!k.step || layers.all fun l => k.epoch == s.job.epoch && s.job.sealed.contains l.layer) &&
    (!d.rescale || d.layers.all fun l => !s.job.rescale.contains l) &&
    ((s.image Image.collectives).all fun c => c.task != d.task || s.hopsDone c) && s.sieveDone d k.spec

/-- The TASK_RUN that started a task is answered; when the task has taken speculative data while a step runs, the reply is held
until the commit (R263, R264).  The next task's hold counts from now (R450). -/
def State.taskReply (k : Task) (cls code : Nat) (results : List Word) (s : State) : State :=
  match k.ask with
  | none => s
  | some a =>
    let s := { s with pow := { s.pow with taskEnd := s.sc + 1 } }
    if k.tainted && s.job.run.isSome then
      { s with job := { s.job with heldReplies := s.job.heldReplies ++ [(a, cls, code, results)] } }
    else s.answer a cls code results

/-- Held replies are posted. -/
def State.postHeld (s : State) : State :=
  s.job.heldReplies.foldl (fun (s : State) h => s.answer h.1 h.2.1 h.2.2.1 h.2.2.2)
    { s with job := { s.job with heldReplies := [] } }

/-- TASK_END: the task has ended on every package; the TASK_RUN that started it is answered DONE. -/
def execTaskEnd (task : Nat) (s : State) : Host.Outcome State Fault Refusal :=
  ok (match s.taskDecl task with
    | none => s
    | some d =>
      if s.taskDone d then
        let k := s.task task
        (s.setTask task { k with phase := .ended, ask := none }).taskReply k 0 0 []
      else s)

/-! ### Aborts (R201 to R205) -/

/-- R86: the row of silt that failed twice is marked for backfill at the next boundary. -/
def State.markRow (id : TileId) (addr : Nat) (s : State) : State :=
  let row := addr % siltSize / 64
  let s := s.modTile id fun t => { t with badRows := setInsert t.badRows row }
  { s with units := { s.units with boundary := s.units.boundary ++ [.siltRow id row] } }

/-- A channel over its threshold begins its copy to a spare, while its stack has one (R472). -/
def State.retireChannel (stack channel : Nat) (s : State) : State :=
  let busy := ((s.units.copying ++ s.units.switching).filter fun c => c.1 == stack).length
  if mapGet 0 s.units.channelSpares stack + busy < 2 && !s.units.copying.contains (stack, channel) &&
      !s.units.switching.contains (stack, channel) then
    { s with units := { s.units with
      copying := pairInsert s.units.copying (stack, channel)
      background := mapSet {} s.units.background (bgKey bgCopy (stack + 5) channel) { from_ := s.sc } } }
  else s

/-- R472: the word at physical address 8 * `w` is uncorrectable; with another of its channel within 24 hours, the channel
retires. -/
def State.eccSeen (w : Nat) (s : State) : State :=
  let key (w : Nat) : Nat × Nat := (stackOf (8 * w), channelOf (8 * w))
  let seen := mapSet 0 (s.units.eccWords.filter fun e => (s.scSince (e.2 - 1)).any fun d => decide (d ≤ scPerDay)) w (s.sc + 1)
  let s := { s with units := { s.units with eccWords := seen } }
  if 2 ≤ (seen.filter fun e => key e.1 == key w).length then s.retireChannel (key w).1 (key w).2 else s

/-- R466, R472: the word at physical address `pa` is corrected; a channel with more than 256 such words in 24 hours retires. -/
def State.wordFixed (pa : Nat) (s : State) : State :=
  let here (w : Nat) : Bool := stackOf (8 * w) == stackOf pa && channelOf (8 * w) == channelOf pa
  let recent := s.units.fixedWords.filter fun e => (s.scSince (e.2 - 1)).any fun d => decide (d ≤ scPerDay)
  let seen := mapSet 0 recent (pa / 8) (s.sc + 1)
  let s := ({ s with units := { s.units with fixedWords := seen } }).count 6 1 false
  if 256 < (seen.filter fun e => here e.1).length then s.retireChannel (stackOf pa) (channelOf pa) else s

/-- A cause that names an uncorrectable word marks it poisoned, and R471 and R472 follow (R470). -/
def State.noteEcc (task : Nat) (r : AbortRecord) (s : State) : State :=
  if r.cause ≠ 0x0B ∨ r.code ≠ 0x14 then s
  else
    let s := s.poison (s.workOf r.die task 0).epoch r.addr
    let s := s.poisonFound r.addr
    let p := s.mem.page (pageOf r.addr)
    s.eccSeen ((p.frameOf (s.workOf r.die task 0).epoch * frameBytes + r.addr % frameBytes) / 8)

/-- R86: a read of the row that holds `addr` fails parity once; it will be repeated, and no cause arises. -/
def State.weakRow (id : TileId) (addr : Nat) (s : State) : State :=
  s.modTile id fun t => { t with weak := setInsert t.weak (addr % siltSize / 64) }

/-- TASK_ABORT: a cause raised by a stream or a unit of the task; a cause of a tile stops that tile first.  With SILT_PARITY
the operand's address is that of the row that failed, and its code 1 tells that one read of it fails, which is repeated and
aborts nothing; 0 that the repeat has failed too (R86; notes/assumptions/11, 85). -/
def execTaskAbort (task : Nat) (r : AbortRecord) (s : State) : Host.Outcome State Fault Refusal :=
  ok (match tileId? r.die r.tile with
    | some id =>
      if (s.tile id).busy ∧ (s.tile id).task = task then
        let s := s.runTo id s.fc
        if r.cause = 3 ∧ r.code = 1 then s.weakRow id r.addr
        else
        let s := if r.cause = 3 then s.markRow id r.addr else s
        let r := if r.cause = 3 then { r with addr := 0, code := 0 } else r
        if (s.tile id).busy then (s.stopAtEnd id r).noteEcc task r else s
      else if r.cause = 3 ∧ r.code = 1 then s
      else (s.taskCause task r).noteEcc task r
    | none => (s.taskCause task r).noteEcc task r)

/-- R205: once every tile and stream of an aborted task here has stopped, its rings are emptied. -/
def State.settleAbort (n : Nat) (s : State) : State :=
  if (s.task n).phase = .aborting ∧ (s.tilesOf n).isEmpty ∧ ((s.ctxsOf n).all fun c => (s.ctx c).state == .aborted) then
    s.emptyRings n
  else s

/-- PEER_ABORT (R202, R205): the notice reaches a tile or a stream of a task that aborts. -/
def execPeerAbort (part : AbortPart) (s : State) : Host.Outcome State Fault Refusal :=
  ok (match part with
    | .tile id =>
      if (s.tile id).busy ∧ (s.task (s.tile id).task).phase = .aborting then
        let s := s.runTo id s.fc
        (if (s.tile id).busy then s.stopAtEnd id { cause := 0x0C } else s).settleAbort (s.tile id).task
      else s
    | .stream n =>
      let c := s.ctx n
      if (c.state = .ready ∨ c.state = .active) ∧ (s.task c.task).phase = .aborting then
        (s.setCtx n { c with state := .aborted }).settleAbort c.task
      else s)

/-- TASK_ABORT_REPLY (R204, R205): every tile, stream and unit has stopped, on every package; the rings are emptied, and
the TASK_RUN is answered ABORTED with the record. -/
def execTaskAbortReply (task : Nat) (s : State) : Host.Outcome State Fault Refusal :=
  let k := s.task task
  ok (if k.phase = .aborting ∧ (s.tilesOf task).isEmpty ∧ ((s.ctxsOf task).all fun c => (s.ctx c).state == .aborted) then
    ((s.emptyRings task).setTask task { k with phase := .aborted, ask := none }).taskReply k 3 1
      (wordsOf 4 (AbortRecord.bits k.record))
  else s)

/-! ### Streams (R183 to R186, R576) -/

/-- The tile whose transfer runs under context `n`. -/
def State.tileOfCtx (s : State) (n : Nat) : Option (TileId × XferRun) :=
  s.tiles.findSome? fun e =>
    match e.2.xfer, tileOfKey e.1 with
    | some r, some id => if r.record.ctx = n then some (id, r) else none
    | _, _ => none

/-- A stream ends by a fault of Table 5.5 or Table 6.5: the task of its context aborts. -/
def State.streamFail (n code addr pkg : Nat) (s : State) : State :=
  match s.tileOfCtx n with
  | some (id, r) =>
    (s.xferFault r ⟨code, addr, pkg⟩).1.stopAtEnd id (faultStop r.pc code addr pkg)
  | none =>
    let c := s.ctx n
    if c.state = .free then s
    else
      (s.ctxFault n code).taskCause c.task
        { cause := 0x0B, code := code, addr := addr, pkg := pkg, die := 4, tile := 0x1FF }

/-- The handle that a stream posts on completion (Table 6.3), its word by the image's choice: a free value. -/
def State.streamHandle (c : Ctx) (s : State) : State :=
  if c.ring = 0 then s
  else
    let (h, s) := s.drawBelow (2 ^ 31)
    s.postFor c.task c.ring (tagHandle c.spec (BitVec.ofNat 32 h)) (s.fc + 1) hubPoster 4

/-- STREAM_COMPLETE (R221, R576): a stream that no tile runs completes: its context returns to READY and posts; with more retries
on one crossing than the margin, its task aborts instead. -/
def execStreamComplete (e : StreamEnd) (s : State) : Host.Outcome State Fault Refusal :=
  let c := s.ctx e.ctx
  ok (if c.state = .active ∧ c.kind ≠ 0 ∧ c.kind ≠ 2 ∧ c.kind ≠ 6 then
    (if e.path.beyond s.margins then s.streamFail e.ctx 0x11 0 s.fab.coord
     else ((s.count 4 e.path.onDie.sum c.spec).setCtx e.ctx { c with state := .ready, activity := 0 }).streamHandle c)
  else s)

/-- STREAM_LATE (R185): ACTIVE for LIMIT fc. -/
def execStreamLate (ctx : Nat) (s : State) : Host.Outcome State Fault Refusal :=
  let c := s.ctx ctx
  ok (if c.state = .active ∧ c.limit ≠ 0 then
    let h := c.since + c.limit
    let s := match s.tileOfCtx ctx with
      | some (id, _) => s.runTo id h
      | none => s
    let s := s.toFc h
    let c' := s.ctx ctx
    if c'.state = .active ∧ c'.since = c.since then
      s.streamFail ctx 0x10 ((s.tileOfCtx ctx).elim 0 fun p => p.2.record.laddr) s.fab.coord
    else s
  else s)

/-! ### Virtual stages (R200) -/

/-- Whether a task's rung is the one its layers stand on (R309). -/
def State.onRung (s : State) (d : TaskDecl) : Bool :=
  match d.rung, d.layers with
  | some r, l :: _ => bitsOf (mapGet 0 s.num.records l).toNat 29 27 == r
  | _, _ => true

/-- The variant of task `n` for the rung its layers stand on: the task itself, or one of the same layers and tiles. -/
def State.variantOf (s : State) (n : Nat) : Option TaskDecl :=
  (s.taskDecl n).bind fun d =>
    if s.onRung d then some d
    else ((s.job.image.map Image.tasks).getD []).find? fun v =>
      v.layers == d.layers && v.rung.isSome && taskKeys v == taskKeys d && s.onRung v

/-! ### Deliveries (R167 to R169, R190) -/

/-- A delivery's stream is ACTIVE while rows move under it. -/
def State.streamMoves (n units : Nat) (s : State) : State :=
  let s := if (s.ctx n).state = .ready then s.ctxStart n s.fc else s
  s.ctxMoved n units false

/-- The share of a fill that goes to one tile: which tile's comes where in the source the image orders, by the tiles as its
furrow names them, each share as long as that tile's slot (DESIGN CHOICE: R167 names no share; notes/assumptions/87). -/
def furrowShare (f : FurrowDecl) (t : TileId) (size : Nat) : Nat := f.src + ((f.slots.map Prod.fst).eraseDups).idxOf t * size

/-- The fill of one tile's slot for layer `l` (R167, R169, R186): the tile's share of the source, and one handle once the last
row has entered.  What lies on another package is asked for, and the rows enter when it is here. -/
def State.fillTile (f : FurrowDecl) (t : TileId) (s : State) : State :=
  let mine := f.slots.filter fun x => x.1 = t
  match mine[f.layer % f.depth]? with
  | none => s
  | some slot =>
    let base := slot.2.1
    let size := slot.2.2
    let c := s.ctx f.ctx
    if c.kind ≠ 1 ∨ c.task ≠ f.task ∨ (c.state ≠ .ready ∧ c.state ≠ .active) then
      s.taskCause f.task { cause := 0x0B, code := 0x13, addr := f.src, die := t.die.val, tile := 0x1FF }
    else
      let w := s.workOf t.die.val f.task f.ctx
      let la := furrowShare f t size
      if !s.repliesHere w la size then
        (s.streamMoves f.ctx 0).requestAway w la size
      else
        let b := s.readRange w la size
        let s := (s.countRead w la size).streamMoves f.ctx (b.1.length / 64)
        match b.2 with
        | some e => ((s.deliverRows t s.fc base b.1 none).streamFail f.ctx e.code e.addr e.pkg).poisonNotice e
        | none =>
          let (tag, s) := s.drawBelow 512
          let h := tagHandle w.spec (BitVec.ofNat 32 (tag <<< 21 + base))
          s.deliverRows t s.fc base b.1 (some (.fill f.ring h f.task t.die.val))

/-- DELIVERY: rows from another source than the tile's own transfers enter its silt at its mesh port. -/
def execDelivery (t : TileId) (d : Delivery) (s : State) : Host.Outcome State Fault Refusal :=
  ok (match d with
    | .fill layer =>
      match ((s.job.image.map Image.furrows).getD []).find? fun f => f.layer == layer with
      | some f => s.fillTile f t
      | none => s
    | .data ctx addr bytes =>
      let c := s.ctx ctx
      if c.kind = 3 ∧ (c.state = .ready ∨ c.state = .active) ∧ bytes.length % 64 = 0 ∧ siltIn addr bytes.length then
        (s.streamMoves ctx (bytes.length / 64)).deliverRows t s.fc addr bytes none
      else s)

/-! ### Lenders (R153, R165, R497) -/

/-- A page that lies with a lender. -/
def State.liesWith (s : State) (lender page : Nat) : Bool :=
  let p := s.mem.page page
  p.valid && (p.loc == .remote || p.loc == .moved) && p.peer == lender

/-- The page of a silent lender that a stream waits for: the first of the rows that its tile's transfer has still to move, of
the page that it migrates, of its furrow's source, or of all. -/
def State.awaitedPage (s : State) (lender ctx : Nat) : Nat :=
  let first (la n : Nat) : Option Nat := ((chunksOf la n).map Prod.fst).find? (s.liesWith lender)
  let here := match s.tileOfCtx ctx with
    | some (_, r) => first (r.record.laddr + 64 * r.landed) (r.record.len - 64 * r.landed)
    | none =>
      match s.mem.migrations.find? fun m => m.ctx == ctx with
      | some m => some m.page
      | none => ((s.image Image.furrows).filter fun f => f.ctx == ctx).findSome? fun f =>
          first f.src ((f.slots.map fun x => x.2.2).foldl (· + ·) 0)
  (here <|> (s.mem.pages.find? fun e => s.liesWith lender e.1).map Prod.fst).getD 0

/-- LENDER_UNREACHABLE: the lender does not answer within the retry margin, and the access fails. -/
def execLenderUnreachable (lender ctx : Nat) (s : State) : Host.Outcome State Fault Refusal :=
  ok (if s.mem.pages.any fun e => s.liesWith lender e.1 then
    let addr := s.awaitedPage lender ctx * frameBytes
    let s := { s with mem := { s.mem with silent := setInsert s.mem.silent lender } }
    if (s.ctx ctx).state = .active then s.streamFail ctx 5 addr s.fab.coord else s
  else s)

end Sys2Proof.Machine
end

