-- ==== Sys2Proof/Machine/JobLoad.lean ====
section
/-! DEFINITION. The schedule image and the job: what a load checks and does, and how a job ends (R39, R161, R167, R178 to
R180, R196, R197, R199, R222, R235, R242, R267, R272, R299, R309, R320, R358 to R360, R364, R371, R393, R478, R486, R515,
R577 to R579, R583). -/

namespace Sys2Proof.Machine

/-! ### The package as a load sees it -/

/-- R489: the feature mask of the package. -/
def State.features (s : State) : Nat := (s.dies.map fun i => s.trust.fuses.features.getD i 3).foldl (· &&& ·) 0xFFFFFFFF

def State.degraded (s : State) : Bool := s.host.tclass.getLsbD 4

/-- The port set that the tables name for a destination, up or not (R354). -/
def FabState.routeMask (f : FabState) (dst : Nat) : BitVec 16 :=
  if dst / 8 = f.coord / 8 then f.members.getD (dst % 8) 0
  else ((f.routes.find? fun r => r.1 ≤ dst / 8 ∧ dst / 8 ≤ r.2.1).map fun r => r.2.2).getD 0

def maskPorts (m : BitVec 16) : List Nat := (List.range 16).filter m.getLsbD

/-- Numbers that occur twice. -/
def repeats (l : List Nat) : Bool := l.eraseDups.length != l.length

/-! ### Rungs (R306, Table 10.1) -/

/-- The next wider rung; none from W16. -/
def wider : Nat → Option Nat
  | 0 => some 1
  | 1 => some 2
  | 2 => some 4
  | 3 => some 4
  | 4 => some 5
  | 5 => some 6
  | _ => none

/-- The next narrower rung for a layer of rung base `b`. -/
def narrower (b : Nat) : Nat → Option Nat
  | 1 => some 0
  | 2 => some 1
  | 4 => some (if b = 3 then 3 else 2)
  | 5 => some 4
  | 6 => some 5
  | _ => none

/-- The rungs reached from `r` by rises, `r` first. -/
def risesFrom : Nat → Nat → List Nat
  | 0, r => [r]
  | n + 1, r => r :: (match wider r with | some w => risesFrom n w | none => [])

/-- The rungs of a layer from BASE to CEIL; none when CEIL is not reached. -/
def rungsOf (base ceil : Nat) : Option (List Nat) :=
  let l := risesFrom 6 base
  if l.contains ceil then some (l.take (l.idxOf ceil + 1)) else none

/-! ### Checks (R577) -/

def pow2Depth (d : Nat) : Bool := (List.range 9).any fun i => d == 2 ^ (i + 2)

/-- Slices of one shard cover its elements once, agree in COLS, and are whole runs (R272). -/
def slicesGood (im : Image) (h : ShardDecl) : Bool :=
  let sl := im.slices.filter fun x => x.layer == h.layer && x.shard == h.shard
  let at_ (e : Nat) := sl.filter fun x => x.first ≤ e && e < x.first + x.rows * x.cols
  let last (x : SliceDecl) : Bool := x.first + x.rows * x.cols == h.rows * h.cols
  sl.isEmpty ||
    ((sl.all fun x => x.cols == h.cols && x.first % h.cols == 0 && (x.rows * x.cols % 2048 == 0 || last x)) &&
      (sl.all fun x => (at_ x.first).length == 1 && (last x || (at_ (x.first + x.rows * x.cols)).length == 1)) &&
      (at_ 0).length == 1 && sl.any last)

def formatOk (f : Nat) : Bool := f == 2 || f == 3

def sliceGood (x : SliceDecl) : Bool :=
  x.first % 2048 == 0 && formatOk x.wfmt && formatOk x.mfmt && decide (x.rows + x.cols ≤ 8064) && decide (1 ≤ x.rows) &&
    decide (x.die < 4) && decide (x.unit < 8)

/-- Units lost (R486), by `UnitState.lost` numbers. -/
def unitNumber (kind die num : Nat) : Nat := kind * 65536 + die * 1024 + num

def State.unitLost (s : State) (kind die num : Nat) : Bool := s.units.lost.contains (unitNumber kind die num)

/-- The sections of Table 6.7 in which a fault lies. -/
def State.imageFaults (s : State) (im : Image) (signed : Bool) : List Nat :=
  let others := im.packages.filter (· != s.fab.coord)
  let fault (n : Nat) (ok_ : Bool) : List Nat := if ok_ then [] else [n]
  let known (n : Nat) : Bool := im.tasks.any fun t => t.task == n
  fault 0 (im.missing.isEmpty && im.coord == s.fab.coord && (!s.degraded || bitOf im.tclass 4) &&
    decide (im.features &&& s.features = im.features) && (others.all fun p => (s.fab.routeMask p) != 0) &&
    im.transitHops.all fun r => decide (r.2 ≤ 15)) ++
  fault 1 ((im.programs.all fun p => decide (p.2.length ≤ 4096)) && !repeats (im.programs.map fun p => p.1.key) &&
    im.programs.all fun p => !s.unitLost 0x10 p.1.die.val p.1.tile.val) ++
  fault 2 ((im.tasks.all fun t => decide (t.task < 65536) && (!t.tiles.isEmpty || !t.contexts.isEmpty || t.unitWork)) &&
    !repeats (im.tasks.map TaskDecl.task) && decide (im.tasks.length ≤ 65536)) ++
  fault 3 ((im.rings.all fun r => decide (2 ≤ r.ring) && decide (r.ring < 262144) && pow2Depth r.depth &&
    decide (r.die ≤ 4) && (r.tile.all fun t => decide (t < 288)) && known r.task) && !repeats (im.rings.map RingDecl.ring)) ++
  fault 4 ((im.contexts.all fun c => known c.task && decide (c.ctx < 1048576) && decide (c.kind ≤ 6) && decide (c.bufCount < 2 ^ 21) &&
    (c.bufLog2 == 0 || (decide (6 ≤ c.bufLog2) && decide (c.bufLog2 ≤ 21)))) &&
    !repeats (im.contexts.map CtxDecl.ctx)) ++
  fault 5 (im.furrows.all fun f => decide (2 ≤ f.depth) && decide (f.depth ≤ 4) &&
    f.slots.all fun x => x.2.2 % 64 == 0 && siltIn x.2.1 x.2.2) ++
  fault 6 (decide (im.stages.length ≤ 65536) && !repeats (im.stages.map StageDecl.stage) &&
    (im.stages.all fun g => decide (g.stage < 65536) &&
    decide ((im.stages.filter fun h => h.pkg == g.pkg && h.die == g.die).length ≤ 16)) &&
    im.orders.all fun o => o.2.all fun e => decide (e.microbatch < 4096)) ++
  fault 7 (im.slotPlan.all fun a => decide (a.slot < 31) &&
    a.port.all fun p => !(s.mem.lendSlots.getD p 0).getLsbD a.slot) ++
  fault 8 (decide (im.pins.length ≤ 64)) ++
  fault 9 ((im.shards.all fun h => h.owners.length == 1 && h.owners.all im.packages.contains && slicesGood im h) &&
    !repeats (im.shards.map fun h => h.layer * 2 ^ 32 + h.shard) &&
    (im.slices.all fun x => sliceGood x && (im.shards.any fun h => h.layer == x.layer && h.shard == x.shard) && !s.unitLost 1 x.die x.unit &&
      im.slices.all fun y => y.layer != x.layer || y.hold == x.hold) &&
    im.sparse.all fun t => t.len % 32 == 0 && decide (1 ≤ t.len) && decide (t.len ≤ 2048) && decide (t.slots ≤ 1048576)) ++
  fault 10 (im.collectives.all fun c => decide (c.number < 65536) && c.members.all im.packages.contains &&
    (c.algorithm != 0 || c.members.all fun p =>
      p == s.fab.coord || !c.members.contains s.fab.coord || decide (c.ports ≤ (maskPorts (s.fab.routeMask p)).length))) ++
  fault 11 ((im.lossWords.all fun w => w.addr % 4 == 0 && decide (w.addr + 4 ≤ siltSize)) &&
    im.layers.all fun l =>
      let b := bitsOf l.numerics.toNat 32 30
      let smp := bitsOf l.numerics.toNat 39 36
      !l.onRung || ((match rungsOf b (bitsOf l.numerics.toNat 35 33) with
        | some rs => rs.all l.variants.contains
        | none => false) && (smp == 0 || l.sieve.isSome))) ++
  fault 12 ((im.layers.all fun l => formatOk l.gradFmt) &&
    im.buckets.all fun k => decide (1 ≤ k.count) && decide (k.count ≤ 2048) && !s.unitLost 2 4 k.engine &&
      (im.buckets.filter fun j => overlapsInlet j.inlet k.inlet).length == 1) ++
  fault 13 signed
where
  /-- two 4,160-byte inlets meet. -/
  overlapsInlet (a b : Nat) : Bool := decide (a < b + 4160) && decide (b < a + 4160)

/-- R161, R180: frames, tilth units, rings and handle stores that the image needs are there. -/
def State.imageFits (s : State) (im : Image) (old : List Nat) : Bool :=
  let units := (im.slices.map fun x => x.die * 8 + x.unit).eraseDups.length
  decide (im.frames ≤ s.mem.jobFrames) && decide (units + s.mem.lendTilth ≤ 32) &&
  (im.rings.all fun r => (s.ring r.ring).kind == .free || old.contains r.ring) &&
  (List.range 5).all fun d =>
    decide (((im.rings.filter fun r => r.die == d).map RingDecl.depth).foldl (· + ·) 0 ≤ 65536)

/-! ### What a load does -/

/-- The places of a die's handle rings in its handle store, in the image's order. -/
def ringBase (im : Image) (r : RingDecl) : Nat :=
  ((im.rings.takeWhile fun x => x.ring != r.ring).filter fun x => x.die == r.die).map RingDecl.depth |>.foldl (· + ·) 0

/-- The tile programs are written into the instruction stores (R583). -/
def State.writePrograms (im : Image) (s : State) : State :=
  im.programs.foldl (fun (s : State) p =>
    let store := p.2.zipIdx.foldl (fun m w => mapSet 0 m w.2 w.1) ([] : Map DWord)
    s.modTile p.1 fun u => { u with store := store }) s

/-- Handle rings and stream contexts of the job are freed (R178). -/
def State.freePool (s : State) : State :=
  let s := { s with rs := { s.rs with
    rings := s.rs.rings.filter fun e => e.2.kind != .handle, handles := []
    ctxs := s.rs.ctxs.filter fun e => e.2.kind == 5 || e.2.kind == 6 } }
  s

/-- Handle rings and stream contexts of an image are allocated. -/
def State.allocPool (im : Image) (s : State) : State :=
  let s := im.rings.foldl (fun (s : State) r =>
    s.setRing r.ring { kind := .handle, ctx := r.ctx, base := ringBase im r, die := r.die, log2d := r.depth.log2,
                       task := r.task, tile := r.tile }) s
  im.contexts.foldl (fun (s : State) c =>
    s.setCtx c.ctx { state := .ready, kind := c.kind, task := c.task, limit := c.limit, ring := c.ring,
                     bufBase := c.bufBase, bufLog2 := c.bufLog2, bufCount := c.bufCount }) s

/-- Layer records and settings that the image gives at the start of its job (R282, R307). -/
def State.layerSettings (im : Image) (s : State) : State :=
  im.layers.foldl (fun (s : State) l =>
    let t := { s.tilth with layers := mapSet [] s.tilth.layers l.layer [⟨0, l.slot, l.consts⟩] }
    let n := { s.num with records := mapSet 0 s.num.records l.layer (l.numerics &&& 0xFFFFFFFFFC000000#64) }
    { s with tilth := t, num := n }) s

/-- Units of the running image: tile groups, tilth units and engines it names (R436, R450). -/
def State.imageUnits (s : State) : List UnitId :=
  ((s.image Image.programs).map (fun (p : TileId × List (BitVec 64)) => (⟨0, p.1.die.val, p.1.tile.val / 18⟩ : UnitId)) ++
    (s.image Image.slices).map (fun (x : SliceDecl) => (⟨1, x.die, x.unit⟩ : UnitId)) ++
    (s.image Image.buckets).map (fun (b : BucketDecl) => (⟨2, 4, b.engine⟩ : UnitId))).eraseDups

def State.unitPower (s : State) (u : UnitId) : UnitPower := mapGet .active s.units.power (UnitId.key u)

/-- A unit's power state changes, and with it whether its clock counts (R77, R431). -/
def State.setUnit (u : UnitId) (p : UnitPower) (s : State) : State :=
  let k := UnitId.key u
  let on := (s.unitPower u).clocked
  let s := { s with units := { s.units with power := mapSet .active s.units.power k p } }
  if on && !p.clocked then { s with units := { s.units with stoppedAt := mapSet 0 s.units.stoppedAt k s.fc } }
  else if !on && p.clocked then
    let lost := mapGet 0 s.units.stopped k + (s.fc - mapGet 0 s.units.stoppedAt k)
    { s with units := { s.units with stopped := mapSet 0 s.units.stopped k lost, stoppedAt := mapSet 0 s.units.stoppedAt k 0 } }
  else s

/-- Every unit of kinds 0 to 3. -/
def allUnits : List UnitId :=
  ((List.range 4).flatMap fun d => (List.range 16).map (fun g => (⟨0, d, g⟩ : UnitId)) ++
    (List.range 8).map fun n => (⟨1, d, n⟩ : UnitId)) ++
  (List.range 16).map (fun n => (⟨2, 4, n⟩ : UnitId)) ++ (List.range 8).map fun n => (⟨3, 4, n⟩ : UnitId)

/-- The state number of a unit at rest. -/
def restCode : UnitPower → Nat
  | .idle => 1
  | .nap => 2
  | .dark => 3
  | _ => 0

/-- fc of the wake from a state; a compute die first starts its clock (Table 7.5). -/
def State.wakeFc (s : State) (kind from_ : Nat) : Nat :=
  let sc := fcPerSc s.pow.point
  match from_ with
  | 1 => 3
  | 2 => 25 * sc + 16
  | _ => (if kind = 4 then 550 else 50) * sc + 1536

/-- Units that rest wake, and the command that needs them waits for the last of them (R437). -/
def State.wakeNow (us : List UnitId) (s : State) : State :=
  let rest := us.filter fun u => restCode (s.unitPower u) != 0
  let n := (rest.map fun u => s.wakeFc u.kind (restCode (s.unitPower u))).foldl max 0
  rest.foldl (fun (s : State) u => s.setUnit u .active) (s.passFc n)

/-- Units of the image that rest are made ACTIVE before their work (R436). -/
def State.wakeImage (s : State) : State :=
  s.imageUnits.foldl (fun (s : State) u =>
    match s.unitPower u with
    | .idle | .nap | .dark => s.setUnit u .active
    | _ => s) s

/-- The floor point of the running job; 0 when none. -/
def State.floorPoint (s : State) : Nat := (s.job.image.map fun i => i.tclass % 16).getD 0

/-- One power period passes, and the point rises by one (R433). -/
def State.climb (s : State) : State :=
  let s := s.toSc ((s.sc / 1024 + 1) * 1024)
  { s with pow := { s.pow with point := s.pow.point + 1, pointTo := none } }

/-- R216: a job runs from the moment at which the broker, one index a period, has the package at its floor point (DESIGN CHOICE: how
long a load takes is left open; notes/assumptions/96). -/
def State.toFloor (s : State) : State :=
  let now := s.pow.pointTo.getD s.pow.point
  if now < s.floorPoint then
    (List.range (s.floorPoint - now)).foldl (fun s _ => s.climb) { s with pow := { s.pow with point := now, pointTo := none } }
  else s

/-- A running image is taken: a new job starts at epoch 0 (R229, R252, R371). -/
def State.startJob (im : Image) (digest : List Byte) (s : State) : State :=
  let s := { s with
    job := { JobState.none with image := some im, imageDigest := digest, deferred := s.job.deferred }
    num := .none, rs := { s.rs with tasks := [] }
    tilth := { TilthState.initial with
      programs := s.tilth.programs, lentEpoch := s.tilth.lentEpoch, lentTag := s.tilth.lentTag
      lentJob := s.tilth.lentJob, slices := s.tilth.slices.filter fun e => 2 ^ 40 ≤ e.1 } }
  let s := ((s.writePrograms im).allocPool im).layerSettings im
  (s.wakeNow s.imageUnits).toFloor

/-- The standby image becomes the running image, in the middle of the job (R367, R478). -/
def State.takeStandby (s : State) : State :=
  match s.job.standby with
  | none => s
  | some im =>
    let s := { s with job := { s.job with
      image := some im, imageDigest := s.job.standbyDigest, standby := none, standbyDigest := [] } }
    let s := ((s.freePool).writePrograms im).allocPool im
    (s.wakeNow s.imageUnits).toFloor

/-- R478: the image that ends the pause of R477. -/
def State.endsPause (s : State) (im : Image) : Bool :=
  s.units.paused && bitOf im.tclass 4 && s.job.image.any fun o => o.shards == im.shards

/-- What IMAGE_LOAD does at the end of its slice (R196, R577).  The buffer's bytes are signed; `image` is what they spell
(notes/assumptions/20); `resume` is what follows when the image ends the pause of R477. -/
def State.loadImage (c : Cmd) (image : Option Image) (digest : List Byte) (resume : State → State) (s : State) : State :=
  let standby := c.p 16 1 == 1
  if s.jobRuns != standby then s.refuse c.ask refState
  else
    match image with
    | none => s.answer c.ask 4 refImage [0]
    | some im =>
      let signed := ((s.trust.keyOf 1 im.keyId).map fun k => Config.mldsaVerify k digest im.signature).getD false
      match s.imageFaults im signed with
      | n :: _ => s.answer c.ask 4 refImage [BitVec.ofNat 32 n]
      | [] =>
        let old := if standby then (s.job.image.map fun o => o.rings.map RingDecl.ring).getD [] else []
        if !s.imageFits im old then s.refuse c.ask refResource
        else if standby && s.endsPause im && s.job.reshard.isSome then s.refuse c.ask refState
        else
          let s := s.auditFor c.ask 0x201 im.job (if standby then s.job.standbyDigest else s.job.imageDigest) digest
          if !standby then (s.startJob im digest).done c.ask []
          else
            let s := { s with job := { s.job with standby := some im, standbyDigest := digest } }
            if s.endsPause im then
              let s := s.takeStandby
              let s := { s with units := { s.units with paused := false } }
              (resume s).done c.ask []
            else s.done c.ask []

/-- Changes deferred to other points than a commit or a migration's end go with their job: there is no such point any more. -/
def State.refuseDeferred (s : State) : State :=
  let ds := s.job.deferred.filter fun d => d.kind != 5
  ds.foldl (fun s d => s.final d.ask 4 refState [0])
    { s with job := { s.job with deferred := s.job.deferred.filter fun d => d.kind == 5 } }

/-- The job is over: its tasks stop, its pool is freed, and E returns to 0 (R178, R229, R371). -/
def State.endJob (s : State) : State :=
  let live := mapKeys (fun _ (t : Task) => t.phase == .running || t.phase == .aborting) s.rs.tasks
  let asks := live.filterMap fun n => (s.task n).ask.map fun a => (a, wordsOf 4 (AbortRecord.bits (s.task n).record))
  let s := live.foldl (fun s n => s.dropTask n) s
  let s := s.freePool
  let s := { s with
    rs := { s.rs with tasks := [] }, job := { JobState.none with deferred := s.job.deferred }, num := .none
    fab := { s.fab with pinned := none }
    tilth := { TilthState.initial with
      programs := s.tilth.programs, lentEpoch := s.tilth.lentEpoch, lentTag := s.tilth.lentTag
      lentJob := s.tilth.lentJob, slices := s.tilth.slices.filter fun e => 2 ^ 40 ≤ e.1 }
    units := { s.units with paused := false, stopAtBoundary := false } }
  ((asks.foldl (fun s a => s.answer a.1 3 1 a.2) s).movesFree).portsSend

end Sys2Proof.Machine
end

