-- ==== Sys2Proof/Machine/Settings.lean ====
section
/-! DEFINITION. Commands that change settings, at once or at a point of Table 12.14: update programs and layer settings
(R276, R280, R282), numerics records (R307, R329), counter selections (R562, R563), with the queries of the numerics watch
(R307, R311). -/

namespace Sys2Proof.Machine

/-! ### Update programs (Tables 9.3 to 9.6, R280) -/

structure TilthOp where
  op : Nat
  d : Nat
  a : Nat
  b : Nat
  c : Nat
  imm : Nat
  deriving DecidableEq, Repr

def tilthOp (w : Word) : TilthOp :=
  let v := w.toNat
  { op := bitsOf v 31 26, d := bitsOf v 25 21, a := bitsOf v 20 16, b := bitsOf v 15 11, c := bitsOf v 10 6, imm := bitsOf v 5 0 }

def TilthProgram.nfold (p : TilthProgram) : Nat := bitsOf p.header.toNat 7 0
def TilthProgram.nsweep (p : TilthProgram) : Nat := bitsOf p.header.toNat 15 8
def TilthProgram.stats (p : TilthProgram) : Bool := bitOf p.header.toNat 16
def TilthProgram.bsize (p : TilthProgram) : Nat := 8 * 2 ^ bitsOf p.header.toNat 18 17
def TilthProgram.precond (p : TilthProgram) : Bool := bitOf p.header.toNat 19
def TilthProgram.fold (p : TilthProgram) : List TilthOp := (p.words.take p.nfold).map tilthOp
def TilthProgram.sweep (p : TilthProgram) : List TilthOp := (p.words.drop p.nfold).map tilthOp

/-- The operands that each opcode of Table 9.6 reads. -/
def tilthReads (o : TilthOp) : List Nat :=
  if o.op = 1 ∨ o.op = 2 ∨ o.op = 6 ∨ o.op = 7 ∨ o.op = 9 then [o.a, o.b]
  else if o.op = 3 ∨ o.op = 0x0B then [o.a, o.b, o.c]
  else [o.a]

/-- Table 9.5: whether code `k` may be read in a section. -/
def tilthReadable (inFold stats : Bool) (k : Nat) : Bool :=
  if k < 0x18 ∨ k = 0x19 ∨ k = 0x1F then true
  else if k = 0x18 ∨ k = 0x1A then inFold
  else if k = 0x1B then !inFold
  else if k = 0x1E then !inFold && stats
  else stats

/-- One instruction is legal in its section (R280). -/
def tilthLegal (inFold stats precond : Bool) (o : TilthOp) : Bool :=
  let n := (tilthReads o).length
  let red := o.op == 0x0C || o.op == 0x0D || o.op == 0x0E
  decide (1 ≤ o.op) && decide (o.op ≤ 0x0E) && (tilthReads o).all (tilthReadable inFold stats) &&
  (if red then o.d == 0 else decide (o.d < 8) || o.d == (if inFold then 0x1B else 0x19)) &&
  ((o.op != 0x0C && o.op != 0x0D) || (inFold && stats)) && (o.op != 0x0E || (!inFold && precond)) &&
  (decide (2 ≤ n) || o.b == 0) && (n == 3 || o.c == 0) && (o.op == 0x0A || o.imm == 0)

/-- R280. -/
def TilthProgram.legal (p : TilthProgram) : Bool :=
  let writes (l : List TilthOp) (d : Nat) := (l.filter fun o => o.d == d && o.op != 0x0C && o.op != 0x0D && o.op != 0x0E).length
  decide (p.header.toNat < 2 ^ 20) && decide (1 ≤ p.nfold) && decide (p.nfold ≤ 8) && decide (1 ≤ p.nsweep) &&
  decide (p.nsweep ≤ 31) && decide (p.nfold + p.nsweep ≤ 32) && p.words.length == p.nfold + p.nsweep &&
  (p.precond || bitsOf p.header.toNat 18 17 == 0) &&
  p.fold.all (tilthLegal true p.stats p.precond) && p.sweep.all (tilthLegal false p.stats p.precond) &&
  writes p.fold 0x1B == 1 && writes p.sweep 0x19 == 1

def State.program (s : State) (slot : Nat) : TilthProgram := mapGet {} s.tilth.programs slot

/-- A slot that holds no program has no words. -/
def State.slotFilled (s : State) (slot : Nat) : Bool := !(s.program slot).words.isEmpty

/-- The settings of a layer in force for epoch `e`: the newest whose epoch is not above it (R282). -/
def State.setting (s : State) (layer e : Nat) : LayerSetting :=
  ((mapGet [] s.tilth.layers layer).filter fun x => x.from_ ≤ e).getLast?.getD ⟨0, 0, []⟩

/-- TILTH_PROGRAM (R276): slots 0 to 2 cannot be written (PARAMETER), a slot that a layer of the running job names is in
use (STATE), and an illegal program is refused (PARAMETER). -/
def execTilthProgram (ring : Nat) (s : State) : Host.Outcome State Fault Refusal :=
  ok (s.command 0x47 ring fun c s =>
    let slot := c.p 16 1
    let n := c.p 17 1
    let prog : TilthProgram :=
      { header := BitVec.ofNat 64 (c.x 0 8), words := (List.range (n - 2)).map fun i => BitVec.ofNat 32 (c.x (8 + 4 * i) 4) }
    let good := decide (3 ≤ slot) && decide (slot ≤ 15) && decide (4 ≤ n) && decide (n ≤ 34) && decide (4 * n ≤ c.ext.length) && decide (c.ext.length ≤ 192) &&
      (c.ext.drop (4 * n)).all (· == 0) && prog.legal && (prog.bsize != 64 || !prog.precond || bitOf s.features 0)
    paramOr c [(16, 2)] false good (fun s =>
      if s.jobRuns && s.tilth.layers.any fun l => (s.setting l.1 s.job.epoch).slot == slot then s.refuse c.ask refState
      else
        let s := s.auditFor c.ask 0x207 slot [] (sha3 (c.ext.take (4 * n)))
        ({ s with tilth := { s.tilth with programs := mapSet {} s.tilth.programs slot prog } }).done c.ask []) s)

/-- 0 ≤ c < 1 for an S32 code (R282). -/
def fractionCode (w : Nat) : Bool := decide (w < 0x3F800000) || w == 0x80000000

/-- R282: STATE for an epoch below E + 1, a layer that is not the job's, or an empty slot. -/
def State.layerStops (c : Cmd) (s : State) : Bool :=
  !s.jobRuns || decide (c.p 24 6 < s.job.epoch + 1) || (mapGet [] s.tilth.layers (c.p 16 2)).isEmpty ||
    !s.slotFilled (c.p 18 1)

def execTilthLayer (ring : Nat) (s : State) : Host.Outcome State Fault Refusal :=
  ok (s.command 0x48 ring fun c s =>
    let good := decide (c.p 18 1 ≤ 15) && c.ext.length == 64 && (c.ext.drop 48).all (· == 0) && fractionCode (c.x 0 4) &&
      fractionCode (c.x 8 4)
    paramOr c [(16, 3), (24, 6)] false good (fun s =>
      if s.layerStops c then s.refuse c.ask refState else s.defer_ c 3 (c.p 24 6)) s)

/-- A layer setting takes effect at the first fold of its epoch. -/
def State.layerDue (c : Cmd) (s : State) : State :=
  let layer := c.p 16 2
  if !s.slotFilled (c.p 18 1) then s.final c.ask 4 refState [0]
  else
    let x : LayerSetting := ⟨c.p 24 6, c.p 18 1, (List.range 12).map fun i => BitVec.ofNat 32 (c.x (4 * i) 4)⟩
    let s := s.auditFor c.ask 0x207 layer [] (leBytes 1 x.slot ++ (c.ext.take 48))
    let t := { s.tilth with layers := mapSet [] s.tilth.layers layer (mapGet [] s.tilth.layers layer ++ [x]) }
    ({ s with tilth := t }).final c.ask 0 0 []

/-! ### Numerics records -/

def State.record (s : State) (l : Nat) : Nat := (mapGet 0 s.num.records l).toNat

/-- Bits [hi:lo] of a layer's record set (Table 10.2). -/
def State.setRecord (l hi lo v : Nat) (s : State) : State :=
  let r := s.record l
  let r' := r - (bitsOf r hi lo) * 2 ^ lo + v % 2 ^ (hi - lo + 1) * 2 ^ lo
  { s with num := { s.num with records := mapSet 0 s.num.records l (BitVec.ofNat 64 r') } }

/-- The image's declaration of a layer. -/
def State.layerDecl (s : State) (l : Nat) : Option LayerDecl := s.job.image.bind fun i => i.layers.find? fun x => x.layer == l

/-- The layers that stand on a rung (R306). -/
def State.rungLayers (s : State) : List Nat :=
  ((s.job.image.map Image.layers).getD []).filter LayerDecl.onRung |>.map LayerDecl.layer

/-- LAYER_NUMERICS (R307). -/
def execLayerNumerics (ring : Nat) (s : State) : Host.Outcome State Fault Refusal :=
  ok (s.command 0x4A ring fun c s =>
    let sel := c.p 18 1
    let smp := c.p 23 1
    let l := c.p 16 2
    let ceilOk := match rungsOf (bitsOf (s.record l) 32 30) (c.p 24 1), s.layerDecl l with
      | some rs, some d => rs.all d.variants.contains
      | _, _ => false
    let good := decide (sel < 32) && (!bitOf sel 0 || decide (1 ≤ c.p 20 2)) &&
      (!bitOf sel 2 || smp == 0 || (decide (6 ≤ smp) && decide (smp ≤ 12))) && (!bitOf sel 3 || decide (c.p 24 1 ≤ 6)) &&
      (!bitOf sel 4 || decide (c.p 25 1 ≤ 1))
    paramOr c [(16, 3), (20, 12)] false good (fun s =>
      let known := s.jobRuns && s.rungLayers.contains l
      if known && bitOf sel 3 && !ceilOk then s.refuse c.ask refParameter
      else if !known || decide (c.p 26 6 < s.job.epoch + 2) then s.refuse c.ask refState
      else s.defer_ c 2 (c.p 26 6)) s)

/-- The fields that a LAYER_NUMERICS selects. -/
def State.setNumerics (c : Cmd) (s : State) : State :=
  let l := c.p 16 2
  let sel := c.p 18 1
  let set (i hi lo v : Nat) (s : State) : State := if bitOf sel i then s.setRecord l hi lo v else s
  set 4 26 26 (c.p 25 1) (set 3 35 33 (c.p 24 1) (set 2 39 36 (c.p 23 1) (set 1 47 40 (c.p 22 1) (set 0 63 48 (c.p 20 2) s))))

/-- The selected fields take effect when the first attempt of the epoch starts; NUMERICS_SET is logged (R331). -/
def State.numericsDue (c : Cmd) (s : State) : State :=
  let l := c.p 16 2
  if !s.rungLayers.contains l then s.final c.ask 4 refState [0]
  else
    let old := leBytes 8 (s.record l)
    let s := s.setNumerics c
    (s.auditFor c.ask 0x308 l old (leBytes 8 (s.record l))).final c.ask 0 0 []

/-- A STEP_RUN is active (R371). -/
def State.runActive (s : State) : Bool := s.job.run.isSome

/-- SIEVE_SET (R329). -/
def execSieveSet (ring : Nat) (s : State) : Host.Outcome State Fault Refusal :=
  ok (s.command 0x4B ring fun c s =>
    let n := c.p 16 1
    paramOr c [(16, 1)] false (decide (1 ≤ n) && decide (n ≤ 14)) (fun s =>
      if s.runActive then s.refuse c.ask refState
      else ({ s with job := { s.job with numericLimit := n } }).done c.ask []) s)

/-- NUMERICS_READ (R307): one record for each layer of the range. -/
def execNumericsRead (ring : Nat) (s : State) : Host.Outcome State Fault Refusal :=
  ok (s.command 0xE6 ring fun c s =>
    paramOr c [(16, 4), bufBytes] false (decide (c.p 16 2 + c.p 18 2 ≤ 65536)) (fun s =>
      s.answerRecord c ((List.range (c.p 18 2)).flatMap fun i => leBytes 8 (s.record (c.p 16 2 + i))) []) s)

/-- The 16 bytes of an overflow record entry, Table 10.3. -/
def ovfBytes (e : OvfEntry) : List Byte :=
  leBytes 16 (packBits [(min 255 e.count, 8), (0, 4), (b2n e.spec, 1), (e.rung, 3), (e.block, 32), (e.tensor, 8),
    (e.layer, 16), (e.kind, 4), (e.attempt, 4), (e.epoch, 48)])

/-- OVERFLOW_READ (R311): entries with SPEC = 0 from the one named, as many as the buffer holds; RESULT0 tells how many
(notes/assumptions/24). -/
def execOverflowRead (ring : Nat) (s : State) : Host.Outcome State Fault Refusal :=
  ok (s.command 0xE7 ring fun c s =>
    paramOr c [(16, 4), bufBytes] false true (fun s =>
      let es := ((s.num.overflow.filter fun e => !e.1.spec).drop (c.p 16 4)).take (c.bufLen / 16)
      (s.hostWrite c.bufAddr (es.flatMap fun e => ovfBytes e.1)).done c.ask [BitVec.ofNat 32 es.length]) s)

/-! ### Counter selection (R562, R563) -/

/-- Counters of each scope (Table 18.1). -/
def scopeCounters (scope : Nat) : Nat := if scope = 0 then 4 else if scope = 1 then 16 else if scope = 2 then 32 else 8

def sourceInScope (scope source : Nat) : Bool :=
  match scope with
  | 0 => decide (0x0101 ≤ source) && decide (source ≤ 0x0109)
  | 1 => decide (0x0201 ≤ source) && decide (source ≤ 0x0204)
  | 2 => decide (0x0301 ≤ source) && decide (source ≤ 0x0306)
  | 3 => decide (0x0401 ≤ source) && decide (source ≤ 0x0404)
  | _ => false

def dieInScope (scope die : Nat) : Bool :=
  match scope with
  | 0 | 1 => decide (die < 4)
  | 2 => die == 4
  | _ => decide (21 ≤ die) && decide (die ≤ 24)

def counterKey (scope die tile index : Nat) : Nat := scope * 2 ^ 24 + (die * 512 + tile) * 32 + index

def Cmd.countersNamed (c : Cmd) : List Nat :=
  let scope := c.p 16 1
  let tiles := if scope ≠ 0 then [0] else if c.p 18 2 = 0xFFFF then List.range 288 else [c.p 18 2]
  tiles.map fun t => counterKey scope (c.p 17 1) t (c.p 20 1)

/-- The selection and any clear take effect; earlier events have counted under the old selection (R563). -/
def State.counterSet (c : Cmd) (s : State) : State :=
  let s := s.countsNow
  let m := c.countersNamed.foldl (fun m k =>
    let x := mapGet {} m k
    let x := if c.p 21 1 = 1 then { x with value := 0, shadow := 0 } else x
    mapSet {} m k { x with source := c.p 22 2, qual := c.p 24 2, qen := c.p 26 1 == 1 }) s.cnt.select
  { s with cnt := { s.cnt with select := m } }

def execCounterSelect (ring : Nat) (s : State) : Host.Outcome State Fault Refusal :=
  ok (s.command 0xE0 ring fun c s =>
    let scope := c.p 16 1
    let tileOk := decide (c.p 18 2 < 288) || c.p 18 2 == 0xFFFF
    let good := decide (scope ≤ 3) && tileOk && decide (c.p 20 1 < scopeCounters scope) && sourceInScope scope (c.p 22 2) &&
      dieInScope scope (c.p 17 1) && decide (c.p 21 1 ≤ 1) && decide (c.p 26 1 ≤ 1)
    paramOr c [(16, 11)] false good (fun s =>
      if !s.dies.contains (c.p 17 1) then s.refuse c.ask refAbsent
      else if s.runActive then s.defer_ c 1 s.job.epoch
      else (s.counterSet c).done c.ask []) s)

/-! ### Changes that fall due (R391, R392) -/

/-- One deferred change takes effect, and its final reply follows. -/
def State.changeDue (d : Deferred) (s : State) : State :=
  let c := d.cmd
  if 0x20 ≤ d.ask.opcode ∧ d.ask.opcode ≤ 0x23 then s.pageDue c
  else if d.ask.opcode = 0x48 then s.layerDue c
  else if d.ask.opcode = 0x4A then s.numericsDue c
  else if d.ask.opcode = 0xE0 then (s.counterSet c).final c.ask 0 0 []
  else s

/-- Every change deferred to a point takes effect, in the order of the DEFERRED answers. -/
def State.pointReached (kind value : Nat) (s : State) : State :=
  let due (d : Deferred) : Bool := d.kind == kind && d.value == value
  let now := s.job.deferred.filter due
  let s := { s with job := { s.job with deferred := s.job.deferred.filter fun d => !due d } }
  now.foldl (fun s d => s.changeDue d) s

end Sys2Proof.Machine
end

