-- ==== Sys2Proof/Machine/TrainStep.lean ====
section
/-! DEFINITION. The training step: how attempts start, end, commit, abort and replay, on the leader and on every package
(R148, R149, R175, R205, R229 to R234, R245 to R269, R303, R304, R317, R318, R326 to R330, R366, R367, R454, R461 to R463,
R499, R560, R567). -/

namespace Sys2Proof.Machine

/-! ### Notices arriving (R234, R350) -/

/-- R233, R234 on a lender, with the latest epoch it has seen of the owner in place of its own E: whether work of epoch `e` and
attempt `a` of job `job` is the owner's work now, or yet to be seen. -/
def State.ownerNow (s : State) (src job e a : Nat) : Bool :=
  let seen := mapGet 0 s.tilth.lentEpoch src
  let tag := mapGet 0 s.tilth.lentTag src
  if mapGet 0 s.tilth.lentJob src ≠ job + 1 ∨ seen = 0 then true
  else decide (seen ≤ e) || (e + 1 == seen && (tag == 0 || (tag - 1) % 2 ^ 28 != e % 2 ^ 28 || decide ((tag - 1) / 2 ^ 28 ≤ a)))

/-- R234: whether a notice is taken up. -/
def State.noticeOk (s : State) (n : Notice) : Bool :=
  let E := s.job.epoch
  let mine := s.jobRuns && n.job == s.jobId
  if n.code = 0x0A ∨ n.code = 0x0B then
    s.mem.borrowers.contains n.src && s.ownerNow n.src n.job n.epoch n.attempt &&
      decide (mapGet 0 s.tilth.lentEpoch n.src = 0 ∨ mapGet 0 s.tilth.lentJob n.src ≠ n.job + 1 ∨
        n.epoch ≤ mapGet 0 s.tilth.lentEpoch n.src)
  else if n.epoch + 1 = E then mine && (n.code == 7 || n.code == 8 || n.code == 0x0D || n.code == 0x10)
  else if n.epoch = E then mine && (n.attempt == s.job.st.attempt || (n.code == 5 && n.attempt == s.job.st.attempt + 1))
  else mine && n.epoch == E + 1 && (n.attempt == s.job.nextAttempt || (n.code == 5 && n.attempt == s.job.nextAttempt + 1))

/-- The content of the NOTICE_DATA frame that a notice announces, and the rest of what has landed. -/
def FabState.contentOf (f : FabState) (n : Notice) : Option (List Byte × List (Nat × List Byte)) :=
  if n.arg = 0 ∨ (n.code ≠ 4 ∧ n.code ≠ 5) then some ([], f.noticeData)
  else (f.noticeData.find? fun d => d.1 == n.src).map fun d => (d.2, f.noticeData.erase d)

/-- The first notice of a code and sender leaves the hub's queue and is taken up, or discarded and counted. -/
def State.withNotice (code src : Nat) (act : Notice → List Byte → State → State) (s : State) : State :=
  match s.fab.noticesIn.find? fun n => n.code == code && n.src == src with
  | none => s
  | some n =>
    match s.fab.contentOf n with
    | none => s
    | some (bs, rest) =>
      let s := { s with fab := { s.fab with noticesIn := s.fab.noticesIn.erase n, noticeData := rest } }
      if s.noticeOk n then act n bs s
      else if n.epoch + 1 = s.job.epoch ∧ (n.code = 2 ∨ n.code = 9) then s
      else s.count 0 1 false

/-- A notice with content: the NOTICE_DATA frame goes ahead of it along the same route (R350). -/
def State.sendContent (n : Notice) (bs : List Byte) (s : State) : State :=
  let s := if n.dst = s.fab.coord then
      { s with fab := { s.fab with noticeData := s.fab.noticeData ++ [(s.fab.coord, bs)] } }
    else s.sendStream { fkind := 8, dst := n.dst, stag := s.stepTag s.job.epoch } bs
  s.sendNotice { n with arg := flitsOf bs.length }

/-- The layer sets of R328 as content: three runs of a count and layer numbers, two bytes each
(notes/assumptions/25). -/
def setsBytes (a b c : List Nat) : List Byte :=
  [a, b, c].flatMap fun l => leBytes 2 l.length ++ l.flatMap (leBytes 2)

def setsOf (bs : List Byte) : List Nat × List Nat × List Nat :=
  let one (bs : List Byte) : List Nat × List Byte :=
    let n := leNat (bs.take 2)
    ((List.range n).map fun i => leNat ((bs.drop (2 + 2 * i)).take 2), bs.drop (2 + 2 * n))
  let a := one bs
  let b := one a.2
  (a.1, b.1, (one b.2).1)

/-! ### Attempts start (R200, R231, R252, R254, R307, R318, R325, R326) -/

def State.owns (s : State) (h : ShardDecl) : Bool := h.owners == [s.fab.coord]

def State.ownedLayers (s : State) : List Nat := (((s.image Image.shards).filter s.owns).map ShardDecl.layer).eraseDups

def State.receivedShards (s : State) : List ShardDecl := (s.image Image.shards).filter fun h => h.held && !s.owns h

/-- The sampled layers with the pairs the image expects (R320, R325). -/
def State.expectedPairs (s : State) : List (Nat × Nat) :=
  (s.image Image.layers).filterMap fun l =>
    if l.onRung && bitsOf (s.record l.layer) 39 36 != 0 then l.sieve.map fun v => (l.layer, s.pairsOf l.layer v) else none

def State.pairsMet (s : State) (passed : Map Nat) : Bool :=
  s.expectedPairs.all fun p => decide (p.2 ≤ mapGet 0 passed p.1)

/-- Tasks that the order lists start (R200), with their rung variants. -/
def State.staged (s : State) (d : TaskDecl) : Bool :=
  (s.image Image.stages).any fun g => g.pkg == s.fab.coord &&
    ([g.forward, g.backward].any fun n => n == d.task ||
      (s.taskDecl n).any fun b => b.layers == d.layers && taskKeys b == taskKeys d && d.rung.isSome)

/-- The tasks an attempt starts with: those of the step on their rung, and the rescale tasks that are due. -/
def State.stepDecls (s : State) : List TaskDecl :=
  (s.image Image.tasks).filter fun d =>
    d.step && !s.staged d && s.onRung d && (!d.rescale || d.layers.any s.job.rescale.contains)

/-- R318: descents that take effect with the first attempt of epoch `e`. -/
def State.descend (e : Nat) (spec : Bool) (s : State) : State :=
  let now := (s.num.descents.filter fun d => d.2 == e).map Prod.fst
  let s := { s with num := { s.num with descents := s.num.descents.filter fun d => d.2 != e } }
  now.foldl (fun (s : State) l =>
    match narrower (bitsOf (s.record l) 32 30) (bitsOf (s.record l) 29 27) with
    | some r => (s.auditWork spec 0x302 l (leBytes 1 (bitsOf (s.record l) 29 27)) (leBytes 1 r)).setRecord l 29 27 r
    | none => s) s

/-- The first attempt of an epoch starts: changes deferred to it and descents take effect (R307, R318, R391).  When it is
speculative work that starts, what they replace is kept, for step E may yet be replayed. -/
def State.epochStarts (e : Nat) (spec : Bool) (s : State) : State :=
  let redo := s.job.again
  let due := s.job.deferred.filter fun d => d.kind == 2 && d.value == e && d.ask.opcode == 0x4A
  let old : SpecStart := { records := s.num.records, descents := s.num.descents, settings := redo ++ due }
  let s := redo.foldl (fun (s : State) d => s.setNumerics d.cmd) { s with job := { s.job with again := [] } }
  let s := (s.descend e spec).pointReached 2 e
  if spec then { s with job := { s.job with specStart := some old } } else s

/-- Bits of a layer record that no start of an epoch changes: SFAIL and CLEAN. -/
def recordCounts : BitVec 64 := 0x3FF0000

/-- The start of E + 1 is undone: records and descents stand as before it, but for what step E has counted (R268). -/
def State.specUndone (s : State) : State :=
  match s.job.specStart with
  | none => s
  | some u =>
    let back := s.num.records.foldl (fun (m : Map (BitVec 64)) r =>
      mapSet 0 m r.1 ((mapGet 0 u.records r.1 &&& ~~~recordCounts) ||| (r.2 &&& recordCounts))) []
    { s with
      num := { s.num with records := back, descents := u.descents }
      job := { s.job with specStart := none, again := u.settings } }

/-- What a lender's units hold for owners stands whatever its own job does: keys from 2^40 up. -/
def lentSlices (m : Map SliceState) : Map SliceState := m.filter fun e => 2 ^ 40 ≤ e.1

/-- Attempt `a` of epoch E starts.  `keep`: the speculative work done for it stands (R258, R264).  A shard that was lost after
STEP_READY stops the job now that the step has committed (R247, R497). -/
def State.startAttempt (a : Nat) (keep : Bool) (s : State) : State :=
  let E := s.job.epoch
  let passed := if keep then s.num.passedNext else []
  let st := { s.job.st with
    attempt := a, phase := .running, nans := s.job.st.nans, specRun := false, nanSeen := false, ovfPending := false, sieveFail := false
    sieveClean := s.pairsMet passed, layersPending := s.ownedLayers.length, recvPending := s.receivedShards.length
    singular := 0, flags := if keep then s.job.flagsNext else 0 }
  let job := { s.job with
    st := st, readySet := [], stoppedSet := [], stoppedSent := false, abortSent := false, abortCause := 0, nextAttempt := 0
    buckets := if keep then s.job.bucketsNext else [], bucketsNext := [], sealed := [], received := []
    refetched := [], digestsIn := [], raiseOvf := [], raiseSieve := [], rescaleNext := [], nanCounted := false, nextDigests := [], flagsNext := 0, order := if keep then s.job.orderNext else [], orderNext := [] }
  let tag := ({ s with job := job }).stepTag E
  let live (_ : Nat) (l : List BucketRecord) : List BucketRecord := l.filter fun r => r.tag == tag
  let job := { job with
    inlets := mapMap [] live job.inlets, arrivals := mapMap [] live job.arrivals
    rowSums := if keep then (job.rowSums.filter RowSum.next).map fun r => { r with next := false } else [] }
  let tilth := { s.tilth with slices := lentSlices s.tilth.slices, waiting := [], busyTo := [], complete := [], sweeping := [], sweptLayers := [], unitFlags := [] }
  let s := { s with job := job, tilth := tilth, num := { s.num with
                      passed := passed, passedNext := [], topLogged := [], saturated := if keep then s.num.saturated else [] },
                    units := { s.units with boundarySent := false, classHold := false } }
  let s := s.stepDecls.foldl (fun (s : State) d =>
    let k := s.task d.task
    if keep ∧ k.step ∧ k.epoch = E ∧ (k.phase = .running ∨ k.phase = .ended ∨ k.phase = .aborting) then s
    else s.startTask d { step := true, epoch := E, attempt := a }) s
  let s := { s with job := { s.job with rescale := if keep then s.job.rescale else ((s.image Image.tasks).filter fun (d : TaskDecl) =>
      d.rescale && d.layers.any s.job.rescale.contains).flatMap TaskDecl.layers } }
  let s := if s.job.movesFrom ≤ E then s.movesStart E else s
  (if s.job.st.shardLost then s.stepAbort 6 else s).pinRoutes

/-! ### Speculative work (R258 to R266) -/

/-- All work of E + 1 is discarded: its tasks stop, its shadows and held entries go (R265, R304, R521, R560). -/
def State.dropSpec (s : State) : State :=
  let s := s.specUndone
  let s := (s.stepTasks Task.spec).foldl (fun s n => s.dropTask n) s
  let done := mapMap {} (fun _ (t : Task) => if t.step && t.spec then { t with phase := .idle } else t) s.rs.tasks
  { s with
    rs := { s.rs with tasks := done }, mem := { s.mem with heldWrites := [] }, cnt := s.cnt.drop, trust := { s.trust with auditHeld := [] }
    job := { (s.job.dropNext (s.stepTag (s.job.epoch + 1))) with
      st := { s.job.st with specRun := false }, nansNext := 0, abortNext := 0, abortNextSent := false
      numericNext := 0, taskNext := 0 }
    num := { s.num with passedNext := [], lostNext := [], overflow := s.num.overflow.filter fun e => !e.1.spec } }

/-- The abort notice of E + 1 has arrived: that work alone is discarded, and starts again as attempt 1 once the commit of E
is applied; its NaNs and its replay count for epoch E + 1 (R256, R266, R269; notes/assumptions/41). -/
def State.applyNextAbort (cause : Nat) (s : State) : State :=
  let nans := if cause = 2 ∧ s.job.abortNext ≠ 2 then min 15 (s.job.nansNext + 1) else s.job.nansNext
  let s := s.dropSpec
  let s := s.audit 0x205 s.jobId [] (leBytes 1 cause ++ leBytes 1 s.job.nextAttempt)
  { s with job := { s.job with
    nextAttempt := s.job.nextAttempt + 1, nansNext := nans, numericNext := b2n (cause == 2 || cause == 3 || cause == 4)
    taskNext := b2n (cause == 1 || cause == 5) } }

/-- R264: every speculative tag is cleared, held audit entries are written, and held writes leave. -/
def State.clearTags (s : State) : State :=
  let noTag (h : HandleIn) : HandleIn := { h with word := h.word &&& 0x7FFFFFFF }
  let s := { s with
    tiles := mapMap Tile.idle (fun _ (t : Tile) => { t with spec := false }) s.tiles
    rs := { s.rs with
      ctxs := mapMap {} (fun _ (c : Ctx) => { c with spec := false }) s.rs.ctxs
      handles := mapMap [] (fun _ hs => hs.map noTag) s.rs.handles
      tasks := mapMap {} (fun _ (t : Task) => { t with spec := false }) s.rs.tasks }
    num := { s.num with overflow := s.num.overflow.map fun (e : OvfEntry × Bool) => ({ e.1 with spec := false }, e.2), lost := s.num.lost ++ s.num.lostNext, lostNext := [] }
    cnt := s.cnt.fold, job := { s.job with specStart := none } }
  let s := s.releaseWrites
  let held := s.trust.auditHeld
  held.foldl (fun (s : State) (e : AuditEntry) => s.appendAudit { e with eflags := 1 }) { s with trust := { s.trust with auditHeld := [] } }

/-! ### Commit (R148, R248, R264, R318, R454, R560, R567) -/

/-- R148, R152, R159 for one page of the package's own job. -/
def Page.commit (p : Page) : Page :=
  if p.loc == .lent then p
  else if p.valid && p.banked && p.state != .lost then
    { p with state := .open_, spec := false, copies := p.copies && p.loc == .remote }
  else { p with spec := false }

/-- R318: CLEAN of one layer at the commit of E. -/
def State.cleanStep (l : Nat) (s : State) : State :=
  let E := s.job.epoch
  let r := s.record l
  let clean := bitsOf r 25 18
  let relax := bitsOf r 47 40
  let s := s.setRecord l 17 16 0
  let spoiled := if bitOf r 26 then s.num.named.contains l
    else s.num.overflow.any fun e => e.1.layer == l && e.1.epoch == E && e.1.attempt == s.job.st.attempt
  if spoiled then s.setRecord l 25 18 0
  else
    let c := min 255 (clean + 1)
    if relax ≠ 0 ∧ relax ≤ c ∧ bitOf r 26 ∧ bitsOf r 29 27 ≠ bitsOf r 32 30 then
      { s with num := { s.num with descents := s.num.descents ++ [(l, E + 2)] } }.setRecord l 25 18 0
    else if relax ≠ 0 ∧ relax ≤ c ∧ !bitOf r 26 then
      { s with num := { s.num with relaxes := s.num.relaxes ++ [(l, E + 1)] } }.setRecord l 25 18 0
    else s.setRecord l 25 18 c

/-- The bytes of a journal slot (R299). -/
def slotBytes (t : SparseDecl) : Nat := (16 + 4 * t.len + 2 + 63) / 64 * 64

/-- Local address of slot `k` of the journal half of epoch `e`. -/
def slotAt (t : SparseDecl) (e k : Nat) : Nat := t.journal + (e % 2 * t.slots + k) * slotBytes t

/-- R303: the versions of the half of epoch `e` go to their home rows, and their entries are dropped. -/
def State.writeBack (e : Nat) (s : State) : State :=
  let w : Work := { epoch := s.job.epoch, spec := false, head := { fkind := 1, stag := s.stepTag s.job.epoch } }
  let mine := s.tilth.directory.filter fun v => v.stamp == e + 1
  let s := mine.foldl (fun (s : State) v =>
    match (s.image Image.sparse).find? fun t => t.layer == v.table with
    | some t =>
      let bs := (s.readRange w (slotAt t e v.slot) (slotBytes t)).1
      let s := (s.writeRange w (t.weights + v.row * 2 * t.len) ((bs.drop 16).take (2 * t.len))).1
      let s := (s.writeRange w (t.moments + v.row * 2 * t.len) ((bs.drop (16 + 2 * t.len)).take (2 * t.len))).1
      (s.writeRange w (t.stats + v.row * 2) ((bs.drop (16 + 4 * t.len)).take 2)).1
    | none => s) s
  { s with tilth := { s.tilth with directory := s.tilth.directory.filter fun v => v.stamp != e + 1 } }

/-- P_eff (R441). -/
def State.peff (s : State) : Nat := min (min s.pow.limit s.pow.budget + s.pow.lent) 2000 - s.pow.thermal

/-- R567: the step's energy and time. -/
def State.meterStep (E : Nat) (s : State) : State :=
  { s with pow := { s.pow with
    stepEpoch := E, stepUj := (s.pow.energy[0] + 2 ^ 64 - s.pow.markUj) % 2 ^ 64, stepSc := (s.sc + 2 ^ 48 - s.pow.markSc) % 2 ^ 48
    stepAttempts := s.job.st.attempt + 1, markUj := s.pow.energy[0], markSc := s.sc
    slack := min (2 ^ 32 - 1) (s.fc - s.pow.readyFc), prevCommit := s.pow.lastCommit, lastCommit := s.sc } }

/-- A frame that carries data for the frame of epoch `e` of a page bears the tag of the epoch whose work writes it (R142). -/
def State.frameTag (s : State) (e : Nat) : Nat := s.stepTag (if e = 0 then 1 else e - 1)

/-- Data for a page on its lender. -/
def State.sendPage (p : Page) (e off : Nat) (bs : List Byte) (s : State) : State :=
  s.sendStream { fkind := 1, dst := p.peer, vc := 3, laddr := p.lpage * frameBytes + off, stag := s.frameTag e } bs

/-- Part of one page's frame of epoch `e` is written; sealed copies of a current frame of a HOME page are discarded (R421). -/
def State.writeFrame (n e off : Nat) (bs : List Byte) (s : State) : State :=
  let p := s.mem.page n
  let m := if p.loc = .home && p.banked && p.copies then s.mem.setPage n { p with copies := false } else s.mem
  ({ s with mem := m.write (p.frameOf e * frameBytes + off) bs }).countClay 0x0202 4 false (p.frameOf e * frameBytes + off) bs.length

/-- A write to the frames of epoch `e`, which R143 lets past the seal of a current frame (R366, R368, R400, R420, R496): pages
that are lost or unmapped take none.  With `both`, a REMOTE page of which copy frames stand here is written on its lender too. -/
def State.writeFrames (e : Nat) (both : Bool) (la : Nat) (bs : List Byte) (s : State) : State × Option MemFault :=
  let r := (chunksOf la bs.length).foldl (fun (acc : State × Option MemFault × List Byte) c =>
    match acc.2.1 with
    | some _ => acc
    | none =>
      let s := acc.1
      let now := acc.2.2.take c.2.2
      let later := acc.2.2.drop c.2.2
      let p := s.mem.page c.1
      let away : Bool := p.loc = .moved || (p.loc == .remote && !p.copies)
      let gone := s.mem.silent.contains p.peer || s.mem.lostLenders.contains p.peer
      if !p.valid || s.meetsInlet (c.1 * frameBytes + c.2.1) now.length then (s, some ⟨1, c.1 * frameBytes, s.fab.coord⟩, later)
      else if p.state = .lost then (s, some ⟨6, c.1 * frameBytes, s.fab.coord⟩, later)
      else if away && gone then (s, some ⟨5, c.1 * frameBytes, s.fab.coord⟩, later)
      else if away then (s.sendPage p e c.2.1 now, none, later)
      else
        let s := s.writeFrame c.1 e c.2.1 now
        (if both && p.loc == .remote && !gone then s.sendPage p e c.2.1 now else s, none, later)) (s, none, bs)
  (r.1, r.2.1)

/-- Writes of current frames. -/
def State.writeCurrent (la : Nat) (bs : List Byte) (s : State) : State × Option MemFault :=
  s.writeFrames s.job.epoch false la bs

/-- The shards of the layout whose data arrive: the standby image's while the package permutes (R368). -/
def State.shardTable (s : State) : List ShardDecl :=
  if s.job.permuting then (s.job.standby.map Image.shards).getD [] else s.image Image.shards

/-- Bytes that end a shard here with its digest behind them: the bytes that are data, and the digest kept
(notes/assumptions/95). -/
def State.landDigest (la : Nat) (bs : List Byte) (s : State) : List Byte × State :=
  let stop (h : ShardDecl) : Nat := h.addr + 2 * (h.rows * h.cols)
  let tail := la + bs.length - 8
  match s.shardTable.find? fun h => h.held && bs.length % 64 == 8 && decide (stop h ≤ tail) && decide (tail < stop h + 64) with
  | some h =>
    let d := BitVec.ofNat 64 (leNat (bs.drop (bs.length - 8)))
    (bs.take (stop h - la), { s with job := { s.job with digestsIn := mapSet 0 s.job.digestsIn (h.layer * 65536 + h.shard) d } })
  | none => (bs, s)

/-- Data of a permutation land. -/
def State.permuteLands (la : Nat) (bs : List Byte) (s : State) : State × Option MemFault :=
  let r := s.landDigest la bs
  r.2.writeCurrent la r.1

/-- A piece of the permutation, with the digest of its shard, over the current weights, behind the last of them (R368). -/
def State.permutePiece (s : State) (p : PieceDecl) : List Byte :=
  let w : Work := { epoch := s.job.epoch, spec := false, head := { fkind := 6 } }
  let bs := (s.readRange w p.src p.len).1
  match (s.image Image.shards).find? fun h =>
      h.held && decide (h.addr ≤ p.src) && p.src + p.len == h.addr + 2 * (h.rows * h.cols) &&
        s.shardTable.any fun n => n.layer == h.layer && n.shard == h.shard && n.rows == h.rows && n.cols == h.cols with
  | some h => withDigest bs (shardDigest (s.readRange w h.addr (2 * (h.rows * h.cols))).1 s.job.epoch)
  | none => bs

/-- The package's part of a permutation starts (R367): its pieces leave, those for itself land. -/
def State.startPermutation (s : State) : State :=
  let E := s.job.epoch
  let colls := ((s.job.standby.map Image.collectives).getD []).filter fun c => c.op == 6
  let s := { s with job := { s.job with permuting := true, received := [], digestsIn := [] } }
  colls.foldl (fun (s : State) c =>
    c.pieces.foldl (fun (s : State) p =>
      let bs := s.permutePiece p
      if p.dst = s.fab.coord then (s.permuteLands p.addr bs).1
      else s.sendStream { fkind := 6, dst := p.dst, laddr := p.addr, stag := s.stepTag E,
                          coll := c.number + c.members.idxOf s.fab.coord * 2 ^ 16, task := c.task } bs) s) s

/-- The leader asks every package to hold (R366, R450, R462). -/
def State.sendHold (why : Nat) (s : State) : State :=
  s.toAll { code := 0x0C, epoch := s.job.epoch, attempt := s.job.st.attempt, arg := why }

/-- A cause that speculative work met is one of step E once the commit makes it the work of E (R254, R266). -/
def State.nextCauseNow (s : State) : State :=
  let c := s.job.abortNext
  let s := { s with job := { s.job with abortNext := 0, abortNextSent := false } }
  if c = 0 then s
  else { s with job := { s.job with st := { s.job.st with nanSeen := c == 2 } } }.stepAbort c

/-- The commit of E is applied on the package, as one action. -/
def State.applyCommit (s : State) : State :=
  let E := s.job.epoch
  let st := s.job.st
  let hold := s.job.specHold
  let s := s.rungLayers.foldl (fun s l => s.cleanStep l) s
  let s := (s.meterStep E).writeBack E
  let nans := s.job.nansNext
  let numeric := s.job.numericNext
  let tasks := s.job.taskNext
  let s := if hold then s.dropSpec else s
  let s := s.clearTags
  let lenders := (((s.image Image.shards).filter fun h => h.remote && s.owns h).map ShardDecl.lender).eraseDups
  let s := lenders.foldl (fun (s : State) l => s.sendNotice { code := 0x0B, dst := l, epoch := E, attempt := st.attempt }) s
  let aborts := s.job.hostAbort
  let job := { s.job with
    epoch := E + 1
    st := { st with
      commitSc := s.sc, phase := .committing, nans := nans, attempt := b2n hold, specRun := false, nanSeen := false
      ovfPending := false, sieveFail := false, sieveClean := false, layersPending := s.ownedLayers.length
      recvPending := s.receivedShards.length, singular := 0, flags := 0, lastCause := 0, lastTask := 0 }
    readySet := [], nansNext := 0, nextAttempt := if hold then 1 else s.job.nextAttempt, numericNext := 0, taskNext := 0
    digests := s.job.nextDigests.foldl (fun m d => mapSet 0 m d.1 d.2) s.job.digests
    doneAttempts := st.attempt + 1, doneFlags := st.flags, commitOwed := true, numericReplays := numeric, taskReplays := tasks
    hostAbort := [], run := s.job.run.map fun r => { r with left := r.left.map (· - 1) } }
  let s := { s with
    job := job, mem := { s.mem with pages := mapMap {} (fun _ (p : Page) => p.commit) s.mem.pages }
    units := { s.units with flagged := [] }
    num := { s.num with named := [], sampleSix := [] }, fab := { s.fab with pinned := none } }
  let s := aborts.foldl (fun s a => s.refuse a refState) s
  let s := ((s.pointReached 1 E).pointReached 6 E).postHeld
  let s := s.toLeader { code := 7, epoch := E, attempt := st.attempt }
  let s := if s.isLeader && s.job.reshard.isSome && !s.job.resharding then s.sendHold 1 else s
  let next := s.job.run.any fun r => r.left != some 0
  if hold then
    let s := if s.job.resharding then s.startPermutation else s
    if s.job.powerHold then
      s.imageUnits.foldl (fun s u => s.setUnit u .nap) { s with pow := { s.pow with hold := true } }
    else s
  else if next then
    let a := s.job.nextAttempt
    let s := if !st.specRun || s.job.nextAttempt ≠ 0 then s.epochStarts (E + 1) false else s
    (s.startAttempt a true).nextCauseNow
  else s.dropSpec

/-- The STEP_RUN's reply to the last commit (R250, Table 12.4). -/
def State.postCommitted (s : State) : State :=
  if s.job.commitOwed then
    let s' := { s with job := { s.job with commitOwed := false } }
    match s.job.run with
    | some r =>
      s'.reply r.ask 2 0x10 (wordsOf 2 (s.job.epoch - 1) ++
        [BitVec.ofNat 32 (s.job.doneAttempts % 16 + s.job.doneFlags.toNat * 256), BitVec.ofNat 32 s.job.st.commitSc])
    | none => s'
  else s

/-! ### The leader's decisions (R248, R250, R254 to R257, R269, R327 to R329, R366, R450, R462) -/

/-- Every package of the job is in the set. -/
def State.everyone (s : State) (l : List Nat) : Bool := s.packages.all l.contains

/-- R248: the leader commits E. -/
def State.tryCommit (s : State) : State :=
  let st := s.job.st
  if s.isLeader && (st.phase == .running || st.phase == .ready) && !s.job.abortSent && s.everyone s.job.readySet &&
      (!st.mode || s.job.hostCommit.any fun h => h.2 == s.job.epoch) then
    ({ s with job := { s.job with st := { st with phase := .committing }, ackSet := [], permuteSet := [], commitSent := s.sc,
                                  boundaryDone := [] } }).toAll { code := 6, epoch := s.job.epoch, attempt := st.attempt }
  else s

/-- The step abort record (Table 12.4): the last task abort of the attempt, or the cause alone. -/
def State.stepRecord (s : State) (cause : Nat) : List Word :=
  let k := s.task s.job.st.lastTask
  if k.step && k.epoch == s.job.epoch && k.attempt == s.job.st.attempt && k.record.cause != 0 then
    wordsOf 4 (AbortRecord.bits k.record)
  else wordsOf 4 (AbortRecord.bits { cause := 0, code := cause })

/-- TILTH_SWEEPs in progress end with the run (R291). -/
def State.stopSweeps (s : State) : State :=
  let now := s.rs.aux.filterMap fun (e : Nat × RingAux) =>
    match e.2.work, e.2.current with
    | some (.sweep _), some a => some a
    | _, _ => none
  now.foldl (fun (s : State) a => s.answer a 3 0x10 [0, 0, 0, 0]) { s with tilth := { s.tilth with released := [] } }

/-- The job stops (R255 to R257, R269, R369): STEP_RUN ends, and what waited on it ends. -/
def State.stopJob (cause : Nat) (s : State) : State :=
  let rec_ := if s.units.stopAtBoundary || s.job.unitStop then wordsOf 4 (AbortRecord.bits { code := 0x12 }) else s.stepRecord cause
  let asks := s.job.hostAbort
  let commits := s.job.hostCommit.map Prod.fst
  let s := s.audit 0x204 s.jobId [] (leBytes 1 cause ++ leBytes 6 s.job.epoch)
  let run := s.job.run
  let reshard := s.job.reshard
  let s := { s with job := { s.job with
    st := { s.job.st with phase := .stopped }, run := none, hostAbort := [], hostCommit := [], reshard := none
    resharding := false, permuting := false, specHold := false, powerHold := false, abortSent := false
    hostStop := false, unitStop := false, abortCause := 0, stoppedSet := [], holds := [], boundaryWork := []
    boundaryDone := [] }, fab := { s.fab with pinned := none }, units := { s.units with flagged := [] } }
  let s := match run with
    | some r => s.answer r.ask 3 0x10 rec_
    | none => s
  let s := match reshard with
    | some a => s.final a 3 0x20 [0, 0, 0, 0]
    | none => s
  let s := commits.foldl (fun s a => s.final a 4 refState [0]) s
  let s := s.stopSweeps.postHeld
  asks.foldl (fun s a => s.done a []) s

/-- Whether the abort of a cause is a numeric replay (R329). -/
def numericCause (c : Nat) : Bool := c == 2 || c == 3 || c == 4

/-- A layer that would rise from its CEIL (R327). -/
def State.atCeil (s : State) (l : Nat) : Bool := bitsOf (s.record l) 29 27 == bitsOf (s.record l) 35 33

/-- R327, R329: whether these rules stop the job after an abort of `cause`. -/
def State.numericStops (s : State) (cause : Nat) (sieve : List Nat) : Bool :=
  cause != 6 && cause != 7 && ((numericCause cause && decide (s.job.numericLimit < s.job.numericReplays + 1)) ||
    decide (15 ≤ s.job.st.attempt) || sieve.any s.atCeil)

/-- Whether the job stops instead of replaying after an abort of `cause`, given the layers to raise for the sieve. -/
def State.stopsAt (s : State) (cause : Nat) (sieve : List Nat) : Bool :=
  cause == 6 || cause == 7 || (cause == 2 && decide (2 ≤ s.job.st.nans)) ||
  ((cause == 1 || cause == 5) && decide (s.job.st.limit < s.job.taskReplays + 1)) ||
  s.numericStops cause sieve || s.units.stopAtBoundary || s.job.unitStop || !s.job.hostAbort.isEmpty || s.job.hostStop

/-- The cause a job stops with after an abort of `cause`, and the argument that tells it: 2 for a unit's fault (R486), 3 where
R327 or R329 decides the stop, else 1 (notes/assumptions/93). -/
def State.stopReason (s : State) (cause : Nat) : Nat × Nat :=
  if s.units.stopAtBoundary || s.job.unitStop then (1, 2)
  else if !s.job.hostAbort.isEmpty || s.job.hostStop then (7, 1)
  else if cause ≠ 6 ∧ cause ≠ 7 ∧ s.job.raiseSieve.any s.atCeil then (3, 3)
  else (cause, if s.numericStops cause s.job.raiseSieve then 3 else 1)

/-- The package stops the job as the leader has decided. -/
def State.stopAs (cause arg : Nat) (s : State) : State :=
  let s := { s with job := { s.job with unitStop := arg == 2 } }
  (if arg = 3 then s.audit 0x307 s.jobId [] (leBytes 1 cause ++ leBytes 1 s.job.numericReplays) else s).stopJob cause

/-- The leader stops the job: it tells every other package by a further ABORT with the argument (notes/assumptions/93). -/
def State.tellStop (cause arg : Nat) (s : State) : State :=
  (s.packages.filter (· != s.fab.coord)).foldl (fun (s : State) p =>
    s.sendNotice { code := 3, dst := p, cause := cause, epoch := s.job.epoch, attempt := s.job.st.attempt, arg := arg }) s

/-- STEP_SETTLED for the epoch committed last goes out once nothing holds it. -/
def State.trySettle (s : State) : State :=
  if s.isLeader && s.job.settleOwed && s.job.holds.isEmpty && s.job.boundaryWork.all s.job.boundaryDone.contains &&
      (!s.job.resharding || s.everyone s.job.permuteSet) then
    let s := match s.job.reshard with
      | some a => if s.job.resharding then s.final a 0 0 [] else s
      | none => s
    let s := { s with job := { s.job with
      settleOwed := false, boundaryWork := [], boundaryDone := [], reshard := none } }
    if s.job.unitStop then (s.tellStop 1 2).stopAs 1 2
    else s.toAll { code := 8, epoch := s.job.epoch - 1, attempt := s.job.doneAttempts - 1 }
  else s

/-- R250: after every acknowledgement the leader posts the reply to the commit. -/
def State.tryAcked (s : State) : State :=
  if s.isLeader && s.job.commitOwed && s.everyone s.job.ackSet then
    let s := s.postCommitted
    let E := s.job.epoch
    let asks := (s.job.hostCommit.filter fun h => decide (h.2 < E)).map Prod.fst
    let s := { s with job := { s.job with
      hostCommit := s.job.hostCommit.filter fun h => decide (E ≤ h.2), ackSet := [], settleOwed := true } }
    (asks.foldl (fun s a => s.final a 0 0 []) s).trySettle
  else s

/-- When every package has stopped, the leader replays or stops the job. -/
def State.tryReplay (s : State) : State :=
  if s.isLeader && s.job.st.phase == .aborting && s.everyone s.job.stoppedSet then
    let c := s.job.st.lastCause
    if s.stopsAt c s.job.raiseSieve then
      let r := s.stopReason c
      (s.tellStop r.1 r.2).stopAs r.1 r.2
    else
      let bs := setsBytes s.job.raiseOvf s.job.raiseSieve s.job.rescaleNext
      let s := { s with job := { s.job with stoppedSet := [] } }
      s.packages.foldl (fun (s : State) p =>
        s.sendContent { code := 5, dst := p, cause := c, epoch := s.job.epoch, attempt := s.job.st.attempt + 1 } bs) s
  else s

/-! ### Abort (R149, R254, R265, R304) -/

/-- The package reports that it has stopped (R254, R328, R463); cause 1 tells that its boundary stops the job (R480, R486;
notes/assumptions/93). -/
def State.sendStopped (s : State) : State :=
  s.sendContent
    { code := 4, dst := s.leader, cause := b2n s.units.stopAtBoundary, epoch := s.job.epoch, attempt := s.job.st.attempt }
    (setsBytes s.job.raiseOvf s.job.raiseSieve s.job.rescaleNext)

/-- The shard table's entry for a shard; while the package permutes, that of the new layout (R368). -/
def State.shardDecl (s : State) (l n : Nat) : Option ShardDecl :=
  s.shardTable.find? fun h => h.layer == l && h.shard == n

def shardLen (h : ShardDecl) : Nat := 2 * (h.rows * h.cols)

/-- Table 15.8: the sources of a shard with their local address there; `none` is the lender, page by page. -/
def State.repairSources (s : State) (h : ShardDecl) : List (Option (Nat × Nat)) :=
  let owner := (h.owners.map fun p => some (p, h.ownerAddr)).take 1
  let usual := if !s.owns h then owner else (if h.remote then [none] else []) ++ h.replicas.map some
  if s.job.permuting then
    (((s.image Image.shards).find? fun o => o.layer == h.layer && o.shard == h.shard).elim [] fun o =>
      (o.owners.map fun p => some (p, o.ownerAddr)).take 1) ++ usual
  else usual

/-- The stream context of the all-gather that brings a shard here. -/
def State.gatherCtx (s : State) (h : ShardDecl) : Nat × Nat :=
  match (s.image Image.collectives).find? fun c => c.number == h.gather with
  | some c => (c.contexts.getD (c.members.idxOf s.fab.coord) 0, c.task)
  | none => (0, 0)

/-- A shard is read from one source by work of epoch `e`. -/
def State.askShard (h : ShardDecl) (src : Option (Nat × Nat)) (e : Nat) (s : State) : State :=
  let c := s.gatherCtx h
  let hd : Frame := { fkind := 3, stag := s.stepTag e, ctx := c.1, task := c.2 }
  match src with
  | some (p, a) => s.sendReads { hd with dst := p } a (shardLen h) h.addr
  | none =>
    (chunksOf h.addr (shardLen h)).foldl (fun (s : State) c =>
      let p := s.mem.page c.1
      s.sendReads { hd with dst := p.peer, vc := 3 } (p.lpage * frameBytes + c.2.1) c.2.2
        (c.1 * frameBytes + c.2.1)) s

/-- R496: no source of a shard is left.  The shard is lost, and the job stops. -/
def State.loseShard (h : ShardDecl) (s : State) : State :=
  let s := s.faultNotice 0x819 [BitVec.ofNat 32 h.layer, BitVec.ofNat 32 h.shard]
  let s := { s with job := { s.job with st := { s.job.st with shardLost := true } } }
  if s.job.st.phase = .aborting then
    ({ s with job := { s.job with st := { s.job.st with lastCause := 6 } } }).toLeader
      { code := 2, cause := 6, attempt := s.job.st.attempt, epoch := s.job.epoch }
  else s.stepAbort 6

/-- R496, R497: the weight pages of a shard whose lender is lost stand on the owner's copy frames from now on. -/
def State.rehome (h : ShardDecl) (s : State) : State :=
  let one (m : MemState) (n : Nat) : MemState :=
    let p := m.page n
    if p.valid && p.loc == .remote && p.state == .lost && p.copies then
      m.setPage n { p with loc := .home, state := .open_, copies := false, peer := 0, lpage := 0 }
    else m
  { s with mem := ((chunksOf h.addr (shardLen h)).map Prod.fst).foldl one s.mem }

/-- The current weights of a shard here agree with the digest table. -/
def State.weightsStand (s : State) (h : ShardDecl) : Bool :=
  let w : Work := { epoch := s.job.epoch, spec := false, head := { fkind := 3 } }
  let d := shardDigest (s.readRange w h.addr (shardLen h)).1 s.job.epoch
  (s.job.digests.find? fun e => e.1 == h.layer * 65536 + h.shard).any fun e => e.2 == d

/-- DIGEST_REPAIRED: the shard has been repaired from a package. -/
def State.repairedFrom (h : ShardDecl) (src : Nat) (s : State) : State :=
  s.faultNotice 0x818 [BitVec.ofNat 32 h.layer, BitVec.ofNat 32 h.shard, BitVec.ofNat 32 src]

/-- The repair of a shard goes on with its source number `k`; that of a lost lender begins with the copy frames (R497). -/
def State.tryRepair (l n k : Nat) (s : State) : State :=
  let s := { s with job := { s.job with repairing := s.job.repairing.filter fun r => !(r.1 == l && r.2.1 == n) } }
  match s.shardDecl l n with
  | none => s
  | some h =>
    let gone := h.remote && s.mem.lostLenders.contains h.lender
    let s := if gone then s.rehome h else s
    let k := if gone then max k 1 else k
    if gone && k == 1 && s.weightsStand h then s.repairedFrom h s.fab.coord
    else match (s.repairSources h)[k]? with
    | some src => ({ s with job := { s.job with repairing := s.job.repairing ++ [(l, n, k)] } }).askShard h src s.job.epoch
    | none => s.loseShard h

/-- The shards that wait for a boundary are repaired at it (R494 to R496). -/
def State.repairsBegin (s : State) : State :=
  s.job.toRepair.foldl (fun (s : State) r => s.tryRepair r.1 r.2 0)
    { s with job := { s.job with toRepair := [] }, mem := s.mem.restoreCopies }

/-- STOPPED goes out once the boundary work and the repairs of an abort boundary are done (R463). -/
def State.tryStopped (s : State) : State :=
  if s.job.st.phase == .aborting && !s.units.paused && s.units.boundary.isEmpty && s.job.repairing.isEmpty &&
      !s.job.stoppedSent then
    ({ s with job := { s.job with stoppedSent := true } }).sendStopped
  else s

/-- All work of E and E + 1 stops on the arrival of the abort notice. -/
def State.applyAbort (cause : Nat) (s : State) : State :=
  let E := s.job.epoch
  let s := if cause = 2 then s.countNan else s
  let s := s.dropSpec
  let s := (s.stepTasks fun _ => true).foldl (fun s n => s.dropTask n) s
  let s := s.audit 0x205 s.jobId [] (leBytes 1 cause ++ leBytes 1 s.job.st.attempt)
  let reopen (_ : Nat) (p : Page) : Page := if p.valid && p.banked && p.loc != .lent && p.state == .sealed then { p with state := .open_ } else p
  let s := { s with
    mem := { s.mem with pages := mapMap {} reopen s.mem.pages }
    tilth := { s.tilth with
      slices := lentSlices s.tilth.slices, waiting := [], busyTo := [], complete := [], sweeping := [], sweptLayers := []
      directory := s.tilth.directory.filter fun v => v.stamp != E + 1 }
    job := { s.job with
      st := { s.job.st with phase := .aborting, lastCause := cause }, buckets := [], bucketsNext := [], inlets := [], arrivals := []
      rowSums := []
      readySet := [], nextAttempt := 0, abortCause := cause }
    fab := { s.fab with pinned := none } }
  s.repairsBegin.tryStopped

end Sys2Proof.Machine
end

