-- ==== Sys2Proof/Machine/Watch.lean ====
section
/-! DEFINITION. The numerics watch: scale tables, the overflow record and its two policies, the sieve's comparison,
rises and rescales (R306, R310 to R317, R319 to R327, R330, R331). -/

namespace Sys2Proof.Machine

/-! ### Scale tables (R310) -/

/-- The hub's own accesses to the range. -/
def State.hubWork (s : State) : Work :=
  { epoch := s.job.epoch, spec := false, head := { fkind := 1, stag := s.stepTag s.job.epoch } }

/-- A little-endian number read by the hub; 0 where it cannot be read. -/
def State.peek (s : State) (la n : Nat) : Nat := leNat (s.readRange s.hubWork la n).1

def State.poke (la : Nat) (bs : List Byte) (s : State) : State := (s.writeRange s.hubWork la bs).1

/-- Twice an S32 scale, exactly; none when it would not be finite (R313). -/
def doubleS32 (w : Nat) : Option Nat :=
  let e := bitsOf w 30 23
  if 254 ≤ e then none
  else if e = 0 then some (w / 2 ^ 31 * 2 ^ 31 + w % 2 ^ 31 * 2)
  else some (w + 2 ^ 23)

/-- R313 where no held exponent is: the tensor's σ is doubled. -/
def State.raiseSigma (t : TensorDecl) (s : State) : State :=
  match t.sigma with
  | none => s
  | some a =>
    match doubleS32 (s.peek a 4) with
    | some w => (s.poke a (leBytes 4 w)).count 0x0A 1 false
    | none => s.count 9 1 false

/-- R313: one block's held exponent rises by one, to at most 255. -/
def State.raiseBlock (t : TensorDecl) (block : Nat) (s : State) : State :=
  match t.held with
  | some base =>
    if block < t.blocks then (s.poke (base + block) (leBytes 1 (min 255 (s.peek (base + block) 1 + 1)))).count 0x0A 1 false
    else s.raiseSigma t
  | none => s.raiseSigma t

/-- R313 of a tensor marked lost: every held exponent, or σ when it has none. -/
def State.raiseTensor (t : TensorDecl) (s : State) : State :=
  if t.held.isSome && decide (0 < t.blocks) then (List.range t.blocks).foldl (fun (s : State) b => s.raiseBlock t b) s
  else s.raiseSigma t

/-- R318: every held exponent of a layer falls by one, to at least 0. -/
def State.lowerLayer (d : LayerDecl) (s : State) : State :=
  d.tensors.foldl (fun (s : State) t =>
    match t.held with
    | some base => (List.range t.blocks).foldl (fun (s : State) b =>
        (s.poke (base + b) (leBytes 1 (s.peek (base + b) 1 - 1))).count 0x0B 1 false) s
    | none => s) s

/-! ### Policies (R313 to R317) -/

def State.rungOf (s : State) (l : Nat) : Nat := bitsOf (s.record l) 29 27

def State.layerPolicy (s : State) (l : Nat) : Bool := bitOf (s.record l) 26

/-- Whether R313 acts on a layer's entries: BLOCK, or LAYER at its CEIL (R315). -/
def State.blockRule (s : State) (l : Nat) : Bool := !s.layerPolicy l || s.atCeil l

/-- What one raise concerns: a lost tensor as a whole, a block with a held exponent, or a σ. -/
def raiseKey (d : LayerDecl) (lost : List (Nat × Nat)) (e : OvfEntry) : Option (TensorDecl × Option Nat) :=
  (d.tensors.find? fun t => t.tensor == e.tensor).bind fun t =>
    if lost.contains (e.layer, e.tensor) then none
    else if t.held.isSome && decide (e.block < t.blocks) then some (t, some e.block) else some (t, none)

/-- R313 and R317 for one layer: every entry that `p` picks and that has not been applied, each block, σ or lost tensor
once. -/
def State.applyLayer (l : Nat) (p : OvfEntry → Bool) (s : State) : State :=
  let pick (e : OvfEntry × Bool) : Bool := !e.2 && e.1.layer == l && !e.1.spec && decide (e.1.kind ≤ 1) && p e.1
  let es := (s.num.overflow.filter pick).map Prod.fst
  let lost := s.num.lost.filter fun x => x.1 == l
  let s' := match s.layerDecl l with
    | none => s
    | some d =>
      if s.blockRule l then
        let keys := (es.filterMap (raiseKey d lost)).eraseDups
        let s := keys.foldl (fun (s : State) (k : TensorDecl × Option Nat) =>
          match k.2 with
          | some b => s.raiseBlock k.1 b
          | none => s.raiseSigma k.1) s
        lost.foldl (fun (s : State) (x : Nat × Nat) =>
          match d.tensors.find? fun (t : TensorDecl) => t.tensor == x.2 with
          | some t => s.raiseTensor t
          | none => s) s
      else s
  { s' with num := { s'.num with
    overflow := s.num.overflow.map fun e => if pick e then (e.1, true) else e
    lost := s.num.lost.filter fun x => x.1 != l } }

/-- The application point at the end of a layer's update (R317, R318). -/
def State.applyAtSeal (l : Nat) (s : State) : State :=
  let E := s.job.epoch
  let s := s.applyLayer l fun e => decide (e.epoch ≤ E)
  if s.num.relaxes.contains (l, E) then
    let s := match s.layerDecl l with
      | some d => s.lowerLayer d
      | none => s
    { s with num := { s.num with relaxes := s.num.relaxes.filter fun x => x != (l, E) } }
  else s

/-- The application point of an abort: entries of the aborted attempt (R317). -/
def State.applyAtAbort (s : State) : State :=
  let E := s.job.epoch
  let a := s.job.st.attempt
  ((s.image Image.layers).map LayerDecl.layer).foldl (fun (s : State) l =>
    s.applyLayer l fun e => e.epoch == E && e.attempt == a) s

/-- A layer rises one rung (R314, R327, R330). -/
def State.riseLayer (cause l : Nat) (s : State) : State :=
  let r := s.rungOf l
  match (if s.atCeil l then none else wider r) with
  | some r' => ((s.setRecord l 29 27 r').setRecord l 25 18 0).audit 0x301 l (leBytes 1 r) (leBytes 1 r' ++ leBytes 1 cause)
  | none => s

/-! ### OVERFLOW_ENTRY (R311 to R316) -/

/-- An entry names work that runs: attempt a of E, or speculative work of E + 1. -/
def State.entryLive (s : State) (e : OvfEntry) : Bool :=
  s.jobRuns && decide (e.kind ≤ 2) &&
  (if e.spec then e.epoch == s.job.epoch + 1 && e.attempt == s.job.nextAttempt
   else e.epoch == s.job.epoch && e.attempt == s.job.st.attempt)

/-- The entry enters the record, or is counted lost when its attempt has 16,384. -/
def State.enterOvf (e : OvfEntry) (s : State) : State :=
  let n := (s.num.overflow.filter fun x => x.1.epoch == e.epoch && x.1.attempt == e.attempt).length
  if n < 16384 then
    ({ s with num := { s.num with overflow := s.num.overflow ++ [(e, false)] } }).count 7 1 e.spec
  else
    let s := s.count 8 1 e.spec
    if e.kind = 2 then s
    else if e.spec then { s with num := { s.num with lostNext := pairInsert s.num.lostNext (e.layer, e.tensor) } }
    else { s with num := { s.num with lost := pairInsert s.num.lost (e.layer, e.tensor) } }

/-- The policy of the entry's layer. -/
def State.ovfPolicy (e : OvfEntry) (s : State) : State :=
  let l := e.layer
  if e.kind = 2 then
    (s.auditWork e.spec 0x306 l [] (leBytes 8 (e.block * 2048))).count 0x0C 1 e.spec
  else if !s.rungLayers.contains l || !s.layerPolicy l then s
  else if s.atCeil l then
    let key := 2 * l + b2n e.spec
    if s.num.topLogged.contains key then s
    else ({ s with num := { s.num with topLogged := s.num.topLogged ++ [key] } }).auditWork e.spec 0x305 l []
      (leBytes 1 e.tensor ++ leBytes 1 (s.rungOf l))
  else
    let s := s.auditWork e.spec 0x309 l [] (leBytes 1 e.tensor ++ leBytes 1 (s.rungOf l))
    let s := s.passFc 1
    if e.spec then s.specCause 4
    else
      ({ s with job := { s.job with
        st := { s.job.st with ovfPending := true }, raiseOvf := setInsert s.job.raiseOvf l } }).stepAbort 4

/-- R51, R311: the limited block that an entry reports leaves the tile whose conversion met it, or the tilth units; none when no
such block is on its way. -/
def State.takeLimited (o : OvfIn) (s : State) : Option State :=
  let n := min 255 o.entry.count
  if o.entry.kind = 2 then
    let k := (o.entry.layer, o.entry.block, n)
    if s.num.saturated.contains k then some { s with num := { s.num with saturated := s.num.saturated.erase k } } else none
  else
    let s := s.runTo o.tile s.fc
    let k := (o.entry.spec, n)
    if (s.tile o.tile).limited.contains k then some (s.modTile o.tile fun t => { t with limited := t.limited.erase k })
    else none

/-- OVERFLOW_ENTRY: an entry reaches the record (R311, R312), and its layer's policy acts on it. -/
def execOverflowEntry (o : OvfIn) (s : State) : Host.Outcome State Fault Refusal :=
  .next (if s.entryLive o.entry then
    match s.takeLimited o with
    | none => s
    | some s =>
      let e := { o.entry with rung := s.rungOf o.entry.layer, count := min 255 o.entry.count }
      (s.enterOvf e).ovfPolicy e
  else s)

/-! ### The sieve (R321 to R325) -/

/-- The 1,024 S32 elements of an entry, in order. -/
def State.sieveElems (s : State) (w : Work) (la : Nat) : List Val :=
  (cutData 4 1025 (s.readRange w la 4096).1).map fun b => decodeBinary .s32 (leNat b)

/-- A sum of magnitudes rounded once to S32 by RNE (R321). -/
def sumS32 (vs : List Val) : Val :=
  match exactSum false (vs.map Val.abs) with
  | .fin _ m e => decodeBinary .s32 (roundBinary .s32 .rne false 0 ⟨m, e, false⟩).1
  | v => v

/-- N and W of a pair (R321). -/
def sieveSums (n w : List Val) : Val × Val :=
  (sumS32 ((n.zip w).map fun p => exactSum false [p.1, p.2.negate]), sumS32 w)

/-- R322: 65,536 × N > THETA × W, compared exactly. -/
def sieveOver (theta : Nat) (N W : Val) : Bool :=
  match N, W with
  | .fin _ m e, .fin _ m' e' =>
    let k := min (e + 16) e'
    decide ((theta * m') <<< (e' - k).toNat < m <<< (e + 16 - k).toNat)
  | _, _ => true

def pairFails (theta : Nat) (n w : List Val) : Bool :=
  !((n ++ w).all Val.isFinite) || sieveOver theta (sieveSums n w).1 (sieveSums n w).2

/-- The two handles of a pair in the sieve's ring: the narrow entry's, and the wider one's with TAG bit [29] set. -/
def State.sieveHandles (s : State) (ring : Nat) (spec : Bool) : Option (HandleIn × HandleIn) :=
  let hs := (s.handles ring).filter fun h => h.word.getLsbD 31 == spec
  match hs.find? fun h => !h.word.getLsbD 29, hs.find? fun h => h.word.getLsbD 29 with
  | some a, some b => some (a, b)
  | _, _ => none

/-- Two handles leave a ring that the hub consumes. -/
def State.dropHandles (r : Nat) (a b : HandleIn) (s : State) : State :=
  let d := s.ring r
  let s := s.setRing r { d with head := (d.head + 2) % 2 ^ 17 }
  { s with rs := { s.rs with handles := mapSet [] s.rs.handles r (((s.handles r).erase a).erase b) } }

/-- R321, R323: the comparator of the die that posted the wider entry's handle takes the pair, no sooner than 128 fc after its
last; 392 fc later the result is known. -/
def State.compared (r : Nat) (a b : HandleIn) (s : State) : State :=
  let die := b.poster / 512
  let start := max (max a.at_ b.at_) (mapGet 0 s.num.comparators die)
  let s := { s with num := { s.num with comparators := mapSet 0 s.num.comparators die (start + 128) } }
  (s.dropHandles r a b).toFc (start + 392)

/-- A pair of E or of E + 1 has passed: the verdict is clean in the next fc once every expected pair has (R325). -/
def State.pairPasses (l : Nat) (spec : Bool) (s : State) : State :=
  if spec then
    { s with num := { s.num with passedNext := mapSet 0 s.num.passedNext l (mapGet 0 s.num.passedNext l + 1) } }
  else
    let s := { s with num := { s.num with passed := mapSet 0 s.num.passed l (mapGet 0 s.num.passed l + 1) } }
    if s.pairsMet s.num.passed && !s.job.st.sieveFail then
      let s := s.passFc 1
      { s with job := { s.job with st := { s.job.st with sieveClean := true } } }
    else s

/-- A pair has failed (R324, R325 to R327). -/
def State.pairFailed (l output : Nat) (N W : Val) (spec : Bool) (s : State) : State :=
  let code (v : Val) : List Byte := leBytes 4 (roundVal .s32 .rne 0 v).1
  let s := s.countSource 2 4 0 0x0304 l 1 spec
  let s := s.auditWork spec 0x303 l [] (leBytes 4 output ++ code N ++ code W ++ leBytes 2 (bitsOf (s.record l) 63 48))
  if spec then (s.passFc 1).specCause 3
  else
    let f := min 3 (bitsOf (s.record l) 17 16 + 1)
    let s := s.setRecord l 17 16 f
    let job := { s.job with
      st := { s.job.st with sieveFail := true }
      rescaleNext := if f = 1 then setInsert s.job.rescaleNext l else setErase s.job.rescaleNext l
      raiseSieve := if 2 ≤ f then setInsert s.job.raiseSieve l else s.job.raiseSieve }
    (({ s with job := job }).passFc 1).stepAbort 3

/-- SIEVE_PAIR_RESULT: both handles of the pair are in the sieve's ring, and the result is known 392 fc after the second
of them (R323). -/
def execSievePairResult (layer output narrow wide : Nat) (next : Bool) (s : State) :
    Host.Outcome State Fault Refusal :=
  .next (match (s.layerDecl layer).bind LayerDecl.sieve with
    | none => s
    | some v =>
      match s.sieveHandles v.ring next with
      | none => s
      | some (a, b) =>
        if s.job.st.phase ≠ .running then s
        else
          let s := s.compared v.ring a b
          let w := { s.hubWork with epoch := if next then s.job.epoch + 1 else s.job.epoch, spec := next }
          let n := s.sieveElems w narrow
          let x := s.sieveElems w wide
          let s := s.countSource 2 4 0 0x0303 layer 1 next
          if pairFails (bitsOf (s.record layer) 63 48) n x then
            s.pairFailed layer output (sieveSums n x).1 (sieveSums n x).2 next
          else s.pairPasses layer next)

/-! ### RESCALE (R326) -/

/-- The format of a rung (Table 10.1). -/
def rungFmt (r : Nat) : Fmt :=
  match r with
  | 0 => .k1 | 1 => .k2 | 2 => .k4 | 3 => .k6 | 4 => .k8 | 5 => .f8 | _ => .w16

/-- One tensor's scales from its present contents: σ by R38, and each held exponent by R34 or R35 over its block. -/
def State.rescaleTensor (f : Fmt) (t : TensorDecl) (s : State) : State × Nat :=
  let src := Fmt.ofCode t.srcFmt
  let bs := (s.readRange s.hubWork t.addr (2 * t.elems)).1
  let vs := (cutData 2 (t.elems + 1) bs).map fun b => decodeBinary src (leNat b)
  let sig := (pinSigma f (maxFinite vs)).1
  let s := match t.sigma with
    | some a => s.poke a (leBytes 4 sig)
    | none => s
  match t.held with
  | none => (s, 0)
  | some base =>
    (List.range t.blocks).foldl (fun (acc : State × Nat) b =>
      let blk := (vs.drop (b * t.bsize)).take t.bsize
      let x := if f = .k1 then chooseXK1 (sigmaOf (BitVec.ofNat 32 sig)) blk else chooseX f (sigmaOf (BitVec.ofNat 32 sig)) blk
      let old := acc.1.peek (base + b) 1
      (acc.1.poke (base + b) (leBytes 1 x), if old = x then acc.2 else acc.2 + 1)) (s, 0)

/-- RESCALE: the rescale task of a layer that is due writes the scale table and ends. -/
def execRescale (layer : Nat) (s : State) : Host.Outcome State Fault Refusal :=
  .next (match s.layerDecl layer with
    | none => s
    | some d =>
      if !s.job.rescale.contains layer || s.job.st.phase != .running then s
      else
        let r := d.tensors.foldl (fun (acc : State × Nat) t =>
          let x := acc.1.rescaleTensor (rungFmt (s.rungOf layer)) t
          (x.1, acc.2 + x.2)) (s, 0)
        let s := { r.1 with job := { r.1.job with rescale := setErase r.1.job.rescale layer } }
        s.audit 0x304 layer [] (leBytes 4 d.tensors.length ++ leBytes 4 r.2))

end Sys2Proof.Machine
end

