-- ==== Sys2Proof/Machine/StepRows.lean ====
section
/-! DEFINITION. Jobs and steps as commands and notices: JOB_END, STEP_RUN and its companions, TASK_RUN, RESHARD, and the
notices of the fabric on the leader and on every package (R246 to R269, R318, R326 to R330, R364 to R369, R393, R445, R449,
R450, R462). -/

namespace Sys2Proof.Machine

/-! ### JOB_END, STEP_STATUS, TASK_RUN -/

/-- A RESHARD that ends by R369. -/
def State.cancelReshard (s : State) : State :=
  match s.job.reshard with
  | none => s
  | some a =>
    let s := { s with job := { s.job with reshard := none } }
    if (s.aux a.ring).current = some a then s.answer a 3 0x20 [0, 0, 0, 0] else s.final a 3 0x20 [0, 0, 0, 0]

/-- R393: changes deferred to a commit take effect; a pending RESHARD ends by R369; changes deferred to other points are
refused, for their point never comes (notes/assumptions/33). -/
def State.settleJob (s : State) : State :=
  let due (d : Deferred) : Bool := d.kind == 1
  let now := s.job.deferred.filter due
  let s := { s with job := { s.job with deferred := s.job.deferred.filter fun d => !due d } }
  let s := now.foldl (fun s d => s.changeDue d) s
  (s.refuseDeferred).cancelReshard

/-- JOB_END (R371, R393). -/
def State.finishJob (c : Cmd) (s : State) : State :=
  let s := s.settleJob
  ((s.auditFor c.ask 0x202 c.object s.job.imageDigest []).endJob).done c.ask []

def execJobEnd (ring : Nat) (s : State) : Host.Outcome State Fault Refusal :=
  ok (s.command 0x41 ring fun c s =>
    paramOr c [] true (decide (c.object < 2 ^ 32)) (fun s =>
      if !s.jobRuns || s.runActive || c.object != s.jobId then s.refuse c.ask refState else s.finishJob c) s)

/-- BOUNDARY_DONE of the step committed last; with argument 1 this package's boundary stops the job (R480, R486;
notes/assumptions/93). -/
def State.boundaryDone (s : State) : State :=
  s.toLeader { code := 0x10, epoch := s.job.epoch - 1, attempt := s.job.doneAttempts - 1, arg := b2n s.units.stopAtBoundary }

/-- R477, R478: a package whose image is of the degraded class now reports that its boundary is over. -/
def State.pauseEnds (s : State) : State :=
  if s.job.st.phase = .aborting then s.tryStopped
  else if s.job.commitOwed || s.job.settleOwed then s.boundaryDone
  else s

def execImageLoad (ring : Nat) (image : Option Image) (s : State) : Host.Outcome State Fault Refusal :=
  ok (s.command 0x40 ring fun c s =>
    paramOr c [(16, 1), bufBytes] false (decide (c.p 16 1 < 2)) (fun s =>
      if s.jobRuns != (c.p 16 1 == 1) then s.refuse c.ask refState
      else
        let d := sha3 (Config.signedSections (s.hostRead c.bufAddr c.bufLen))
        s.setAux ring { s.aux ring with current := some c.ask, work := some (.load image d), slices := 1 }) s)

def phaseCode : StepPhase → Nat
  | .idle => 0 | .running => 1 | .ready => 2 | .committing => 3 | .aborting => 4 | .stopped => 5

/-- Speculative work runs: a part of a task of E + 1 that is no unit work, which waits for the commit (R261). -/
def State.specWork (s : State) : Bool :=
  (s.stepTasks Task.spec).any fun n =>
    (s.taskDecl n).any fun d =>
      (taskKeys d).any (fun t => !(s.task n).ended.contains t) || (s.ctxsOf n).any fun c => (s.ctx c).state == .active

/-- The step status record, Table 8.3. -/
def State.statusRecord (s : State) : List Byte :=
  let t := s.job.st
  leBytes 32 (packBits [(0, 48), (t.lastTask, 16), (0, 8), (t.commitSc, 48), (t.lastCause, 8), (t.flags.toNat, 8),
    (t.singular, 16), (t.recvPending, 16), (t.layersPending, 16), (t.limit, 4), (t.depth, 1), (b2n t.mode, 1),
    (b2n t.shardLost, 1), (b2n t.sieveFail, 1), (b2n t.sieveClean, 1), (b2n t.ovfPending, 1), (b2n t.nanSeen, 1),
    (b2n s.specWork, 1), (t.nans, 4), (phaseCode t.phase, 4), (t.attempt, 4), (s.job.epoch, 48)])

/-- STEP_STATUS (R252). -/
def execStepStatus (ring : Nat) (s : State) : Host.Outcome State Fault Refusal :=
  ok (s.command 0x45 ring fun c s =>
    paramOr c [bufBytes] false true (fun s => s.answerRecord c s.statusRecord []) s)

/-- A command stays in progress on its ring. -/
def State.keep (a : Ask) (s : State) : State := s.setAux a.ring { s.aux a.ring with current := some a }

/-- h of R449 in µs, from the last two commits; 0 while no hold is needed or none can be computed. -/
def State.holdTime (s : State) : Nat :=
  let p := s.pow
  if !p.unmet || p.prevCommit == 0 || p.stepSc == 0 then 0
  else
    let draw := p.stepUj * 25 / p.stepSc
    let lim := 99 * s.peff
    if lim ≤ 100 * p.pIdle then 60000000
    else min 60000000 (ceilDiv (p.stepSc * (100 * draw - lim)) (25 * (lim - 100 * p.pIdle)))

/-- R450: outside a run, the start of a task waits until h after the end of the task before it. -/
def State.taskHold (s : State) : State :=
  if s.runActive || s.pow.taskEnd == 0 then s else s.toSc (s.pow.taskEnd - 1 + 25 * s.holdTime)

/-- TASK_RUN (R204, R254, R450): the task belongs to no epoch. -/
def execTaskRun (ring : Nat) (s : State) : Host.Outcome State Fault Refusal :=
  ok (s.command 0x46 ring fun c s =>
    paramOr c [] true (decide (c.object < 2 ^ 16)) (fun s =>
      match s.taskDecl c.object with
      | none => s.refuse c.ask refState
      | some d =>
        let p := (s.task c.object).phase
        if d.step || p == .running || p == .aborting then s.refuse c.ask refState
        else
          (s.taskHold.startTask d { step := false, epoch := s.job.epoch, attempt := s.job.st.attempt, ask := some c.ask }).keep
            c.ask) s)

/-! ### STEP_RUN, STEP_COMMIT, STEP_ABORT -/

/-- STEP_RUN is accepted: epoch E starts at attempt 0, with NANS and every SFAIL cleared (R257, R328). -/
def State.runStart (c : Cmd) (s : State) : State :=
  let n := c.p 16 8
  let s := s.auditFor c.ask 0x203 s.jobId [] (c.packet.drop 16)
  let first := s.job.doneAttempts = 0
  let pow := if first then { s.pow with markUj := s.pow.energy[0], markSc := s.sc } else s.pow
  let st := { s.job.st with
    mode := c.p 24 1 == 1, depth := c.p 25 1, limit := c.p 26 1, nans := 0 }
  let s := { s with
    pow := pow
    job := { s.job with
      run := some { ask := c.ask, left := if n = 0 then none else some n }, st := st, numericReplays := 0
      taskReplays := 0, nansNext := 0, rescale := [], raiseOvf := [], raiseSieve := [], specHold := false }
    num := { s.num with sampleSix := [], named := [] } }
  let s := s.rungLayers.foldl (fun (s : State) l => s.setRecord l 17 16 0) s
  ((s.epochStarts s.job.epoch false).startAttempt 0 false).keep c.ask

/-- STEP_RUN (R255, R308); `agree`: the layer records of all packages agree. -/
def execStepRun (ring : Nat) (agree : Bool) (s : State) : Host.Outcome State Fault Refusal :=
  ok (s.command 0x42 ring fun c s =>
    let good := decide (c.object < 2 ^ 32) && decide (c.p 24 1 ≤ 1) && decide (c.p 25 1 ≤ 1) && decide (c.p 26 1 ≤ 15)
    paramOr c [(16, 11)] true good (fun s =>
      if !s.jobRuns || c.object != s.jobId || s.runActive || !agree || s.units.paused then s.refuse c.ask refState
      else s.runStart c) s)

/-- STEP_COMMIT (R251): answered DEFERRED, and DONE when R250 posts. -/
def execStepCommit (ring : Nat) (s : State) : Host.Outcome State Fault Refusal :=
  ok (s.command 0x43 ring fun c s =>
    paramOr c [(16, 6)] false true (fun s =>
      if !s.runActive || !s.job.st.mode || !s.isLeader || c.p 16 6 != s.job.epoch then s.refuse c.ask refState
      else
        let s := s.answer c.ask 1 0 (1 :: wordsOf 2 s.job.epoch)
        ({ s with job := { s.job with hostCommit := s.job.hostCommit ++ [(c.ask, s.job.epoch)] } }).tryCommit) s)

/-- STEP_ABORT of the host: the request goes to the leader, whatever this package has sent (R254, R257). -/
def execStepAbort (ring : Nat) (s : State) : Host.Outcome State Fault Refusal :=
  ok (s.command 0x44 ring fun c s =>
    paramOr c [] false true (fun s =>
      if !s.runActive || (s.isLeader && s.job.st.phase == .committing) then s.refuse c.ask refState
      else
        let s := ({ s with job := { s.job with hostAbort := s.job.hostAbort ++ [c.ask] } }).keep c.ask
        s.toLeader { code := 2, cause := 7, epoch := s.job.epoch, attempt := s.job.st.attempt }) s)

/-! ### STEP_READY (R246, Table 8.2) -/

/-- Every task of the attempt has ended here, those of the order lists too. -/
def State.tasksEnded (s : State) : Bool :=
  let E := s.job.epoch
  let a := s.job.st.attempt
  (s.stepTasks fun t => !t.spec).isEmpty &&
    (s.stepDecls.all fun d =>
      let k := s.task d.task
      (k.phase == .ended && k.epoch == E && k.attempt == a) || (k.step && k.epoch == E + 1)) &&
    (s.image Image.orders).all fun o => decide (o.2.length ≤ mapGet 0 s.job.order o.1)

def State.readyToCommit (s : State) : Bool :=
  let t := s.job.st
  t.phase == .running && s.tasksEnded && t.layersPending == 0 && t.recvPending == 0 && t.sieveClean && !t.nanSeen &&
    !t.ovfPending && !t.shardLost && s.job.rescale.isEmpty && s.job.abortCause == 0

/-- R449: POWER_HOLD of epoch `E` has been sent. -/
def State.holdSentFor (E : Nat) (s : State) : State := { s with pow := { s.pow with holdSent := some E } }

/-- STEP_READY goes to the leader, with BOUNDARY_WORK when boundary work is pending (R462) and POWER_HOLD when a hold is
needed (R449). -/
def execStepReady (s : State) : Host.Outcome State Fault Refusal :=
  ok (if s.readyToCommit then
    let E := s.job.epoch
    let a := s.job.st.attempt
    let s := { s with
      job := { s.job with st := { s.job.st with phase := .ready } }
      pow := { s.pow with readyFc := s.fc } }
    let s := s.toLeader { code := 1, epoch := E, attempt := a }
    let s := if s.units.boundary.isEmpty then s
      else ({ s with units := { s.units with boundarySent := true, boundaryDue := s.units.boundary } }).toLeader
        { code := 0x0F, epoch := E, attempt := a, arg := b2n (s.units.boundary.any BoundaryItem.narrows) }
    let h := s.holdTime
    if h = 0 || s.pow.holdSent == some E then s
    else
      ((s.setPstat 2).holdSentFor E).toLeader
        { code := 0x0E, epoch := E, attempt := a, arg := h }
  else s)

/-! ### Notices -/

/-- STEP_READY reaches the leader (R248). -/
def execStepReadyNotice (src : Nat) (s : State) : Host.Outcome State Fault Refusal :=
  ok (s.withNotice 1 src (fun n _ s =>
    ({ s with job := { s.job with readySet := setInsert s.job.readySet n.src } }).tryCommit))

/-- COMMIT reaches a package (R148, R248, R264). -/
def execCommitNotice (src : Nat) (s : State) : Host.Outcome State Fault Refusal :=
  ok (s.withNotice 6 src (fun n _ s => if n.epoch = s.job.epoch then s.applyCommit else s))

/-- COMMIT_ACK reaches the leader (R250). -/
def execCommitAckNotice (src : Nat) (s : State) : Host.Outcome State Fault Refusal :=
  ok (s.withNotice 7 src (fun n _ s =>
    ({ s with job := { s.job with ackSet := setInsert s.job.ackSet n.src } }).tryAcked))

/-- The hold of R450 ends: its mean draw is metered, and the units of the image are ACTIVE. -/
def State.holdEnds (s : State) : State :=
  if s.pow.hold then
    let d := (s.sc + 2 ^ 48 - s.pow.markSc) % 2 ^ 48
    let mean := if d = 0 then s.pow.pIdle else (s.pow.energy[0] - s.pow.markUj) * 25 / d
    let s := s.imageUnits.foldl (fun (s : State) u =>
      match s.unitPower u with
      | .nap | .waking _ _ [] [] => s.setUnit u .active
      | _ => s) s
    { s with pow := { s.pow with hold := false, pIdle := mean } }
  else s

/-- The reshard is over: the standby image is the package's image (R367). -/
def State.reshardEnds (s : State) : State :=
  if s.job.resharding then
    let old := s.job.imageDigest
    let s := (s.takeStandby).audit 0x209 s.jobId old s.job.standbyDigest
    { s with job := { s.job with resharding := false, permuting := false, received := [] } }
  else s

/-- STEP_SETTLED reaches a package: a hold ends, the last commit of the run ends it, and a held attempt starts (R250, R260,
R366, R367, R450). -/
def State.applySettled (n : Notice) (s : State) : State :=
  let s := { s with job := { s.job with settled := n.epoch + 1, specHold := false, powerHold := false } }
  let s := (s.holdEnds).reshardEnds
  let s := if s.isLeader then s else s.postCommitted
  match s.job.run with
  | none => s
  | some r =>
    if r.left = some 0 then
      let s := s.audit 0x204 s.jobId [] (leBytes 1 0 ++ leBytes 6 s.job.epoch)
      ({ s with job := { s.job with run := none, st := { s.job.st with phase := .idle } } }).done r.ask []
    else if s.job.st.phase = .committing ∧ n.epoch + 1 = s.job.epoch then
      (s.epochStarts s.job.epoch false).startAttempt s.job.nextAttempt false
    else s

def execStepSettledNotice (src : Nat) (s : State) : Host.Outcome State Fault Refusal :=
  ok (s.withNotice 8 src (fun n _ s => s.applySettled n))

/-- STEP_ABORT reaches the leader: on the first request for the attempt the abort notice goes to every package; a request
of the host that comes later still stops the job (R254, R257). -/
def execStepAbortNotice (src : Nat) (s : State) : Host.Outcome State Fault Refusal :=
  ok (s.withNotice 2 src (fun n _ s =>
    let p := s.job.st.phase
    let busy := p == .running || p == .ready
    if !s.isLeader then s
    else if n.epoch = s.job.epoch + 1 then
      if busy && !s.job.abortSent && !s.job.abortNextSent then
        ({ s with job := { s.job with abortNextSent := true } }).toAll
          { code := 3, cause := n.cause, epoch := n.epoch, attempt := n.attempt }
      else s
    else if busy && !s.job.abortSent then
      ({ s with job := { s.job with abortSent := true, hostStop := n.cause == 7 } }).toAll
        { code := 3, cause := n.cause, epoch := s.job.epoch, attempt := s.job.st.attempt }
    else if s.job.abortSent && n.cause == 7 then { s with job := { s.job with hostStop := true } }
    else if s.job.abortSent && n.cause == 6 then
      { s with job := { s.job with st := { s.job.st with lastCause := 6 } } }
    else if s.job.abortSent && n.cause == 2 then s.countNan
    else s))

/-- The abort notice reaches a package (R254); with an argument, that the leader has stopped the job (R255, R269;
notes/assumptions/93). -/
def execAbortNotice (src : Nat) (s : State) : Host.Outcome State Fault Refusal :=
  ok (s.withNotice 3 src (fun n _ s =>
    if n.arg ≠ 0 then (if s.runActive then s.stopAs n.cause n.arg else s)
    else if s.job.st.phase = .running ∨ s.job.st.phase = .ready then
      if n.epoch = s.job.epoch + 1 then s.applyNextAbort n.cause else s.applyAbort n.cause
    else s))

/-- STOPPED reaches the leader with the sender's layer sets (R328). -/
def execStoppedNotice (src : Nat) (s : State) : Host.Outcome State Fault Refusal :=
  ok (s.withNotice 4 src (fun n bs s =>
    let x := setsOf bs
    ({ s with job := { s.job with
      unitStop := s.job.unitStop || n.cause == 1
      stoppedSet := setInsert s.job.stoppedSet n.src, raiseOvf := x.1.foldl setInsert s.job.raiseOvf
      raiseSieve := x.2.1.foldl setInsert s.job.raiseSieve, rescaleNext := x.2.2.foldl setInsert s.job.rescaleNext } }).tryReplay))

/-- STEP_REPLAY reaches a package: the acts of R330 in their order, the SLICED reply of R255, and the next attempt. -/
def State.applyReplay (bs : List Byte) (s : State) : State :=
  let c := s.job.st.lastCause
  let x := setsOf bs
  let s := s.applyAtAbort
  let s := x.1.foldl (fun (s : State) l => s.riseLayer 4 l) s
  let s := (x.2.1.filter fun l => !x.1.contains l).foldl (fun (s : State) l => s.riseLayer 3 l) s
  let num := if numericCause c then s.job.numericReplays + 1 else s.job.numericReplays
  let tasks := if c = 1 ∨ c = 5 then s.job.taskReplays + 1 else s.job.taskReplays
  let s := if numericCause c then s.countSource 2 4 0 0x0305 c 1 false else s
  let s := match s.job.run with
    | some r => s.reply r.ask 2 0x11 (s.stepRecord c)
    | none => s
  let s := { s with
    job := { s.job with
      numericReplays := num, taskReplays := tasks, raiseOvf := [], raiseSieve := [], rescale := x.2.2 }
    num := { s.num with sampleSix := x.2.2, named := (x.1 ++ x.2.1 ++ x.2.2).foldl setInsert s.num.named } }
  s.startAttempt (s.job.st.attempt + 1) false

def execStepReplayNotice (src : Nat) (s : State) : Host.Outcome State Fault Refusal :=
  ok (s.withNotice 5 src (fun n bs s =>
    if s.job.st.phase = .aborting ∧ n.attempt = s.job.st.attempt + 1 then s.applyReplay bs else s))

/-- TASK_ABORT reaches a package: the task's parts there abort (R202). -/
def execTaskAbortNotice (src : Nat) (s : State) : Host.Outcome State Fault Refusal :=
  ok (s.withNotice 9 src (fun n _ s =>
    s.taskAborts n.task s.fc { cause := 0x0C, die := 4, tile := 0x1FF, pkg := n.src } false))

/-- SPEC_HOLD reaches a package: it starts no further work of E + 1.  The argument tells a hold for a reshard from one for
power (notes/assumptions/32); with no run active a reshard's permutation starts at once (R366). -/
def execSpecHoldNotice (src : Nat) (s : State) : Host.Outcome State Fault Refusal :=
  ok (s.withNotice 0x0C src (fun n _ s =>
    let s := { s with job := { s.job with
      specHold := s.runActive, resharding := s.job.resharding || n.arg == 1, powerHold := s.job.powerHold || n.arg == 2 } }
    let s := { s with units := { s.units with classHold := s.units.classHold || n.arg == 4 } }
    if n.arg = 1 ∧ !s.runActive then s.startPermutation else s))

/-- POWER_HOLD reaches the leader: the first of the epoch brings SPEC_HOLD (R450). -/
def execPowerHoldNotice (src : Nat) (s : State) : Host.Outcome State Fault Refusal :=
  ok (s.withNotice 0x0E src (fun n _ s =>
    let first := s.job.holds.isEmpty
    let s := { s with job := { s.job with holds := s.job.holds ++ [(n.src, n.arg)] } }
    if first then s.sendHold 2 else s))

/-- BOUNDARY_WORK reaches the leader (R462).  Its argument 1 tells that the sender's timing class changes: every package then
takes part in the boundary (R477; notes/assumptions/32). -/
def execBoundaryWorkNotice (src : Nat) (s : State) : Host.Outcome State Fault Refusal :=
  ok (s.withNotice 0x0F src (fun n _ s =>
    let who := if n.arg = 1 then s.packages.foldl setInsert s.job.boundaryWork else setInsert s.job.boundaryWork n.src
    ({ s with job := { s.job with boundaryWork := who } }).sendHold (if n.arg = 1 then 4 else 3)))

/-- BOUNDARY_DONE reaches the leader (R462). -/
def execBoundaryDoneNotice (src : Nat) (s : State) : Host.Outcome State Fault Refusal :=
  ok (s.withNotice 0x10 src (fun n _ s =>
    ({ s with job := { s.job with
      boundaryDone := setInsert s.job.boundaryDone n.src, unitStop := s.job.unitStop || n.arg == 1 } }).trySettle))

/-- The leader, once every package has permuted: after a commit R367 lets STEP_SETTLED go; with no run active the RESHARD
is answered at once (R366). -/
def State.tryPermuted (s : State) : State :=
  if s.runActive || s.job.settleOwed then s.trySettle
  else if s.isLeader && s.everyone s.job.permuteSet then
    match s.job.reshard with
    | none => s
    | some a =>
      let s := { s with job := { s.job with reshard := none, permuteSet := [] } }
      (s.toAll { code := 8, epoch := s.job.epoch, attempt := s.job.st.attempt }).answer a 0 0 []
  else s

/-- PERMUTE_DONE reaches the leader (R367). -/
def execPermuteDoneNotice (src : Nat) (s : State) : Host.Outcome State Fault Refusal :=
  ok (s.withNotice 0x0D src (fun n _ s =>
    ({ s with job := { s.job with permuteSet := setInsert s.job.permuteSet n.src } }).tryPermuted))

/-! ### Speculation and holds -/

/-- Speculative work of a task may start: the next bank of every layer it reads is sealed here, and nothing holds or has
stopped the work of E + 1 (R258, R260, R266, R366). -/
def State.specOpen (d : TaskDecl) (s : State) : Bool :=
  let st := s.job.st
  let E := s.job.epoch
  d.step && st.depth == 1 && (s.job.run.any fun r => r.left != some 1) && (st.phase == .running || st.phase == .ready) &&
    !s.job.specHold && (E == 0 || decide (E ≤ s.job.settled)) && d.layers.all s.job.sealed.contains &&
    s.job.nextAttempt == 0 && s.job.abortNext == 0

/-- A task starts for E + 1; the first one begins that epoch's first attempt. -/
def State.startSpec (d : TaskDecl) (s : State) : State :=
  let E := s.job.epoch
  let s := if s.job.st.specRun then s else s.epochStarts (E + 1) true
  let s := { s with job := { s.job with st := { s.job.st with specRun := true } } }
  s.startTask d { step := true, epoch := E + 1, attempt := s.job.nextAttempt, spec := true }

/-- SPECULATIVE_START (R258 to R260): a task that no order list names starts its work of E + 1. -/
def execSpeculativeStart (task : Nat) (s : State) : Host.Outcome State Fault Refusal :=
  ok (match s.variantOf task with
    | none => s
    | some d =>
      let k := s.task d.task
      if s.specOpen d && !s.staged d && k.phase == .ended && k.step && k.epoch == s.job.epoch &&
          k.attempt == s.job.st.attempt then s.startSpec d
      else s)

/-- The task of entry `i` of a die's order list, in the variant of its layers' rung (R200, R309). -/
def State.stageTask (s : State) (die i : Nat) : Option TaskDecl :=
  s.job.image.bind fun im =>
    (((im.orders.find? fun o => o.1 == die).map Prod.snd).bind fun l => l[i]?).bind fun e =>
      (im.stages.find? fun x => x.stage == e.stage && x.pkg == s.fab.coord && x.die == die).bind fun g =>
        s.variantOf (if e.backward then g.backward else g.forward)

/-- STAGE_ENTRY_START (R200): the next entry of the die's order list starts, once its task is not under way; after the last
one the list of E + 1 may begin (R258). -/
def execStageEntryStart (die : Nat) (s : State) : Host.Outcome State Fault Refusal :=
  let i := mapGet 0 s.job.order die
  let j := mapGet 0 s.job.orderNext die
  let busy (d : TaskDecl) : Bool := (s.task d.task).phase == .running || (s.task d.task).phase == .aborting
  let beyond := (s.image Image.orders).any fun o => o.1 == die && decide (o.2.length ≤ i)
  ok (match s.stageTask die i with
    | some d =>
      if s.job.st.phase ≠ .running || busy d then s
      else
        ({ s with job := { s.job with order := mapSet 0 s.job.order die (i + 1) } }).startTask d
          { step := true, epoch := s.job.epoch, attempt := s.job.st.attempt }
    | none =>
      match (if beyond then s.stageTask die j else none) with
      | some d =>
        if s.specOpen d && !busy d then
          ({ s with job := { s.job with orderNext := mapSet 0 s.job.orderNext die (j + 1) } }).startSpec d
        else s
      | none => s)

/-- HOLD_EXPIRY (R450): the largest hold requested has passed since COMMIT was sent. -/
def execHoldExpiry (s : State) : Host.Outcome State Fault Refusal :=
  ok (if s.isLeader && s.job.settleOwed && !s.job.holds.isEmpty then
    let h := (s.job.holds.map Prod.snd).foldl max 0
    let s := s.toSc (s.job.commitSent + 25 * h)
    ({ s with job := { s.job with holds := [] } }).trySettle
  else s)

/-- HOLD_WAKE (R450): the wake of the image's units begins. -/
def execHoldWake (s : State) : Host.Outcome State Fault Refusal :=
  ok (if s.pow.hold then
    s.imageUnits.foldl (fun (s : State) u =>
      match s.unitPower u with
      | .nap => s.setUnit u (.waking 2 s.fc [] [])
      | _ => s) s
  else s)

/-! ### A lender is lost (R165, R497) -/

/-- LENDER_DECLARED_LOST: every page REMOTE or MOVED on the lender becomes LOST.  The weights of its REMOTE shards are repaired
at the boundary, or at once when no step runs; the step that runs aborts with SHARD_LOST. -/
def execLenderDeclaredLost (lender : Nat) (s : State) : Host.Outcome State Fault Refusal :=
  let lose (_ : Nat) (p : Page) : Page :=
    if p.valid && (p.loc == .remote || p.loc == .moved) && p.peer == lender then { p with state := .lost } else p
  let m := { s.mem with
    pages := mapMap {} lose s.mem.pages, lostLenders := setInsert s.mem.lostLenders lender
    silent := setErase s.mem.silent lender }
  let s := ({ s with mem := m }).audit 0x206 lender [] []
  let shards := (s.image Image.shards).filter fun h => h.remote && h.lender == lender
  let s := shards.foldl (fun (s : State) h =>
    s.faultNotice 0x819 [BitVec.ofNat 32 h.layer, BitVec.ofNat 32 h.shard]) s
  let mine := shards.filter s.owns
  ok (if shards.isEmpty then s
    else if s.runActive then
      let s := { s with job := { s.job with toRepair := mine.foldl (fun l (h : ShardDecl) => pairInsert l (h.layer, h.shard)) s.job.toRepair } }
      ({ s with job := { s.job with st := { s.job.st with shardLost := true } } }).stepAbort 6
    else
      mine.foldl (fun (s : State) h => s.tryRepair h.layer h.shard 0)
        { s with job := { s.job with st := { s.job.st with shardLost := true } } })

/-! ### RESHARD (R364 to R369) -/

/-- RESHARD; `agree`: every package of the job holds a standby image. -/
def execReshard (ring : Nat) (agree : Bool) (s : State) : Host.Outcome State Fault Refusal :=
  ok (s.command 0x60 ring fun c s =>
    paramOr c [] true (decide (c.object < 2 ^ 32)) (fun s =>
      if !s.jobRuns || c.object != s.jobId || !s.isLeader || s.job.reshard.isSome || s.job.standby.isNone || !agree then
        s.refuse c.ask refState
      else if s.runActive then
        let sent := s.job.st.phase == .committing && !s.job.commitOwed && !s.job.settleOwed
        let s := { s with job := { s.job with reshard := some c.ask } }
        let s := s.answer c.ask 1 0 (1 :: wordsOf 2 (s.job.epoch + b2n sent))
        if sent then s else s.sendHold 1
      else (({ s with job := { s.job with reshard := some c.ask, permuteSet := [] } }).keep c.ask).sendHold 1) s)

/-- The shards that come to this package, or to another place here, with the standby image's layout. -/
def State.movedShards (s : State) : List ShardDecl :=
  ((s.job.standby.map Image.shards).getD []).filter fun h =>
    h.held && !(s.image Image.shards).any fun o =>
      o.held && o.layer == h.layer && o.shard == h.shard && o.addr == h.addr && o.rows == h.rows && o.cols == h.cols

/-- Pages that hold the weights of a shard. -/
def shardPages (h : ShardDecl) : List Nat := (chunksOf h.addr (h.rows * h.cols * 2)).map Prod.fst

/-- PERMUTATION_COMPLETE (R367, R368): every moved shard has been checked; the next frames of the new layout are open, and
PERMUTE_DONE goes to the leader. -/
def execPermutationComplete (s : State) : Host.Outcome State Fault Refusal :=
  ok (if s.job.permuting && s.movedShards.all fun h => s.job.received.contains (h.layer, h.shard) then
    let open_ (m : MemState) (n : Nat) : MemState :=
      let p := m.page n
      if p.valid && p.banked && p.state == .sealed then m.setPage n { p with state := .open_ } else m
    let pages := ((s.job.standby.map Image.shards).getD []).flatMap fun h => if h.held then shardPages h else []
    let s := { s with mem := pages.foldl open_ s.mem, job := { s.job with permuting := false } }
    let round := s.job.st.phase == .committing
    s.toLeader { code := 0x0D, epoch := if round then s.job.epoch - 1 else s.job.epoch
                 attempt := if round then s.job.doneAttempts - 1 else s.job.st.attempt }
  else s)

end Sys2Proof.Machine
end

