-- ==== Sys2Proof/Machine/Boundary.lean ====
section
/-! DEFINITION. Step boundaries: what waits for one, and how it is carried out (R12, R85, R336, R337, R461 to R464, R472,
R475 to R480, R482 to R486). -/

namespace Sys2Proof.Machine

/-! ### Lanes of a port (R16, R332, R334, R336, R337) -/

/-- The physical lanes of positions 0 to 3 of port `n`. -/
def Port.lanesOf (n : Nat) (p : Port) : List Nat :=
  if p.lanes.isEmpty then (List.range 4).map fun i => 4 * (n % 4) + i else p.lanes

def State.port (s : State) (n : Nat) : Port := mapGet {} s.fab.ports n

def State.setPort (n : Nat) (p : Port) (s : State) : State :=
  { s with fab := { s.fab with ports := mapSet {} s.fab.ports n p } }

/-- The link die of a port. -/
def portDie (n : Nat) : Nat := 21 + n / 4

/-- The spare lane of a port's pair, and its place in the cabling list. -/
def spareLane (n : Nat) : Nat := 16 + n % 4 / 2
def spareIndex (n : Nat) : Nat := n / 4 * 2 + n % 4 / 2

def State.laneFailed (s : State) (die lane : Nat) : Bool := s.fab.failedLanes.contains (die, lane)

/-- SPARE of Table 11.3. -/
def State.spareState (s : State) (n : Nat) : Nat :=
  let x := spareLane n
  let other := if n % 2 = 0 then n + 1 else n - 1
  let cable := s.fab.spareCable.getD (spareIndex n) (0, true)
  if s.laneFailed (portDie n) x || cable.2 then 3
  else if ((s.port n).lanesOf n).contains x then 1
  else if ((s.port other).lanesOf other).contains x || cable.1 != (s.port n).peer then 2
  else 0

/-- Lanes of the port that have not failed, by physical number. -/
def State.goodLanes (s : State) (n : Nat) : List Nat :=
  (List.range 18).filter fun l => ((s.port n).lanesOf n).contains l && !s.laneFailed (portDie n) l

/-- A spare takes over the position of a retired lane. -/
def State.remapLane (n lane spare : Nat) (s : State) : State :=
  let p := s.port n
  s.setPort n { p with lanes := (p.lanesOf n).map fun l => if l = lane then spare else l }

/-- The port narrows to its two good lanes of lowest physical number. -/
def State.narrowLanes (n : Nat) (s : State) : State :=
  let p := s.port n
  let two := (s.goodLanes n).take 2
  if p.width = 1 ∧ ((p.lanesOf n).take 2).all (s.goodLanes n).contains then s
  else s.setPort n { p with width := 1, lanes := two ++ (p.lanesOf n).filter fun l => !two.contains l }

/-! ### The timing class (R476 to R479) -/

/-- The package enters the degraded class with the same floor point. -/
def State.enterDegraded (s : State) : State := { s with host := { s.host with tclass := s.host.tclass ||| 0x10 } }

/-- R477, R479: STEP_RUN hears of the change, and a job whose image here is nominal is paused. -/
def State.classChanged (s : State) : State :=
  let s := match s.job.run with
    | some r => s.reply r.ask 2 0x12 [s.host.tclass.setWidth 32]
    | none => s
  if s.job.image.any fun i => !bitOf i.tclass 4 then { s with units := { s.units with paused := true } } else s

/-- LINK_NARROWED names a die index, or a port from 0x100. -/
def State.linkNarrowed (what : Nat) (s : State) : State :=
  s.faultNotice 0x811 [BitVec.ofNat 32 what, s.host.tclass.setWidth 32]

def State.pushBoundary (b : BoundaryItem) (s : State) : State :=
  if s.units.boundary.contains b then s else { s with units := { s.units with boundary := s.units.boundary ++ [b] } }

/-- A port narrows: the class, the notice, and STEP_RUN's reply when the class is new and the boundary does not bring it. -/
def State.narrowPort (n : Nat) (s : State) : State :=
  let new := !s.degraded && !s.units.classHold
  let s := ((s.narrowLanes n).enterDegraded).linkNarrowed (n + 0x100)
  if new then s.classChanged else s

/-- A port has fewer lanes from now on; its package's timing class changes at once only while no step runs (R218). -/
def State.portNarrowed (n : Nat) (s : State) : State :=
  if s.runActive && (s.job.st.phase == .running || s.job.st.phase == .ready) then (s.narrowLanes n).pushBoundary (.narrowPort n)
  else s.narrowPort n

/-- A die link narrows to half width, in both directions; the notice names its lower die. -/
def State.narrowLink (a b : Nat) (s : State) : State :=
  let new := !s.degraded && !s.units.classHold
  let s := { s with units := { s.units with narrowed := pairInsert s.units.narrowed (a, b) } }
  let s := (s.enterDegraded).linkNarrowed a
  if new then s.classChanged else s

/-! ### Lost units and backfill (R482 to R487) -/

/-- RESULT0 of BACKFILL and UNIT_LOST. -/
def unitWord (die kind num : Nat) : Word := BitVec.ofNat 32 (die + kind * 256 + num * 65536)

/-- The running image uses a unit: kind 0x10 a tile, else a kind of Table 14.4. -/
def State.imageUsesUnit (s : State) (kind die num : Nat) : Bool :=
  match kind with
  | 0x10 => (s.image Image.programs).any fun p => p.1.die.val == die && p.1.tile.val == num
  | 1 => (s.image Image.slices).any fun x => x.die == die && x.unit == num
  | 2 => (s.image Image.buckets).any fun b => b.engine == num
  | 3 => !(s.image Image.sparse).isEmpty
  | _ => false

/-- The running image uses a port: its slot plan names it, or the way to a package of the job goes through it. -/
def State.imageUsesPort (s : State) (n : Nat) : Bool :=
  (s.image Image.slotPlan).any (fun a => a.port == some n) ||
    s.packages.any fun p => p != s.fab.coord && (s.fab.routeMask p).getLsbD n

/-- The job stops at the next boundary (R480, R486). -/
def State.stopAtNext (s : State) : State :=
  ({ s with units := { s.units with stopAtBoundary := true } }).pushBoundary .stop

/-- R486: a unit is lost; `shown` is its kind in the notice. -/
def State.loseUnit (kind shown die num : Nat) (s : State) : State :=
  let s := { s with units := { s.units with lost := setInsert s.units.lost (unitNumber kind die num) } }
  let s := if kind ≤ 3 then s.setUnit ⟨kind, die, num⟩ .dark else s
  let s := s.faultNotice 0x816 [unitWord die shown num, 0]
  if s.imageUsesUnit kind die num then s.stopAtNext else s

/-- R11, R12: the physical row and column of a tile in service, from its place among the twenty of its group. -/
def State.placeOf (s : State) (id : TileId) : Nat × Nat :=
  let g := id.tile.val / 18
  let k := s.placeIn id
  (4 * (g / 4) + k / 5, 5 * (g % 4) + k % 5)

/-- A spare of the same group takes a tile's place and its number: the in-service map changes, its silt is initialised and the
tile's program is loaded (R12, R212). -/
def State.backfillTile (id : TileId) (s : State) : State :=
  let k := id.die.val * 16 + id.tile.val / 18
  let used := mapGet 0 s.units.tileSpares k
  if used < 2 then
    let s := { s with units := { s.units with
      tileSpares := mapSet 0 s.units.tileSpares k (used + 1)
      inService := mapSet 99 s.units.inService id.key ((s.spareIn id).getD used 0) } }
    let s := s.modTile id fun t => { Tile.idle with clock := t.clock, store := t.store }
    s.faultNotice 0x815 [unitWord id.die.val 0 id.tile.val, BitVec.ofNat 32 (1 - used)]
  else s.loseUnit 0x10 0 id.die.val id.tile.val

def State.backfillTilth (die unit : Nat) (s : State) : State :=
  let used := mapGet 0 s.units.tilthSpares die
  if used < 1 then
    let s := { s with units := { s.units with tilthSpares := mapSet 0 s.units.tilthSpares die 1 } }
    s.faultNotice 0x815 [unitWord die 1 unit, 0]
  else s.loseUnit 1 1 die unit

def State.backfillCore (core : Nat) (s : State) : State :=
  if s.units.coreSpares < 2 then
    { s with units := { s.units with coreSpares := s.units.coreSpares + 1, coresDown := setErase s.units.coresDown core } }
  else s

/-- Sixty-four bytes that nothing determines. -/
def State.drawBytes (n : Nat) (s : State) : List Byte × State :=
  ((List.range n).map fun i => BitVec.ofNat 8 (Config.freeNat (s.free + i)), { s with free := s.free + n })

/-- A row of silt goes over to a spare row of its bank, its content lost (R85, R465); without one the tile is backfilled
(R484). -/
def State.remapRow (id : TileId) (row : Nat) (s : State) : State :=
  let used := (s.tile id).sparesUsed (row % 16)
  if used < 24 then
    let (bs, s) := s.drawBytes 64
    s.modTile id fun t =>
      { t with badRows := setErase t.badRows row, remap := mapSet 0 t.remap row (used + 1)
               silt := memWrite t.silt (row * 64) bs }
  else s.backfillTile id

/-! ### Boundary work (R464, Table 15.1) -/

/-- The place of an item in the order of R464. -/
def BoundaryItem.rank : BoundaryItem → Nat
  | .portLane _ _ | .linkLane _ _ | .narrowPort _ | .narrowLink _ _ => 0
  | .channel _ _ => 1
  | .siltRow _ _ => 2
  | .tile _ | .tilth _ _ | .core _ => 3
  | .stop => 4

/-- Its duration: sc, and fc after them. -/
def BoundaryItem.time : BoundaryItem → Nat × Nat
  | .portLane _ _ | .narrowPort _ => (40, 0)
  | .linkLane _ _ | .narrowLink _ _ => (12, 0)
  | .channel _ _ => (10, 0)
  | .siltRow _ _ => (2, 0)
  | .tile _ => (50, 2048)
  | .tilth _ _ => (25, 80)
  | .core _ => (2000, 0)
  | .stop => (0, 0)

/-- R475: the spare stands in for the failed lane. -/
def State.remapPort (die lane : Nat) (s : State) : State :=
  match (List.range 4).find? fun k => ((s.port (4 * (die - 21) + k)).lanesOf (4 * (die - 21) + k)).contains lane with
  | some k =>
    let n := 4 * (die - 21) + k
    let s := s.remapLane n lane (spareLane n)
    { s with units := { s.units with laneSpares := mapSet 0 s.units.laneSpares die (mapGet 0 s.units.laneSpares die + 1) } }
  | none => s

/-- R472: the spare takes over the channel number. -/
def State.switchChannel (stack channel : Nat) (s : State) : State :=
  let used := mapGet 0 s.units.channelSpares stack + 1
  let s := { s with units := { s.units with
    channelSpares := mapSet 0 s.units.channelSpares stack used
    switching := s.units.switching.filter fun c => c != (stack, channel) } }
  s.faultNotice 0x813 [BitVec.ofNat 32 (stack + channel * 256), BitVec.ofNat 32 (2 - used)]

def State.doBoundary (b : BoundaryItem) (s : State) : State :=
  match b with
  | .portLane die lane => s.remapPort die lane
  | .linkLane a b =>
    { s with units := { s.units with
      linkSpares := mapSet 0 s.units.linkSpares (32 * a + b) (mapGet 0 s.units.linkSpares (32 * a + b) + 1) } }
  | .narrowPort n => s.narrowPort n
  | .narrowLink a b => s.narrowLink a b
  | .channel st ch => s.switchChannel st ch
  | .siltRow id row => s.remapRow id row
  | .tile id => s.backfillTile id
  | .tilth die unit => s.backfillTilth die unit
  | .core c => s.backfillCore c
  | .stop => s

/-- The items that wait and satisfy `p`, in the order of R464, with the time each takes. -/
def State.doItems (p : BoundaryItem → Bool) (s : State) : State :=
  let items := (List.range 4).flatMap fun r => s.units.boundary.filter fun b => p b && b.rank == r
  let keep := s.units.boundary.filter fun b => !p b || b == BoundaryItem.stop
  items.foldl (fun (s : State) b =>
    let t := b.time
    ((s.doBoundary b).passFc (t.1 * fcPerSc s.pow.point + t.2))) { s with units := { s.units with boundary := keep } }

/-- Every item that waits. -/
def State.doBoundaries (s : State) : State := s.doItems fun _ => true

/-- The interval after a commit in which boundary work was announced. -/
def State.atCommitBoundary (s : State) : Bool :=
  s.job.st.phase == .committing && (s.job.commitOwed || s.job.settleOwed) && (s.units.boundarySent || s.units.classHold)

/-- The interval after an abort, before this package has reported that it has stopped. -/
def State.atAbortBoundary (s : State) : Bool := s.job.st.phase == .aborting && !s.job.stoppedSent

/-- BOUNDARY_WORK_COMPLETE (R461 to R464, R477, R480): the package's boundary work is done. -/
def execBoundaryWorkComplete (s : State) : Host.Outcome State Fault Refusal :=
  let commit := s.atCommitBoundary
  let abort := s.atAbortBoundary
  ok (if s.host.fatal || !(commit || abort || !s.runActive) then s
    else if commit then
      let s := s.doItems s.units.boundaryDue.contains
      let s := if s.units.classHold then s.classChanged else s
      let s := { s with units := { s.units with boundarySent := false, boundaryDue := [], classHold := false } }
      let s := { s with units := { s.units with boundary := s.units.boundary.filter fun b => b != BoundaryItem.stop } }
      if s.units.paused then s else s.boundaryDone
    else if abort then
      let s := s.doBoundaries
      ({ s with units := { s.units with boundary := s.units.boundary.filter fun b => b != BoundaryItem.stop } }).tryStopped
    else s.doBoundaries)

end Sys2Proof.Machine
end

