-- ==== Sys2Proof/Machine/TilthMath.lean ====
section
/-! DEFINITION. The arithmetic of the tilth units: one instruction of an update program, the fold and the sweep of
elements, the constants of R283, the close of R286 and the inversion of R296 (chapter 09). -/

namespace Sys2Proof.Machine

def valOf (w : Word) : Val := decodeBinary .s32 w.toNat

/-- A result rounded once into S32 by RNE (R277). -/
def toS32 (r : Val × FlagByte) : Word × FlagByte :=
  let q := roundVal .s32 .rne 0 r.1
  (BitVec.ofNat 32 q.1, r.2 ||| q.2)

/-! ### One instruction (Table 9.6, R277) -/

/-- A NaN among the operands by R26, else the word that `pick` gives. -/
def exactPick (vs : List Val) (pick : Word) : Word × FlagByte :=
  match firstNan vs with
  | some v => toS32 (v, flagIf (anySNan vs) flagNV)
  | none => (pick, 0)

/-- The result of an instruction other than RRED, CRED and BINV; `a`, `b`, `c` are its operands. -/
def tilthAlu (o : TilthOp) (a b c : Word) : Word × FlagByte :=
  let va := valOf a
  let vb := valOf b
  let vc := valOf c
  match o.op with
  | 0x01 => toS32 (addVals .rne va vb)
  | 0x02 => toS32 (mulVals va vb)
  | 0x03 => toS32 (fmaVals .rne va vb vc)
  | 0x04 =>
    let r := specialFn 2 .s32 .rne 0 va (Config.ulpUp 2 1 a.toNat)
    (BitVec.ofNat 32 r.1, r.2)
  | 0x05 =>
    let r := specialFn 1 .s32 .rne 0 va false
    (BitVec.ofNat 32 r.1, r.2)
  | 0x06 => toS32 (maxVals va vb)
  | 0x07 => toS32 (minVals va vb)
  | 0x08 => exactPick [va] (if va.isZero then a else if va.neg then 0xBF800000 else 0x3F800000)
  | 0x09 =>
    exactPick [va, vb] (if cmpVals va.abs vb.abs == some .gt then (b &&& 0x7FFFFFFF) ||| (a &&& 0x80000000) else a)
  | 0x0A => toS32 (va.scale2 (if 32 ≤ o.imm then (o.imm : Int) - 64 else o.imm), flagIf va.isSNan flagNV)
  | 0x0B => exactPick [va, vb, vc] (if vc.isZero then b else a)
  | _ => (0, 0)

/-! ### Elements in the fold (R279, R284, R285) -/

/-- What a lane holds of one element: operands by their codes of Table 9.5, the value for `mn` or `wn`, flags, and what
it adds to its row (true) or column. -/
structure Lane where
  env : List Word
  out : Word := 0
  flags : FlagByte := 0
  reds : List (Bool × Word) := []
  deriving DecidableEq, Repr

/-- t0 to t7, c0 to c15, then codes 0x18 to 0x1F. -/
def laneOf (consts rest : List Word) : Lane := { env := List.replicate 8 0 ++ consts ++ rest }

def Lane.read (l : Lane) (k : Nat) : Word := l.env.getD k 0

/-- One result goes to a temporary, or out of the lane. -/
def Lane.put (l : Lane) (d : Nat) (r : Word × FlagByte) : Lane :=
  if d < 8 then { l with env := l.env.set d r.1, flags := l.flags ||| r.2 }
  else { l with out := r.1, flags := l.flags ||| r.2 }

def Lane.step (l : Lane) (o : TilthOp) : Lane :=
  if o.op = 0x0C then { l with reds := l.reds ++ [(true, l.read o.a)] }
  else if o.op = 0x0D then { l with reds := l.reds ++ [(false, l.read o.a)] }
  else l.put o.d (tilthAlu o (l.read o.a) (l.read o.b) (l.read o.c))

/-- The fold section on one element. -/
def foldLane (ops : List TilthOp) (consts : List Word) (g w m rs cs : Word) : Lane :=
  ops.foldl Lane.step (laneOf consts [g, w, m, 0, rs, cs, 0, 0])

/-- R278: one accumulator takes the exact sum of what its lanes add in one fc, rounded once. -/
def addExact (acc : Word) (vs : List Word) : Word × FlagByte :=
  let l := valOf acc :: vs.map valOf
  toS32 (sumVals false l l false)

/-- The gradient element as S32 (Table 9.5). -/
def gradWord (r : BucketRecord) (j : Nat) : Word × FlagByte :=
  toS32 ((decodeBinary (Fmt.ofCode r.fmt) (r.elems.getD j 0).toNat).scale2 ((r.y.toNat : Int) - 127), 0)

/-- A 16-bit code of a stored format as S32, exactly; a signalling NaN stays one. -/
def storedWord (fmt : Nat) (bs : List Byte) : Word :=
  match decodeBinary (Fmt.ofCode fmt) (leNat bs) with
  | .nan n true p => BitVec.ofNat 32 (encodeNan .s32 n p) ^^^ 0x00400000
  | v => (toS32 (v, 0)).1

/-- R281: an S32 value into the stored format by SR with draw `g`; none when it is not finite. -/
def storeSr (fmt : Nat) (w : Word) (g : Nat) : Option Nat × FlagByte :=
  let f := Fmt.ofCode fmt
  let v := valOf w
  if !v.isFinite then (none, 0)
  else
    let r := roundVal f .sr (g % 65536) v
    if r.2 &&& flagOF != 0 then (some (b2n v.neg <<< 15 + maxFiniteCode f), flagBO ||| flagNX) else (some r.1, r.2)

/-! ### The sweep (R288, R298) -/

/-- The operand a frozen lane offers BINV, which runs no instruction there: a free word. -/
def laneOperand (free k : Nat) (o : TilthOp) (l : Option Lane) : Word :=
  match l with
  | some l => l.read o.a
  | none => BitVec.ofNat 32 (Config.freeNat (free + k))

/-- BINV on the elements of one row within one block: Σ_k a(k) × Inv[k, j], rounded once. -/
def binvRow (a : List Word) (inv : List Word) (j : Nat) : Word × FlagByte :=
  let b := a.length
  let ps := (List.range b).map fun k => (valOf (a.getD k 0), valOf (inv.getD (k * b + j) 0))
  let r := sumVals false (ps.flatMap fun p => [p.1, p.2]) (ps.map fun p => exactMul p.1 p.2)
    (ps.any fun p => mulInvalid p.1 p.2)
  toS32 r

/-- One sweep instruction on elements in lockstep; a frozen element has no lane. -/
def sweepStep (free : Nat) (inv : List Word) (ls : List (Option Lane)) (o : TilthOp) : List (Option Lane) :=
  if o.op = 0x0E then
    let a := ls.zipIdx.map fun p => laneOperand free p.2 o p.1
    ls.zipIdx.map fun p => p.1.map fun l => l.put o.d (binvRow a inv p.2)
  else ls.map fun l => l.map fun l => l.step o

/-- Elements in lockstep through the sweep section. -/
def sweepLanes (ops : List TilthOp) (free : Nat) (inv : List Word) (ls : List (Option Lane)) : List (Option Lane) :=
  ops.foldl (sweepStep free inv) ls

/-! ### Constants (R283) -/

/-- A product of magnitudes with at least 240 leading bits, truncated. -/
def mulMag (x y : Nat × Int) : Nat × Int :=
  let m := x.1 * y.1
  let k := Nat.log2 m - 240
  (m >>> k, x.2 + y.2 + k)

/-- x^n, by the binary digits of n. -/
def powMag (x : Nat × Int) : Nat → Nat → Nat × Int → Nat × Int
  | 0, _, acc => acc
  | fuel + 1, n, acc =>
    let acc' := if n % 2 = 1 then mulMag acc x else acc
    powMag (mulMag x x) fuel (n / 2) acc'

/-- A D64 code. -/
def toD64 (v : Val) : Val := decodeBinary .d64 (roundVal .d64 .rne 0 v).1

/-- c^n in D64, for 0 ≤ c < 1. -/
def powD64 (c : Word) (n : Nat) : Val :=
  match valOf c with
  | .fin _ m e =>
    if m = 0 then (if n = 0 then .fin false 1 0 else .zero)
    else
      let p := powMag (m, e) 64 n (1, 0)
      if (Nat.log2 p.1 : Int) + p.2 < -1100 then .zero else toD64 (.fin false p.1 p.2)
  | v => v

/-- The reciprocal in D64, rounded to S32. -/
def rcpD64 (v : Val) : Word := (toS32 (decodeBinary .d64 (specialFn 0 .d64 .rne 0 v false).1, 0)).1

/-- 1 / (1 - c^(e + 1)). -/
def biasConst (c : Word) (e : Nat) : Word :=
  rcpD64 (toD64 (exactSum false [.fin false 1 0, (powD64 c (e + 1)).negate]))

/-- c12 to c15 for epoch `e` and N contributions. -/
def epochConsts (c0 c2 : Word) (e n : Nat) : List Word :=
  [biasConst c0 e, biasConst c2 e, (toS32 (toD64 (.fin false (e + 1) 0), 0)).1, rcpD64 (.fin false n 0)]

/-! ### The close (R286) -/

/-- c2 × s + (1 - c2) × A / n, rounded once into S32. -/
def closeStat (c2 s acc : Word) (n : Nat) : Word × FlagByte :=
  let k := valOf c2
  let rest := exactSum false [.fin false 1 0, k.negate]
  let vs := valOf s
  let va := valOf acc
  let r := sumVals false [vs, va] [exactMul (exactMul k vs) (.fin false n 0), exactMul rest va]
    (mulInvalid k vs || mulInvalid rest va)
  match r.1 with
  | .fin neg m e =>
    let q := roundBinary .s32 .rne neg 0 (if m = 0 then ⟨0, 0, false⟩ else quotMag m n e)
    (BitVec.ofNat 32 q.1, r.2 ||| q.2)
  | v => toS32 (v, r.2)

/-- n_r / Σ rs′, rounded once. -/
def rinvOf (rs : List Word) : Word × FlagByte :=
  let l := rs.map valOf
  let t := sumVals false l l false
  match t.1 with
  | .fin neg m e =>
    if m = 0 then (BitVec.ofNat 32 (encodeInf .s32 neg), flagDZ)
    else
      let r := roundBinary .s32 .rne neg 0 (quotMag rs.length m (-e))
      (BitVec.ofNat 32 r.1, r.2)
  | .inf neg => (if neg then 0x80000000 else 0, 0)
  | v => toS32 (v, t.2)

/-! ### Inversion (R296, R297) -/

/-- A(k): P, or P + c10 × 2^(k-1) × I. -/
def loaded (p : List Word) (b k : Nat) (c10 : Word) : List Word :=
  if k = 0 then p
  else
    p.zipIdx.map fun x =>
      if x.2 / b = x.2 % b then (toS32 (addVals .rne (valOf x.1) ((valOf c10).scale2 ((k : Int) - 1)))).1 else x.1

/-- D: the largest diagonal magnitude. -/
def diagMax (a : List Word) (b : Nat) : Val :=
  maxFinite ((List.range b).map fun i => valOf (a.getD (i * b + i) 0))

/-- A pivot fails when it is not finite, or is at most c11 × D. -/
def pivotFails (c11 : Word) (d : Val) (p : Word) : Bool :=
  let v := valOf p
  !v.isFinite || cmpVals v (exactMul (valOf c11) d) != some .gt

def identityBlock (b : Nat) : List Word :=
  (List.range (b * b)).map fun i => if i / b = i % b then 0x3F800000 else 0

/-- An element x of the pivot row over the pivot p.  Zero and ±1 leave one result however the division is carried out; for
any other x the spec gives no roundings, and the result is a free value (notes/assumptions/64). -/
def pivotEntry (p x : Word) : Word :=
  match valOf x with
  | .fin n m _ =>
    if m = 0 then (toS32 (exactMul (.fin n 0 0) (valOf p), 0)).1
    else if x &&& 0x7FFFFFFF = 0x3F800000 then
      let r := specialFn 0 .s32 .rne 0 (valOf p) false
      BitVec.ofNat 32 r.1 ^^^ (if n then 0x80000000 else 0)
    else Config.pivotQuotient x p
  | _ => Config.pivotQuotient x p

/-- An element x of another row, less its pivot-column element `f` times the pivot row's element: over the pivot, `y`, and
before, `y0`.  A zero factor leaves one result; any other, a free value. -/
def clearedEntry (p x f y y0 : Word) : Word :=
  if (valOf f).isFinite && (valOf y).isFinite && ((valOf f).isZero || (valOf y0).isZero) then
    (toS32 (subVals .rne (valOf x) (exactMul (valOf f) (valOf y)))).1
  else Config.clearedEntry x f y0 p

/-- Step k of Gauss-Jordan elimination without row exchange on [A | I], rows of 2b words. -/
def clearColumn (k : Nat) (m : List (List Word)) : List (List Word) :=
  let r := m.getD k []
  let p := r.getD k 0
  let r' := r.map (pivotEntry p)
  m.zipIdx.map fun q =>
    if q.2 = k then r'
    else (q.1.zip (r'.zip r)).map fun x => clearedEntry p x.1 (q.1.getD k 0) x.2.1 x.2.2

/-- The steps from `k` on; none when a pivot fails (R296). -/
def eliminate (c11 : Word) (d : Val) : Nat → Nat → List (List Word) → Option (List (List Word))
  | 0, _, m => some m
  | n + 1, k, m =>
    if pivotFails c11 d ((m.getD k []).getD k 0) then none else eliminate c11 d n (k + 1) (clearColumn k m)

/-- One attempt: the inverse, row by row. -/
def invertOnce (b : Nat) (c11 : Word) (a : List Word) : Option (List Word) :=
  let rows := (List.range b).map fun i => (a.drop (i * b)).take b ++ ((identityBlock b).drop (i * b)).take b
  (eliminate c11 (diagMax a b) b 0 rows).map fun m => m.flatMap fun r => r.drop b

/-- The inverse of one block, and whether all six attempts failed. -/
def invertBlock (b : Nat) (c10 c11 : Word) (p : List Word) : List Word × Bool :=
  match (List.range 6).findSome? fun k => invertOnce b c11 (loaded p b k c10) with
  | some m => (m, false)
  | none => (identityBlock b, true)

end Sys2Proof.Machine
end

