-- ==== Sys2Proof/Machine/Tilth.lean ====
section
/-! DEFINITION. What a tilth unit does with a slice: its reads and writes, the fold of a record, the close, the inversion
and the sweep, on the owner and on a lender, and the rows of sparse tables (R170 to R175, R273 to R303). -/

namespace Sys2Proof.Machine

/-! ### Frames and masks -/

/-- `n` bytes at `la` from the frame that `sel` picks of each page, or from the lender that holds it. -/
def State.readFrames (s : State) (sel : Page → Nat) (la n : Nat) : List Byte × Option MemFault :=
  (chunksOf la n).foldl (fun (acc : List Byte × Option MemFault) c =>
    match acc.2 with
    | some _ => acc
    | none =>
      let p := s.mem.page c.1
      let stop (code : Nat) : List Byte × Option MemFault := (acc.1, some ⟨code, c.1 * frameBytes, s.fab.coord⟩)
      if !p.valid || s.meetsInlet (c.1 * frameBytes + c.2.1) c.2.2 then stop 1
      else if p.state = .lost then stop 6
      else if p.loc = .moved || (p.loc == .remote && !p.copies) then
        match s.mem.reachAway p with
        | .away peer lp => (acc.1 ++ lenderBytes peer (lp * frameBytes + c.2.1) c.2.2 s.fc, none)
        | _ => stop 5
      else
        let pa := sel p * frameBytes + c.2.1
        if s.mem.poisoned pa c.2.2 then
          (acc.1, some ⟨0x14, c.1 * frameBytes + c.2.1 + (s.mem.poisonAt pa c.2.2 - pa), s.fab.coord⟩)
        else (acc.1 ++ s.mem.read pa c.2.2, none)) ([], none)

/-- The frame that is current in epoch `e`. -/
def State.readAt (s : State) (e la n : Nat) : List Byte × Option MemFault := s.readFrames (fun p => p.frameOf e) la n

/-- Why a unit stops: a memory fault, a value that is not finite (with the instruction), or a cause of Table 9.2. -/
inductive TilthStop where
  | fault (f : MemFault)
  | nonfinite (instr : Nat)
  | cause (code : Nat)
  deriving DecidableEq, Repr

/-- Bytes read for a unit, or its stop. -/
def State.fetchAt (s : State) (e la n : Nat) : Except TilthStop (List Byte) :=
  match s.readAt e la n with
  | (bs, none) => .ok bs
  | (_, some f) => .error (.fault f)

/-- What a unit of die `die` has read of ranges in work of epoch `e`: bytes counted by stack and link, and requests to the
lender for pages that lie with one. -/
def State.unitReads (die e task : Nat) (rs : List (Nat × Nat)) (s : State) : State :=
  (rs.flatMap fun r => chunksOf r.1 r.2).foldl (fun (s : State) c =>
    let p := s.mem.page c.1
    if p.loc = .moved || (p.loc == .remote && !p.copies) then
      s.sendReads { fkind := 3, task := task, stag := s.stepTag e, dst := p.peer, vc := 3 } (p.lpage * frameBytes + c.2.1) c.2.2
        (c.1 * frameBytes + c.2.1)
    else s.countClay 0x0201 die false (p.frameOf e * frameBytes + c.2.1) c.2.2) s

/-- Bytes that a unit of die `die` writes to the next frames of epoch `e`, or its stop. -/
def State.storeNext (die e task la : Nat) (bs : List Byte) (s : State) : Except TilthStop State :=
  match s.writeRange { epoch := e, spec := false, head := { fkind := 1, task := task, stag := s.stepTag e }, die := die } la bs with
  | (s, none) => .ok s
  | (_, some f) => .error (.fault f)

/-- The mask table down to the slice's last row (R292). -/
def maskRange (x : SliceDecl) : Nat × Nat := (x.kaddr, 8 * (ceilDiv (x.lrow + x.rows) 32 * ceilDiv x.lwidth 32))

def State.maskOf (s : State) (e : Nat) (x : SliceDecl) : Except TilthStop (List Byte) :=
  s.fetchAt e (maskRange x).1 (maskRange x).2

/-- Element `k` of the slice is frozen. -/
def frozenAt (x : SliceDecl) (mask : List Byte) (k : Nat) : Bool :=
  let i := x.lrow + k / x.cols
  let j := x.lcol + k % x.cols
  let w := leNat ((mask.drop (8 * (i / 32 * ceilDiv x.lwidth 32 + j / 32))).take 8)
  !(w.testBit 32 && w.testBit (i % 32))

/-- The `i`-th 16-bit code of a run of bytes. -/
def halfAt (bs : List Byte) (i : Nat) : List Byte := (bs.drop (2 * i)).take 2

/-! ### The fold (R278, R281, R284, R285) -/

/-- One element as it reaches the unit. -/
structure ElemIn where
  frozen : Bool
  g : Word × FlagByte
  w : Word
  m : Word
  rs : Word
  cs : Word
  /-- the stored code that a frozen element keeps. -/
  code : Nat
  deriving DecidableEq, Repr

/-- The grit generators of a tilth unit as an act of the unit draws from them: element `j` of the act is rounded by lane j mod 32,
`rate` elements an fc from step `at_` of the generators on (R77, R80, R270, R298). -/
structure Grit where
  gen : Nat
  unit : Nat
  at_ : Nat
  rate : Nat := 32
  deriving DecidableEq, Repr

def Grit.draw (g : Grit) (j : Nat) : Nat := gritDraw g.gen g.unit (j % 32) (g.at_ + j / g.rate)

/-- The generators of a unit for an act that the event's fc ends or begins; by how much its first rounding lies from that fc is
a free value (notes/assumptions/64). -/
def State.grit (s : State) (die unit : Nat) : Grit :=
  let key := 0x10000 + die * 256 + unit
  { gen := s.units.seedings, unit := key, at_ := s.clockRun key (s.fc + Config.freeNat s.free) }

def State.drewGrit (s : State) : State := { s with free := s.free + 1 }

/-- What is stored for each element: the kept code, or the lane's value by SR; none when one is not finite.  With it, the flags
of each element. -/
def storedCodes (fmt : Nat) (g : Grit) (kept : List Nat) (ls : List (Option Lane)) : Option (List Nat) × List FlagByte :=
  let rs := (ls.zip kept).zipIdx.map fun p =>
    match p.1.1 with
    | none => (some p.1.2, (0 : FlagByte))
    | some l => storeSr fmt l.out (g.draw p.2)
  (rs.mapM Prod.fst, rs.map Prod.snd)

/-- R51: elements limited, by the shard element divided by 2,048; `first` is the shard element of the first of them. -/
def limitedIn (first : Nat) (fs : List FlagByte) : Map Nat :=
  fs.zipIdx.foldl (fun m p =>
    if p.1 &&& flagBO != 0 then
      let b := (first + p.2) / 2048
      mapSet 0 m b (mapGet 0 m b + 1)
    else m) []

def lanesFlags (ls : List (Option Lane)) : FlagByte := flagsOr (ls.map fun l => l.elim 0 Lane.flags)

def foldLanes (p : TilthProgram) (consts : List Word) (es : List ElemIn) : List (Option Lane) :=
  es.map fun e =>
    if e.frozen then none
    else
      let l := foldLane p.fold consts e.g.1 e.w e.m e.rs e.cs
      some { l with flags := l.flags ||| e.g.2 }

/-- Limited values that stand for one block: statistics count in the first block of their slice (DESIGN CHOICE,
notes/assumptions/88). -/
def limitedAs (block : Nat) (fs : List FlagByte) : Map Nat :=
  mapSet 0 [] block (fs.filter fun f => f &&& flagBO != 0).length

/-- What one fc's lanes add, element `k0` + n being that of lane n.  All reductions of an element reach their accumulators in
one fc (DESIGN CHOICE, notes/assumptions/88). -/
def addReds (cols k0 : Nat) (group : List (Option Lane)) (st : SliceState × FlagByte) : SliceState × FlagByte :=
  let adds : List ((Bool × Nat) × Word) := group.zipIdx.flatMap fun p =>
    ((p.1.map Lane.reds).getD []).map fun r => ((r.1, if r.1 then (k0 + p.2) / cols else (k0 + p.2) % cols), r.2)
  ((adds.map Prod.fst).eraseDups).foldl (fun (st : SliceState × FlagByte) key =>
    let vs := (adds.filter fun a => a.1 == key).map Prod.snd
    if key.1 then
      let r := addExact (mapGet 0 st.1.rowAcc key.2) vs
      ({ st.1 with rowAcc := mapSet 0 st.1.rowAcc key.2 r.1 }, st.2 ||| r.2)
    else
      let r := addExact (mapGet 0 st.1.colAcc key.2) vs
      ({ st.1 with colAcc := mapSet 0 st.1.colAcc key.2 r.1 }, st.2 ||| r.2)) st

/-- The reductions of a record, fc by fc (R278). -/
def foldReds (cols k0 : Nat) (ls : List (Option Lane)) (st : SliceState) : SliceState × FlagByte :=
  (List.range (ceilDiv ls.length 32)).foldl (fun st q =>
    addReds cols (k0 + 32 * q) ((ls.drop (32 * q)).take 32) st) (st, 0)

/-- The instruction that writes `mn`, and the one that writes `wn`, by their number in the program. -/
def TilthProgram.mnAt (p : TilthProgram) : Nat := p.fold.findIdx fun o => o.d == 0x1B
def TilthProgram.wnAt (p : TilthProgram) : Nat := p.nfold + p.sweep.findIdx fun o => o.d == 0x19

/-- Whose work a unit does: the epoch, the task, the program and c0 to c15. -/
structure TilthWork where
  epoch : Nat
  task : Nat
  prog : TilthProgram
  consts : List Word
  deriving DecidableEq, Repr

/-- R298: parameters that the sweep handles in one fc. -/
def TilthWork.rate (k : TilthWork) : Nat :=
  if k.prog.sweep.any (fun o => o.op == 0x0E) && k.prog.bsize == 64 then 16 else 32

/-- What a unit's act leaves: the state, the slice's sums, and flags. -/
structure TilthOut where
  state : State
  slice : SliceState
  flags : FlagByte
  limited : Map Nat := []
  deriving DecidableEq, Repr

/-- One final record is folded. -/
def State.foldRecord (k : TilthWork) (x : SliceDecl) (r : BucketRecord) (st : SliceState) (s : State) :
    Except TilthStop TilthOut := do
  let k0 := r.bucket * 2048 - x.first
  let mask ← s.maskOf k.epoch x
  let ms ← s.fetchAt k.epoch (x.maddr + 2 * k0) (2 * r.count)
  let ws ← s.fetchAt k.epoch (x.waddr + 2 * k0) (2 * r.count)
  let stats ← if k.prog.stats then s.fetchAt k.epoch x.saddr (2 * (x.rows + x.cols)) else .ok []
  let es := (List.range r.count).map fun j =>
    let e := k0 + j
    let m := halfAt ms j
    { frozen := frozenAt x mask e, g := gradWord r j, w := storedWord x.wfmt (halfAt ws j), m := storedWord x.mfmt m
      rs := storedWord 3 (halfAt stats (e / x.cols)), cs := storedWord 3 (halfAt stats (x.rows + e % x.cols))
      code := leNat m : ElemIn }
  let ls := foldLanes k.prog k.consts es
  let out := storedCodes x.mfmt (s.grit x.die x.unit) (es.map ElemIn.code) ls
  match out.1 with
  | none => .error (.nonfinite k.prog.mnAt)
  | some codes =>
    let s := s.drewGrit.countSource 1 x.die 0 0x0203 x.unit r.count false
    let once := if st.folded.isEmpty then maskRange x :: (if k.prog.stats then [(x.saddr, 2 * (x.rows + x.cols))] else []) else []
    let s := s.unitReads x.die k.epoch k.task ([(x.maddr + 2 * k0, 2 * r.count), (x.waddr + 2 * k0, 2 * r.count)] ++ once)
    let s ← s.storeNext x.die k.epoch k.task (x.maddr + 2 * k0) (codes.flatMap (leBytes 2))
    let red := foldReds x.cols k0 ls { st with folded := st.folded ++ [r.bucket] }
    .ok ⟨s, red.1, lanesFlags ls ||| flagsOr out.2 ||| red.2, limitedIn (x.first + k0) out.2⟩

/-! ### The close (R286) -/

/-- The next statistics of a slice: words as S32, and codes to store. -/
def closeList (c2 : Word) (n : Nat) (g : Grit) (cur : List (Bool × List Byte)) (acc : Nat → Word) :
    List Word × Option (List Nat) × List FlagByte :=
  let rs := cur.zipIdx.map fun p =>
    let old := storedWord 3 p.1.2
    if p.1.1 then (old, some (leNat p.1.2), (0 : FlagByte))
    else
      let w := closeStat c2 old (acc p.2) n
      let c := storeSr 3 w.1 (g.draw p.2)
      (w.1, c.1, w.2 ||| c.2)
  (rs.map fun r => r.1, rs.mapM fun r => r.2.1, rs.map fun r => r.2.2)

def State.closeSlice (k : TilthWork) (x : SliceDecl) (st : SliceState) (s : State) : Except TilthStop TilthOut := do
  if !k.prog.stats then .ok ⟨s, { st with closed := true }, 0, []⟩
  else
    let mask ← s.maskOf k.epoch x
    let bs ← s.fetchAt k.epoch x.saddr (2 * (x.rows + x.cols))
    let rowFrozen (i : Nat) : Bool := (List.range x.cols).all fun j => frozenAt x mask (i * x.cols + j)
    let colFrozen (j : Nat) : Bool := (List.range x.rows).all fun i => frozenAt x mask (i * x.cols + j)
    let c2 := k.consts.getD 2 0
    let g := s.grit x.die x.unit
    let rows := closeList c2 x.cols g ((List.range x.rows).map fun i => (rowFrozen i, halfAt bs i))
      fun i => mapGet 0 st.rowAcc i
    let cols := closeList c2 x.rows { g with at_ := g.at_ + x.rows / 32 }
      ((List.range x.cols).map fun j => (colFrozen j, halfAt bs (x.rows + j))) fun j => mapGet 0 st.colAcc j
    match rows.2.1, cols.2.1 with
    | some a, some b =>
      let s ← s.drewGrit.storeNext x.die k.epoch k.task x.saddr ((a ++ b).flatMap (leBytes 2))
      let r := rinvOf rows.1
      let toMap (l : List Word) : Map Word := l.zipIdx.foldl (fun m p => mapSet 0 m p.2 p.1) []
      .ok ⟨s, { st with rs := toMap rows.1, cs := toMap cols.1, rinv := r.1, closed := true },
        flagsOr (rows.2.2 ++ cols.2.2) ||| r.2, limitedAs (x.first / 2048) (rows.2.2 ++ cols.2.2)⟩
    | _, _ => .error (.nonfinite 0)

/-! ### The inversion phase (R294 to R297) -/

/-- The inverses of a slice's blocks, and how many fell back. -/
def State.invertSlice (k : TilthWork) (x : SliceDecl) (s : State) : Except TilthStop (List (List Word) × Nat) := do
  let b := k.prog.bsize
  let n := x.cols / b
  let bs ← s.fetchAt (k.epoch + 1) x.paddr (2 * (n * b * b))
  let rs := (List.range n).map fun q =>
    invertBlock b (k.consts.getD 10 0) (k.consts.getD 11 0)
      ((List.range (b * b)).map fun i => storedWord 3 (halfAt bs (q * b * b + i)))
  .ok (rs.map Prod.fst, (rs.filter Prod.snd).length)

/-! ### The sweep (R288, R298) -/

def sweepLanesOf (k : TilthWork) (st : SliceState) (cols free : Nat) (es : List (Nat × ElemIn)) (mns : List Word) :
    List (Option Lane) :=
  let b := if k.prog.precond then k.prog.bsize else 32
  let all := (es.zip mns).map fun p =>
    if p.1.2.frozen then none
    else some (laneOf k.consts [0, p.1.2.w, 0, p.2, p.1.2.rs, p.1.2.cs, st.rinv, 0])
  (List.range (ceilDiv all.length b)).flatMap fun c =>
    sweepLanes k.prog.sweep (free + c * b * k.prog.nsweep) (st.inverses.getD (c * b % cols / b) [])
      ((all.drop (c * b)).take b)

def State.sweepSlice (k : TilthWork) (x : SliceDecl) (st : SliceState) (s : State) : Except TilthStop TilthOut := do
  let n := x.rows * x.cols
  let mask ← s.maskOf k.epoch x
  let ws ← s.fetchAt k.epoch x.waddr (2 * n)
  let ms ← s.fetchAt (k.epoch + 1) x.maddr (2 * n)
  let es := (List.range n).map fun e =>
    let w := halfAt ws e
    (e, { frozen := frozenAt x mask e, g := (0, 0), w := storedWord x.wfmt w, m := 0, rs := mapGet 0 st.rs (e / x.cols)
          cs := mapGet 0 st.cs (e % x.cols), code := leNat w : ElemIn })
  let mns := (List.range n).map fun e => storedWord x.mfmt (halfAt ms e)
  let ls := sweepLanesOf k st x.cols (s.free + 1 + n) es mns
  let g := s.grit x.die x.unit
  let out := storedCodes x.wfmt { g with rate := k.rate } (es.map fun e => e.2.code) ls
  match out.1 with
  | none => .error (.nonfinite k.prog.wnAt)
  | some codes =>
    let s := ({ s with free := s.free + 1 + n + n * k.prog.nsweep + 64 * k.prog.nsweep }).countSource 1 x.die 0 0x0203
      x.unit n false
    let s := (s.unitReads x.die k.epoch k.task [maskRange x, (x.waddr, 2 * n)]).unitReads x.die (k.epoch + 1) k.task
      [(x.maddr, 2 * n)]
    let s ← s.storeNext x.die k.epoch k.task x.waddr (codes.flatMap (leBytes 2))
    .ok ⟨s, { st with swept := true }, lanesFlags ls ||| flagsOr out.2, limitedIn x.first out.2⟩

/-! ### Settings of the owner's layers (R279, R282, R283) -/

def State.updateTask (s : State) (l : Nat) : Nat := (s.layerDecl l).elim 0 LayerDecl.updateTask

/-- Contributions that the image declares for the layer's final records (R283). -/
def State.contributions (s : State) (l : Nat) : Nat :=
  match (s.image Image.buckets).find? fun b => b.layer == l, (s.image Image.sparse).find? fun t => t.layer == l with
  | some b, _ => b.total
  | none, some t => t.total
  | none, none => 1

def allConsts (cs : List Word) (e n : Nat) : List Word :=
  (cs ++ List.replicate 12 0).take 12 ++ epochConsts (cs.getD 0 0) (cs.getD 2 0) e n

/-- The work of layer `l` at the owner in epoch E. -/
def State.tilthWork (s : State) (l : Nat) : TilthWork :=
  let x := s.setting l s.job.epoch
  { epoch := s.job.epoch, task := s.updateTask l, prog := s.program x.slot
    consts := allConsts x.consts s.job.epoch (s.contributions l) }

/-- A unit of layer `l` stops: the update task aborts (R274, R281, R301, R303). -/
def State.tilthStops (l die unit : Nat) (e : TilthStop) (s : State) : State :=
  match e with
  | .fault f =>
    (s.taskCause (s.updateTask l)
      { cause := 0x0B, code := f.code, addr := f.addr, pkg := f.pkg, die := die, tile := 0x1FF }).poisonNotice f
  | .nonfinite i => s.taskCause (s.updateTask l) { cause := 0x0D, die := die, tile := 0x1FF, instr := i, code := unit }
  | .cause c => s.taskCause (s.updateTask l) { cause := c, die := die, tile := 0x1FF, code := unit }

def State.slice (s : State) (i : Nat) : SliceState := mapGet {} s.tilth.slices i

/-- R51: the blocks of layer `l` that a unit's stores limited are on their way to the hub. -/
def State.noteLimited (l : Nat) (m : Map Nat) (s : State) : State :=
  { s with num := { s.num with saturated := s.num.saturated ++ m.map fun b => (l, b.1, min 255 b.2) } }

/-- What an act leaves of slice number `i`, its unit's flags with it. -/
def State.takeOut (i : Nat) (x : SliceDecl) (o : TilthOut) : State :=
  let s := o.state
  let u := x.die * 8 + x.unit
  { s with tilth := { s.tilth with
    slices := mapSet {} s.tilth.slices i o.slice
    unitFlags := mapSet 0 s.tilth.unitFlags u (mapGet 0 s.tilth.unitFlags u ||| o.flags) } }

/-- An act of the unit of slice `i`, or its stop. -/
def State.unitAct (i : Nat) (x : SliceDecl) (r : Except TilthStop TilthOut) (s : State) : State :=
  match r with
  | .ok o => (State.takeOut i x o).noteLimited x.layer o.limited
  | .error e => s.tilthStops x.layer x.die x.unit e

/-! ### Lenders (R172 to R175) -/

/-- The key of slice `i` of a layer that a lender holds for owner `src`. -/
def lentKey (src layer i : Nat) : Nat := (src + 1) * 2 ^ 40 + layer * 2 ^ 20 + i

/-- The work that a lender does for an owner whose epoch is `e`. -/
def State.lentWork (s : State) (e : Nat) (l : LentLayer) : TilthWork :=
  { epoch := e, task := 0, prog := s.program l.slot, consts := allConsts l.consts e l.contrib }

/-- R175: the current frames of epoch `e` on a lender, homed for `src`, open for the epoch after `e` - 1. -/
def State.openLent (src : Nat) (s : State) : State :=
  let open_ (_ : Nat) (p : Page) : Page :=
    if p.valid && p.loc == .lent && p.banked && p.peer == src && p.state == .sealed then { p with state := .open_ } else p
  { s with mem := { s.mem with pages := mapMap {} open_ s.mem.pages } }

/-- The owner is seen in epoch `e`. -/
def State.seeOwner (src e : Nat) (s : State) : State :=
  if mapGet 0 s.tilth.lentEpoch src < e + 1 then
    ({ s with tilth := { s.tilth with lentEpoch := mapSet 0 s.tilth.lentEpoch src (e + 1) } }).openLent src
  else s

/-- The slices of an owner are forgotten. -/
def TilthState.dropLent (t : TilthState) (src : Nat) : Map SliceState := t.slices.filter fun e => e.1 / 2 ^ 40 != src + 1

/-- Work of another attempt or epoch of the owner begins: its sums are cleared, and the next frames are open again (R149,
R278). -/
def State.lentBegins (src tag : Nat) (s : State) : State :=
  if mapGet 0 s.tilth.lentTag src = tag + 1 then s
  else
    ({ s with tilth := { s.tilth with
      lentTag := mapSet 0 s.tilth.lentTag src (tag + 1), slices := s.tilth.dropLent src } }).openLent src

/-- Another job of an owner is seen: what is known of the last one's epochs ends (R149, R175). -/
def State.ownerJob (src job : Nat) (s : State) : State :=
  if mapGet 0 s.tilth.lentJob src = job + 1 then s
  else
    { s with tilth := { s.tilth with
      lentJob := mapSet 0 s.tilth.lentJob src (job + 1), lentEpoch := mapSet 0 s.tilth.lentEpoch src 0
      lentTag := mapSet 0 s.tilth.lentTag src 0, slices := s.tilth.dropLent src } }

/-- A forwarded record is folded by the lender's units. -/
def State.lentFold (src e : Nat) (l : LentLayer) (r : BucketRecord) (s : State) : State :=
  let first := r.bucket * 2048
  match l.slices.zipIdx.find? fun p => p.1.slice.shard == r.shard && p.1.slice.first ≤ first &&
      first + r.count ≤ p.1.slice.first + p.1.slice.rows * p.1.slice.cols with
  | none => s
  | some p =>
    let key := lentKey src l.layer p.2
    match s.foldRecord (s.lentWork e l) p.1.slice r (s.slice key) with
    | .ok o => State.takeOut key p.1.slice o
    | .error _ => s

/-- One slice of a lender is closed, inverted and swept. -/
def State.lentSlice (k : TilthWork) (key : Nat) (x : SliceDecl) (s : State) : Except TilthStop TilthOut := do
  let inv ← if k.prog.precond then s.invertSlice k x else .ok ([], 0)
  let c ← s.closeSlice k x (s.slice key)
  let o ← c.state.sweepSlice k x { c.slice with inverses := inv.1 }
  .ok { o with flags := c.flags ||| o.flags }

/-- Ranges of a slice's state: weights, first moments, statistics, preconditioner blocks. -/
def sliceRanges (p : TilthProgram) (x : SliceDecl) : List (Nat × Nat) :=
  let n := 2 * (x.rows * x.cols)
  [(x.waddr, n), (x.maddr, n)] ++ (if p.stats then [(x.saddr, 2 * (x.rows + x.cols))] else []) ++
    (if p.precond then [(x.paddr, 2 * (x.cols * p.bsize))] else [])

/-- The next frames of banked pages in ranges are sealed (R147, R289). -/
def State.sealRanges (rs : List (Nat × Nat)) (s : State) : State :=
  let pages := rs.flatMap fun r => (chunksOf r.1 r.2).map Prod.fst
  let sealOne (m : MemState) (n : Nat) : MemState :=
    let p := m.page n
    if p.valid && p.banked && p.state == .open_ then m.setPage n { p with state := .sealed } else m
  { s with mem := pages.foldl sealOne s.mem }

/-- R172, R173: the update program of a lent layer runs, its next frames are sealed, and the weights return. -/
def State.lentSweep (src e job : Nat) (l : LentLayer) (s : State) : State :=
  let k := s.lentWork e l
  let tag := mapGet 0 s.tilth.lentTag src - 1
  let s := l.slices.zipIdx.foldl (fun (s : State) p =>
    let key := lentKey src l.layer p.2
    match s.lentSlice k key p.1.slice with
    | .ok o => State.takeOut key p.1.slice o
    | .error _ => s) s
  if l.slices.zipIdx.all fun p => (s.slice (lentKey src l.layer p.2)).swept then
    let s := s.sealRanges (l.slices.flatMap fun x => sliceRanges k.prog x.slice)
    let bytes (x : LentSlice) : List Byte := (s.readAt (e + 1) x.slice.waddr (2 * (x.slice.rows * x.slice.cols))).1
    l.slices.foldl (fun (s : State) x =>
      let shard := inOrder (fun y => y.slice.first) (l.slices.filter fun y => y.slice.shard == x.slice.shard)
      let bs := bytes x
      s.sendStream { fkind := 1, vc := 3, dst := src, laddr := x.back, stag := tag, job := job }
        (if shard.getLast? = some x then withDigest bs (shardDigest (shard.flatMap bytes) (e + 1)) else bs)) s
  else s

/-! ### Sparse rows (R299 to R304) -/

/-- The newest version of a row at epoch `e`. -/
def State.rowVersion (s : State) (t row e : Nat) : Option RowVersion :=
  (s.tilth.directory.filter fun v => v.table == t && v.row == row && v.stamp ≤ e).foldl
    (fun (b : Option RowVersion) v => if b.all fun x => decide (x.stamp < v.stamp) then some v else b) none

/-- Where the weights, first moments and statistic of a row lie. -/
def rowRanges (t : SparseDecl) (row : Nat) (v : Option RowVersion) : List (Nat × Nat) :=
  match v with
  | some v => [(slotAt t (v.stamp - 1) v.slot, slotBytes t)]
  | none => [(t.weights + row * (2 * t.len), 2 * t.len), (t.moments + row * (2 * t.len), 2 * t.len), (t.stats + row * 2, 2)]

/-- Weights, first moments and statistic of a row as work of epoch `e` reads them (R302). -/
def State.rowBytes (s : State) (t : SparseDecl) (row e : Nat) : Except TilthStop (List Byte × List Byte × List Byte) := do
  let n := 2 * t.len
  match s.rowVersion t.layer row e with
  | some v =>
    let bs ← s.fetchAt e (slotAt t (v.stamp - 1) v.slot) (slotBytes t)
    .ok ((bs.drop 16).take n, (bs.drop (16 + n)).take n, (bs.drop (16 + 2 * n)).take 2)
  | none =>
    let w ← s.fetchAt e (t.weights + row * n) n
    let m ← s.fetchAt e (t.moments + row * n) n
    let q ← s.fetchAt e (t.stats + row * 2) 2
    .ok (w, m, q)

/-- A free slot of the journal half of epoch `e` (R301, R303). -/
def State.journalSlot (s : State) (t : SparseDecl) (e : Nat) : Except TilthStop Nat :=
  let half := s.tilth.directory.filter fun v => v.table == t.layer && (v.stamp + 1) % 2 == e % 2
  if half.any fun v => v.stamp != e + 1 then .error (.cause 0x10)
  else
    match (List.range t.slots).find? fun k => !half.any fun v => v.slot == k with
    | some k => .ok k
    | none => .error (.cause 0x0F)

/-- A lane whose CRED has no effect (R300). -/
def Lane.rowOnly (l : Lane) : Lane := { l with reds := l.reds.filter fun r => r.1 }

/-- One row is folded, closed and swept as a one-row slice; `cs` and `rinv` read 1.0, and CRED has no effect (R300). -/
def State.rowUpdate (k : TilthWork) (t : SparseDecl) (row : Nat) (r : BucketRecord) (s : State) :
    Except TilthStop (State × FlagByte) := do
  let slot ← s.journalSlot t k.epoch
  let (w, m, q) ← s.rowBytes t row k.epoch
  let one : Word := 0x3F800000
  let rs := storedWord 3 q
  let es := (List.range t.len).map fun j =>
    { frozen := false, g := gradWord r j, w := storedWord t.fmt (halfAt w j), m := storedWord t.fmt (halfAt m j), rs := rs
      cs := one, code := leNat (halfAt m j) : ElemIn }
  let ls := foldLanes k.prog k.consts es
  let g := s.grit 4 0
  let mOut := storedCodes t.fmt g (es.map ElemIn.code) ls
  let red := foldReds t.len 0 (ls.map fun l => l.map Lane.rowOnly) {}
  let stat := if k.prog.stats then closeList (k.consts.getD 2 0) t.len { g with at_ := g.at_ + t.len / 32 } [(false, q)]
      fun i => mapGet 0 red.1.rowAcc i
    else ([rs], some [leNat q], [])
  match mOut.1, stat.2.1 with
  | some mc, some qc =>
    let st : SliceState := { rinv := one }
    let next := es.map fun e => (0, { e with rs := stat.1.getD 0 0 })
    let mns := mc.map fun c => storedWord t.fmt (leBytes 2 c)
    let sl := sweepLanesOf k st t.len (s.free + 1) next mns
    let wOut := storedCodes t.fmt { g with at_ := g.at_ + t.len / 32 + 1, rate := k.rate } (es.map ElemIn.code) sl
    match wOut.1 with
    | none => .error (.nonfinite k.prog.wnAt)
    | some wc =>
      let s := { s with free := s.free + 1 + (t.len + 64) * k.prog.nsweep }
      let bs := leBytes 5 row ++ List.replicate 3 0 ++ leBytes 6 (k.epoch + 1) ++ List.replicate 2 0 ++
        wc.flatMap (leBytes 2) ++ mc.flatMap (leBytes 2) ++ qc.flatMap (leBytes 2)
      let s := s.unitReads 4 k.epoch k.task (rowRanges t row (s.rowVersion t.layer row k.epoch))
      let s ← s.storeNext 4 k.epoch k.task (slotAt t k.epoch slot) (padTo (slotBytes t) bs)
      let v : RowVersion := ⟨t.layer, row, k.epoch + 1, slot⟩
      let s := { s with tilth := { s.tilth with directory := s.tilth.directory ++ [v] } }
      let limited := limitedAs (row * t.len / 2048) (mOut.2 ++ stat.2.2 ++ wOut.2)
      .ok (s.noteLimited t.layer limited,
        lanesFlags ls ||| flagsOr (mOut.2 ++ stat.2.2 ++ wOut.2) ||| red.2 ||| lanesFlags sl)
  | none, _ => .error (.nonfinite k.prog.mnAt)
  | _, none => .error (.nonfinite 0)

/-- The package that owns a row. -/
def rowOwner (t : SparseDecl) (row : Nat) : Option Nat :=
  (t.owners.find? fun o => o.1 ≤ row && row < o.1 + o.2.1).map fun o => o.2.2

end Sys2Proof.Machine
end

