-- ==== Sys2Proof/Machine/TilthRows.lean ====
section
/-! DEFINITION. Gradients and the update as events: hops of the reduction engines and gather units, folds, inversions,
sweeps, seals, the checks of shards that arrive, and the notices of a lend (R170 to R175, R236 to R244, R261, R274 to R303,
R361, R490 to R496). -/

namespace Sys2Proof.Machine

/-! ### Reduction hops (R236 to R240, R261, R361) -/

/-- R201: no part of a task goes on once it aborts. -/
def State.taskStops (s : State) (n : Nat) : Bool := (s.task n).phase == .aborting || (s.task n).phase == .aborted

def State.bucketSum (s : State) (spec : Bool) (i : Nat) : BucketSum :=
  mapGet {} (if spec then s.job.bucketsNext else s.job.buckets) i

def State.setBucketSum (spec : Bool) (i : Nat) (b : BucketSum) (s : State) : State :=
  if spec then { s with job := { s.job with bucketsNext := mapSet {} s.job.bucketsNext i b } }
  else { s with job := { s.job with buckets := mapSet {} s.job.buckets i b } }

/-- A contribution beyond the expected count, or a second final record (R238, R274). -/
def State.overCount (spec : Bool) (s : State) : State := if spec then s.specCause 5 else s.stepAbort 5

/-- A hop's record is not combined: its task aborts (R235). -/
def State.hopStops (l : Nat) (f : MemFault) (s : State) : State :=
  (s.taskCause (s.updateTask l)
    { cause := 0x0B, code := f.code, addr := f.addr, pkg := f.pkg, die := 4, tile := 0x1FF }).poisonNotice f

/-- What a hop raises: its flags in FLAGS, and NAN_SEEN (R240, R253). -/
def State.noteHop (o : HopOut) (spec : Bool) (s : State) : State :=
  let s := if spec then { s with job := { s.job with flagsNext := s.job.flagsNext ||| o.flags } }
    else { s with job := { s.job with st := { s.job.st with flags := s.job.st.flags ||| o.flags } } }
  if o.nan then s.nanSeen spec else s

/-- The first `k` records of a queue with tag `t`, and the rest. -/
def takeTagged (t : Nat) : Nat → List BucketRecord → List BucketRecord × List BucketRecord
  | _, [] => ([], [])
  | 0, l => ([], l)
  | k + 1, r :: rs =>
    if r.tag = t then
      let x := takeTagged t k rs
      (r :: x.1, x.2)
    else
      let x := takeTagged t (k + 1) rs
      (x.1, r :: x.2)

def State.setInlet (i : Nat) (l : List BucketRecord) (s : State) : State :=
  { s with job := { s.job with inlets := mapSet [] s.job.inlets i l } }

def State.setArrivals (i : Nat) (l : List BucketRecord) (s : State) : State :=
  { s with job := { s.job with arrivals := mapSet [] s.job.arrivals i l } }

/-- A hop within the package: the running record, when there is one, and records of the inlet. -/
def State.hopInto (i : Nat) (d : BucketDecl) (spec : Bool) (first : BucketRecord) (rest : List BucketRecord) (s : State) :
    State :=
  let (g, s) := s.drawBelow 256
  let o := hopSum g first rest
  let s := s.countSource 2 4 0 0x0301 d.engine 1 spec
  let b := s.bucketSum spec i
  if d.contrib < o.record.contrib then s.overCount spec
  else if o.record.contrib = d.contrib then
    (s.setBucketSum spec i { b with contrib := none, whole := some o.record }).noteHop o spec
  else
    let e := if spec then s.job.epoch + 1 else s.job.epoch
    let w : Work := { epoch := e, spec := spec, head := { fkind := 1, stag := s.stepTag e } }
    match s.writeRange w d.buffer (bucketBytes o.record) with
    | (s, some f) => s.hopStops d.layer f
    | (s, none) => (s.setBucketSum spec i { b with contrib := some o.record.contrib }).noteHop o spec

def State.localHop (i : Nat) (d : BucketDecl) (n tag : Nat) (spec : Bool) (s : State) : State :=
  let b := s.bucketSum spec i
  let q := mapGet [] s.job.inlets i
  if b.whole.isSome then (s.setInlet i (takeTagged tag 1 q).2).overCount spec
  else
    match b.contrib with
    | none =>
      let x := takeTagged tag (min 5 (max 1 n)) q
      match x.1 with
      | [] => s
      | r :: rs => (s.setInlet i x.2).hopInto i d spec r rs
    | some _ =>
      let x := takeTagged tag (min 4 (max 1 n)) q
      let old := s.readRange s.hubWork d.buffer recordBytes
      match old.2 with
      | some f => s.hopStops d.layer f
      | none =>
        let run := parseBucket old.1
        if s.recordFits i run then (s.setInlet i x.2).hopInto i d spec { run with tag := tag } x.1
        else s.hopStops d.layer ⟨0x15, d.buffer, s.fab.coord⟩

/-- The place of a record in a unit's queue: behind those of earlier fc, and of its own fc those of engines up to its own
(R275). -/
def WaitingRecord.joins (w : WaitingRecord) (q : List WaitingRecord) : List WaitingRecord :=
  let ahead (x : WaitingRecord) : Bool := decide (x.at_ < w.at_) || (x.at_ == w.at_ && decide (x.engine ≤ w.engine))
  q.takeWhile ahead ++ [w] ++ q.dropWhile ahead

/-- The final record of a bucket goes to the unit of its slice, or to the lender of its shard (R170, R239, R274). -/
def State.deliverFinal (d : BucketDecl) (r : BucketRecord) (s : State) : State :=
  match s.shardDecl d.layer d.shard with
  | none => s
  | some h =>
    if h.remote then
      s.sendStream { fkind := 7, vc := 3, dst := h.lender, stag := s.stepTag s.job.epoch, task := s.updateTask d.layer }
        (bucketBytes r)
    else
      let a := d.bucket * 2048
      match (s.image Image.slices).findIdx? fun x =>
          x.layer == d.layer && x.shard == d.shard && x.first ≤ a && a + d.count ≤ x.first + x.rows * x.cols with
      | none => s.tilthStops d.layer 4 0 (.cause 0x0E)
      | some k =>
        let unit := ((s.image Image.slices)[k]?).elim 0 fun x => x.die * 8 + x.unit
        let q := mapGet [] s.tilth.waiting unit
        if (s.slice k).folded.contains d.bucket || q.any fun x => x.slice == k && x.record.bucket == d.bucket then s.stepAbort 5
        else
          let w : WaitingRecord := { slice := k, layer := d.layer, at_ := s.fc, engine := d.engine, record := r }
          { s with tilth := { s.tilth with waiting := mapSet [] s.tilth.waiting unit (w.joins q) } }

/-- A record leaves for another member of its collective. -/
def State.sendRecord (c : CollDecl) (dst : Nat) (r : BucketRecord) (s : State) : State :=
  s.sendStream
    { fkind := 6, dst := dst, stag := s.stepTag s.job.epoch, coll := c.number + c.members.idxOf s.fab.coord * 2 ^ 16
      task := c.task, ctx := c.contexts.getD (c.members.idxOf dst) 0 } (bucketBytes r)

/-- Where a bucket's sum goes in a reduction, and how many arrivals join it first: the owner takes all in DIRECT and the
last of the chain in a ring; a ring starts after the owner, and RING2 turns odd buckets the other way. -/
def reducePlan (c : CollDecl) (owner self bucket : Nat) : Option Nat × Nat :=
  let n := c.members.length
  if c.algorithm = 0 then if self = owner then (none, n - 1) else (some owner, 0)
  else
    let back := c.algorithm = 2 ∧ bucket % 2 = 1
    let at_ (k : Nat) : Nat := c.members.getD (k % n) owner
    let i := c.members.idxOf self
    let o := c.members.idxOf owner
    let next := at_ (if back then i + n - 1 else i + 1)
    let first := if back then (o + n - 1) % n else (o + 1) % n
    let need := if n ≤ 1 ∨ i = first then 0 else 1
    (if self = owner then none else some next, need)

/-- A whole bucket moves on once every arrival it waits for has joined (R239, R261, R361). -/
def State.advanceBucket (i : Nat) (d : BucketDecl) (s : State) : State :=
  let b := s.bucketSum false i
  match b.whole, s.shardDecl d.layer d.shard with
  | some r, some h =>
    let owner := h.owners.headD 0
    let c := d.coll.bind fun n => (s.image Image.collectives).find? fun c => c.number == n
    let plan := c.elim (none, 0) fun c => reducePlan c owner s.fab.coord d.bucket
    if b.passed || b.joined < plan.2 then s
    else
      let s := s.setBucketSum false i { b with passed := true }
      match plan.1, c with
      | some dst, some c => s.sendRecord c dst r
      | _, _ =>
        let all := c.filter fun c => c.op == 3
        let s := all.elim s fun c => (c.members.filter (· != s.fab.coord)).foldl (fun (s : State) p => s.sendRecord c p r) s
        if !s.owns h then s
        else if all.isSome && !h.remote && !(s.image Image.slices).any fun x => x.layer == d.layer && x.shard == d.shard then s
        else s.deliverFinal d r
  | _, _ => s

/-- Arrivals join a whole bucket, up to four in one hop.  After an all-reduce, the owner's record is the result, which stays with
the engine (R239). -/
def State.reduceHop (i : Nat) (d : BucketDecl) (n tag : Nat) (s : State) : State :=
  let b := s.bucketSum false i
  let x := takeTagged tag (min 4 n) (mapGet [] s.job.arrivals i)
  match b.whole, x.1 with
  | some w, r :: rs =>
    if b.passed then
      let all := (d.coll.bind fun n => (s.image Image.collectives).find? fun c => c.number == n).any fun c => c.op == 3
      if all then (s.setArrivals i x.2).setBucketSum false i { b with whole := some r } else (s.setArrivals i x.2).overCount false
    else
      let (g, s) := (s.setArrivals i x.2).drawBelow 256
      let o := hopSum g w (r :: rs)
      let s := s.countSource 2 4 0 0x0301 d.engine 1 false
      (s.setBucketSum false i { b with whole := some o.record, joined := b.joined + (rs.length + 1) }).noteHop o false
  | _, _ => s

/-! ### Row gradients (R300) -/

def State.rowSum (s : State) (l row : Nat) (spec : Bool) : Option BucketRecord :=
  (s.job.rowSums.find? fun x => x.layer == l && x.row == row && x.next == spec).map RowSum.record

def State.setRowSum (l row : Nat) (spec : Bool) (r : Option BucketRecord) (s : State) : State :=
  let rest := s.job.rowSums.filter fun x => !(x.layer == l && x.row == row && x.next == spec)
  { s with job := { s.job with rowSums := rest ++ (r.map fun r => (⟨l, row, spec, r⟩ : RowSum)).toList } }

/-- A gather unit adds records of one row; the sum of a row of another owner goes on to it, once its epoch is E. -/
def State.rowHop (t : SparseDecl) (spec : Bool) (rs : List BucketRecord) (s : State) : State :=
  match rs with
  | [] => s
  | r :: rest =>
    let row := rowOf r
    let (g, s) := s.drawBelow 256
    let o := match s.rowSum t.layer row spec with
      | some old => hopSum g old (r :: rest)
      | none => hopSum g r rest
    (s.setRowSum t.layer row spec (some o.record)).noteHop o spec

/-- Sums of rows that other packages own leave (R261, R300). -/
def State.passRows (t : SparseDecl) (s : State) : State :=
  match (s.image Image.collectives).find? fun c => c.number == t.coll with
  | none => s
  | some c =>
    let away := s.job.rowSums.filter fun x =>
      x.layer == t.layer && !x.next && (rowOwner t x.row).any fun p => p != s.fab.coord
    away.foldl (fun (s : State) x =>
      (s.setRowSum x.layer x.row false none).sendRecord c ((rowOwner t x.row).getD 0) x.record) s

/-- The oldest row gradients of a table, of one row and one tag, up to `n` and to what one hop takes. -/
def State.gatherHop (i : Nat) (t : SparseDecl) (n : Nat) (s : State) : State :=
  let here := mapGet [] s.job.inlets i
  let there := mapGet [] s.job.arrivals i
  let fromInlet := !here.isEmpty
  match here ++ there with
  | [] => s
  | r :: _ =>
    let spec := r.tag == s.stepTag (s.job.epoch + 1)
    let like (x : BucketRecord) : Bool := x.tag == r.tag && rowOf x == rowOf r
    let most := if (s.rowSum t.layer (rowOf r) spec).isSome then 4 else 5
    let q := if fromInlet then here else there
    let now := (q.filter like).take (min most (max 1 n))
    let rest := now.foldl (fun (l : List BucketRecord) x => l.erase x) q
    let s := if fromInlet then s.setInlet i rest else s.setArrivals i rest
    if !fromInlet && spec then s.setArrivals i q
    else s.rowHop t spec now

/-- Slices of a layer with their numbers, by their first elements. -/
def State.slicesOf (s : State) (l : Nat) : List (SliceDecl × Nat) :=
  inOrder (fun p => p.1.first) ((s.image Image.slices).zipIdx.filter fun p =>
    p.1.layer == l && !((s.shardDecl l p.1.shard).any ShardDecl.remote))

/-- The task that the hops of a bucket belong to: its collective's, or the layer's update task. -/
def State.hopTask (s : State) (d : BucketDecl) : Nat :=
  ((d.coll.bind fun n => (s.image Image.collectives).find? fun c => c.number == n).map CollDecl.task).getD (s.updateTask d.layer)

/-- Every expected bucket that this package owns of a layer has been folded here, or has gone to the lender. -/
def State.contributionsDone (s : State) (l : Nat) : Bool :=
  (s.image Image.buckets).zipIdx.all fun p =>
    p.1.layer != l ||
      match s.shardDecl l p.1.shard with
      | none => true
      | some h =>
        !s.owns h ||
          (if h.remote then (s.bucketSum false p.2).passed
           else (s.slicesOf l).any fun x => x.1.shard == p.1.shard && (s.slice x.2).folded.contains p.1.bucket)

/-- R287: the fc in which a layer's contributions are complete here is kept. -/
def State.noteComplete (l : Nat) (s : State) : State :=
  if s.contributionsDone l && !s.tilth.complete.any fun c => c.1 == l then
    { s with tilth := { s.tilth with complete := s.tilth.complete ++ [(l, s.fc)] } }
  else s

/-- REDUCTION_HOP: engine or gather unit number `bucket` takes up to `inputs` records that wait, and passes on what is
complete. -/
def execReductionHop (bucket inputs : Nat) (s : State) : Host.Outcome State Fault Refusal :=
  ok (let E := s.job.epoch
    let now := s.stepTag E
    match (s.image Image.buckets)[bucket]?, (s.image Image.sparse)[bucket - (s.image Image.buckets).length]? with
    | some d, _ =>
      if s.taskStops (s.hopTask d) then s
      else match mapGet [] s.job.inlets bucket with
      | r :: _ =>
        let spec := r.tag != now
        let s := s.localHop bucket d inputs r.tag spec
        if spec then s else (s.advanceBucket bucket d).noteComplete d.layer
      | [] => ((s.reduceHop bucket d inputs now).advanceBucket bucket d).noteComplete d.layer
    | none, some t =>
      if ((s.image Image.collectives).find? fun c => c.number == t.coll).any fun c => s.taskStops c.task then s
      else (s.gatherHop bucket t inputs).passRows t
    | none, none => s)

/-! ### TILTH_FOLD (R282, R284) -/

/-- The first fold of the epoch has begun: settings deferred to it take effect. -/
def State.foldBegins (s : State) : State :=
  let due := ((s.job.deferred.filter fun d => d.kind == 3 && d.value ≤ s.job.epoch).map Deferred.value).eraseDups
  due.foldl (fun (s : State) v => s.pointReached 3 v) s

/-- The record that a unit takes next: the first of its queue whose layer's update task has not aborted. -/
def State.nextRecord (s : State) (unit : Nat) : Option WaitingRecord :=
  (mapGet [] s.tilth.waiting unit).find? fun w => !s.taskStops (s.updateTask w.layer)

/-- TILTH_FOLD: the record that the unit of slice number `slice` takes next is folded, when it is one of that slice, 64 fc after
the record before it at the earliest (R275). -/
def execTilthFold (slice : Nat) (s : State) : Host.Outcome State Fault Refusal :=
  ok (match (s.image Image.slices)[slice]? with
    | none => s
    | some x =>
      let unit := x.die * 8 + x.unit
      match s.nextRecord unit with
      | none => s
      | some w =>
        if s.job.st.phase ≠ .running ∨ w.slice ≠ slice then s
        else
          let s := (s.foldBegins).toFc (mapGet 0 s.tilth.busyTo unit)
          let s := { s with tilth := { s.tilth with
            waiting := mapSet [] s.tilth.waiting unit ((mapGet [] s.tilth.waiting unit).erase w)
            busyTo := mapSet 0 s.tilth.busyTo unit (s.fc + 64) } }
          (s.unitAct slice x (s.foldRecord (s.tilthWork x.layer) x w.record (s.slice slice))).noteComplete x.layer)

/-! ### Inversion, sweep and seal (R287 to R291) -/

def State.hasUpdate (s : State) (l : Nat) : Bool :=
  s.ownedLayers.contains l || (s.image Image.sparse).any fun t => t.layer == l

/-- INVERSION_PHASE: the blocks of one slice are inverted; each that falls back counts in SINGULAR. -/
def execInversionPhase (slice : Nat) (s : State) : Host.Outcome State Fault Refusal :=
  ok (match (s.image Image.slices)[slice]? with
    | none => s
    | some x =>
      let k := s.tilthWork x.layer
      let st := s.slice slice
      if s.job.st.phase ≠ .running || s.taskStops k.task || !k.prog.precond || st.inverted || !s.contributionsDone x.layer then s
      else
        match s.invertSlice k x with
        | .error e => s.tilthStops x.layer x.die x.unit e
        | .ok (inv, n) =>
          let t := { s.job.st with singular := min 65535 (s.job.st.singular + n) }
          { s with
            job := { s.job with st := t }
            tilth := { s.tilth with slices := mapSet {} s.tilth.slices slice { st with inverses := inv, inverted := true } } })

/-- A held layer whose hold TILTH_SWEEP has not lifted (R291). -/
def State.sweepHeld (s : State) (l : Nat) : Bool :=
  ((s.slicesOf l).any fun x => x.1.hold) && !s.tilth.released.contains l

/-- R287: no unit of the layer has still to sweep a layer that was complete before it, or with it and of a lower number. -/
def State.sweepTurn (s : State) (l : Nat) : Bool :=
  let at_ (n : Nat) : Nat := ((s.tilth.complete.find? fun c => c.1 == n).map Prod.snd).getD s.fc
  let done_ (n : Nat) : Bool := s.job.sealed.contains n || (s.tilth.sweptLayers.any fun x => x.1 == n) || s.sweepHeld n ||
    s.taskStops (s.updateTask n)
  let shared (n : Nat) : Bool := (s.slicesOf n).any fun x => (s.slicesOf l).any fun y => x.1.die == y.1.die && x.1.unit == y.1.unit
  s.tilth.complete.all fun c =>
    c.1 == l || decide (at_ l < c.2) || (c.2 == at_ l && decide (l < c.1)) || done_ c.1 || !shared c.1

/-- SWEEP_START: the closes run, and the lenders of the layer hear that its contributions are complete. -/
def execSweepStart (layer : Nat) (s : State) : Host.Outcome State Fault Refusal :=
  let xs := s.slicesOf layer
  let k := s.tilthWork layer
  let ready := s.job.st.phase == .running && s.hasUpdate layer && !s.tilth.sweeping.contains layer && !s.taskStops k.task &&
    s.contributionsDone layer && (!k.prog.precond || xs.all fun x => (s.slice x.2).inverted) && !s.sweepHeld layer &&
    s.sweepTurn layer
  ok (if ready then
    let s := (s.noteComplete layer).foldBegins
    let s := { s with tilth := { s.tilth with sweeping := s.tilth.sweeping ++ [layer] } }
    let lenders := (((s.image Image.shards).filter fun h => h.layer == layer && h.remote && s.owns h).map
      ShardDecl.lender).eraseDups
    let s := lenders.foldl (fun (s : State) p =>
      s.sendNotice { code := 0x0A, dst := p, epoch := s.job.epoch, attempt := s.job.st.attempt, arg := layer }) s
    xs.foldl (fun (s : State) x => s.unitAct x.2 x.1 (s.closeSlice k x.1 (s.slice x.2))) s
  else s)

/-- Every row of a layer's tables that this package owns is updated. -/
def State.sweepRows (layer : Nat) (s : State) : State :=
  let k := s.tilthWork layer
  ((s.image Image.sparse).filter fun t => t.layer == layer).foldl (fun (s : State) t =>
    (s.job.rowSums.filter fun x => x.layer == layer && !x.next).foldl (fun (s : State) x =>
      match s.rowUpdate k t x.row x.record with
      | .ok (s, f) =>
        { (s.setRowSum layer x.row false none) with
          tilth := { s.tilth with unitFlags := mapSet 0 s.tilth.unitFlags 32 (mapGet 0 s.tilth.unitFlags 32 ||| f) } }
      | .error e => s.tilthStops layer 4 0 e) s) s

/-- A confirmed digest of the table (R490). -/
def State.knownDigest (s : State) (l n : Nat) : Option (BitVec 64) :=
  (s.job.digests.find? fun d => d.1 == l * 65536 + n).map Prod.snd

/-- The digest of a shard's frame that is current in epoch `e` (R243). -/
def State.digestAt (s : State) (h : ShardDecl) (e : Nat) : BitVec 64 := shardDigest (s.readAt e h.addr (shardLen h)).1 e

/-- R289 to R291, R491, R494: the next digests of owned shards are complete, their current ones are compared, and the flags
of the units go to FLAGS. -/
def State.sweepEnds (layer : Nat) (s : State) : State :=
  let E := s.job.epoch
  let mine := (s.image Image.shards).filter fun h => h.layer == layer && s.owns h && !h.remote
  let units := ((s.slicesOf layer).map fun x => x.1.die * 8 + x.1.unit) ++ [32]
  let flags := flagsOr (units.map fun u => mapGet 0 s.tilth.unitFlags u)
  let s := { s with
    tilth := { s.tilth with
      sweptLayers := s.tilth.sweptLayers ++ [(layer, s.fc)]
      unitFlags := units.foldl (fun m u => mapSet 0 m u 0) s.tilth.unitFlags }
    job := { s.job with st := { s.job.st with flags := s.job.st.flags ||| flags } } }
  mine.foldl (fun (s : State) h =>
    let key := h.layer * 65536 + h.shard
    let s := { s with job := { s.job with nextDigests := mapSet 0 s.job.nextDigests key (s.digestAt h (E + 1)) } }
    if (s.knownDigest h.layer h.shard).any fun d => d != s.digestAt h E then
      let s := { s with
        job := { s.job with toRepair := s.job.toRepair ++ [(h.layer, h.shard)] }
        tilth := { s.tilth with sweptLayers := s.tilth.sweptLayers.filter fun x => x.1 != layer } }
      s.tilthStops layer 4 0 (.cause 0x11)
    else s) s

/-- SWEEP_COMPLETE: the layer's slices and rows have been swept. -/
def execSweepComplete (layer : Nat) (s : State) : Host.Outcome State Fault Refusal :=
  let k := s.tilthWork layer
  let xs := s.slicesOf layer
  let go := s.job.st.phase == .running && s.tilth.sweeping.contains layer &&
    !(s.tilth.sweptLayers.any fun x => x.1 == layer) && !s.job.sealed.contains layer && !s.taskStops k.task && s.sweepTurn layer &&
    xs.all fun x => (s.slice x.2).closed
  ok (if go then
    let s := xs.foldl (fun (s : State) x => s.unitAct x.2 x.1 (s.sweepSlice k x.1 (s.slice x.2))) s
    let s := s.sweepRows layer
    if (xs.all fun x => (s.slice x.2).swept) && !(s.job.rowSums.any fun x => x.layer == layer && !x.next) then
      s.sweepEnds layer
    else s
  else s)

/-- Every shard of a layer that the package holds is sealed. -/
def State.layerSealed (s : State) (l : Nat) : Bool :=
  (s.image Image.shards).all fun h => h.layer != l || !h.held || s.job.received.contains (h.layer, h.shard)

/-- A layer whose shards here are all sealed joins the list (R244). -/
def State.noteSealed (l : Nat) (s : State) : State :=
  if s.layerSealed l && !s.job.sealed.contains l then { s with job := { s.job with sealed := s.job.sealed ++ [l] } } else s

/-- The pieces of an all-gather that carry a shard leave for their members, its digest behind the last bytes (R244, R289, R355). -/
def State.gatherShard (h : ShardDecl) (s : State) : State :=
  match (s.image Image.collectives).find? fun c => c.number == h.gather && (c.op == 2 || c.op == 3) with
  | none => s
  | some c =>
    (c.pieces.filter fun p => h.addr ≤ p.src && p.src + p.len ≤ h.addr + shardLen h).foldl (fun (s : State) p =>
      if p.dst = s.fab.coord then s
      else
        s.sendStream
          { fkind := 6, dst := p.dst, laddr := p.addr, stag := s.stepTag s.job.epoch, task := c.task
            coll := c.number + c.members.idxOf s.fab.coord * 2 ^ 16, ctx := c.contexts.getD (c.members.idxOf p.dst) 0 }
          (let bs := (s.readAt (s.job.epoch + 1) p.src p.len).1
           if p.src + p.len = h.addr + shardLen h then withDigest bs (s.digestAt h (s.job.epoch + 1)) else bs)) s

/-- TILTH_SWEEPs of a layer whose sweep has ended are answered (R291). -/
def State.sweepAnswered (l : Nat) (s : State) : State :=
  let now := s.rs.aux.filterMap fun (e : Nat × RingAux) => if e.2.work = some (.sweep l) then e.2.current else none
  now.foldl (fun (s : State) a => s.done a [])
    { s with tilth := { s.tilth with released := s.tilth.released.filter (· != l) } }

/-- LAYER_SEAL: 16 fc after the sweep, once every copy frame of a REMOTE shard has come back (R173). -/
def execLayerSeal (layer : Nat) (s : State) : Host.Outcome State Fault Refusal :=
  let mine := (s.image Image.shards).filter fun h => h.layer == layer && s.owns h
  let back := mine.all fun h => !h.remote || s.job.received.contains (h.layer, h.shard)
  ok (match s.tilth.sweptLayers.find? fun x => x.1 == layer with
    | some x =>
      if s.job.st.phase ≠ .running || !back then s
      else
        let s := s.toFc (x.2 + 16)
        let k := s.tilthWork layer
        let s := s.applyAtSeal layer
        let s := s.sealRanges (((s.image Image.slices).filter fun x => x.layer == layer).flatMap (sliceRanges k.prog))
        let home := mine.filter fun h => !h.remote
        let s := s.sealRanges (home.map fun h => (h.addr, shardLen h))
        let pend := if s.ownedLayers.contains layer then s.job.st.layersPending - 1 else s.job.st.layersPending
        let s := { s with
          tilth := { s.tilth with sweptLayers := s.tilth.sweptLayers.filter fun y => y.1 != layer }
          job := { s.job with
            st := { s.job.st with layersPending := pend }
            received := home.foldl (fun (l : List (Nat × Nat)) (h : ShardDecl) => pairInsert l (h.layer, h.shard)) s.job.received } }
        let s := s.noteSealed layer
        let s := if (s.image Image.shards).any fun h => h.layer == layer && h.held then s
          else { s with job := { s.job with sealed := s.job.sealed ++ [layer] } }
        (mine.foldl (fun (s : State) h => s.gatherShard h) s).sweepAnswered layer
    | none => s)

/-- TILTH_SWEEP (R291): the command is in progress until the held layer's sweep has ended. -/
def execTilthSweep (ring : Nat) (s : State) : Host.Outcome State Fault Refusal :=
  ok (s.command 0x49 ring fun c s =>
    paramOr c [(16, 2)] false true (fun s =>
      let l := c.p 16 2
      if !s.runActive || !((s.slicesOf l).any fun x => x.1.hold) || s.tilth.sweeping.contains l ||
          s.tilth.released.contains l then s.refuse c.ask refState
      else
        let s := s.auditFor c.ask 0x207 l [] []
        let s := { s with tilth := { s.tilth with released := s.tilth.released ++ [l] } }
        s.setAux c.ask.ring { s.aux c.ask.ring with current := some c.ask, work := some (.sweep l), slices := 1 }) s)

/-! ### Shards that arrive (R173, R244, R368, R492, R493, R496) -/

/-- A shard's next frames agree with the digest: they are sealed, and the digest is confirmed. -/
def State.shardArrived (h : ShardDecl) (d : BitVec 64) (s : State) : State :=
  let s := s.sealRanges [(h.addr, shardLen h)]
  let pend := if s.owns h then s.job.st.recvPending else s.job.st.recvPending - 1
  let s := { s with job := { s.job with
    st := { s.job.st with recvPending := pend }
    nextDigests := mapSet 0 s.job.nextDigests (h.layer * 65536 + h.shard) d
    received := pairInsert s.job.received (h.layer, h.shard) } }
  s.noteSealed h.layer

/-- A mismatch: the shard is fetched once more, and then its all-gather's task aborts. -/
def State.shardMismatch (h : ShardDecl) (s : State) : State :=
  if s.job.refetched.contains (h.layer, h.shard) then
    s.taskCause (s.gatherCtx h).2 { cause := 0x11, die := 4, tile := 0x1FF }
  else
    let s := { s with job := { s.job with refetched := pairInsert s.job.refetched (h.layer, h.shard) } }
    s.askShard h (if s.owns h then none else (h.owners.map fun p => (p, h.ownerAddr)).head?) (s.job.epoch + 1)

/-- A shard under repair: the frame agrees with the table, or the next source is tried. -/
def State.repairCheck (h : ShardDecl) (k : Nat) (s : State) : State :=
  if (s.knownDigest h.layer h.shard).any fun d => d == s.digestAt h s.job.epoch then
    let src := match (s.repairSources h)[k]? with
      | some (some p) => p.1
      | _ => h.lender
    let s := s.repairedFrom h src
    let rest := s.job.repairing.filter fun r => !(r.1 == h.layer && r.2.1 == h.shard)
    ({ s with job := { s.job with repairing := rest } }).tryStopped
  else (s.tryRepair h.layer h.shard (k + 1)).tryStopped

/-- SHARD_DIGEST_CHECK: the shard's bytes have landed; the digest is the one that came behind them, or `digest` where none has
been kept (notes/assumptions/95). -/
def execShardDigestCheck (layer shard : Nat) (digest : BitVec 64) (s : State) : Host.Outcome State Fault Refusal :=
  let digest := ((s.job.digestsIn.find? fun d => d.1 == layer * 65536 + shard).map Prod.snd).getD digest
  ok (match s.shardDecl layer shard with
    | none => s
    | some h =>
      match s.job.repairing.find? fun r => r.1 == layer && r.2.1 == shard with
      | some r => s.repairCheck h r.2.2
      | none =>
        if !h.held || s.job.received.contains (layer, shard) then s
        else if s.job.permuting then
          if s.digestAt h s.job.epoch = digest then
            { s with job := { s.job with
              received := pairInsert s.job.received (layer, shard)
              digests := mapSet 0 s.job.digests (layer * 65536 + shard) digest } }
          else
            ({ s with job := { s.job with digests := mapSet 0 s.job.digests (layer * 65536 + shard) digest } }).tryRepair
              layer shard 0
        else if s.job.st.phase ≠ .running || (s.owns h && !h.remote) then s
        else if s.digestAt h (s.job.epoch + 1) = digest then s.shardArrived h digest
        else s.shardMismatch h)

/-- GATHER_LOOKUP: a gather unit serves the weights of one row to work of E, or of E + 1 (R302), and counts it for its number
(GATHER_ROWS, Table 18.2; notes/assumptions/104). -/
def execGatherLookup (layer row : Nat) (next : Bool) (s : State) : Host.Outcome State Fault Refusal :=
  ok (match (s.image Image.sparse).find? fun t => t.layer == layer with
    | none => s
    | some t =>
      if t.rows ≤ row then s
      else
        let s := s.countSource 2 4 0 0x0302 (Config.rowUnit layer row s.fc % 8) 1 next
        match s.rowBytes t row (if next then s.job.epoch + 1 else s.job.epoch) with
        | .ok b => { s with tilth := { s.tilth with gathered := b.1 } }
        | .error (.fault f) => s.poisonNotice f
        | .error _ => s)

/-! ### Notices of a lend -/

/-- LAYER_COMPLETE reaches the lender (R172); `lent` is what it holds of the layer for the owner. -/
def execLayerCompleteNotice (src : Nat) (lent : LentLayer) (s : State) : Host.Outcome State Fault Refusal :=
  ok (s.withNotice 0x0A src (fun n _ s =>
    if lent.layer ≠ n.arg % 65536 then s
    else ((s.ownerJob src n.job).seeOwner src n.epoch).lentSweep src n.epoch n.job lent))

/-- OWNER_COMMIT reaches the lender: the frames that are current from now on open (R175). -/
def execOwnerCommitNotice (src : Nat) (s : State) : Host.Outcome State Fault Refusal :=
  ok (s.withNotice 0x0B src (fun n _ s => (s.ownerJob src n.job).seeOwner src (n.epoch + 1)))

end Sys2Proof.Machine
end

