-- ==== Sys2Proof/Machine/Fabric.lean ====
section
/-! DEFINITION. The fabric as events and commands: frames and control flits that arrive, ports that train, the topology
record (R163, R170 to R175, R233, R332 to R361, R476). -/

namespace Sys2Proof.Machine

/-! ### What a package does with a frame (R342, R356, R357) -/

/-- NFLIT and VC agree with Table 11.5, and the data fill the flits (the last may be short). -/
def frameShape (f : Frame) : Bool :=
  let n := f.nflit
  let some_ (most : Nat) : Bool := decide (1 ≤ n) && decide (n ≤ most) && flitsOf f.data.length == n
  let none_ : Bool := n == 0 && f.data.isEmpty
  match f.fkind with
  | 1 | 4 => some_ 32768 && (f.vc == 1 || f.vc == 3)
  | 2 => some_ 24576 && f.vc == 1
  | 3 => none_ && (f.vc == 0 || f.vc == 3) && decide (1 ≤ f.opx) && decide (f.opx ≤ 32768)
  | 5 => none_ && (f.vc == 0 || f.vc == 3)
  | 6 => some_ 32768 && f.vc == 2
  | 7 => some_ 32768 && f.vc == 3
  | 8 => some_ 64 && f.vc == 0
  | _ => false

def reservedKind (k : Nat) : Bool := k == 0 || decide (9 ≤ k)

inductive FrameFate where
  | pass (port : Nat)
  | drop
  | refuse
  /-- acted on, as work of an epoch; `lent`: of a borrower. -/
  | take (w : Work) (lent : Bool)
  deriving DecidableEq, Repr

/-- The header that answers to a frame carry. -/
def answerHead (f : Frame) : Frame :=
  { fkind := 4, flags := f.flags % 2, vc := if f.vc = 3 then 3 else 1, dst := f.src, stag := f.stag, job := f.job
    ctx := f.ctx, task := f.task }

/-- R357: the transit rule, for what goes between `src` and `dst` under `job`, out by port `p`. -/
def State.mayTransit (s : State) (job src dst p : Nat) (lent : Bool) : Bool :=
  !s.jobRuns || job == s.jobId ||
    (lent && (s.mem.borrowers.contains src || s.mem.borrowers.contains dst) && s.mem.lendSlots.getD p 0 != 0)

/-- R356: the egress port of a transit frame; none when it is discarded. -/
def State.transitPort (s : State) (f : Frame) : Option Nat :=
  let ports := s.fab.portSet f.dst
  if f.hops = 0 then none
  else (ports[f.offset % ports.length]?).filter fun p => s.mayTransit f.job f.src f.dst p (f.vc == 3)

/-- R233: the epoch that a tag names on this package. -/
def State.tagEpoch (s : State) (tag : Nat) : Option Nat :=
  if tag = s.stepTag s.job.epoch then some s.job.epoch
  else if tag = s.stepTag (s.job.epoch + 1) then some (s.job.epoch + 1)
  else none

/-- The epoch of a borrower, from the low 28 bits that its tag holds and the latest epoch seen of it. -/
def State.ownerEpoch (s : State) (src tag : Nat) : Nat :=
  let low := tag % 2 ^ 28
  let seen := mapGet 0 s.tilth.lentEpoch src
  if seen = 0 then low
  else
    let e := (seen - 1) / 2 ^ 28 * 2 ^ 28 + low
    if e + 2 ^ 27 < seen then e + 2 ^ 28 else e

/-- The page that a frame addresses belongs to a borrower, or to nobody yet. -/
def State.lendsPage (s : State) (f : Frame) : Bool :=
  let p := s.mem.page (pageOf f.laddr)
  !p.valid || p.loc == .lent

/-- R342. -/
def State.frameFate (s : State) (f : Frame) : FrameFate :=
  if f.dst ≠ s.fab.coord then (s.transitPort f).elim .drop .pass
  else
    let own := s.jobRuns && f.job == s.jobId
    let borrower := s.mem.borrowers.contains f.src
    let mine := (f.fkind == 4 || f.fkind == 5) && s.mem.migrations.any fun m => m.ctx == f.ctx && m.lender == f.src
    let lent := borrower && (f.fkind == 7 ||
      ((f.fkind == 1 || f.fkind == 3) && (!own || (f.vc == 3 && s.lendsPage f))))
    let late := !s.ownerNow f.src f.job (s.ownerEpoch f.src f.stag) (f.stag / 2 ^ 28)
    let take (e : Nat) (lent : Bool) : FrameFate :=
      if reservedKind f.fkind || !frameShape f then .drop
      else .take { epoch := e, spec := !lent && e != s.job.epoch, head := answerHead f } lent
    if mine then take s.job.epoch false
    else if lent then if late then .drop else take (s.ownerEpoch f.src f.stag) true
    else if !own then if !borrower && (f.fkind == 1 || f.fkind == 3) then .refuse else .drop
    else
      match s.tagEpoch f.stag with
      | none => .drop
      | some e => take e false

/-! ### Arrival and answers -/

/-- The receiver's side of R343 and R347, and FLITS_RX. -/
def State.takeFlits (port : Nat) (f : Frame) (s : State) : State :=
  let p := s.port port
  let n := 1 + f.nflit
  let next := (p.expect + n) % 2048
  let freed := listSet4 p.freed (fun _ => 0) f.vc ((p.freed.getD f.vc 0 + n) % 2 ^ 32)
  (s.setPort port { p with expect := next, lastGood := (next + 2047) % 2048, nak := false, freed := freed }).countSource
    3 (portDie port) 0 0x0402 port n (f.flags % 2 == 1)

/-- The requesting stream ends with a memory fault. -/
def State.errorReply (f : Frame) (code : Nat) (s : State) : State :=
  s.sendHeader { answerHead f with fkind := 5, laddr := f.laddr, opx := code }

/-- R163: a request refused. -/
def State.refuseFrame (f : Frame) (s : State) : State := (s.count 1 1 false).errorReply f 4

/-- R165: a lender that has been silent answers again. -/
def State.answers (src : Nat) (s : State) : State :=
  if s.mem.silent.contains src then { s with mem := { s.mem with silent := setErase s.mem.silent src } } else s

/-- A frame of kind `kind` arrives by a port that is UP; a frame of a reserved kind is discarded whatever event brings
it. -/
def State.arrive (port kind : Nat) (f : Frame) (act : Work → Bool → State → State) (s : State) : State :=
  if s.host.fatal || (s.port port).state ≠ 2 || !(f.fkind = kind || reservedKind f.fkind) then s
  else
    let s := (s.takeFlits port f).answers f.src
    match s.frameFate f with
    | .pass q => s.sendFrame q { f with hops := f.hops - 1 }
    | .drop => s.count 0 1 (f.flags % 2 == 1)
    | .refuse => s.refuseFrame f
    | .take w lent => act w lent s

/-- The data of a stream in frame order, once every frame of it is here (R355). -/
def State.gatherStream (key : Nat) (f : Frame) (s : State) : Option (List Byte) × State :=
  let have_ := mapGet [] s.fab.pieces key ++ [(f.offset, bitOf f.flags 2, f.data)]
  let last := (have_.find? fun p => p.2.1).map fun p => p.1 + 1
  let set (l : List (Nat × Bool × List Byte)) : State :=
    { s with fab := { s.fab with pieces := mapSet [] s.fab.pieces key l } }
  if last = some have_.length then
    (some ((List.range have_.length).flatMap fun i => ((have_.find? fun p => p.1 == i).map fun p => p.2.2).getD []), set [])
  else (none, set have_)

/-- Pieces of streams whose tag names neither E nor E + 1 are gone. -/
def State.stalePieces (s : State) : State :=
  let live (k : Nat) : Bool := decide (2 ^ 64 ≤ k) || (s.tagEpoch (k % 2 ^ 32)).isSome
  { s with fab := { s.fab with pieces := s.fab.pieces.filter fun e => live e.1 } }

/-! ### A borrower's pages (R160 to R164) -/

/-- Frames of the lend that no page uses, the lowest `k`. -/
def MemState.lendFree (m : MemState) (k : Nat) : List Nat := freeFrames m.usedFrames 784384 m.jobFrames k |>.filter
  fun f => decide (f < 784384)

/-- The page of a borrower, made at its first access: an open, unbanked page on a cleared frame of the lend.  `theirs` is the
borrower's page number where the access tells it; until one does, LPAGE is a free value (notes/assumptions/91). -/
def State.lentPage (src page : Nat) (theirs : Option Nat) (s : State) : Option State :=
  let p := s.mem.page page
  if p.valid then
    if p.loc = .lent ∧ p.peer = src then
      some { s with mem := theirs.elim s.mem fun n => s.mem.setPage page { p with lpage := n } }
    else none
  else
    match s.mem.lendFree 1 with
    | [f] =>
      let (d, s) := s.drawBelow (2 ^ 27)
      let p : Page := { valid := true, loc := .lent, frame0 := f, peer := src, lpage := theirs.getD d }
      some { s with mem := (s.mem.clearFrame f).setPage page p }
    | _ => none

/-- Every page of a range, likewise; `to_`: the borrower's address of the range. -/
def State.lentRange (src la n : Nat) (to_ : Option Nat) (s : State) : Option State :=
  (chunksOf la n).foldl (fun (o : Option State) c => o.bind fun s =>
    s.lentPage src c.1 (to_.map fun a => pageOf a + (c.1 - pageOf la))) (some s)

/-- A page that holds training state is banked: what it holds stays current in epoch `e`. -/
def State.bankPage (src e page : Nat) (theirs : Option Nat) (s : State) : Option State :=
  (s.lentPage src page theirs).bind fun s =>
    let p := s.mem.page page
    if p.banked then some s
    else
      match s.mem.lendFree 1 with
      | [f] =>
        let q := if e % 2 = 0 then { p with banked := true, frame1 := f }
          else { p with banked := true, frame0 := f, frame1 := p.frame0 }
        some { s with mem := (s.mem.clearFrame f).setPage page q }
      | _ => none

/-- The pages of a slice's state; its weights return to the borrower's page. -/
def State.bankSlice (src e : Nat) (prog : TilthProgram) (x : LentSlice) (s : State) : Option State :=
  let pages (r : Nat × Nat) : List (Nat × Option Nat) := (chunksOf r.1 r.2).map fun c =>
    (c.1, if r.1 = x.slice.waddr then some (pageOf x.back + (c.1 - pageOf r.1)) else none)
  ((sliceRanges prog x.slice).flatMap pages).foldl
    (fun (o : Option State) n => o.bind fun s => s.bankPage src e n.1 n.2) (some s)

/-- A page of a range is sealed. -/
def State.sealedIn (s : State) (la n : Nat) : Bool := (chunksOf la n).any fun c => (s.mem.page c.1).state == .sealed

/-! ### WRITE, TILE_WRITE (R163, R173, R195, R342) -/

/-- Data written for the package's own job: the weights that a lender returns go to the copy frame that is next, which for work
of E + 1 is the sealed one (R143, R146). -/
def State.landWrite (w : Work) (f : Frame) (s : State) : State × Option MemFault :=
  let r := s.landDigest f.laddr f.data
  let s := r.2
  let p := s.mem.page (pageOf f.laddr)
  if p.valid && p.loc == .remote && p.copies && (f.fkind == 6 || p.peer == f.src) then
    if w.epoch ≠ s.job.epoch ∨ s.sealedIn f.laddr r.1.length then (s, some ⟨2, f.laddr / frameBytes * frameBytes, s.fab.coord⟩)
    else s.writeFrames (w.epoch + 1) false f.laddr r.1
  else s.writeRange w f.laddr r.1

/-- R175: a banked page of a range that is not open for work of epoch `e` of its borrower: the next frame of another epoch is a
sealed one. -/
def State.otherBank (s : State) (src e la n : Nat) : Bool :=
  let seen := mapGet 0 s.tilth.lentEpoch src
  seen != 0 && e + 1 != seen && (chunksOf la n).any fun c => (s.mem.page c.1).banked

/-- Work of a borrower arrives: its job and, within the epoch seen last, its attempt are noted (R149). -/
def State.ownerWork (src job e tag : Nat) (s : State) : State :=
  let s := s.ownerJob src job
  if mapGet 0 s.tilth.lentEpoch src = e + 1 then s.lentBegins src tag else s

/-- Data written for a borrower. -/
def State.lentWrite (w : Work) (f : Frame) (s : State) : State :=
  match (s.ownerWork f.src f.job w.epoch f.stag).lentRange f.src f.laddr f.data.length none with
  | none => s.refuseFrame f
  | some s =>
    if s.otherBank f.src w.epoch f.laddr f.data.length || s.sealedIn f.laddr f.data.length then s.errorReply f 2
    else
      match s.writeFrames (w.epoch + 1) false f.laddr f.data with
      | (s, some e) => s.errorReply f e.code
      | (s, none) => s.frameLanded f s.fc

/-- WRITE. -/
def execWrite (port : Nat) (f : Frame) (s : State) : Host.Outcome State Fault Refusal :=
  ok (s.arrive port 1 f fun w lent s =>
    if lent then s.lentWrite w f
    else
      match s.landWrite w f with
      | (s, some e) => s.errorReply f e.code
      | (s, none) => s.frameLanded f s.fc)

/-- TILE_WRITE: the rows enter the tile's silt one by one, from now on; the frame has landed with the last of them. -/
def execTileWrite (port : Nat) (f : Frame) (s : State) : Host.Outcome State Fault Refusal :=
  ok (s.arrive port 2 f fun _ _ s =>
    let a := f.laddr % 2 ^ 21
    match tileId? (f.dtile / 512 % 32) (f.dtile % 512) with
    | some id =>
      if siltIn a f.data.length then
        if f.data.isEmpty then s.frameLanded f s.fc
        else s.deliverRows id s.fc a f.data (some (.frame { f with data := [] }))
      else s
    | none => s)

/-! ### READ_REQ, READ_REPLY, ERROR_REPLY (R153, R163, R342) -/

/-- Part of a range lies on yet another package. -/
def State.reachesAway (s : State) (w : Work) (la n : Nat) : Bool :=
  (chunksOf la n).any fun c =>
    match s.mem.reachRead s.job.epoch w.epoch c.1 with
    | .away _ _ => true
    | _ => false

def State.replyData (w : Work) (f : Frame) (bs : List Byte) (s : State) : State :=
  s.sendStream { w.head with laddr := f.opy % 2 ^ 48 } bs

/-- A borrower reads its page: the frame that is current in the epoch of its tag, the next one once it is sealed. -/
def State.lentRead (w : Work) (f : Frame) (s : State) : State :=
  let n := f.opx * 64
  match (s.ownerWork f.src f.job w.epoch f.stag).lentRange f.src f.laddr n (some f.opy) with
  | none => s.refuseFrame f
  | some s =>
    let now := mapGet 0 s.tilth.lentEpoch f.src - 1
    let early := (chunksOf f.laddr n).any fun c =>
      let p := s.mem.page c.1
      p.banked && decide (now < w.epoch) && p.state == .open_
    if early then s.errorReply f 3
    else
      match s.readAt w.epoch f.laddr n with
      | (_, some e) => s.errorReply f e.code
      | (bs, none) => s.replyData w f bs

/-- READ_REQ. -/
def execReadReq (port : Nat) (f : Frame) (s : State) : Host.Outcome State Fault Refusal :=
  ok (s.arrive port 3 f fun w lent s =>
    let n := f.opx * 64
    if lent then s.lentRead w f
    else if s.reachesAway w f.laddr n then s.errorReply f 5
    else
      match s.readRange w f.laddr n with
      | (_, some e) => (s.errorReply f e.code).poisonNotice e
      | (bs, none) => (s.countRead w f.laddr n).replyData w f bs)

/-- The repair that data at an address of this package belong to. -/
def State.repairAt (s : State) (la : Nat) : Option (Nat × Nat × Nat) :=
  s.job.repairing.find? fun r =>
    (s.shardDecl r.1 r.2.1).any fun h => decide (h.addr ≤ la) && decide (la < h.addr + shardLen h)

/-- READ_REPLY: a shard under repair takes the data into its current frame, one that is fetched again into its next; any
other stream holds them until it completes. -/
def execReadReply (port : Nat) (f : Frame) (s : State) : Host.Outcome State Fault Refusal :=
  ok (s.arrive port 4 f fun w _ s =>
    let c := s.ctx f.ctx
    if (s.repairAt f.laddr).isSome then (s.writeCurrent f.laddr f.data).1
    else if c.kind = 3 then
      if c.state ≠ .ready ∧ c.state ≠ .active then s
      else match s.landWrite { w with epoch := s.job.epoch, spec := false } { f with fkind := 6 } with
      | (s, some e) => s.streamFail f.ctx e.code e.addr e.pkg
      | (s, none) => s.streamMoves f.ctx f.nflit
    else if c.state ≠ .active then s
    else
      let s := { s with fab := { s.fab with replies := s.fab.replies ++ [(f.ctx, f.laddr, f.data)] } }
      if c.kind = 6 then s.ctxMoved f.ctx f.nflit false else s)

/-- ERROR_REPLY: the stream ends with the fault; a repair goes on with its next source. -/
def execErrorReply (port : Nat) (f : Frame) (s : State) : Host.Outcome State Fault Refusal :=
  ok (s.arrive port 5 f fun _ _ s =>
    let code := f.opx % 256
    let c := s.ctx f.ctx
    let mine := s.job.repairing.find? fun r =>
      (s.shardDecl r.1 r.2.1).any fun h => s.gatherCtx h == (f.ctx, f.task)
    match mine with
    | some r => (s.tryRepair r.1 r.2.1 (r.2.2 + 1)).tryStopped
    | none =>
      if c.kind = 6 ∧ c.state = .active then s.setCtx f.ctx { c with fault := code }
      else s.streamFail f.ctx code (f.laddr / frameBytes * frameBytes) f.src)

/-! ### COLLECTIVE, GRAD_FORWARD, NOTICE_DATA -/

/-- The collective of the running image, or of the image whose permutation runs. -/
def State.collOf (s : State) (n : Nat) : Option CollDecl :=
  let here := (s.image Image.collectives).find? fun c => c.number == n
  if here.isSome then here
  else if s.job.permuting then
    ((s.job.standby.map Image.collectives).getD []).find? fun c => c.number == n && c.op == 6
  else none

/-- A fault in a member's part aborts the collective's task (R363). -/
def State.collFault (c : CollDecl) (f : MemFault) (s : State) : State :=
  (s.taskCause c.task { cause := 0x0B, code := f.code, addr := f.addr, pkg := f.pkg, die := 4, tile := 0x1FF }).poisonNotice f

/-- A record of a reduction that has arrived waits for its hop; one that agrees with no bucket is a fault (R235, R361). -/
def State.arriveRecord (c : CollDecl) (tag : Nat) (r : BucketRecord) (s : State) : State :=
  let n := (s.image Image.buckets).length
  let rows := (s.image Image.sparse).findIdx? fun t => t.coll == c.number && t.layer == r.layer
  let here := (s.image Image.buckets).findIdx? fun d =>
    d.coll == some c.number && d.layer == r.layer && d.shard == r.shard && d.bucket == r.bucket
  let i := match rows, here with
    | some k, none => some (n + k)
    | _, k => k
  match i with
  | some i =>
    if s.recordFits i r then s.setArrivals i (mapGet [] s.job.arrivals i ++ [{ r with tag := tag }])
    else s.collFault c ⟨0x15, 0, s.fab.coord⟩
  | none => s.collFault c ⟨0x15, 0, s.fab.coord⟩

/-- COLLECTIVE: records wait for their hops; other data are written, next frames in a step, current frames in a
permutation (R361, R367). -/
def State.arriveColl (c : CollDecl) (w : Work) (f : Frame) (s : State) : State :=
  let ctx := c.contexts.getD (c.members.idxOf s.fab.coord) 0
  if c.op = 1 ∨ c.op = 3 then
    let r := (s.stalePieces).gatherStream (f.coll * 2 ^ 32 + f.stag) f
    let s := r.2.streamMoves ctx f.nflit
    match r.1 with
    | none => s
    | some bs =>
      if bs.length % recordBytes ≠ 0 then s.collFault c ⟨0x15, 0, s.fab.coord⟩
      else (cutData recordBytes (bs.length / recordBytes + 1) bs).foldl (fun (s : State) b =>
        s.arriveRecord c f.stag (parseBucket b)) s
  else if c.op = 6 then
    let r := s.permuteLands f.laddr f.data
    match r.2 with
    | some e => r.1.collFault c e
    | none => r.1
  else
    let r := s.landWrite w f
    match r.2 with
    | some e => r.1.collFault c e
    | none => r.1.streamMoves ctx f.nflit

def execCollective (port : Nat) (f : Frame) (s : State) : Host.Outcome State Fault Refusal :=
  ok (s.arrive port 6 f fun w _ s =>
    match s.collOf (f.coll % 65536) with
    | none => s
    | some c =>
      if (s.ctx (c.contexts.getD (c.members.idxOf s.fab.coord) 0)).state = .aborted ∧ c.op ≠ 6 then s
      else s.arriveColl c w f)

/-- GRAD_FORWARD (R170, R172, R175): the lender's reserved units fold the records; `lent` is what it holds of the layer. -/
def execGradForward (port : Nat) (f : Frame) (lent : LentLayer) (s : State) : Host.Outcome State Fault Refusal :=
  ok (s.arrive port 7 f fun w _ s =>
    if s.mem.lendTilth = 0 then s
    else
      let s := ((s.ownerJob f.src f.job).seeOwner f.src w.epoch).lentBegins f.src f.stag
      let r := s.gatherStream (2 ^ 64 + f.src * 2 ^ 32 + f.stag) f
      match r.1 with
      | none => r.2
      | some bs =>
        let prog := (r.2.lentWork w.epoch lent).prog
        match lent.slices.foldl (fun (o : Option State) x => o.bind fun s => s.bankSlice f.src w.epoch prog x) (some r.2) with
        | none => r.2
        | some s =>
          (cutData recordBytes (bs.length / recordBytes + 1) bs).foldl (fun (s : State) b =>
            let r := parseBucket b
            if b.length = recordBytes ∧ r.layer = lent.layer then s.lentFold f.src w.epoch lent r else s) s)

/-- NOTICE_DATA (R350): the content waits for its notice. -/
def execNoticeData (port : Nat) (f : Frame) (s : State) : Host.Outcome State Fault Refusal :=
  ok (s.arrive port 8 f fun _ _ s =>
    { s with fab := { s.fab with noticeData := s.fab.noticeData ++ [(f.src, f.data)] } })

/-! ### Control flits (R343, R344, R347, R349, R353, R356, R476) -/

/-- A notice reaches the hub, or goes on to its destination. -/
def State.arriveNotice (n : Notice) (s : State) : State :=
  let s := s.answers n.src
  if n.code = 0 then s
  else if n.dst = s.fab.coord then { s with fab := { s.fab with noticesIn := s.fab.noticesIn ++ [n] } }
  else
    match s.fab.portSet n.dst with
    | p :: _ =>
      if s.mayTransit n.job n.src n.dst p (n.code == 0x0A || n.code == 0x0B) then
        { s with fab := { s.fab with sentNotices := s.fab.sentNotices ++ [(p, n)] } }
      else s.count 0 1 false
    | [] => s.count 0 1 false

/-- The peer's physical lane, as this end of the cable numbers it. -/
def ownLane (port lane : Nat) : Nat := if lane < 16 then 4 * (port % 4) + lane % 4 else spareLane port

/-- The four lanes of MAP (LANES of Table 11.3). -/
def mapLanes (m : Nat) : List Nat := (List.range 4).map fun i => bitsOf m (5 * i + 4) (5 * i)

/-- The peer changes its lane map or narrows: this end follows at the same wheel turn.  No frame flit leaves for 40 sc while a
spare lane trains (R336). -/
def State.followMap (port : Nat) (c : ControlFlit) (s : State) : State :=
  let p := s.port port
  let lanes := (mapLanes c.map).map (ownLane port)
  let p' := { p with lanes := lanes }
  if c.width = 1 ∧ p.width = 0 then (s.setPort port { p' with width := 1 }).portNarrowed port
  else if p.width = 0 ∧ lanes ≠ p.lanesOf port then s.setPort port { p' with quiet := (s.sc + 40) % 2 ^ 48 + 1 }
  else s

/-- Flits in the replay buffer, of the frames that have any there: the last `left`. -/
def stillOut (left : Nat) : List (Nat × Bool × Option Nat) → List (Nat × Bool × Option Nat)
  | [] => []
  | f :: l =>
    let behind := (l.map Prod.fst).sum
    if left ≤ behind then stillOut left l else (min f.1 (left - behind), f.2) :: l

/-- R221, R345: flits of a stream are sent again by a port, which counts as `k` retries; one retry more than the margin aborts
its task. -/
def State.retried (port k ctx : Nat) (s : State) : State :=
  let key := 16 * ctx + port
  let n := mapGet 0 s.fab.retries key + k
  let s := { s with fab := { s.fab with retries := mapSet 0 s.fab.retries key n } }
  if s.margins.2.2 < n ∧ (s.ctx ctx).state = .active then s.streamFail ctx 0x11 0 s.fab.coord else s

/-- The control flit that a port sends in slot 31 of a turn, with the notice whose turn it is (R333, R343, R347, R349, R353,
Table 11.2). -/
def State.controlOut (port : Nat) (n : Option Notice) (s : State) : ControlFlit :=
  let p := s.port port
  let lanes := p.lanesOf port
  { ack := p.lastGood, nak := p.nak, cred := (List.range 4).map fun v => p.freed.getD v 0, self := s.fab.coord
    selfPort := port, map := packBits [(lanes.getD 0 0, 5), (lanes.getD 1 0, 5), (lanes.getD 2 0, 5), (lanes.getD 3 0, 5)]
    width := p.width, notice := n }

/-- CONTROL_FLIT. -/
def execControlFlit (port : Nat) (c : ControlFlit) (s : State) : Host.Outcome State Fault Refusal :=
  let p := s.port port
  let wrong := c.self ≠ p.peer ∨ c.selfPort ≠ p.peerPort
  ok (if s.host.fatal then s
    else if p.state = 1 then
      if wrong then
        (s.setPort port { p with state := 5 }).notice 0x803 [BitVec.ofNat 32 port, BitVec.ofNat 32 c.self]
      else s
    else if p.state = 2 then
      let left := (p.fseq + 2047 - c.ack) % 2048
      let replay := if left ≤ p.replay then left else p.replay
      let add (v : Nat) : Nat := (c.cred.getD v 0 + 2 ^ 32 - p.credSeen.getD v 0) % 2 ^ 32
      let p := { p with
        replay := replay, unacked := stillOut replay p.unacked, credits := (List.range 4).map fun v => p.creditsOf v + add v
        credSeen := (List.range 4).map fun v => c.cred.getD v 0 }
      let s := s.setPort port p
      let s := if c.nak then
          (p.unacked.filterMap fun u => u.2.2).eraseDups.foldl (fun s ctx => s.retried port (if c.afterLost then 2 else 1) ctx)
            (p.unacked.foldl (fun (s : State) u => s.countSource 3 (portDie port) 0 0x0401 port u.1 u.2.1) s)
        else s
      let s := (s.followMap port c).portSends port
      c.notice.elim s fun n => s.arriveNotice n
    else s)

/-- FLIT_DISCARDED (R335, R343): NAK stands until the next flit in order; the retry is counted. -/
def execFlitDiscarded (port : Nat) (s : State) : Host.Outcome State Fault Refusal :=
  let p := s.port port
  ok (if p.state = 2 ∧ !s.host.fatal then (s.setPort port { p with nak := true }).count 5 1 false else s)

/-! ### Training (R346, R353, R480, R541) -/

/-- A port that has fewer than two good lanes. -/
def State.portDown (port : Nat) (s : State) : State :=
  let s := (s.setPort port { s.port port with state := 3 }).faultNotice 0x812 [BitVec.ofNat 32 port]
  if s.imageUsesPort port then s.stopAtNext else s

/-- A port that comes UP holds the full credits of each VC, its counts start again, and frames that it had not sent are gone
(R347; notes/assumptions/90). -/
def Port.up (p : Port) : Port :=
  { p with state := 2, fseq := 0, replay := 0, unacked := [], credits := [], credSeen := [], expect := 0, lastGood := 0x7FF, nak := false,
           freed := [], queue := [], waits := [], quiet := 0 }

/-- PORT_TRAINED: the peer, w and the lanes that training found. -/
def execPortTrained (port : Nat) (r : TrainIn) (s : State) : Host.Outcome State Fault Refusal :=
  let p := s.port port
  ok (if p.state ≠ 1 ∨ s.host.fatal ∨ !s.board.fabClk then s
    else if r.peer ≠ p.peer ∨ r.peerPort ≠ p.peerPort then
      (s.setPort port { p with state := 5 }).notice 0x803 [BitVec.ofNat 32 port, BitVec.ofNat 32 r.peer]
    else
      let s := s.setPort port { p with flight := min r.flight 0xFFFF }
      if 500 < r.flight then
        (s.setPort port { s.port port with state := 3 }).notice 0x802 [BitVec.ofNat 32 port, BitVec.ofNat 32 r.flight]
      else if r.lanes < 2 then s.portDown port
      else
        let s := s.setPort port (s.port port).up
        if r.lanes < 4 then s.portNarrowed port else s)

/-! ### Topology (R337, R338, R351, R352, R529) -/

/-- A port stays DISABLED: it is absent (R2), or the package has no topology record (R351). -/
def State.portHeld (s : State) (n : Nat) : Bool := s.portAbsent n || s.fab.coord == 0xFFFFF

/-- The state a port takes when it is enabled or disabled: enabled ports start training once the package is ready. -/
def State.enablePort (on : Bool) (n : Nat) (s : State) : State :=
  let p := s.port n
  if s.portHeld n then s.setPort n { p with enable := on }
  else if on then s.setPort n { p with enable := true, state := if p.enable && p.state != 0 then p.state else 1 }
  else s.setPort n { p with enable := false, state := 0 }

/-- The topology record of a TOPOLOGY_SET. -/
def Cmd.topology (c : Cmd) (s : State) : State :=
  let routes := (List.range (c.p 20 2)).map fun i =>
    let v := c.x (192 + 8 * i) 8
    (bitsOf v 16 0, bitsOf v 33 17, BitVec.ofNat 16 (bitsOf v 49 34))
  let spare := (List.range 8).map fun i => (bitsOf (c.x (64 + 4 * i) 4) 19 0, bitOf (c.x (64 + 4 * i) 4) 31)
  let s := { s with fab := { s.fab with
    coord := c.p 16 3, spareCable := spare, routes := routes
    members := (List.range 8).map fun i => BitVec.ofNat 16 (c.x (128 + 2 * i) 2) } }
  (List.range 16).foldl (fun (s : State) n =>
    let v := c.x (4 * n) 4
    let s := s.setPort n { peer := bitsOf v 19 0, peerPort := bitsOf v 23 20, lanes := (s.port n).lanes
                           width := (s.port n).width }
    s.enablePort (bitOf v 24) n) s

/-- Reserved bits of the extensions are zero, and the coordinate's clod is assignable. -/
def Cmd.topologyGood (c : Cmd) : Bool :=
  let n := c.p 20 2
  let zero (a k : Nat) : Bool := c.x a k == 0
  decide (c.p 16 3 < 2 ^ 20) && decide (c.p 16 3 / 8 ≠ 0x1FFFF) && decide (n ≤ 1024) &&
  c.ext.length == 192 + (8 * n + 63) / 64 * 64 &&
  ((List.range 16).all fun i => decide (c.x (4 * i) 4 < 2 ^ 25)) &&
  ((List.range 8).all fun i => bitsOf (c.x (64 + 4 * i) 4) 30 20 == 0) && zero 96 32 && zero 144 48 &&
  ((List.range n).all fun i => decide (c.x (192 + 8 * i) 8 < 2 ^ 50)) && ((c.ext.drop (192 + 8 * n)).all (· == 0))

/-- Ports that the record addresses: those whose entry names or enables anything, and those of a member's or a route's mask
(DEDUCED from R2 and R386, notes/assumptions/89). -/
def Cmd.topologyPorts (c : Cmd) : List Nat :=
  let members := (List.range 8).map fun i => c.x (128 + 2 * i) 2
  let routes := (List.range (c.p 20 2)).map fun i => bitsOf (c.x (192 + 8 * i) 8) 49 34
  (List.range 16).filter fun n => c.x (4 * n) 4 != 0 || (members ++ routes).any fun m => bitOf m n

/-- R529: the seat's coordinate, when it names one. -/
def State.seatCoord (s : State) : Nat := leNat ((s.trust.seat.drop 8).take 3) % 2 ^ 20

def execTopologySet (ring : Nat) (s : State) : Host.Outcome State Fault Refusal :=
  ok (s.command 0x61 ring fun c s =>
    paramOr c [(16, 3), (20, 2)] false c.topologyGood (fun s =>
      if c.topologyPorts.any s.portAbsent then s.refuse c.ask refAbsent
      else if s.jobRuns || (s.seatCoord != 0xFFFFF && s.seatCoord != c.p 16 3) then s.refuse c.ask refState
      else
        let old := leBytes 3 s.fab.coord
        let s := c.topology s
        (s.auditFor c.ask 0x101 (c.p 16 3) old (sha3 (c.packet.drop 16 ++ c.ext))).done c.ask []) s)

def State.portBits (s : State) (n : Nat) : Nat :=
  let p := s.port n
  let lanes := p.lanesOf n
  packBits [(lanes.getD 0 0, 5), (lanes.getD 1 0, 5), (lanes.getD 2 0, 5), (lanes.getD 3 0, 5), (0, 60), (s.spareState n, 2),
    (p.width, 2), (if s.portAbsent n then 4 else p.state, 4), (p.flight, 16), (p.peerPort, 4), (p.peer, 20)]

/-- PORT_QUERY (R338). -/
def execPortQuery (ring : Nat) (s : State) : Host.Outcome State Fault Refusal :=
  ok (s.command 0x62 ring fun c s =>
    paramOr c [(16, 1)] false (decide (c.p 16 1 < 16)) (fun s => s.done c.ask (wordsOf 4 (s.portBits (c.p 16 1)))) s)

/-- PORT_ENABLE. -/
def execPortEnable (ring : Nat) (s : State) : Host.Outcome State Fault Refusal :=
  ok (s.command 0x63 ring fun c s =>
    let ports := maskPorts (BitVec.ofNat 16 (c.p 16 2))
    let on := c.p 18 1 == 1
    paramOr c [(16, 3)] false (decide (c.p 18 1 < 2)) (fun s =>
      if ports.any s.portAbsent then s.refuse c.ask refAbsent
      else if !on && ports.any s.imageUsesPort then s.refuse c.ask refState
      else
        let old := leBytes 2 ((List.range 16).map fun n => b2n (s.port n).enable * 2 ^ n).sum
        let s := ports.foldl (fun (s : State) n => s.enablePort on n) s
        let new := leBytes 2 ((List.range 16).map fun n => b2n (s.port n).enable * 2 ^ n).sum
        (s.auditFor c.ask 0x102 (c.p 16 2) old new).done c.ask []) s)

end Sys2Proof.Machine
end

