-- ==== Sys2Proof/Machine/Slices.lean ====
section
/-! DEFINITION. Long commands: their slices, what CANCEL does to them, and the long commands that are no job control: EXPORT,
IMPORT, SCRUB_FULL and SELF_TEST (R386, R388, R390, R396 to R400, R425). -/

namespace Sys2Proof.Machine

/-! ### Shard records (Table 12.15) -/

/-- What one record covers: the layer, tensor kind and shard, format, shape, and the bytes of its data in the local range; for
the rows of a sparse table, the first row and their number in place of ranges. -/
structure ShardItem where
  layer : Nat
  kind : Nat
  shard : Nat
  fmt : Nat
  rows : Nat
  cols : Nat
  ranges : List (Nat × Nat)
  sparse : Option (SparseDecl × Nat × Nat) := none
  deriving DecidableEq, Repr

/-- A sparse row's weights, first moments and statistic, in bytes. -/
def sparseRowLen (t : SparseDecl) : Nat := 4 * t.len + 2

/-- Bytes of the data of a record. -/
def ShardItem.len (x : ShardItem) : Nat :=
  match x.sparse with
  | some (t, _, n) => n * sparseRowLen t
  | none => (x.ranges.map Prod.snd).foldl (· + ·) 0

/-- Bytes of the record: its header, and the data padded to 64. -/
def ShardItem.size (x : ShardItem) : Nat := 64 + ceilDiv x.len 64 * 64

/-- The place of a record in the order in which an export writes them: layer, shard, tensor kind. -/
def itemKey (layer shard kind : Nat) : Nat := layer * 2 ^ 40 + shard * 2 ^ 8 + kind

def ShardItem.key (x : ShardItem) : Nat := itemKey x.layer x.shard x.kind

/-- The slices of a shard, in the order of their elements. -/
def State.shardSlices (s : State) (h : ShardDecl) : List SliceDecl :=
  inOrder SliceDecl.first ((s.image Image.slices).filter fun x => x.layer == h.layer && x.shard == h.shard)

/-- The records of a shard that has state of each kind: weights everywhere, the rest where its slices are. -/
def State.itemsOf (s : State) (h : ShardDecl) : List ShardItem :=
  let xs := s.shardSlices h
  let p := (s.tilthWork h.layer).prog
  let item (k fmt : Nat) (rs : List (Nat × Nat)) : ShardItem :=
    { layer := h.layer, kind := k, shard := h.shard, fmt := fmt, rows := h.rows, cols := h.cols, ranges := rs }
  [item 0 h.fmt [(h.addr, shardLen h)]] ++
    (if xs.isEmpty then []
     else
      [item 1 ((xs.map SliceDecl.mfmt).headD 3) (xs.map fun x => (x.maddr, 2 * (x.rows * x.cols)))] ++
      (if p.stats then
        [item 2 3 (xs.map fun x => (x.saddr, 2 * x.rows)), item 3 3 (xs.map fun x => (x.saddr + 2 * x.rows, 2 * x.cols))]
       else []) ++
      (if p.precond then [item 4 3 (xs.map fun x => (x.paddr, 2 * (x.cols * p.bsize)))] else []))

/-- The record of the rows of a sparse table that this package owns, one for each run of rows. -/
def State.sparseItems (s : State) : List ShardItem :=
  (s.image Image.sparse).flatMap fun t =>
    (t.owners.zipIdx.filter fun o => o.1.2.2 == s.fab.coord).map fun o =>
      { layer := t.layer, kind := 5, shard := o.2, fmt := t.fmt, rows := o.1.2.1, cols := t.len, ranges := []
        sparse := some (t, o.1.1, o.1.2.1) }

/-- Every record of the shards that `p` picks. -/
def State.shardItems (s : State) (p : ShardDecl → Bool) : List ShardItem :=
  ((s.image Image.shards).filter p).flatMap s.itemsOf ++ s.sparseItems

/-- The first record at or after a place in the order. -/
def nextItem (key : Nat) (xs : List ShardItem) : Option ShardItem :=
  (xs.filter fun x => decide (key ≤ x.key)).foldl
    (fun b x => if b.all fun y => decide (x.key < y.key) then some x else b) none

/-- A cursor (R399). -/
def cursorOf (layer kind shard : Nat) : Nat := packBits [(layer, 16), (kind, 8), (shard, 32)]

def ShardItem.cursor (x : ShardItem) : Nat := cursorOf x.layer x.kind x.shard

/-- The header of a record. -/
def ShardItem.header (x : ShardItem) (epoch : Nat) (digest : BitVec 64) : List Byte :=
  leBytes 2 x.layer ++ leBytes 1 x.kind ++ leBytes 1 x.fmt ++ leBytes 4 x.shard ++ leBytes 6 epoch ++ leBytes 2 0 ++
    leBytes 8 (x.len / 2) ++ leBytes 8 digest.toNat ++ leBytes 4 x.rows ++ leBytes 4 x.cols ++ List.replicate 24 0

/-! ### Slices and cancelling (R388, R390) -/

/-- The cursor of the record of an import's buffer at offset `used`. -/
def State.importCursor (s : State) (c : Cmd) (used : Nat) : Nat :=
  let f (a n : Nat) : Nat := leNat (s.hostRead (c.bufAddr + used + a) n)
  if used + 64 ≤ c.bufLen then cursorOf (f 0 2) (f 2 1) (f 4 4) else 0

/-- The command in progress on a ring, its packets as they stand in the ring. -/
def State.inProgress (s : State) (ring : Nat) (a : Ask) : Cmd :=
  { (s.front ring).getD { ask := a, object := 0, packet := [], ext := [], trailer := [] } with ask := a }

/-- The result words that PROGRESS, CANCELLED and HARDWARE report of a long command: the cursor of an export or an import, the
first page not switched, the layer of a sweep, or how many units are left. -/
def State.progress (s : State) (ring : Nat) (a : Ask) : List Word :=
  match (s.aux ring).work with
  | some (.export_ l k h _ _ _ _ _) => wordsOf 2 (cursorOf l k h)
  | some (.import_ used _) => wordsOf 2 (s.importCursor (s.inProgress ring a) used)
  | some .migrate => wordsOf 2 (((s.mem.migrations.find? fun m => m.ask == some a).map Migration.page).getD 0)
  | some (.sweep l) => wordsOf 2 l
  | some (.units left) => wordsOf 2 left.length
  | some (.load _ _) | some (.firmware _ _) | none => [0, 0]

/-- The stream context of an export or import is free again, with what had come for it. -/
def State.freeStream (ctx : Nat) (s : State) : State :=
  ({ s with fab := { s.fab with replies := s.fab.replies.filter fun r => r.1 != ctx } }).setCtx ctx {}

/-- What a long command holds is given up before its answer. -/
def State.endWork (ring : Nat) (a : Ask) (s : State) : State :=
  match (s.aux ring).work with
  | some (.export_ _ _ _ _ _ _ _ ctx) => s.freeStream ctx
  | some (.import_ _ ctx) => s.freeStream ctx
  | some .migrate =>
    match s.mem.migrations.find? fun m => m.ask == some a with
    | some m => s.migrationEnd m (s.mem.page m.page)
    | none => s
  | some (.sweep l) =>
    { s with tilth := { s.tilth with
      released := setErase s.tilth.released l
      sweeping := if s.tilth.sweptLayers.any fun x => x.1 == l then s.tilth.sweeping else setErase s.tilth.sweeping l } }
  | _ => s

/-- A long command ends: its answer, and what it held. -/
def State.finish (ring : Nat) (a : Ask) (cls code : Nat) (res : List Word) (s : State) : State :=
  let moved := (s.aux ring).work == some .migrate
  let s := (s.endWork ring a).answer a cls code res
  if moved then s.unmapsDue else s

/-- The slice is over: the command is cancelled, or goes on with its next slice. -/
def State.sliceOver (ring : Nat) (a : Ask) (s : State) : State :=
  let x := s.aux ring
  let p := s.progress ring a
  if x.cancel.any fun k => k.1 == a.seq then s.finish ring a 3 0x40 p
  else
    let s := if a.prog then s.reply a 2 1 p else s
    s.setAux ring { s.aux ring with slices := x.slices + 1 }

def longOpcode (op : Nat) : Bool :=
  op == 0x24 || op == 0x40 || op == 0x49 || op == 0x80 || op == 0x81 || op == 0xE2 || op == 0xE3

/-- The opcode of the posted and unanswered command of a ring with number `seq`, found from entry `i` on. -/
def State.postedOp (s : State) (r seq : Nat) : Nat → Nat → Option Nat
  | 0, _ => none
  | n + 1, i =>
    let d := s.ring r
    if (d.tail + 2 ^ 17 - i) % 2 ^ 17 = 0 then none
    else
      let pk := s.entryBytes r i
      let f (a k : Nat) : Nat := leNat ((pk.drop a).take k)
      if f 4 4 = seq then some (f 0 1) else State.postedOp s r seq n ((i + 1 + f 2 2) % 2 ^ 17)

/-- CANCEL (R390): the target is in progress, waits on its ring, or is a migration answered DEFERRED. -/
def execCancel (ring : Nat) (s : State) : Host.Outcome State Fault Refusal :=
  ok (s.command 0x07 ring fun c s =>
    let r := c.p 16 4
    let q := c.p 20 4
    paramOr c [(16, 8)] false (decide (r ≤ 262143)) (fun s =>
      match s.mem.migrations.find? fun m => (m.ask.any fun a => a.ring == r && a.seq == q) && (s.aux r).current != m.ask with
      | some m => (s.migrationCancel m).done c.ask []
      | none =>
        if (s.ring r).kind == .command && ((s.postedOp r q (s.ring r).used (s.ring r).head).map longOpcode).getD false then
          let s := s.keep c.ask
          s.setAux r { s.aux r with cancel := (s.aux r).cancel ++ [(q, c.ask)] }
        else s.refuse c.ask refState) s)

/-! ### EXPORT (R396 to R399) -/

def exportSlice : Nat := 4194304

/-- How an export reads: current frames, under its stream context. -/
def State.streamWork (s : State) (ctx : Nat) : Work :=
  { epoch := s.job.epoch, spec := false, head := { fkind := 3, ctx := ctx, stag := s.stepTag s.job.epoch } }

/-- The data of a record, or the fault that a read met. -/
def State.itemData (s : State) (x : ShardItem) (ctx : Nat) : Except MemFault (List Byte) :=
  match x.sparse with
  | some (t, first, n) =>
    (List.range n).foldlM (fun (acc : List Byte) i =>
      match s.rowBytes t (first + i) s.job.epoch with
      | .ok b => .ok (acc ++ b.1 ++ b.2.1 ++ b.2.2)
      | .error (.fault f) => .error f
      | .error _ => .ok acc) []
  | none =>
    x.ranges.foldlM (fun (acc : List Byte) r =>
      match s.readRange (s.streamWork ctx) r.1 r.2 with
      | (bs, none) => .ok (acc ++ bs)
      | (_, some f) => .error f) []

/-- Whether all of a record's data lie here or have come from their lenders. -/
def State.itemHere (s : State) (x : ShardItem) (ctx : Nat) : Bool :=
  x.ranges.all fun r => s.repliesHere (s.streamWork ctx) r.1 r.2

/-- The parts of a record that lie with lenders are asked for, once. -/
def State.askItem (x : ShardItem) (ctx : Nat) (s : State) : State :=
  if (s.ctx ctx).state = .active then s
  else x.ranges.foldl (fun s r => s.requestAway (s.streamWork ctx) r.1 r.2) (s.ctxStart ctx s.fc)

def State.setWork (ring : Nat) (w : LongWork) (s : State) : State := s.setAux ring { s.aux ring with work := some w }

/-- Data that came for a record are dropped, and the context is READY for the next one. -/
def State.clearReplies (ctx : Nat) (s : State) : State :=
  let s := { s with fab := { s.fab with replies := s.fab.replies.filter fun r => r.1 != ctx } }
  s.setCtx ctx { s.ctx ctx with state := .ready, activity := 0 }

/-- The answer of an export (R399). -/
def State.exportEnds (ring : Nat) (a : Ask) (cursor records used : Nat) (s : State) : State :=
  s.finish ring a 0 0 (wordsOf 2 cursor ++ [BitVec.ofNat 32 records, BitVec.ofNat 32 (used / 64)])

/-- Records that the export covers: shards this package owns in its layers. -/
def State.exportItems (s : State) (c : Cmd) : List ShardItem :=
  (s.shardItems s.owns).filter fun x =>
    decide (c.p 18 2 ≤ x.layer) && decide (x.layer ≤ c.p 20 2) && (!bitOf (c.p 16 1) 1 || x.kind == 0)

/-- A shard whose weights do not agree with the digest table (R491). -/
def State.weightsBad (s : State) (x : ShardItem) (d : BitVec 64) : Bool :=
  x.kind == 0 && !s.job.st.shardLost && (s.knownDigest x.layer x.shard).any fun k => k != d

/-- One slice of an export: the rest of the record in hand, up to 4 MiB of it. -/
def State.exportStep (ring : Nat) (c : Cmd) (l k h done epoch used records ctx : Nat) (s : State) : State :=
  let a := c.ask
  let E := s.job.epoch
  let same := bitOf (c.p 16 1) 0
  let xs := s.exportItems c
  match nextItem (itemKey l h k) xs with
  | none => s.exportEnds ring a 0 records used
  | some x =>
    let moved := done != 0 && epoch != E
    let wrong := done == 0 && records == 0 && c.p 32 6 != 2 ^ 48 - 1 && c.p 32 6 != E
    let s := if moved then s.clearReplies ctx else s
    let done := if moved then 0 else done
    let hold (s : State) : State := (s.setWork ring (.export_ x.layer x.kind x.shard done E used records ctx)).sliceOver ring a
    if (moved && same) || wrong then s.finish ring a 3 0x30 (wordsOf 2 x.cursor)
    else if done = 0 ∧ c.bufLen < used + x.size then s.exportEnds ring a x.cursor records used
    else if s.job.repairing.any fun r => r.1 == x.layer && r.2.1 == x.shard then hold s
    else if !s.itemHere x ctx then hold (s.askItem x ctx)
    else
      match s.itemData x ctx with
      | .error f =>
        let (kind, s) := (s.poisonNotice f).drawBelow 256
        s.finish ring a 5 1 (BitVec.ofNat 32 (4 + kind * 256) :: wordsOf 2 x.cursor)
      | .ok data =>
        let d := shardDigest data E
        if done = 0 ∧ s.weightsBad x d then hold ((s.clearReplies ctx).tryRepair x.layer x.shard 0)
        else
          let s := x.ranges.foldl (fun (s : State) r => s.countRead (s.streamWork ctx) r.1 r.2) s
          let s := if done = 0 then s.hostWrite (c.bufAddr + used) (x.header E d) else s
          let now := (data.drop done).take exportSlice
          let last : Bool := decide (x.len ≤ done + exportSlice)
          let s := s.hostWrite (c.bufAddr + used + 64 + done)
            (if last then padTo (x.size - 64 - done) now else now)
          if !last then
            (s.setWork ring (.export_ x.layer x.kind x.shard (done + exportSlice) E used records ctx)).sliceOver ring a
          else
            let s := s.clearReplies ctx
            match nextItem (x.key + 1) xs with
            | none => s.exportEnds ring a 0 (records + 1) (used + x.size)
            | some y =>
              (s.setWork ring (.export_ y.layer y.kind y.shard 0 E (used + x.size) (records + 1) ctx)).sliceOver ring a

/-- EXPORT: its first slice begins. -/
def execExport (ring : Nat) (s : State) : Host.Outcome State Fault Refusal :=
  ok (s.command 0x80 ring fun c s =>
    let good := decide (c.p 16 1 < 4) && decide (c.p 18 2 ≤ c.p 20 2) && decide (c.p 24 8 < 2 ^ 56)
    paramOr c [(16, 1), (18, 4), (24, 8), (32, 6), bufBytes] false good (fun s =>
      if !s.jobRuns then s.refuse c.ask refState
      else
        match s.freeCtx with
        | none => s.refuse c.ask refResource
        | some ctx =>
          let k := c.p 24 8
          let w : LongWork := .export_ (if k = 0 then c.p 18 2 else c.p 24 2) (c.p 26 1) (c.p 27 4) 0 s.job.epoch 0 0 ctx
          let s := s.setCtx ctx { state := .ready, kind := 5 }
          s.setAux ring { s.aux ring with current := some c.ask, work := some w, slices := 1 }) s)

/-! ### IMPORT (R400) -/

/-- The record of a shard that this package holds, owned or replica, of the kind that a header names. -/
def State.importItem (s : State) (layer kind shard : Nat) : Option ShardItem :=
  (s.shardItems fun h => h.held && h.layer == layer && h.shard == shard).find? fun x =>
    x.layer == layer && x.kind == kind && x.shard == shard

/-- Sparse rows are written to their home copies, and the directory forgets the versions they replace. -/
def State.importRows (t : SparseDecl) (first n : Nat) (data : List Byte) (s : State) : State :=
  let s := (List.range n).foldl (fun (s : State) i =>
    let bs := (data.drop (i * sparseRowLen t)).take (sparseRowLen t)
    let row := first + i
    let put (la : Nat) (b : List Byte) (s : State) : State := (s.writeCurrent la b).1
    put (t.stats + row * 2) (bs.drop (4 * t.len)) (put (t.moments + row * (2 * t.len)) ((bs.drop (2 * t.len)).take (2 * t.len))
      (put (t.weights + row * (2 * t.len)) (bs.take (2 * t.len)) s))) s
  { s with tilth := { s.tilth with
    directory := s.tilth.directory.filter fun v => !(v.table == t.layer && first ≤ v.row && v.row < first + n) } }

/-- A record's data go to frame F[T mod 2] of its shard, and its digest to the table. -/
def State.importData (x : ShardItem) (T : Nat) (data : List Byte) (s : State) : State :=
  match x.sparse with
  | some (t, first, n) => s.importRows t first n data
  | none =>
    let r := x.ranges.foldl (fun (p : State × List Byte) g =>
      ((p.1.writeFrames T true g.1 (p.2.take g.2)).1, p.2.drop g.2)) (s, data)
    let s := r.1
    if x.kind ≠ 0 then s
    else
      let key := x.layer * 65536 + x.shard
      let d := shardDigest data T
      if T = s.job.epoch then { s with job := { s.job with digests := mapSet 0 s.job.digests key d } }
      else { s with job := { s.job with nextDigests := mapSet 0 s.job.nextDigests key d } }

/-- The end of an import: with FINAL the job's E becomes T. -/
def State.importEnds (ring : Nat) (c : Cmd) (s : State) : State :=
  let T := c.p 24 6
  let s := if c.p 16 1 = 1 then
      { s with job := { s.job with
        digests := s.job.nextDigests.foldl (fun m e => mapSet 0 m e.1 e.2) s.job.digests
        nextDigests := [], epoch := T } }
    else s
  (s.auditFor c.ask 0x208 s.jobId [] (sha3 (c.packet ++ c.ext))).finish ring c.ask 0 0 []

/-- One slice of an import: one record of the buffer. -/
def State.importStep (ring : Nat) (c : Cmd) (used ctx : Nat) (s : State) : State :=
  let f (a n : Nat) : Nat := leNat (s.hostRead (c.bufAddr + used + a) n)
  if c.bufLen < used + 64 then s.importEnds ring c
  else
    let len := 2 * f 16 8
    let size := 64 + ceilDiv len 64 * 64
    let data := s.hostRead (c.bufAddr + used + 64) len
    let next (s : State) : State := (s.setWork ring (.import_ (used + size) ctx)).sliceOver ring c.ask
    match s.importItem (f 0 2) (f 2 1) (f 4 4) with
    | none => next s
    | some x =>
      if c.bufLen < used + size || x.len != len || shardDigest data (f 8 6) != BitVec.ofNat 64 (f 24 8) then
        s.finish ring c.ask 3 0x31 (wordsOf 2 (s.importCursor c used))
      else next (s.importData x (c.p 24 6) data)

/-- IMPORT: its first slice begins. -/
def execImport (ring : Nat) (s : State) : Host.Outcome State Fault Refusal :=
  ok (s.command 0x81 ring fun c s =>
    paramOr c [(16, 1), (24, 6), bufBytes] false (decide (c.p 16 1 < 2)) (fun s =>
      if !s.jobRuns || s.runActive then s.refuse c.ask refState
      else
        match s.freeCtx with
        | none => s.refuse c.ask refResource
        | some ctx =>
          let s := s.setCtx ctx { state := .ready, kind := 5 }
          s.setAux ring { s.aux ring with current := some c.ask, work := some (.import_ 0 ctx), slices := 1 }) s)

/-! ### SCRUB_FULL and SELF_TEST -/

/-- Every poisoned word of a stack is found by its scrub (R471). -/
def State.scrubWords (p : Nat → Bool) (s : State) : State :=
  (s.mem.poison.filter fun w => p (8 * w)).foldl (fun (s : State) w =>
    match s.mem.pageOfFrame (8 * w / frameBytes) with
    | some e => s.poisonFound (e.1 * frameBytes + 8 * w % frameBytes)
    | none => s) s

/-- SCRUB_FULL: the stacks named, one in each slice. -/
def execScrubFull (ring : Nat) (s : State) : Host.Outcome State Fault Refusal :=
  ok (s.command 0xE2 ring fun c s =>
    paramOr c [(16, 2)] false true (fun s =>
      if s.jobRuns then s.refuse c.ask refState
      else
        let left := (List.range 16).filter fun i => bitOf (c.p 16 2) i
        s.setAux ring { s.aux ring with current := some c.ask, work := some (.units left), slices := 1 }) s)

/-- SELF_TEST: one die, or all of them; faults that it finds are UNIT_FAULT events. -/
def execSelfTest (ring : Nat) (s : State) : Host.Outcome State Fault Refusal :=
  ok (s.command 0xE3 ring fun c s =>
    let d := c.p 16 1
    paramOr c [(16, 1)] false (decide (d ≤ 0x1F)) (fun s =>
      if d ≠ 0x1F ∧ !s.dies.contains d then s.refuse c.ask refAbsent
      else if s.jobRuns then s.refuse c.ask refState
      else
        let left := if d = 0x1F then s.dies else [d]
        s.setAux ring { s.aux ring with current := some c.ask, work := some (.units left), slices := 1 }) s)

/-- One slice of SCRUB_FULL or SELF_TEST: one stack or die. -/
def State.unitsStep (ring : Nat) (a : Ask) (left : List Nat) (s : State) : State :=
  match left with
  | [] => s.finish ring a 0 0 []
  | u :: rest =>
    let s := if a.opcode = 0xE2 then (s.scrubWords fun pa => stackOf pa == u).repairsBegin
      else s.wakeNow (allUnits.filter fun x => x.die == u)
    if rest.isEmpty then s.finish ring a 0 0 []
    else (s.setWork ring (.units rest)).sliceOver ring a

/-! ### Firmware (R512 to R514, Table 16.4) -/

/-- A firmware slot: true is slot A. -/
def TrustState.slot (t : TrustState) (a : Bool) : FwSlot := if a then t.slotA else t.slotB

/-- The slot that an image makes, when it passes the check of R512. -/
def State.firmware (s : State) (bs : List Byte) : Option FwSlot :=
  let f (a n : Nat) : Nat := leNat ((bs.drop a).take n)
  let body := (bs.drop 4736).take (f 16 8)
  let digest := (bs.drop 24).take 64
  let svn := f 4 2
  let fits : Bool := decide (4736 + f 16 8 ≤ bs.length) && decide (1 ≤ svn) && decide (svn ≤ 64)
  let signed := ((s.trust.keyOf 3 (f 8 8)).map fun k =>
    Config.mldsaVerify k (sha3 (bs.take 88)) ((bs.drop 88).take 4627)).getD false
  if fits && signed && digest == sha3 body && decide (s.trust.rollback ≤ svn) then
    some { valid := true, fwVer := f 0 4, svn := svn, bodyDigest := digest }
  else none

def TrustState.setSlot (t : TrustState) (a : Bool) (v : FwSlot) : TrustState :=
  if a then { t with slotA := v } else { t with slotB := v }

/-- FW_UPDATE: its image is read and the slot that did not boot is written, slice by slice; until the check has passed the slot is
invalid, so that an interruption leaves it so (R514, R550; notes/assumptions/44). -/
def execFwUpdate (ring : Nat) (s : State) : Host.Outcome State Fault Refusal :=
  ok (s.command 0xC6 ring fun c s =>
    paramOr c [bufBytes] false true (fun s =>
      let other := !(s.trust.booted.getD true)
      let w : LongWork := .firmware (s.hostRead c.bufAddr c.bufLen) (s.trust.slot other).bodyDigest
      let s := { s with trust := s.trust.setSlot other {} }
      s.setAux ring { s.aux ring with current := some c.ask, work := some w, slices := 1 }) s)

/-- The end of an FW_UPDATE: the slot holds what passed the check, or stays invalid. -/
def State.updateEnds (ring : Nat) (c : Cmd) (image old : List Byte) (s : State) : State :=
  match s.firmware image with
  | some v =>
    let s := { s with trust := s.trust.setSlot (!(s.trust.booted.getD true)) v }
    (s.auditFor c.ask 4 0 old v.bodyDigest).finish ring c.ask 0 0 []
  | none => s.refuse c.ask refImage

/-! ### SLICE_END and COMPLETION_TIMEOUT -/

/-- SLICE_END (R388, R389): the long command of a ring ends a slice.  While its completion ring holds replies back it waits at its
boundary (R379). -/
def execSliceEnd (ring : Nat) (s : State) : Host.Outcome State Fault Refusal :=
  ok (match (s.aux ring).current, (s.aux ring).work with
    | some a, some w =>
      let pair := (s.ring ring).pair
      if s.host.fatal || !(s.aux pair).held.isEmpty || (s.ring pair).full || (s.coreFor ring).isNone then s
      else
        let s := s.served ring ((s.coreFor ring).getD 0)
        let c := s.inProgress ring a
        match w with
        | .export_ l k h done epoch used records ctx => s.exportStep ring c l k h done epoch used records ctx
        | .import_ used ctx => s.importStep ring c used ctx
        | .units left => s.unitsStep ring a left
        | .load image digest =>
          if (s.aux ring).cancel.any fun k => k.1 == a.seq then s.finish ring a 3 0x40 [0, 0]
          else
            -- how many slices a load takes is left open: a free value says whether this one is the last
            let (more, s) := s.drawBelow 2
            if more = 1 then s.sliceOver ring a else s.loadImage c image digest State.pauseEnds
        | .firmware image old =>
          -- so with an FW_UPDATE
          let (more, s) := s.drawBelow 2
          if more = 1 then s.sliceOver ring a else s.updateEnds ring c image old
        | .migrate | .sweep _ => s.sliceOver ring a
    | _, _ => s)

/-- COMPLETION_TIMEOUT (R425): a read of a host buffer is not completed; the command that reads it is answered FAULT. -/
def execCompletionTimeout (ring : Nat) (s : State) : Host.Outcome State Fault Refusal :=
  let tell (s : State) : State := { s with host := { s.host with aer := s.host.aer ++ [2] } }
  let word (s : State) : Word × State :=
    let r := s.drawBelow 256
    (BitVec.ofNat 32 (4 + r.1 * 256), r.2)
  ok (if s.host.fatal then s
    else
      match (s.aux ring).current, (s.aux ring).work with
      | some a, some (.import_ _ _) | some a, some (.load _ _) | some a, some (.firmware _ _) =>
        let p := s.progress ring a
        let r := word (tell s)
        r.2.finish ring a 5 1 (r.1 :: p)
      | _, _ => s)

end Sys2Proof.Machine
end

