-- ==== Sys2Proof/Machine/Faults.lean ====
section
/-! DEFINITION. Faults and background work: lanes that fail, units and management cores that stop, fatal faults, and what is
done in fallow slots (R223 to R228, R469 to R476, R482 to R488, R495, R503). -/

namespace Sys2Proof.Machine

/-! ### FATAL (R488) -/

/-- The package stops all work and answers nothing more. -/
def State.goFatal (u : Word) (s : State) : State :=
  if s.host.fatal then s
  else
    let s := (s.faultNotice 0x81A [u]).setCause 4
    let live := mapKeys (fun _ (t : Task) => t.phase == .running || t.phase == .aborting) s.rs.tasks
    let s := live.foldl (fun s n => s.dropTask n) s
    { s with host := { s.host with fatal := true, aer := s.host.aer ++ [3] } }

/-- FATAL: an uncorrectable fault of the hub's step controller, PCI Express controller or power stage. -/
def execFatal (u : UnitId) (s : State) : Host.Outcome State Fault Refusal :=
  ok (s.goFatal (unitWord u.die u.kind u.num))

/-! ### Lanes (R473 to R476, R480) -/

/-- Items of the boundary that satisfy `p`. -/
def State.pendingItems (s : State) (p : BoundaryItem → Bool) : Nat := (s.units.boundary.filter p).length

/-- When no job runs every moment is a boundary (R461): what waits is done at once. -/
def State.atOnce (s : State) : State := if s.jobRuns then s else s.doBoundaries

/-- LANE_FAILED: the lane, and 1 for a spare at the boundary or 2 for a narrowing. -/
def State.laneNotice (die lane what : Nat) (s : State) : State :=
  s.faultNotice 0x810 [BitVec.ofNat 32 (die + lane * 256), BitVec.ofNat 32 what]

/-- The port of a link die that carries a lane. -/
def State.laneCarrier (s : State) (die lane : Nat) : Option Nat :=
  ((List.range 4).map fun k => 4 * (die - 21) + k).find? fun n => ((s.port n).lanesOf n).contains lane

/-- The spare of the port's pair is promised to another lane already. -/
def State.sparePromised (s : State) (n : Nat) : Bool :=
  s.units.boundary.any fun b =>
    match b with
    | .portLane d l => d == portDie n && (s.laneCarrier d l).any fun m => spareLane m == spareLane n
    | _ => false

/-- A lane of a port has failed. -/
def State.portLaneFails (n die lane : Nat) (s : State) : State :=
  let free := s.spareState n == 0 && !s.sparePromised n
  let s := { s with fab := { s.fab with failedLanes := pairInsert s.fab.failedLanes (die, lane) } }
  if free then (s.pushBoundary (.portLane die lane)).laneNotice die lane 1
  else if 2 ≤ (s.goodLanes n).length then (s.pushBoundary (.narrowPort n)).laneNotice die lane 2
  else s.portDown n

/-- A lane of a die link has failed, in the direction from one die to another (R22, R475): each direction has two spares, and
a link below half width is fatal.  The notices name the sending die. -/
def State.linkLaneFails (from_ to_ lane : Nat) (s : State) : State :=
  let item := BoundaryItem.linkLane from_ to_
  let link := (min from_ to_, max from_ to_)
  let used := mapGet 0 s.units.linkSpares (32 * from_ + to_) + s.pendingItems (fun b => b == item)
  if used < 2 then
    ({ s with units := { s.units with boundary := s.units.boundary ++ [item] } }).laneNotice from_ lane 1
  else if s.units.narrowed.contains link then s.goFatal (unitWord from_ 0xFF lane)
  else if s.units.boundary.contains (BoundaryItem.narrowLink link.1 link.2) then s
  else (s.pushBoundary (.narrowLink link.1 link.2)).laneNotice from_ lane 2

/-- A fabric lane of a link die has failed; one that carries no port is noted. -/
def State.fabricLaneFails (die lane : Nat) (s : State) : State :=
  if s.laneFailed die lane then s
  else
    match s.laneCarrier die lane with
    | some n => (s.portLaneFails n die lane).atOnce
    | none => { s with fab := { s.fab with failedLanes := pairInsert s.fab.failedLanes (die, lane) } }

/-- The number of a lane, of a link die's ports or of a direction of a die link. -/
def laneKey (at_ : LaneAt) (lane : Nat) : Nat := (at_.die * 64 + (at_.peer.map (· + 1)).getD 0) * 256 + lane

/-- A lane has failed in one of the ways of R473; it fails once. -/
def State.laneFails (at_ : LaneAt) (lane : Nat) (s : State) : State :=
  if s.host.fatal then s
  else
    match at_.peer with
    | none => if 21 ≤ at_.die ∧ at_.die ≤ 24 ∧ s.diePresent at_.die ∧ lane < 18 then s.fabricLaneFails at_.die lane else s
    | some b =>
      if !s.linkPresent at_.die b || s.units.deadLanes.contains (laneKey at_ lane) then s
      else
        let s := { s with units := { s.units with deadLanes := setInsert s.units.deadLanes (laneKey at_ lane) } }
        (s.linkLaneFails at_.die b lane).atOnce

/-- LANE_FAILURE: of a fabric lane, or of a lane of the link on which one die sends to another (notes/assumptions/11). -/
def execLaneFailure (at_ : LaneAt) (lane : Nat) (s : State) : Host.Outcome State Fault Refusal := ok (s.laneFails at_ lane)

/-- A retry is attributed to a lane: the third of one step is its failure (R473, R474). -/
def State.attributed (at_ : LaneAt) (lane : Nat) (s : State) : State :=
  if !s.runActive then s
  else
    let n := mapGet 0 s.units.flagged (laneKey at_ lane) + 1
    let s := { s with units := { s.units with flagged := mapSet 0 s.units.flagged (laneKey at_ lane) n } }
    if n = 3 then s.laneFails at_ lane else s

/-- Uncorrectable codewords of a fabric lane: more than 16 in a second are its failure (R473). -/
def State.codewordsLost (die lane n : Nat) (s : State) : State :=
  let k := laneKey ⟨die, none⟩ lane
  let recent := s.units.lostWords.filter fun e => (s.scSince e.2.1).any fun d => decide (d < scPerSecond)
  let all := recent ++ [(k, s.sc, n)]
  let s := { s with units := { s.units with lostWords := all } }
  if 16 < ((all.filter fun e => e.1 == k).map fun e => e.2.2).sum then s.laneFails ⟨die, none⟩ lane else s

/-- A fault that the host sees in counters only (R466, R469, R473, R474, Table 18.2). -/
def State.quietFault (q : QuietFault) (s : State) : State :=
  match q with
  | .replay => s.count 4 1 false
  | .linkRetry at_ lane => lane.elim (s.count 5 1 false) fun l => (s.count 5 1 false).attributed at_ l
  | .flagged at_ lane => s.attributed at_ lane
  | .corrected pa => s.wordFixed pa
  | .fec die lane n => s.countSource 3 die 0 0x0404 lane n false
  | .fecLost die lane n => s.codewordsLost die lane n

/-! ### Units and cores (R482, R485, R486) -/

/-- A tile stops on a hardware fault. -/
def State.tileFails (id : TileId) (s : State) : State :=
  let die := id.die.val
  let num := id.tile.val
  if s.unitLost 0x10 die num || s.units.boundary.contains (BoundaryItem.tile id) then s
  else
    let s := s.runTo id s.fc
    let s := if (s.tile id).busy then s.stopAtEnd id { cause := 0x12 } else s
    let group (b : BoundaryItem) : Bool :=
      match b with
      | .tile t => t.die == id.die && t.tile.val / 18 == num / 18
      | _ => false
    if mapGet 0 s.units.tileSpares (die * 16 + num / 18) + s.pendingItems group < 2 then (s.pushBoundary (.tile id)).atOnce
    else s.loseUnit 0x10 0 die num

/-- Update tasks that a tilth unit works for. -/
def State.tasksOfTilth (s : State) (die unit : Nat) : List Nat :=
  (((s.image Image.slices).filter fun x => x.die == die && x.unit == unit).map fun x => s.updateTask x.layer).eraseDups

def State.tilthFails (die unit : Nat) (s : State) : State :=
  if s.unitLost 1 die unit || s.units.boundary.contains (BoundaryItem.tilth die unit) then s
  else
    let s := (s.tasksOfTilth die unit).foldl (fun (s : State) n =>
      s.taskCause n { cause := 0x12, die := die, tile := 0x1FF, code := unit }) s
    let waits (b : BoundaryItem) : Bool :=
      match b with
      | .tilth d _ => d == die
      | _ => false
    if mapGet 0 s.units.tilthSpares die + s.pendingItems waits < 1 then (s.pushBoundary (.tilth die unit)).atOnce
    else s.loseUnit 1 1 die unit

/-- Update tasks of the layers whose buckets an engine sums, or whose rows a gather unit serves. -/
def State.tasksOfHubUnit (s : State) (kind num : Nat) : List Nat :=
  (if kind = 2 then ((s.image Image.buckets).filter fun b => b.engine == num).map fun b => s.updateTask b.layer
   else (s.image Image.sparse).map fun t => s.updateTask t.layer).eraseDups

/-- Reduction engines and gather units have no spares (R22). -/
def State.hubUnitFails (kind num : Nat) (s : State) : State :=
  if s.unitLost kind 4 num then s
  else
    let s := (s.tasksOfHubUnit kind num).foldl (fun (s : State) n =>
      s.taskCause n { cause := 0x12, die := 4, tile := 0x1FF, code := num }) s
    s.loseUnit kind kind 4 num

/-- UNIT_FAULT: kind 0 names a logical tile (notes/assumptions/11), kinds 1 to 3 are those of Table 14.4. -/
def execUnitFault (u : UnitId) (s : State) : Host.Outcome State Fault Refusal :=
  ok (if s.host.fatal then s
    else
      match u.kind with
      | 0 =>
        match tileId? u.die u.num with
        | some id => s.tileFails id
        | none => s
      | 1 => if u.die < 4 ∧ u.num < 8 then s.tilthFails u.die u.num else s
      | 2 => if u.die = 4 ∧ u.num < 16 then s.hubUnitFails 2 u.num else s
      | 3 => if u.die = 4 ∧ u.num < 8 then s.hubUnitFails 3 u.num else s
      | _ => s)

/-- Rings whose long command a core may serve. -/
def State.servedBy (s : State) (core : Nat) : List Nat :=
  mapKeys (fun _ (a : RingAux) => a.current.isSome && a.work.isSome) s.rs.aux |>.filter (s.coreServes core)

/-- The item that a failed core was serving is answered FAULT; a long command keeps what its earlier slices did. -/
def State.faultItem (ring core : Nat) (s : State) : State :=
  match (s.aux ring).current with
  | none => s
  | some a =>
    let (k, s) := s.drawBelow 256
    let p := s.progress ring a
    s.finish ring a 5 1 (BitVec.ofNat 32 (4 + k * 256 + core * 65536) :: p)

/-- Spares of the management cores that are neither used nor promised. -/
def State.coreSparesLeft (s : State) : Nat :=
  2 - (s.units.coreSpares + s.pendingItems fun b => match b with | .core _ => true | _ => false)

/-- The item that the failed core was serving, if any: which, the state does not say, so it is a free value. -/
def State.coreStops (core : Nat) (s : State) : State :=
  let served := s.servedBy core
  let r := s.drawBelow (served.length + 1)
  match served[r.1]? with
  | some ring => r.2.faultItem ring core
  | none => r.2

/-- A core without a spare is lost; with none left the package stops. -/
def State.loseCore (core : Nat) (s : State) : State :=
  let s := { s with units := { s.units with lost := setInsert s.units.lost (unitNumber 0x11 4 core) } }
  let s := s.faultNotice 0x816 [unitWord 4 0x11 core, 0]
  if 8 ≤ s.units.coresDown.length then s.goFatal (unitWord 4 0x11 core) else s

def State.coreDown (core : Nat) (s : State) : State :=
  { s with units := { s.units with coresDown := setInsert s.units.coresDown core } }

/-- CORE_FAULT: at most one item is being served. -/
def execCoreFault (core : Nat) (s : State) : Host.Outcome State Fault Refusal :=
  let left := s.coreSparesLeft
  let down := ((s.faultNotice 0x817 [BitVec.ofNat 32 core, BitVec.ofNat 32 (left - 1)]).coreStops core).coreDown core
  ok (if s.host.fatal ∨ 8 ≤ core ∨ s.units.coresDown.contains core then s
    else if 0 < left then (down.pushBoundary (.core core)).atOnce
    else down.loseCore core)

/-! ### Fallow slots (R223 to R228; notes/assumptions/72) -/

/-- Bursts of 64 bytes of a channel of 3 GiB. -/
def channelBursts : Nat := 50331648

/-- Deadline of a kind, in sc; 0 for those that have none of their own. -/
def bgDeadline (kind : Nat) : Nat :=
  if kind = bgScrub ∨ kind = bgSpareTest then scPerDay
  else if kind = bgCalibration then 60 * scPerSecond
  else if kind = bgTelemetry then 1024
  else 0

/-- Period of a kind, in sc; a scrub's next pass follows at once. -/
def bgPeriod (kind : Nat) : Nat :=
  if kind = bgCalibration then 10 * scPerSecond
  else if kind = bgTelemetry then 1024
  else if kind = bgSpareTest then 3600 * scPerSecond
  else 0

/-- Kinds with a period of their own that have a unit on a die: channels and links of a stack; engines, links and spares of the
other dies. -/
def kindsOf (die : Nat) : List Nat :=
  if isStack die then [bgScrub, bgCalibration, bgSpareTest] else [bgCalibration, bgTelemetry, bgSpareTest]

def State.bg (s : State) (kind die unit : Nat) : Background := mapGet {} s.units.background (bgKey kind die unit)

def State.setBg (kind die unit : Nat) (b : Background) (s : State) : State :=
  { s with units := { s.units with background := mapSet {} s.units.background (bgKey kind die unit) b } }

/-- Who wants a slot: a task of Table 7.7 with a period, a migration by its context, the clearing of a map by its ring, or the
copy of a channel. -/
inductive BgTask where
  | periodic (kind : Nat)
  | move (ctx : Nat)
  | clear (ring : Nat)
  | copy
  deriving DecidableEq, Repr

/-- A task that wants a slot: its kind, the sc for which it has waited, and its deadline, 0 for none. -/
structure BgWant where
  task : BgTask
  kind : Nat
  waited : Nat
  deadline : Nat
  deriving DecidableEq, Repr

/-- A task within 10 % of its deadline, or past it. -/
def BgWant.near (w : BgWant) : Bool := w.deadline != 0 && decide (9 * w.deadline ≤ 10 * w.waited)

/-- The place of a background task in the order of R226. -/
def BgWant.rank (w : BgWant) : Nat :=
  if w.kind = bgRefresh then 1
  else if w.near then 2
  else if w.kind = bgMigration ∨ w.kind = bgCopy then 3
  else if w.kind = bgScrub then 4
  else if w.kind = bgCalibration then 5
  else if w.kind = bgTelemetry then 6
  else 7

/-- The tasks with a period that want a slot of a unit. -/
def State.periodicWants (s : State) (die unit : Nat) : List BgWant :=
  (kindsOf die).filterMap fun k =>
    (s.scSince (s.bg k die unit).from_).map fun d => { task := .periodic k, kind := k, waited := d, deadline := bgDeadline k }

/-- The number of a stack's channel in the slots of a migration or a clearing. -/
def slotKey (die unit : Nat) : Nat := (die - 5) * 32 + unit

/-- Migrations, clearings and the copy of the channel that want a slot of a stack's channel (R157, R472, R570). -/
def State.movingWants (s : State) (die unit : Nat) : List BgWant :=
  let key := slotKey die unit
  let since (t : Nat) : Nat := (s.scSince t).getD 0
  if !isStack die then []
  else
    ((s.mem.migrations.filter fun m => !m.free && decide (mapGet 0 m.slots key < frameBursts)).map fun m =>
      { task := .move m.ctx, kind := bgMigration, waited := since m.since, deadline := m.deadline }) ++
    ((s.mem.clearing.filter fun k => decide (mapGet 0 k.slots key < frameBursts * k.frames.length)).map fun k =>
      { task := .clear k.ask.ring, kind := bgMigration, waited := since k.since, deadline := 0 }) ++
    (if s.units.copying.contains (die - 5, unit) && decide ((s.bg bgCopy die unit).slots < channelBursts) then
      [{ task := .copy, kind := bgCopy, waited := since (s.bg bgCopy die unit).from_, deadline := 0 }] else [])

/-- Tasks that want a slot of a unit.  Whether a stack needs a refresh in it, the spec leaves to the stack: `refresh`. -/
def State.backgroundOf (s : State) (die unit : Nat) (refresh : Bool) : List BgWant :=
  (if refresh && isStack die then [{ task := .periodic bgRefresh, kind := bgRefresh, waited := 0, deadline := 0 }] else []) ++
    s.movingWants die unit ++ s.periodicWants die unit

/-- The task that is granted the slot: the lowest rank, and within it the one that has waited longest. -/
def bestBackground : List BgWant → Option BgWant
  | [] => none
  | b :: bs =>
    some (bs.foldl (fun best x =>
      if x.rank < best.rank ∨ (x.rank = best.rank ∧ best.waited < x.waited) then x else best) b)

/-- R495: a held shard whose current frame does not agree with the table. -/
def State.scrubShard (h : ShardDecl) (s : State) : State :=
  match s.knownDigest h.layer h.shard with
  | none => s
  | some d =>
    if s.digestAt h s.job.epoch = d then s
    else if s.runActive ∧ s.job.st.phase = .running then
      let n := s.updateTask h.layer
      let r : AbortRecord := { cause := 0x11, die := 4, tile := 0x1FF }
      let s := { s with job := { s.job with toRepair := pairInsert s.job.toRepair (h.layer, h.shard) } }
      if (s.task n).phase = .running then s.taskCause n r
      else
        let t := { s.task n with record := r, step := true, epoch := s.job.epoch, attempt := s.job.st.attempt }
        let s := s.setTask n t
        ({ s with job := { s.job with st := { s.job.st with lastTask := n } } }).stepAbort 1
    else if s.runActive ∧ (s.job.st.phase = .ready ∨ (s.job.st.phase = .committing ∧ s.job.readySet ≠ [])) then
      { s with units := { s.units with lateMismatches := s.units.lateMismatches + 1 } }
    else s.tryRepair h.layer h.shard 0

/-- A slot of patrol scrub (R469, R471, R472, R491, R495): one burst of the channel is read, and a digest may be complete.  Which
burst, which shard's digest, and whether the words corrected bring the channel over its threshold, are free values. -/
def State.scrubSlot (stack channel : Nat) (s : State) : State :=
  let (burst, s) := s.drawBelow channelBursts
  let pa := paOf stack channel (64 * burst)
  let found := s.mem.poison.filter fun w => 8 * w / 64 == pa / 64
  let s := s.scrubWords fun a => a / 64 == pa / 64
  let s := found.foldl (fun (s : State) w => s.eccSeen w) s
  let s := if s.runActive then s else s.repairsBegin
  let (worn, s) := s.drawBelow 2
  let s := if worn = 1 then s.retireChannel stack channel else s
  let held := (s.image Image.shards).filter fun h => h.held
  let (k, s) := s.drawBelow (held.length + 1)
  match held[k]? with
  | some h => s.scrubShard h
  | none => s

/-- The next period of a task that has ended begins, at a whole number of periods after the last. -/
def State.bgDone (kind die unit : Nat) (s : State) : State :=
  let b := s.bg kind die unit
  let p := bgPeriod kind
  let k := if p = 0 then 0 else (s.scSince b.from_).getD 0 / p + 1
  let next := if p = 0 then s.sc else (b.from_ + k * p) % 2 ^ 48
  let s := s.setBg kind die unit { from_ := next }
  if kind = bgTelemetry then
    { s with units := { s.units with telemetryMissing := setErase s.units.telemetryMissing (die * 65536 + unit) } }
  else s

/-- R483: a spare that its test has found faulty is never used.  Which spare of the die was tested is a free value. -/
def State.spareFaulty (die : Nat) (s : State) : State :=
  let u := s.units
  if die < 4 then
    let (g, s) := s.drawBelow 17
    let k := die * 16 + g
    if g = 16 then { s with units := { u with tilthSpares := mapSet 0 u.tilthSpares die 1 } }
    else { s with units := { u with tileSpares := mapSet 0 u.tileSpares k (min 2 (mapGet 0 u.tileSpares k + 1)) } }
  else if die = 4 then { s with units := { u with coreSpares := min 2 (u.coreSpares + 1) } }
  else if isStack die then
    { s with units := { u with channelSpares := mapSet 0 u.channelSpares (die - 5) (min 2 (mapGet 0 u.channelSpares (die - 5) + 1)) } }
  else
    let (k, s) := s.drawBelow 2
    { s with fab := { s.fab with failedLanes := pairInsert s.fab.failedLanes (die, 16 + k) } }

/-- One slot more of a task with a period.  A telemetry sample takes one; how many a calibration or a test takes is left open:
free values say whether this one ends it, and whether the spare tested is faulty (R483). -/
def State.periodicSlot (kind die unit : Nat) (s : State) : State :=
  let b := s.bg kind die unit
  let s := s.setBg kind die unit { b with slots := b.slots + 1 }
  if kind = bgScrub then
    let s := s.scrubSlot (die - 5) unit
    if channelBursts ≤ b.slots + 1 then s.bgDone kind die unit else s
  else if kind = bgTelemetry then s.bgDone kind die unit
  else
    let (ends, s) := s.drawBelow 2
    let (bad, s) := s.drawBelow 2
    let s := if ends = 1 ∧ bad = 1 ∧ kind = bgSpareTest then s.spareFaulty die else s
    if ends = 1 then s.bgDone kind die unit else s

/-- One slot more of a migration; its bytes leave once every channel has read its share. -/
def State.moveSlot (ctx key : Nat) (s : State) : State :=
  match s.mem.migrations.find? fun m => m.ctx == ctx with
  | none => s
  | some m =>
    let m' := { m with slots := mapSet 0 m.slots key (mapGet 0 m.slots key + 1) }
    let s := { s with mem := { s.mem with migrations := s.mem.migrations.map fun x => if x.ctx = ctx then m' else x } }
    if !m.home && allSlots frameBursts m'.slots then s.sendMoved m' else s

def State.clearSlot (ring key : Nat) (s : State) : State :=
  { s with mem := { s.mem with clearing := s.mem.clearing.map fun k =>
    if k.ask.ring = ring then { k with slots := mapSet 0 k.slots key (mapGet 0 k.slots key + 1) } else k } }

/-- What a slot does for the task that is granted it. -/
def State.useSlot (die unit : Nat) (w : BgWant) (s : State) : State :=
  match w.task with
  | .periodic k => if k = bgRefresh then s else s.periodicSlot k die unit
  | .move ctx => s.moveSlot ctx (slotKey die unit)
  | .clear ring => s.clearSlot ring (slotKey die unit)
  | .copy =>
    let b := s.bg bgCopy die unit
    s.setBg bgCopy die unit { b with slots := b.slots + 1 }

/-- A unit that has slots: a channel of a stack, or a unit of another die of the package. -/
def State.hasSlots (s : State) (die unit : Nat) : Bool := s.diePresent die && (!isStack die || decide (unit < 32))

/-- FALLOW_SLOT_GRANT: one slot of a unit goes to the first task by R226. -/
def execFallowSlotGrant (die unit : Nat) (s : State) : Host.Outcome State Fault Refusal :=
  ok (if s.host.fatal || !s.hasSlots die unit then s
    else
      let (r, s) := s.drawBelow 40
      match bestBackground (s.backgroundOf die unit (r == 0)) with
      | none => s
      | some w => s.useSlot die unit w)

/-- R228: a miss is counted and noticed. -/
def State.bgMissed (kind die unit : Nat) (s : State) : State :=
  (s.count 3 1 false).notice 0x801 [BitVec.ofNat 32 (kind + die % 32 * 256 + unit % 65536 * 65536)]

/-- A task with a period passes its deadline, to which time runs; a telemetry sample is then missing. -/
def State.periodicMiss (kind die unit : Nat) (s : State) : State :=
  let b := s.bg kind die unit
  match s.scSince b.from_ with
  | none => s
  | some d =>
    if b.missed then s
    else
      let s := ((s.toSc (s.sc + (bgDeadline kind - d))).setBg kind die unit { b with missed := true }).bgMissed kind die unit
      if kind = bgTelemetry then
        { s with units := { s.units with telemetryMissing := setInsert s.units.telemetryMissing (die * 65536 + unit) } }
      else s

/-- The first migration that waits for fallow slots passes its command's deadline. -/
def State.moveMiss (die unit : Nat) (s : State) : State :=
  match s.mem.migrations.find? fun m => !m.free && !m.missed && m.deadline != 0 with
  | none => s
  | some m =>
    let s := s.toSc (s.sc + (m.deadline - (s.scSince m.since).getD 0))
    let ms := s.mem.migrations.map fun x => if x.ctx = m.ctx then { x with missed := true } else x
    ({ s with mem := { s.mem with migrations := ms } }).bgMissed bgMigration die unit

/-- FALLOW_DEADLINE: the miss of a task that has not ended is counted and noticed once, and the task goes on deferred. -/
def execFallowDeadline (kind die unit : Nat) (s : State) : Host.Outcome State Fault Refusal :=
  ok (if s.host.fatal || !s.hasSlots die unit then s
    else if kind = bgMigration then s.moveMiss die unit
    else if (kindsOf die).contains kind then s.periodicMiss kind die unit
    else s)

/-! ### Channels (R472) -/

/-- CHANNEL_COPY_COMPLETE: the copy of a retiring channel has ended, while a job runs in the fallow slots that it needs, and the
switch waits for a boundary. -/
def execChannelCopyComplete (stack channel : Nat) (s : State) : Host.Outcome State Fault Refusal :=
  ok (if s.host.fatal || !s.units.copying.contains (stack, channel) ||
        (s.jobRuns && decide ((s.bg bgCopy (stack + 5) channel).slots < channelBursts)) then s
    else
      let s := s.setBg bgCopy (stack + 5) channel {}
      let s := { s with units := { s.units with
        copying := s.units.copying.filter fun c => c != (stack, channel)
        switching := pairInsert s.units.switching (stack, channel) } }
      (s.pushBoundary (.channel stack channel)).atOnce)

end Sys2Proof.Machine
end

