-- ==== Sys2Proof/Machine/Power.lean ====
section
/-! DEFINITION. Power and clocks: budgets, power periods, operating points, samples and unit power states (chapter 14; R566). -/

namespace Sys2Proof.Machine

/-! ### Limits (R441 to R443, R446) -/

/-- B changes; a pending delayed step is cancelled (R442).  Of a command and a sideband write in one sc the lower stands. -/
def State.setBudget (b : Nat) (sideband : Bool) (a : Option Ask) (s : State) : State :=
  let b := min b 2000
  let old := s.pow.budget
  let b := match s.pow.budgetAt with
    | some (t, side) => if t = s.sc ∧ side ≠ sideband then min b old else b
    | none => b
  let gone := s.pow.delayed
  let s := { s with pow := { s.pow with budget := b, budgetAt := some (s.sc, sideband), delayed := none } }
  let s := match a with
    | some a => s.auditFor a 0x105 0 (leBytes 2 old) (leBytes 2 b)
    | none => s.audit 0x105 0 (leBytes 2 old) (leBytes 2 b)
  match gone with
  | some d => s.final d.1 3 0x40 [0, 0, 0, 0]
  | none => s

/-- POWER_LIMIT: S. -/
def execPowerLimit (ring : Nat) (s : State) : Host.Outcome State Fault Refusal :=
  ok (s.command 0xA0 ring fun c s =>
    let w := c.p 16 2
    paramOr c [(16, 2)] false (decide (1 ≤ w) && decide (w ≤ 2000)) (fun s =>
      let old := s.pow.limit
      (({ s with pow := { s.pow with limit := w } }).auditFor c.ask 0x104 0 (leBytes 2 old) (leBytes 2 w)).done c.ask []) s)

/-- A delayed BUDGET_STEP takes the place of one that is pending. -/
def State.delayBudget (c : Cmd) (s : State) : State :=
  let d := c.p 18 4
  let gone := s.pow.delayed
  let s := { s with pow := { s.pow with delayed := some (c.ask, min (c.p 16 2) 2000, s.sc + d) } }
  let s := match gone with
    | some g => s.final g.1 3 0x40 [0, 0, 0, 0]
    | none => s
  s.answer c.ask 1 0 (4 :: wordsOf 2 (d * fcPerSc s.pow.point))

/-- BUDGET_STEP: B, at once or after a delay. -/
def execBudgetStep (ring : Nat) (s : State) : Host.Outcome State Fault Refusal :=
  ok (s.command 0xA1 ring fun c s =>
    paramOr c [(16, 6)] false true (fun s =>
      if c.p 18 4 = 0 then (s.setBudget (c.p 16 2) false (some c.ask)).done c.ask [] else s.delayBudget c) s)

/-- BUDGET_STEP_DELAY_END: the delay has passed. -/
def execBudgetStepDelayEnd (s : State) : Host.Outcome State Fault Refusal :=
  ok (match s.pow.delayed with
    | some (a, b, due) =>
      let s := s.toSc due
      (({ s with pow := { s.pow with delayed := none } }).setBudget b false (some a)).final a 0 0 []
    | none => s)

/-- BUDGET_LEND: L for a time; an expiry of 0 ends the lend. -/
def execBudgetLend (ring : Nat) (s : State) : Host.Outcome State Fault Refusal :=
  ok (s.command 0xA2 ring fun c s =>
    let l := c.p 16 2
    let t := c.p 18 4
    paramOr c [(16, 6)] false (decide (l ≤ 2000) && decide (t ≤ 65535)) (fun s =>
      let old := s.pow.lent
      let new := if t = 0 then 0 else l
      let s := { s with pow := { s.pow with lent := new, lendUntil := if t = 0 then 0 else s.sc + t * scPerSecond } }
      (s.auditFor c.ask 0x106 0 (leBytes 2 old) (leBytes 2 new)).done c.ask []) s)

/-- LEND_EXPIRED: L becomes 0. -/
def execLendExpired (s : State) : Host.Outcome State Fault Refusal :=
  ok (if s.pow.lendUntil = 0 then s
    else
      let s := s.toSc s.pow.lendUntil
      let old := s.pow.lent
      (({ s with pow := { s.pow with lent := 0, lendUntil := 0 } }).audit 0x106 0 (leBytes 2 old) (leBytes 2 0)).powerNotice
        0x823 none [BitVec.ofNat 32 old])

/-- SUPPLY_WARN: SUPPLY_WARN_N falls, and the warn budget binds. -/
def execSupplyWarn (s : State) : Host.Outcome State Fault Refusal :=
  ok (if !s.board.aon || s.pow.warnIn then s
    else
      ({ s with
        pow := { s.pow with warnIn := true }
        board := { s.board with supplyWarnN := false } }).powerNotice 0x824 (some 1) [BitVec.ofNat 32 s.pow.warn])

/-- SUPPLY_WARN_RISE: P_eff governs again. -/
def execSupplyWarnRise (s : State) : Host.Outcome State Fault Refusal :=
  ok { s with
    pow := { s.pow with warnIn := false }
    board := { s.board with supplyWarnN := true } }

/-- The warn budget changes. -/
def State.setWarn (w : Nat) (s : State) : State :=
  ({ s with pow := { s.pow with warn := w } }).audit 0x107 0 (leBytes 2 s.pow.warn) (leBytes 2 w)

/-- SB_BUDGET (R442). -/
def execSbBudgetWrite (v : BitVec 32) (s : State) : Host.Outcome State Fault Refusal :=
  ok (if s.board.aon then s.setBudget (v.toNat % 65536) true none else s)

/-- SB_WARN (R446). -/
def execSbWarnWrite (v : BitVec 32) (s : State) : Host.Outcome State Fault Refusal :=
  ok (if s.board.aon then s.setWarn (v.toNat % 65536) else s)

/-- A sideband register (R459, R553): SB_PSTAT clears the bits written 1; identity, boot, temperature, power and hint are read
only, and other offsets ignore writes. -/
def execSbRegisterWrite (offset : Nat) (v : BitVec 32) (s : State) : Host.Outcome State Fault Refusal :=
  ok (if !s.board.aon then s
    else if offset = 0x40 then s.setBudget (v.toNat % 65536) true none
    else if offset = 0x44 then s.setWarn (v.toNat % 65536)
    else if offset = 0x50 then
      { s with pow := { s.pow with pstat := s.pow.pstatNow.clear s.sc s.pow.pstat (v.setWidth 6) } }
    else s)

/-! ### POWER_QUERY (Table 14.6) -/

def State.lendLeft (s : State) : Nat :=
  if s.pow.lendUntil = 0 then 0 else ceilDiv (s.pow.lendUntil - s.sc) scPerSecond

/-- The 256-bit power record. -/
def State.powerRecord (s : State) : List Byte :=
  let p := s.pow
  leBytes 32 (packBits [(p.stretch, 32), (0, 6), (b2n p.warnIn, 1), (b2n p.hold, 1), (p.bind_, 8), (p.tj, 8),
    (s.floorPoint, 4), (p.point, 4), (p.slack, 32), (s.lendLeft, 16), (p.warn, 16), (p.thermal, 16), (p.lent, 16),
    (p.budget, 16), (p.limit, 16), (s.peff, 16), (p.p1s, 16), (p.p1ms, 16), (p.vin, 16)])

def execPowerQuery (ring : Nat) (s : State) : Host.Outcome State Fault Refusal :=
  ok (s.command 0xA3 ring fun c s => paramOr c [bufBytes] false true (fun s => s.answerRecord c s.powerRecord []) s)

/-! ### Unit power states (R434 to R440, Tables 7.5, 14.3 and 14.4) -/

/-- Die, unit field and states that Table 14.4 allows. -/
def unitNamed (kind die num : Nat) : Bool :=
  match kind with
  | 0 => decide (die < 4) && decide (num < 16)
  | 1 => decide (die < 4) && decide (num < 8)
  | 2 => die == 4 && decide (num < 16)
  | 3 => die == 4 && decide (num < 8)
  | 4 => decide (die < 4) && num == 0
  | _ => false

def stateAllowed (kind st : Nat) : Bool :=
  match kind with
  | 0 => decide (1 ≤ st) && decide (st ≤ 3)
  | 4 => st == 3
  | _ => st == 1 || st == 2

/-- The running image uses a unit. -/
def State.usesUnit (s : State) (u : UnitId) : Bool :=
  if u.kind = 4 then s.imageUnits.any fun x => decide (x.kind ≤ 1) && x.die == u.die
  else if u.kind = 3 then !(s.image Image.sparse).isEmpty
  else s.imageUnits.contains u

/-- fc from the start of a shut-down to its quiesced point. -/
def quiesceFc (to_ : Nat) : Nat := if to_ = 1 then 1 else 48

/-- Power-down after the quiesced point: 10 sc. -/
def State.downFc (s : State) : Nat := 10 * fcPerSc s.pow.point

def restState : Nat → UnitPower
  | 1 => .idle
  | 2 => .nap
  | _ => .dark

/-- Silt and configuration of a tile group are lost; its silt will read zero (Table 14.3). -/
def State.darkenGroup (die g : Nat) (s : State) : State :=
  (List.range 18).foldl (fun (s : State) i =>
    match tileId? die (18 * g + i) with
    | some id => s.modTile id fun t => { Tile.idle with clock := t.clock }
    | none => s) s

/-- What entering DARK, or waking from it, loses. -/
def State.darken (u : UnitId) (s : State) : State :=
  if u.kind = 0 then s.darkenGroup u.die u.num
  else if u.kind = 4 then
    (List.range 16).foldl (fun (s : State) g => (s.setUnit ⟨0, u.die, g⟩ .dark).darkenGroup u.die g) s
  else s

/-- A unit begins to shut down. -/
def State.beginShut (u : UnitId) (to_ : Nat) (asks : List Ask) (s : State) : State :=
  s.setUnit u (.shutting to_ s.fc asks [])

/-- UNIT_DISABLE of a unit in power state `p`, towards state `st`.  A unit at rest in that state or a deeper one has its
quiesced point behind it. -/
def State.disable (u : UnitId) (st : Nat) (a : Ask) (s : State) : State :=
  match s.unitPower u with
  | .active => (s.beginShut u st [a]).keep a
  | .idle => if st = 1 then s.done a [] else (s.beginShut u st [a]).keep a
  | .nap => if st = 3 then (s.setUnit u (.powering 3 s.fc [])).done a [] else s.done a []
  | .dark => s.done a []
  | .shutting to_ t asks en => (s.setUnit u (.shutting (max to_ st) t (asks ++ [a]) en)).keep a
  | .powering to_ t en => (s.setUnit u (.powering (max to_ st) t en)).done a []
  | .waking f t en ds => (s.setUnit u (.waking f t en (ds ++ [(st, a)]))).keep a

/-- The parameters of UNIT_DISABLE and UNIT_ENABLE. -/
def Cmd.unit (c : Cmd) : UnitId := ⟨c.p 17 1, c.p 16 1, c.p 18 2⟩

def execUnitDisable (ring : Nat) (s : State) : Host.Outcome State Fault Refusal :=
  ok (s.command 0xA4 ring fun c s =>
    let u := c.unit
    paramOr c [(16, 5)] false (unitNamed u.kind u.die u.num && stateAllowed u.kind (c.p 20 1)) (fun s =>
      if s.jobRuns && s.usesUnit u then s.refuse c.ask refState else s.disable u (c.p 20 1) c.ask) s)

/-- The deferred answer of an enable: fc until the unit is ACTIVE. -/
def State.enableIn (a : Ask) (n : Nat) (s : State) : State := s.answer a 1 0 (4 :: wordsOf 2 n)

/-- UNIT_ENABLE of a unit. -/
def State.enable (u : UnitId) (a : Ask) (s : State) : State :=
  match s.unitPower u with
  | .active => s.done a []
  | .idle => (s.setUnit u (.waking 1 s.fc [a] [])).enableIn a (s.wakeFc u.kind 1)
  | .nap => (s.setUnit u (.waking 2 s.fc [a] [])).enableIn a (s.wakeFc u.kind 2)
  | .dark => (s.setUnit u (.waking 3 s.fc [a] [])).enableIn a (s.wakeFc u.kind 3)
  | .shutting to_ t asks en =>
    (s.setUnit u (.shutting to_ t asks (en ++ [a]))).enableIn a (t + quiesceFc to_ - s.fc + s.wakeFc u.kind to_)
  | .powering to_ t en =>
    (s.setUnit u (.powering to_ t (en ++ [a]))).enableIn a (t + s.downFc - s.fc + s.wakeFc u.kind to_)
  | .waking f t en ds => (s.setUnit u (.waking f t (en ++ [a]) ds)).enableIn a (t + s.wakeFc u.kind f - s.fc)

def execUnitEnable (ring : Nat) (s : State) : Host.Outcome State Fault Refusal :=
  ok (s.command 0xA5 ring fun c s =>
    let u := c.unit
    paramOr c [(16, 4)] false (unitNamed u.kind u.die u.num) (fun s => s.enable u c.ask) s)

def State.answerAll (asks : List Ask) (s : State) : State := asks.foldl (fun s a => s.done a []) s

/-- UNIT_QUIESCED: the disables are answered; a waiting enable begins the full wake, and no power-down begins. -/
def execUnitQuiesced (u : UnitId) (s : State) : Host.Outcome State Fault Refusal :=
  ok (match s.unitPower u with
    | .shutting to_ t asks en =>
      let s := s.toFc (t + quiesceFc to_)
      let s := if en.isEmpty then s.setUnit u (if to_ = 1 then .idle else .powering to_ s.fc [])
        else (if to_ = 3 then s.darken u else s).setUnit u (.waking to_ s.fc en [])
      s.answerAll asks
    | _ => s)

/-- UNIT_POWER_DOWN_COMPLETE: the unit rests, or an enable that waited begins the full wake. -/
def execUnitPowerDownComplete (u : UnitId) (s : State) : Host.Outcome State Fault Refusal :=
  ok (match s.unitPower u with
    | .powering to_ t en =>
      let s := s.toFc (t + s.downFc)
      let s := if to_ = 3 then s.darken u else s
      if en.isEmpty then s.setUnit u (restState to_) else s.setUnit u (.waking to_ s.fc en [])
    | _ => s)

/-- UNIT_WAKE_COMPLETE: the unit is ACTIVE, and its enables are answered; disables that waited begin its shut-down. -/
def execUnitWakeComplete (u : UnitId) (s : State) : Host.Outcome State Fault Refusal :=
  ok (match s.unitPower u with
    | .waking f t en ds =>
      let s := (s.toFc (t + s.wakeFc u.kind f)).setUnit u .active
      let s := if u.kind = 4 then (List.range 16).foldl (fun (s : State) g => s.setUnit ⟨0, u.die, g⟩ .active) s else s
      let s := if ds.isEmpty then s else s.beginShut u ((ds.map Prod.fst).foldl max 0) (ds.map Prod.snd)
      en.foldl (fun s a => s.final a 0 0 []) s
    | _ => s)

/-! ### Power periods (R433, R436, R437, R445, R447, R448, R455, R456, R534) -/

/-- Units that have nothing to do rest in NAP, and units of the image are ACTIVE. -/
def State.gateUnits (s : State) : State :=
  let rest (used : UnitId → Bool) (s : State) : State :=
    allUnits.foldl (fun (s : State) u =>
      if used u then s
      else
        match s.unitPower u with
        | .active | .idle => s.setUnit u .nap
        | _ => s) s
  if s.jobRuns then
    let s := rest s.usesUnit s
    if s.pow.hold then s else s.wakeImage
  else if s.pow.restful then rest (fun _ => false) s
  else s

/-- The highest point, up to `n`, whose predicted draw is at most `lim`; 0 when there is none. -/
def pointWithin (predicted : List Nat) (lim n : Nat) : Nat :=
  ((List.range (n + 1)).filter fun p => decide (predicted.getD p 0 ≤ lim)).foldl max 0

/-- A limit in W with the bound that its current limit, `num`/`den` A, sets at the input voltage sampled last (R427, R428, Table
14.1). -/
def PowState.within (p : PowState) (watts num den : Nat) : Nat :=
  if p.vin = 0 then watts else min watts (num * p.vin / (100 * den))

/-- The point that the broker wants: limits of rank 4 and 5 at any point, P_eff down to the floor; one index up at most.  A guest
die's draw counts with the package's (R21). -/
def State.wantedPoint (s : State) (r : PeriodIn) : Nat :=
  let guest := if s.trust.fuses.guestPart then r.guest else 0
  let predicted := r.predicted.map (· + guest)
  let peak := s.pow.within 2600 72 1
  let hard := pointWithin predicted (if s.pow.warnIn then min s.pow.warn peak else peak) 15
  let soft := max (pointWithin predicted (s.pow.within s.peff s.peff 36) 15) (if s.jobRuns then s.floorPoint else 0)
  min (min hard soft) (min 15 (s.pow.point + 1))

/-- A change of operating point: the clocks run at the lower of the two throughout. -/
def State.movePoint (p : Nat) (s : State) : State :=
  if p = s.pow.point then s
  else { s with pow := { s.pow with pointTo := some p, point := min p s.pow.point } }

/-- The change under way is complete. -/
def State.pointDone (s : State) : State :=
  match s.pow.pointTo with
  | some p => { s with pow := { s.pow with point := p, pointTo := none } }
  | none => s

/-- H and the hottest junction (R455, R456). -/
def State.thermalPeriod (tj die : Nat) (s : State) : State :=
  let p := s.pow
  let H := if 95 ≤ tj then p.thermal + 25 else if tj < 92 then p.thermal - 25 else p.thermal
  let warn : Bool := decide (95 ≤ tj) && p.coolSince
  let s := { s with pow := { p with
    tj := tj, thermal := H, coolSince := if 95 ≤ tj then false else if tj < 92 then true else p.coolSince
    hot := decide (105 ≤ tj) || (p.hot && decide (103 ≤ tj)) } }
  if warn then s.powerNotice 0x822 (some 3) [BitVec.ofNat 32 die, BitVec.ofNat 32 tj] else s

/-- BUDGET_UNMET when P_eff comes to lie below the draw predicted at the floor point (R445). -/
def State.checkBudget (predicted : List Nat) (s : State) : State :=
  let need := predicted.getD s.floorPoint 0
  let now : Bool := s.jobRuns && decide (s.peff < need)
  let new := now && !s.pow.unmet
  let s := { s with pow := { s.pow with unmet := now } }
  if new then s.powerNotice 0x820 (some 0) [BitVec.ofNat 32 s.peff, BitVec.ofNat 32 need] else s

/-- Cycles stretched by the broker or the droop detector (R448). -/
def State.stretchBy (n : Nat) (s : State) : State :=
  ({ s with pow := { s.pow with stretchNow := s.pow.stretchNow + n } }).count 0x0E n false

/-- Refused guest accesses of the period are recorded (R534). -/
def State.recordDenied (s : State) : State :=
  match s.trust.denied with
  | some (addr, kind, n) =>
    ({ s with trust := { s.trust with denied := none } }).audit 8 0 [] (leBytes 8 addr ++ leBytes 1 kind ++ leBytes 4 n)
  | none => s

/-- POWER_PERIOD: the boundary of a power period. -/
def execPowerPeriod (r : PeriodIn) (s : State) : Host.Outcome State Fault Refusal :=
  ok (if !s.pow.rails || s.host.fatal then s
    else
      let s := ((s.toSc ((s.sc / 1024 + 1) * 1024)).pointDone).thermalPeriod r.tj r.die
      let s := { s with pow := { s.pow with bind_ := r.rank } }
      let s := (s.stretchBy r.stretched).checkBudget r.predicted
      let s := if r.belowFloor then
          s.powerNotice 0x821 (some 5) [BitVec.ofNat 32 r.rank, BitVec.ofNat 32 r.stretched]
        else s
      let s := ((s.movePoint (s.wantedPoint r)).gateUnits).recordDenied
      { s with pow := { s.pow with restful := !s.jobRuns } })

/-- OPERATING_POINT_REACHED: 250 sc after the boundary at which the change began. -/
def execOperatingPointReached (s : State) : Host.Outcome State Fault Refusal :=
  ok (if s.pow.pointTo.isSome then (s.toSc (s.sc / 1024 * 1024 + 250)).pointDone else s)

/-- The meters with a sample's µJ added; the guest's meter counts on a CX25-G only. -/
def State.addEnergy (uj : List Nat) (s : State) : State :=
  let e := Vector.ofFn fun (i : Fin 9) =>
    if i.val = 8 && !s.trust.fuses.guestPart then 0 else (s.pow.energy[i.val] + uj.getD i.val 0) % 2 ^ 64
  { s with pow := { s.pow with energy := e } }

/-- R427, Table 14.1: ten samples that mean more than 3,200 W, or more than 89 A, the guest die's draw among them (R21). -/
def PowState.overAbsolute (p : PowState) : Bool :=
  let sum := p.window.foldl (· + ·) 0
  decide (32000 < sum) || (p.vin != 0 && decide (89 * p.vin < 10 * sum))

/-- The broker meets the absolute limit by stretching cycles; by how many in this sample is a free value (R447, R448). -/
def State.holdAbsolute (s : State) : State :=
  if s.pow.overAbsolute then
    let (n, s) := s.drawBelow 100
    s.stretchBy n
  else s

/-- ENERGY_SAMPLE (R21, R427, R566): one sample of 1 µs, with the windows that it completes. -/
def execEnergySample (r : SampleIn) (s : State) : Host.Outcome State Fault Refusal :=
  ok (if !s.pow.rails then s
    else
      let s := (s.toSc ((s.sc / 25 + 1) * 25)).addEnergy r.uj
      let s := ({ s with pow := { s.pow with window := (r.uj.headD 0 :: s.pow.window).take 10, vin := r.vin } }).holdAbsolute
      let s := if s.host.fatal then s else r.quiet.foldl (fun (s : State) q => s.quietFault q) s
      let p := s.pow
      { s with pow := { p with
        p1ms := r.p1ms.getD p.p1ms, p1s := r.p1s.getD p.p1s
        stretch := if r.p1ms.isSome then p.stretchNow else p.stretch
        stretchNow := if r.p1ms.isSome then 0 else p.stretchNow } })

/-- DROOP_DETECTED: the same cycle stretches on every die; no count changes. -/
def execDroopDetected (cycles : Nat) (s : State) : Host.Outcome State Fault Refusal :=
  ok (if s.pow.rails then s.stretchBy cycles else s)

end Sys2Proof.Machine
end

