-- ==== Sys2Proof/Machine/Trust.lean ====
section
/-! DEFINITION. Identity, keys, seat, audit log, attestation, firmware and guest windows (chapter 16). -/

namespace Sys2Proof.Machine

/-! ### Identity (R509 to R511, Tables 16.2 and 16.3) -/

def State.part (s : State) : Nat := if s.trust.fuses.guestPart then 0x0C26 else 0x0C25

def State.stepping (s : State) (i : Nat) : Nat := if s.diePresent i then s.trust.fuses.steppings.getD i 0x20 else 0

/-- The firmware that boots or has booted. -/
def State.running (s : State) : FwSlot := (s.trust.booted.map s.trust.slot).getD {}

def State.fwDigest (s : State) : List Byte := padTo 64 s.running.bodyDigest

/-- STATE of Table 16.2. -/
def State.stateByte (s : State) : Nat :=
  b2n s.unseated + 2 * b2n s.jobRuns + 4 * b2n s.degraded + 8 * b2n s.trust.fuses.guestPart

/-- The audit head; before the first entry, the digest that seeds the chain. -/
def State.headDigest (s : State) : List Byte := if s.trust.auditNext = 0 then s.idDigest else s.trust.auditHead

/-- Tile spares left in a group. -/
def State.groupSpares (s : State) (die g : Nat) : Nat := 2 - mapGet 0 s.units.tileSpares (die * 16 + g)

/-- Tiles of a die with a silt bank that has no spare row left. -/
def State.rowless (s : State) (die : Nat) : Nat :=
  (s.tiles.filter fun e => e.1 / 512 == die && (List.range 16).any fun b => decide (24 ≤ e.2.sparesUsed b)).length

/-- Table 16.3 for die index `i`; a link die's spare lanes left are those that have neither failed nor carry a port. -/
def State.dieEntry (s : State) (i : Nat) : List Byte :=
  if !s.diePresent i then List.replicate 16 0
  else
    let a :=
      if i < 4 then ((List.range 16).map fun g => s.groupSpares i g).foldl (· + ·) 0
      else if i = 4 then 2 - s.units.coreSpares
      else if i ≤ 20 then 2 - mapGet 0 s.units.channelSpares (i - 5)
      else if i ≤ 24 then ([16, 17].filter fun l => !s.laneFailed i l && (s.laneCarrier i l).isNone).length
      else 0
    let lost := (s.units.lost.filter fun n => n / 1024 % 64 == i).length
    leBytes 1 a ++ leBytes 1 (if i < 4 then 1 - mapGet 0 s.units.tilthSpares i else 0) ++ leBytes 2 lost ++
      leBytes 4 (if i < 4 then packBits ((List.range 16).map fun g => (s.groupSpares i g, 2)) else 0) ++
      leBytes 2 (if i < 4 then s.rowless i else 0) ++ leBytes 6 0

def bytesFor (f : Nat → List Byte) (n : Nat) : List Byte := (List.range n).flatMap f

/-- The 8,064-byte identity record. -/
def State.identityRecord (s : State) : List Byte :=
  leBytes 2 s.part ++ leBytes 2 8064 ++ leBytes 4 s.features ++ leBytes 8 s.trust.fuses.serial ++ s.idDigest ++
    leBytes 8 s.trust.fuses.certKey ++ leBytes 4 s.running.fwVer ++ leBytes 2 s.running.svn ++ leBytes 1 s.stateByte ++
    leBytes 1 s.trust.rollback ++ s.fwDigest ++ bytesFor (fun i => leBytes 1 (s.stepping i)) 32 ++ padTo 32 s.trust.seat ++
    leBytes 8 s.trust.auditNext ++ leBytes 8 s.trust.auditFirst ++ s.headDigest ++ bytesFor s.dieEntry 32 ++
    padTo 2592 s.trust.fuses.idKey ++ padTo 4627 s.trust.fuses.cert ++ List.replicate 29 0

/-- IDENTIFY. -/
def execIdentify (ring : Nat) (s : State) : Host.Outcome State Fault Refusal :=
  ok (s.command 0x01 ring fun c s => paramOr c [bufBytes] false true (fun s => s.answerRecord c s.identityRecord []) s)

/-! ### Keys (R504 to R508) -/

/-- KEYID of a public key (R505). -/
def keyIdOf (pub : List Byte) : Nat := leNat ((sha3 pub).take 8)

/-- Keys that a role may hold (Table 16.1). -/
def roleStore (role : Nat) : Nat := if role = 1 then 32 else 4

/-- What an entry of a key holds: its role, and the digest of its public key. -/
def keyValue (role : Nat) (pub : List Byte) : List Byte := leBytes 1 role ++ sha3 pub

/-- KEY_ENROL. -/
def execKeyEnrol (ring : Nat) (s : State) : Host.Outcome State Fault Refusal :=
  ok (s.command 0xC0 ring fun c s =>
    let role := c.p 16 1
    let id := c.p 24 8
    let pub := c.ext.take 2592
    let good := (role == 1 || role == 2) && c.ext.length == 2624 && (c.ext.drop 2592).all (· == 0) && id == keyIdOf pub
    paramOr c [(16, 1), (24, 8)] false good (fun s =>
      let t := s.trust
      if t.keys.any (fun k => k.keyId == id) || t.fuses.makerKeys.any (fun k => k.1.keyId == id) || t.revoked.contains id then
        s.refuse c.ask refState
      else if roleStore role ≤ (t.keys.filter fun k => k.role == role).length then s.refuse c.ask refResource
      else
        let s := { s with trust := { t with keys := t.keys ++ [(⟨role, id, pub⟩ : Key)] } }
        (s.auditFor c.ask 1 id [] (keyValue role pub)).done c.ask []) s)

/-- A key is revoked: it never signs again here, and its claims end with its enrolment. -/
def State.revoke (a : Ask) (k : Key) (s : State) : State :=
  ({ s with trust := { s.trust with
    keys := s.trust.keys.filter fun x => x.keyId != k.keyId
    revoked := s.trust.revoked ++ [k.keyId] } }).auditFor a 2 k.keyId (keyValue k.role k.pub) []

/-- KEY_REVOKE. -/
def execKeyRevoke (ring : Nat) (s : State) : Host.Outcome State Fault Refusal :=
  ok (s.command 0xC1 ring fun c s =>
    let role := c.p 16 1
    paramOr c [(16, 1), (24, 8)] false (role == 1 || role == 2) (fun s =>
      match s.trust.keys.find? fun k => k.role == role && k.keyId == c.p 24 8 with
      | some k => (s.revoke c.ask k).done c.ask []
      | none => s.refuse c.ask refState) s)

/-! ### Seat (R527 to R529) -/

/-- R528: another installation's seat revokes every operator key and clears the guest windows. -/
def State.newInstall (a : Ask) (s : State) : State :=
  let s := (s.trust.keys.filter fun k => k.role == 1).foldl (fun s k => s.revoke a k) s
  { s with trust := { s.trust with windows := [] } }

/-- SEAT_BIND. -/
def execSeatBind (ring : Nat) (s : State) : Host.Outcome State Fault Refusal :=
  ok (s.command 0xC2 ring fun c s =>
    let seat := (c.packet.drop 16).take 32
    let install := c.p 16 8
    paramOr c [(16, 32)] false (decide (c.p 24 3 < 2 ^ 20) && c.p 27 1 == 0) (fun s =>
      if s.jobRuns then s.refuse c.ask refState
      else
        let kept := s.trust.keptInstall
        let s := if install ≠ 0 ∧ kept ≠ 0 ∧ install ≠ kept then s.newInstall c.ask else s
        let old := s.trust.seat
        let new := if install = 0 then List.replicate 32 0 else seat
        let s := { s with trust := { s.trust with seat := new, keptInstall := if install = 0 then kept else install } }
        (s.auditFor c.ask 3 0 old new).done c.ask []) s)

/-! ### The guest windows as a table (R532, Table 16.10) -/

/-- One entry of the window table. -/
def windowBytes (w : Nat × Nat × Nat) : List Byte :=
  leBytes 6 w.1 ++ leBytes 4 w.2.1 ++ leBytes 1 w.2.2 ++ leBytes 5 0

/-- The table of 32 entries. -/
def windowTable (ws : List (Nat × Nat × Nat)) : List Byte := padTo 512 (ws.flatMap windowBytes)

def windowGood (w : Nat × Nat × Nat) : Bool :=
  w.1 % frameBytes == 0 && w.2.1 != 0 && decide (w.1 + w.2.1 * frameBytes ≤ 2 ^ 48) && decide (w.2.2 < 4)

/-- GUEST_WINDOW. -/
def execGuestWindow (ring : Nat) (s : State) : Host.Outcome State Fault Refusal :=
  ok (s.command 0xC5 ring fun c s =>
    let n := c.p 16 1
    let ws := (List.range n).map fun i => (c.x (16 * i) 6, c.x (16 * i + 6) 4, c.x (16 * i + 10) 1)
    paramOr c [(16, 1)] false (decide (n ≤ 32) && ws.all windowGood && windowTable ws == c.ext) (fun s =>
      if !s.trust.fuses.guestPart then s.refuse c.ask refAbsent
      else
        let old := sha3 (windowTable s.trust.windows)
        let s := { s with trust := { s.trust with windows := ws } }
        (s.auditFor c.ask 7 0 old (sha3 (windowTable ws))).done c.ask []) s)

/-! ### Attestation (R526, Table 16.7) -/

/-- Bytes 0 to 447 of the report. -/
def State.attested (s : State) (challenge : List Byte) : List Byte :=
  leBytes 2 s.part ++ leBytes 2 5120 ++ leBytes 4 s.features ++ leBytes 8 s.trust.fuses.serial ++ padTo 32 challenge ++
    s.idDigest ++ s.fwDigest ++ leBytes 4 s.running.fwVer ++ leBytes 2 s.running.svn ++ leBytes 1 s.host.tclass.toNat ++
    leBytes 1 s.stateByte ++ padTo 32 s.trust.seat ++ leBytes 8 s.trust.auditNext ++ s.headDigest ++
    padTo 64 (if s.jobRuns then s.job.imageDigest else []) ++ leBytes 6 s.job.epoch ++ leBytes 6 s.sc ++ leBytes 4 0 ++
    padTo 64 (if s.trust.fuses.guestPart then sha3 (windowTable s.trust.windows) else []) ++ List.replicate 16 0

/-- The 5,120-byte report with its signature. -/
def State.report (s : State) (challenge : List Byte) : List Byte :=
  let b := s.attested challenge
  b ++ padTo 4627 (Config.mldsaSign (sha3 b)) ++ List.replicate 45 0

/-- ATTEST. -/
def execAttest (ring : Nat) (s : State) : Host.Outcome State Fault Refusal :=
  ok (s.command 0xC3 ring fun c s =>
    paramOr c [(16, 32), bufBytes] false true (fun s => s.answerRecord c (s.report ((c.packet.drop 16).take 32)) []) s)

/-! ### The audit log (R524, R525) -/

/-- Entries written to a buffer count as read. -/
def State.markRead (a b : Nat) (s : State) : State :=
  let u := cutRanges a b s.trust.unread
  let n := rangesSize u
  { s with trust := { s.trust with
    unread := u, auditHigh := if n < 196608 then 0 else (n - 196608) / 16384 + 1 } }

/-- AUDIT_READ: whole entries in index order, as many as the buffer holds. -/
def execAuditRead (ring : Nat) (s : State) : Host.Outcome State Fault Refusal :=
  ok (s.command 0xC4 ring fun c s =>
    paramOr c [(16, 8), bufBytes] false true (fun s =>
      let start := max (c.p 16 8) s.trust.auditFirst
      let es := (s.trust.audit.drop (start - s.trust.auditFirst)).take (c.bufLen / 256)
      let s := (s.hostWrite c.bufAddr es.flatten).markRead start (start + es.length)
      s.done c.ask (BitVec.ofNat 32 es.length :: wordsOf 2 start)) s)

end Sys2Proof.Machine
end

