-- ==== Sys2Proof/Machine/Window.lean ====
section
/-! DEFINITION. The host window: registers, the ring window, interrupt vectors, the aperture, Function Level Reset and power
states of the function (chapter 13), and the guest port behind its firewall (R531 to R535). -/

namespace Sys2Proof.Machine

/-! ### The attachment (R401 to R403, Table 13.1) -/

/-- Device ID and class code of the one function. -/
def State.deviceId (s : State) : Nat := s.part
def classCode : Nat := 0x120000

/-- The bytes that a BAR maps: BAR0 64 MiB, BAR2 64 GiB, every other none. -/
def barSize (bar : Nat) : Nat := if bar = 0 then 2 ^ 26 else if bar = 2 then 2 ^ 36 else 0

/-! ### Registers (R404 to R406, Tables 13.3 to 13.7) -/

/-- A vector's mask is cleared: the one message for its pending events is sent (R415). -/
def State.unmask (v : Nat) (s : State) : State :=
  let e := mapGet {} s.host.msix v
  let s := { s with host := { s.host with msix := mapSet {} s.host.msix v { e with masked := false } } }
  if e.pending && !s.host.d3hot then
    { s with host := { s.host with
      msix := mapSet {} s.host.msix v { e with masked := false, pending := false }
      messages := s.host.messages ++ [⟨v, e.addr, e.data⟩] } }
  else s

/-- VECTOR_UNMASK. -/
def execVectorUnmask (vector : BitVec 11) (s : State) : Host.Outcome State Fault Refusal := ok (s.unmask vector.toNat)

/-- One 32-bit word of an MSI-X table entry: address, data, and the mask in bit 0 of the last word. -/
def State.msixWrite (entry word : Nat) (v : Word) (s : State) : State :=
  let e := mapGet {} s.host.msix entry
  let put (e : MsixEntry) : State := { s with host := { s.host with msix := mapSet {} s.host.msix entry e } }
  match word with
  | 0 => put { e with addr := (e.addr.extractLsb' 32 32) ++ v }
  | 1 => put { e with addr := v ++ (e.addr.extractLsb' 0 32) }
  | 2 => put { e with data := v }
  | _ => if v.getLsbD 0 then put { e with masked := true } else s.unmask entry

/-- A 4-byte register. -/
def State.regWrite (offset : Nat) (v : Word) (s : State) : State :=
  let h := s.host
  match offset with
  | 0x014 => { s with host := { h with intCause := h.causeNow.clear s.fc h.intCause (v.setWidth 5) } }
  | 0x018 => { s with host := { h with intEnable := v.setWidth 5 } }
  | 0x030 => { s with host := { h with apertureBase := v.setWidth 27 } }
  | 0x034 => { s with host := { h with apertureStatus := h.apertureNow.clear s.fc h.apertureStatus (v.setWidth 4) } }
  | 0x040 => { s with host := { h with ringWin := v.setWidth 5 } }
  | _ => s

/-- REGISTER_WRITE: naturally aligned and of full width, or discarded; read-only and reserved fields ignore it.  The MSI-X
table takes aligned accesses of 4 or 8 bytes, as PCI Express has it. -/
def execRegisterWrite (offset size : Nat) (v : BitVec 64) (s : State) : Host.Outcome State Fault Refusal :=
  ok (if offset < 0x1000 then if size = 4 ∧ offset % 4 = 0 then s.regWrite offset (v.setWidth 32) else s
    else if 0x8000 ≤ offset ∧ offset < 0x10000 then
      let entry := (offset - 0x8000) / 16
      let word := offset % 16 / 4
      if size = 4 ∧ offset % 4 = 0 then s.msixWrite entry word (v.setWidth 32)
      else if size = 8 ∧ offset % 8 = 0 then
        (s.msixWrite entry word (v.setWidth 32)).msixWrite entry (word + 1) (v.extractLsb' 32 32)
      else s
    else if 0x300000 ≤ offset ∧ offset < 0x380000 then
      if size = 2 ∧ offset % 2 = 0 then
        { s with host := { s.host with vectors := mapSet 1 s.host.vectors ((offset - 0x300000) / 2) (v.setWidth 11) } }
      else s
    else s)

/-! ### What a read of BAR0 returns -/

/-- DEV_STATUS, Table 13.5. -/
def State.devStatus (s : State) : Nat :=
  packBits [(b2n s.host.ready, 1), (b2n s.unseated, 1), (b2n s.jobRuns, 1), (b2n s.runActive, 1), (b2n s.host.fatal, 1),
    (0, 19), (s.host.tclass.toNat, 8)]

/-- DB_ERR, Table 13.7. -/
def HostState.dbErr (h : HostState) : Nat := packBits [(h.dbRing.toNat, 18), (0, 12), (b2n h.dbCq, 1), (b2n h.dbValid, 1)]

/-- The value of a 4-byte register (Tables 13.3 to 13.7); reserved offsets read as zero. -/
def State.regRead (s : State) (offset : Nat) : Nat :=
  let h := s.host
  match offset with
  | 0x000 => s.part * 2 ^ 16 + 1
  | 0x004 => h.fwVer.toNat
  | 0x008 => ((List.range 32).map fun i => b2n (s.diePresent i) * 2 ^ i).foldl (· + ·) 0
  | 0x010 => s.devStatus
  | 0x014 => h.intCause.toNat
  | 0x018 => h.intEnable.toNat
  | 0x020 => s.job.epoch % 2 ^ 32
  | 0x024 => h.epochHi.toNat
  | 0x030 => h.apertureBase.toNat
  | 0x034 => h.apertureStatus.toNat
  | 0x038 => h.aperturePage.toNat
  | 0x040 => h.ringWin.toNat
  | 0x044 => h.dbErr
  | _ =>
    if 0x100 ≤ offset ∧ offset < 0x120 then
      leNat ((List.range 4).map fun i => BitVec.ofNat 8 (s.stepping (offset - 0x100 + i)))
    else 0

/-- One 4-byte word of an MSI-X table entry. -/
def MsixEntry.word (e : MsixEntry) (k : Nat) : Nat :=
  match k with
  | 0 => e.addr.toNat % 2 ^ 32
  | 1 => e.addr.toNat / 2 ^ 32
  | 2 => e.data.toNat
  | _ => b2n e.masked

/-- A byte of the MSI-X pending-bit array. -/
def HostState.pbaByte (h : HostState) (k : Nat) : Nat :=
  packBits ((List.range 8).map fun i => (b2n (mapGet {} h.msix (8 * k + i)).pending, 1))

/-- What the host reads at a BAR0 offset (R404, R407, R410).  Such a read changes nothing, and no row of the table stands for
it, but for EPOCH_LO and DB_ERR, whose reads have rows of their own. -/
def State.bar0Read (s : State) (offset size : Nat) : List Byte :=
  let zero := List.replicate size 0
  if offset < 0x1000 then if size = 4 ∧ offset % 4 = 0 then leBytes 4 (s.regRead offset) else zero
  else if 0x8000 ≤ offset ∧ offset < 0x10000 then
    let e := mapGet {} s.host.msix ((offset - 0x8000) / 16)
    let word := offset % 16 / 4
    if size = 4 ∧ offset % 4 = 0 then leBytes 4 (e.word word)
    else if size = 8 ∧ offset % 8 = 0 then leBytes 4 (e.word word) ++ leBytes 4 (e.word (word + 1))
    else zero
  else if 0x10000 ≤ offset ∧ offset < 0x10100 then
    (List.range size).map fun i => BitVec.ofNat 8 (s.host.pbaByte (offset - 0x10000 + i))
  else if 0x300000 ≤ offset ∧ offset < 0x380000 then
    if size = 2 ∧ offset % 2 = 0 then leBytes 2 (mapGet 1 s.host.vectors ((offset - 0x300000) / 2)).toNat else zero
  else if 0x2000000 ≤ offset ∧ offset < 0x4000000 then
    let a := 2 ^ 25 * s.host.ringWin.toNat + (offset - 0x2000000)
    (List.range size).map fun i => if a + i < storageBytes then mapGet 0 s.rs.storage (a + i) else 0
  else zero

/-- EPOCH_LO_READ (R405). -/
def execEpochLoRead (s : State) : Host.Outcome State Fault Refusal :=
  ok { s with host := { s.host with
    epochHi := BitVec.ofNat 16 (s.job.epoch / 2 ^ 32), readData := leBytes 4 s.job.epoch, readError := false } }

/-- DB_ERR_READ: its fields are returned and cleared. -/
def execDbErrRead (s : State) : Host.Outcome State Fault Refusal :=
  let h := s.host
  ok { s with host := { h with
    dbValid := false, dbCq := false, dbRing := 0, readData := leBytes 4 h.dbErr, readError := false } }

/-- A byte of ring storage lies in an allocated command ring. -/
def RingState.inCommand (rs : RingState) (a : Nat) : Bool :=
  rs.rings.any fun e => e.2.kind == .command && decide (e.2.base * 64 ≤ a) && decide (a < e.2.base * 64 + e.2.depth * 64)

/-- Poisoned TLP Received is reported through AER (Table 13.8). -/
def State.poisonedTlp (s : State) : State := { s with host := { s.host with aer := s.host.aer ++ [4] } }

/-- RING_WINDOW_WRITE (R410, R411); poisoned data are discarded (R425). -/
def execRingWindowWrite (offset : BitVec 25) (data : HostData) (s : State) : Host.Outcome State Fault Refusal :=
  let a := 2 ^ 25 * s.host.ringWin.toNat + offset.toNat
  let put (m : Map Byte) (p : Byte × Nat) : Map Byte :=
    if a + p.2 < storageBytes ∧ s.rs.inCommand (a + p.2) then mapSet 0 m (a + p.2) p.1 else m
  ok (if data.poisoned then s.poisonedTlp
    else { s with rs := { s.rs with storage := data.bytes.zipIdx.foldl put s.rs.storage } })

/-! ### The aperture (R416 to R421, Table 13.9) -/

/-- `n` bytes at `a` laid over bytes that begin at `la`. -/
def overlay (la : Nat) (bs : List Byte) (a : Nat) (xs : List Byte) : List Byte :=
  bs.zipIdx.map fun p => if a ≤ la + p.2 ∧ la + p.2 < a + xs.length then xs.getD (la + p.2 - a) 0 else p.1

/-- Home pages of sparse tables read as the gather units serve them with e = E (R302). -/
def State.servedRows (s : State) (la : Nat) (bs : List Byte) : List Byte :=
  s.tilth.directory.foldl (fun bs v =>
    match (s.image Image.sparse).find? fun t => t.layer == v.table with
    | none => bs
    | some t =>
      match s.rowBytes t v.row s.job.epoch with
      | .ok (w, m, q) =>
        let n := 2 * t.len
        overlay la (overlay la (overlay la bs (t.weights + v.row * n) w) (t.moments + v.row * n) m) (t.stats + v.row * 2) q
      | .error _ => bs) bs

/-- What a read finds of one page: bytes, or the bit of APERTURE_STATUS under which it answers all ones. -/
inductive Seen where
  | bytes (bs : List Byte)
  | ones (bit : Nat)
  /-- data that no rule gives: those of a lender, or of a word that cannot be corrected. -/
  | free
  deriving DecidableEq, Repr

/-- Table 13.9 for `n` bytes from offset `off` of page `pg`; an inlet answers as an unmapped page (R579). -/
def State.seePage (s : State) (pg off n : Nat) : Seen :=
  let p := s.mem.page pg
  let gone := s.mem.silent.contains p.peer || s.mem.lostLenders.contains p.peer
  if !p.valid || s.meetsInlet (pg * frameBytes + off) n then .ones 1
  else if p.state = .lost then .ones 2
  else
    let here : Bool := p.loc == .home || p.loc == .lent || p.copies && p.loc == .remote
    if !here && gone then .ones 2
    else if !p.banked && p.spec then .ones 0
    else if !here then .free
    else
      let pa := p.frameOf s.job.epoch * frameBytes + off
      if s.mem.poisoned pa n then .free else .bytes (s.servedRows (pg * frameBytes + off) (s.mem.read pa n))

/-- The bytes of a read, and the pages that answered all ones with the bit of each. -/
def State.seeRange (s : State) (la n : Nat) : List (Nat × Nat × Seen) :=
  (chunksOf la n).map fun c => (c.1, c.2.2, s.seePage c.1 c.2.1 c.2.2)

/-- The bytes of what was seen; free ones are drawn. -/
def State.seenBytes (xs : List (Nat × Nat × Seen)) (s : State) : List Byte × State :=
  xs.foldl (fun (acc : List Byte × State) x =>
    match x.2.2 with
    | .bytes bs => (acc.1 ++ bs, acc.2)
    | .ones _ => (acc.1 ++ List.replicate x.2.1 0xFF, acc.2)
    | .free =>
      let r := acc.2.drawBytes x.2.1
      (acc.1 ++ r.1, r.2)) ([], s)

/-- An event sets a bit of APERTURE_STATUS for a page. -/
def State.apertureEvent (bit page : Nat) (s : State) : State :=
  ({ s with host := { s.host with
    apertureStatus := s.host.apertureStatus ||| (1#4 <<< bit), apertureNow := s.host.apertureNow.add s.fc (1#4 <<< bit)
    aperturePage := BitVec.ofNat 27 page } }).setCause 2

/-- The local address of a BAR2 offset. -/
def State.apertureAddr (s : State) (offset : Nat) : Nat := (frameBytes * s.host.apertureBase.toNat + offset) % 2 ^ 48

/-- APERTURE_READ. -/
def execApertureRead (offset len : Nat) (s : State) : Host.Outcome State Fault Refusal :=
  let xs := s.seeRange (s.apertureAddr offset) len
  let r := s.seenBytes xs
  let s := { r.2 with host := { r.2.host with readData := r.1, readError := false } }
  ok (xs.foldl (fun (s : State) x =>
    match x.2.2 with
    | .ones b => s.apertureEvent b x.1
    | _ => s) s)

/-- A write of the host or the guest lands on a page (R420). -/
def State.landsOn (s : State) (pg : Nat) : Bool :=
  let p := s.mem.page pg
  p.valid && p.state != .lost &&
    (if p.banked then (p.loc == .home || p.loc == .remote) && !s.runActive else p.loc == .home && p.state == .open_)

/-- Bytes written through the aperture or by the guest; the pages that discarded their part. -/
def State.outsideWrite (la : Nat) (bs : List Byte) (s : State) : State × List Nat :=
  let r := (chunksOf la bs.length).foldl (fun (acc : State × List Nat × List Byte) c =>
    let now := acc.2.2.take c.2.2
    let later := acc.2.2.drop c.2.2
    if acc.1.landsOn c.1 && !acc.1.meetsInlet (c.1 * frameBytes + c.2.1) c.2.2 then
      let w := acc.1.writeFrames acc.1.job.epoch true (c.1 * frameBytes + c.2.1) now
      (w.1, if w.2.isNone then acc.2.1 else acc.2.1 ++ [c.1], later)
    else (acc.1, acc.2.1 ++ [c.1], later)) (s, [], bs)
  (r.1, r.2.1)

/-- APERTURE_WRITE; poisoned data are discarded on every page (R425). -/
def execApertureWrite (offset : Nat) (data : HostData) (s : State) : Host.Outcome State Fault Refusal :=
  let la := s.apertureAddr offset
  let r := if data.poisoned then (s.poisonedTlp, (chunksOf la data.bytes.length).map Prod.fst) else s.outsideWrite la data.bytes
  ok (r.2.foldl (fun (s : State) p => s.apertureEvent 3 p) r.1)

/-! ### The guest port (R531 to R535) -/

/-- Every byte of an access lies in windows that grant its kind: 0 a read, 1 a write. -/
def TrustState.granted (t : TrustState) (kind a n : Nat) : Bool :=
  (List.range n).all fun i => t.windows.any fun w =>
    bitOf w.2.2 kind && decide (w.1 ≤ a + i) && decide (a + i < w.1 + w.2.1 * frameBytes)

/-- A refused access (R534). -/
def State.denyGuest (a kind : Nat) (s : State) : State :=
  let d := match s.trust.denied with
    | some (b, k, n) => (b, k, n + 1)
    | none => (a, kind, 1)
  ({ s with
    trust := { s.trust with denied := some d }
    host := { s.host with readData := [], readError := true } }).count 0x0F 1 false

/-- GUEST_READ: served as an aperture read, an error reply in place of all-ones bytes. -/
def execGuestRead (addr len : Nat) (s : State) : Host.Outcome State Fault Refusal :=
  let xs := s.seeRange addr len
  let r := s.seenBytes xs
  let bad := xs.any fun x => match x.2.2 with | .ones _ => true | _ => false
  ok (if !s.trust.fuses.guestPart then s
    else if !s.trust.granted 0 addr len then s.denyGuest addr 0
    else if bad then { s with host := { s.host with readData := [], readError := true } }
    else { r.2 with host := { r.2.host with readData := r.1, readError := false } })

/-- GUEST_WRITE: lands or is refused as R420 states. -/
def execGuestWrite (addr : Nat) (bytes : List Byte) (s : State) : Host.Outcome State Fault Refusal :=
  let r := s.outsideWrite addr bytes
  ok (if !s.trust.fuses.guestPart then s
    else if !s.trust.granted 1 addr bytes.length then s.denyGuest addr 1
    else { r.1 with host := { r.1.host with readData := [], readError := !r.2.isEmpty } })

/-! ### Resets and power states of the function (R423 to R425) -/

/-- D3HOT_ENTRY: the job goes on, and interrupt messages are held. -/
def execD3hotEntry (s : State) : Host.Outcome State Fault Refusal := ok { s with host := { s.host with d3hot := true } }

/-- D0_RETURN: messages held for vectors that are not masked are sent. -/
def execD0Return (s : State) : Host.Outcome State Fault Refusal :=
  let h := s.host
  let due := mapKeys (fun _ (e : MsixEntry) => e.pending && !e.masked) h.msix
  ok (if h.d3hot then
    { s with host := { h with
      d3hot := false, messages := h.messages ++ due.map fun v => ⟨v, (mapGet {} h.msix v).addr, (mapGet {} h.msix v).data⟩
      msix := due.foldl (fun m v => mapSet {} m v { mapGet {} m v with pending := false }) h.msix } }
  else s)

/-- UNSUPPORTED_REQUEST. -/
def execUnsupportedRequest (s : State) : Host.Outcome State Fault Refusal :=
  ok { s with host := { s.host with aer := s.host.aer ++ [1] } }

/-- Rings 0 and 1 as they stand at ready (R178, R413): ring 0 a command ring of 256 entries paired with ring 1. -/
def State.firstRings (s : State) : State :=
  ((s.setRing 0 { kind := .command, die := 4, log2d := 8, pair := 1 }).setAux 0 {}).setRing 1
    { kind := .completion, base := 256, die := 4, log2d := 8 } |>.setAux 1 {}

/-- Every BAR0 field of access RW, W1C or RCL and the MSI-X table at their reset values. -/
def HostState.regsReset (h : HostState) : HostState :=
  { h with
    intCause := 0, intEnable := 0, apertureBase := 0, apertureStatus := 0, ringWin := 0, dbValid := false, dbCq := false
    dbRing := 0, vectors := [], msix := [] }

/-- The step stops as a STEP_ABORT of the host would stop it; a commit that has been sent completes (R257). -/
def State.resetStep (s : State) : State :=
  if !s.runActive then s
  else
    let E := s.job.epoch
    let sent := s.fab.noticesIn.any fun n => n.code == 6 && n.epoch == E && n.job == s.jobId
    let s := if sent then s.applyCommit
      else if s.job.st.phase = .running ∨ s.job.st.phase = .ready then
        (s.toLeader { code := 2, cause := 7, attempt := s.job.st.attempt, epoch := E }).applyAbort 7
      else s
    let s := s.audit 0x204 s.jobId [] (leBytes 1 7 ++ leBytes 6 s.job.epoch)
    { s with job := { s.job with run := none, st := { s.job.st with phase := .stopped } } }

/-- Commands of rings that are freed wait for nothing any more. -/
def UnitPower.forget : UnitPower → UnitPower
  | .shutting to_ t _ _ => .shutting to_ t [] []
  | .powering to_ t _ => .powering to_ t []
  | .waking f t _ _ => .waking f t [] []
  | p => p

/-- Rings other than 0 and 1 are freed, those two are empty and their storage reads as zero; page copies in progress stop at
their source. -/
def State.ringsReset (s : State) : State :=
  let s := s.mem.migrations.foldl (fun (s : State) m => s.migrationEnd m (s.mem.page m.page)) s
  let s := { s with
    rs := { s.rs with
      rings := s.rs.rings.filter fun e => e.2.kind == RingKind.handle, aux := [], storage := [], unfinal := [], ctxs := []
      served := [], serial := 0 }
    job := { s.job with deferred := [] }
    mem := { s.mem with clearing := [], cleared := [] }
    units := { s.units with power := mapMap .active (fun _ (p : UnitPower) => p.forget) s.units.power } }
  s.firstRings

/-- FUNCTION_LEVEL_RESET. -/
def execFunctionLevelReset (s : State) : Host.Outcome State Fault Refusal :=
  ok (if !s.host.ready || s.host.fatal then { s with host := s.host.regsReset }
    else
      let phase := phaseCode s.job.st.phase
      let s := s.resetStep
      let s := if s.jobRuns then (s.settleJob.audit 0x202 s.jobId s.job.imageDigest []).endJob else s
      let s := s.ringsReset
      let s := { s with host := { s.host.regsReset with ready := false, flr := true } }
      s.audit 6 0 [] (leBytes 1 phase))

/-- FUNCTION_LEVEL_RESET_READY: READY rises again. -/
def execFunctionLevelResetReady (s : State) : Host.Outcome State Fault Refusal :=
  ok (if s.host.flr then
    (({ s with host := { s.host with ready := true, flr := false } }).setCause 0).drainNotices 257
  else s)

end Sys2Proof.Machine
end

