-- ==== Sys2Proof/Machine/Board.lean ====
section
/-! DEFINITION. The board: power-up, boot, resets, the sideband's CCCs and the test port (chapter 17; R428, R457). -/

namespace Sys2Proof.Machine

/-! ### What a reset loses (Table 17.3) -/

/-- The topology record: coordinate, peers and enables of the ports, spare cabling, members and routes.  Ports are DISABLED. -/
def FabState.keepTopology (f : FabState) : FabState :=
  { FabState.none with
    coord := f.coord, spareCable := f.spareCable, members := f.members, routes := f.routes
    ports := mapMap {} (fun _ (p : Port) => { peer := p.peer, peerPort := p.peerPort, enable := p.enable }) f.ports
    sentFrames := f.sentFrames, sentNotices := f.sentNotices }

/-- What the host and the world keep of the package: host memory, messages and errors reported, and data read. -/
def HostState.keepOutside (h : HostState) : HostState :=
  { HostState.initial with
    tclass := h.tclass &&& 0x10, messages := h.messages, hostTime := h.hostTime, memory := h.memory
    readData := h.readData, readError := h.readError, aer := h.aer }

/-- S, B, the warn budget, what the sideband's registers show, the latched cause and the meters. -/
def PowState.keepSideband (p : PowState) : PowState :=
  { PowState.initial with
    limit := p.limit, budget := p.budget, warn := p.warn, warnIn := p.warnIn, pstat := p.pstat, latched := p.latched
    tripped := p.tripped, vin := p.vin, tj := p.tj, energy := p.energy, p1ms := p.p1ms, slack := p.slack, rails := p.rails, computeRails := p.computeRails }

/-- All work stops without reply or notice, and what Table 17.3 marks lost is lost; the counters, which count from power-up (R558),
go on without the events of the work that is gone (notes/assumptions/104). -/
def State.wipe (s : State) : State :=
  { s with
    tiles := [], mem := .initial, rs := .empty, job := .none, tilth := .initial, num := .none
    fab := s.fab.keepTopology, host := s.host.keepOutside, pow := s.pow.keepSideband
    units := { UnitState.initial with seedings := s.units.seedings }
    trust := { s.trust with booted := none, denied := none, auditHeld := [] }, cnt := s.cnt.unshadow
    board := { s.board with training := false } }

/-- EXTEST, CLAMP and HIGHZ take the pins only while PERST_N is low and no boot stage beyond 0x00 runs (R556). -/
def State.pinsFree (s : State) : Bool := s.board.aon && !s.board.perstN && s.board.stage == 0

/-- What the TAP's instruction makes of the pins, and of EXTEST's data register, in the present conditions (R556). -/
def State.repin (s : State) : State :=
  let b := s.board
  let code := b.tap.toNat
  { s with board := { b with
    pins := if !s.pinsFree then .functional
      else if code = 3 ∨ code = 4 then .scan b.boundaryScan
      else if code = 5 then .highZ
      else .functional
    shift := if code = 3 then (if s.pinsFree then b.boundaryScan else [false]) else b.shift } }

/-- Every die rail but that of the always-on domain is removed. -/
def State.railsDown (s : State) : State :=
  let s := s.wipe
  State.repin { s with
    pow := { s.pow with rails := false, computeRails := false }
    board := { s.board with stage := 0, failed := false, failStage := 0 } }

/-- PWRGD_IN is high: the rails ramp, unless the power stage or a trip keeps them off until the next power-up (R428, R543). -/
def State.ramp (s : State) : State :=
  if s.pow.latched ≠ 0 then { s with board := { s.board with pwrgd := true } }
  else State.repin { s with board := { s.board with pwrgd := true, stage := 1, perstSeen := s.board.perstN } }

/-! ### Power-up, input range, thermal trip (R428, R457, R537 to R543) -/

/-- The 32-bit IDCODE. -/
def State.idcodeWord (s : State) : Nat := packBits [(1, 1), (Config.jedecId.toNat, 11), (s.part, 16), (1, 4)]

/-- The IDCODE register, which the TAP selects at power-up (R555). -/
def State.idcodeBits (s : State) : List Bool := (List.range 32).map fun i => s.idcodeWord.testBit i

/-- POWER_UP: VIN_42 rises through 36 V after the always-on domain has reset; a PWRGD_IN that has risen before has its ramp now
(R543). -/
def execPowerUp (straps : BitVec 3) (s : State) : Host.Outcome State Fault Refusal :=
  ok (if s.board.aon then s
    else
      let s := s.wipe
      let up := s.board.pwrgd
      let s := { s with
        host := { s.host with tclass := 0, hostTime := 0 }
        pow := { PowState.initial with limit := s.pow.limit, warnIn := s.pow.warnIn }
        cnt := .initial, sc := 0, scFc := 0
        board := { s.board with
          powered := true, aon := true, stage := 0, sbAddr := straps, dynamic := none, response := [], tap := 0x01
          shift := s.idcodeBits, boundaryScan := [], pins := .functional, pcieClk := true, failed := false, failStage := 0 } }
      if up then s.ramp else s)

/-- VIN_42_REMOVED: the always-on domain resets below 24 V, and a trip ends. -/
def execVin42Removed (s : State) : Host.Outcome State Fault Refusal :=
  ok (if !s.board.aon then s
    else
      let s := { s with board := { s.board with cause := if s.pow.latched = 0 then 1 else s.board.cause } }
      let s := s.railsDown
      { s with
        pow := { s.pow with tripped := false, latched := 0, pstat := 0 }
        board := { s.board with powered := false, aon := false, pwrgd := false, dynamic := none, pins := .functional } })

/-- The power stage or the thermal trip removes the rails and latches its cause. -/
def State.latchCause (cause kind value : Nat) (s : State) : State :=
  let s := s.railsDown
  { s with
    pow := { s.pow with latched := cause, tripped := s.pow.tripped || cause == 3 }
    board := { s.board with cause := cause, pendingAudit := s.board.pendingAudit ++ [(kind, value)] } }

/-- INPUT_RANGE. -/
def execInputRange (s : State) : Host.Outcome State Fault Refusal :=
  ok (if s.pow.rails then s.latchCause 2 0x401 s.pow.vin else s)

/-- THERMAL_TRIP. -/
def execThermalTrip (tj : Nat) (s : State) : Host.Outcome State Fault Refusal :=
  ok (if s.pow.rails ∧ 115 ≤ tj then ({ s with pow := { s.pow with tj := tj } }).latchCause 3 0x402 tj else s)

/-- PWRGD_IN_RISE: the rails ramp; before the always-on domain answers the ramp waits (R543). -/
def execPwrgdInRise (s : State) : Host.Outcome State Fault Refusal :=
  ok (if s.board.pwrgd then s
    else if !s.board.aon then { s with board := { s.board with pwrgd := true } }
    else s.ramp)

/-- PWRGD_IN_FALL. -/
def execPwrgdInFall (s : State) : Host.Outcome State Fault Refusal :=
  ok (if !s.board.pwrgd then s
    else
      let s := { s with board := { s.board with pwrgd := false } }
      if s.pow.latched ≠ 0 || !s.board.aon then s else ({ s with board := { s.board with cause := 5 } }).railsDown)

/-! ### Boot (R544 to R547, Table 17.2) -/

/-- The boot fails at its stage. -/
def State.bootFails (s : State) : State :=
  (({ s with
    board := { s.board with failed := true, failStage := s.board.stage }
    pow := { s.pow with computeRails := false }
    host := { s.host with fatal := true, aer := s.host.aer ++ [3] } }).setCause 4)

/-- A slot the boot ROM may start (R512). -/
def TrustState.bootable (t : TrustState) (a : Bool) : Bool := (t.slot a).valid && decide (t.rollback ≤ (t.slot a).svn)

/-- The slot that starts: the highest SVN, then the highest FW_VER, then slot A. -/
def TrustState.bootSlot (t : TrustState) : Option Bool :=
  let a := t.slotA
  let b := t.slotB
  match t.bootable true, t.bootable false with
  | true, true => some (decide (b.svn < a.svn) || (a.svn == b.svn && decide (b.fwVer ≤ a.fwVer)))
  | true, false => some true
  | false, true => some false
  | false, false => none

/-- A core that fails its self-test is backfilled, or lost (R485, R546). -/
def State.bootCore (core : Nat) (s : State) : State :=
  let left := 2 - s.units.coreSpares
  let s := s.faultNotice 0x817 [BitVec.ofNat 32 core, BitVec.ofNat 32 (left - 1)]
  if 0 < left then { s with units := { s.units with coreSpares := s.units.coreSpares + 1 } } else (s.coreDown core).loseCore core

/-- Stage 0x05: a lane of a die link that fails training is spared, or its link narrows (R476). -/
def State.bootLane (x : Nat × Nat × Nat) (s : State) : State :=
  if s.linkPresent x.1 x.2.1 then (s.linkLaneFails x.1 x.2.1 x.2.2).doBoundaries else s

/-- A unit that fails its self-test is backfilled or lost: kind 0 a logical tile, 1 to 3 as in Table 14.4. -/
def State.bootUnit (u : UnitId) (s : State) : State :=
  match u.kind with
  | 0 =>
    match tileId? u.die u.num with
    | some id => s.backfillTile id
    | none => s
  | 1 => s.backfillTilth u.die u.num
  | 2 => s.loseUnit 2 2 4 u.num
  | 3 => s.loseUnit 3 3 4 u.num
  | _ => s

/-- Stage 0x06: failed channels, named by the die index of their stack, are replaced by spares. -/
def State.bootChannels (us : List UnitId) (s : State) : Option State :=
  us.foldl (fun (o : Option State) u =>
    o.bind fun s =>
      let used := mapGet 0 s.units.channelSpares (u.die - 5)
      if 2 ≤ used then none
      else some { s with units := { s.units with channelSpares := mapSet 0 s.units.channelSpares (u.die - 5) (used + 1) } }) (some s)

/-- Kinds that a boot report uses beside those of Table 14.4 (notes/assumptions/11). -/
def bootCoreKind : Nat := 0x11
def bootChannelKind : Nat := 0x12

/-- Stage 0x08 and ready: the rollback counter rises, the entries are appended, rings 0 and 1 exist, and enabled ports train. -/
def State.becomeReady (s : State) : State :=
  let fw := s.running
  let s := { s with trust := { s.trust with rollback := max s.trust.rollback fw.svn } }
  let s := s.audit 5 0 [] (s.fwDigest ++ leBytes 2 fw.svn ++ leBytes 1 s.board.cause)
  let trips := s.board.pendingAudit
  let s := trips.foldl (fun (s : State) p => s.audit p.1 0 [] (leBytes 1 (p.1 - 0x3FF) ++ leBytes 2 p.2)) s
  let tripped := trips.any fun p => p.1 == 0x402
  let s := if tripped then s.setPstat 4 else s
  let s := { s with
    board := { s.board with stage := 9, pendingAudit := [] }
    fab := { s.fab with ports := mapMap {} (fun n (p : Port) => if p.enable && !s.portHeld n then { p with state := 1 } else p) s.fab.ports }
    host := { s.host with ready := true } }
  ((s.firstRings).setCause 0).drainNotices 257

/-- What the end of each boot stage brings; none when the stage has failed. -/
def State.stageEnds (r : BootIn) (s : State) : Option State :=
  let named (k : Nat) : List UnitId := r.failed.filter fun u => u.kind == k
  match s.board.stage with
  | 1 => if r.ok then some { s with sc := 0, scFc := 0, pow := { s.pow with rails := true, computeRails := true } } else none
  | 2 =>
    if r.ok then
      some { s with
        units := { s.units with seedings := s.units.seedings + 1 }
        board := { s.board with training := s.board.perstN } }
    else none
  | 3 =>
    match s.trust.bootSlot with
    | some a =>
      some { s with
        trust := { s.trust with booted := some a }
        host := { s.host with fwVer := BitVec.ofNat 32 (s.trust.slot a).fwVer } }
    | none => none
  | 4 =>
    let s := (named bootCoreKind).foldl (fun (s : State) u => s.bootCore u.num) s
    if r.ok && decide (s.units.coresDown.length < 8) then some s else none
  | 5 =>
    let s := { s with host := { s.host with tclass := r.tclass ||| (s.host.tclass &&& 0x10) } }
    let s := r.lanes.foldl (fun (s : State) x => s.bootLane x) s
    if r.ok && !s.host.fatal then some s else none
  | 6 => if r.ok then s.bootChannels (named bootChannelKind) else none
  | 7 => some (r.rows.foldl (fun (s : State) x => s.remapRow x.1 x.2) (r.failed.foldl (fun (s : State) u => s.bootUnit u) s))
  | 8 => if r.ok then some s.becomeReady else none
  | _ => some s

/-- BOOT_STAGE_COMPLETE: a stage ends and the next begins, up to ready. -/
def execBootStageComplete (r : BootIn) (s : State) : Host.Outcome State Fault Refusal :=
  let n := s.board.stage
  ok (if !s.board.aon || s.board.failed || !s.board.pcieClk || n = 0 || 9 ≤ n then s
    else
      match s.stageEnds r with
      | none => s.bootFails
      | some s' => { s' with board := { s'.board with stage := n + 1 } })

/-- BOOT_STAGE_TIMEOUT. -/
def execBootStageTimeout (s : State) : Host.Outcome State Fault Refusal :=
  ok (if s.board.failed || s.board.stage = 0 || 9 ≤ s.board.stage then s else s.bootFails)

/-- PCIE_REFCLK_LOSS: every fast clock stops; after ready that is fatal, before it the boot fails (R540). -/
def execPcieRefclkLoss (s : State) : Host.Outcome State Fault Refusal :=
  let s := { s with board := { s.board with pcieClk := false } }
  ok (if s.board.stage = 9 then s.goFatal (unitWord 4 0xFF 0)
    else if s.board.failed || s.board.stage = 0 then s
    else s.bootFails)

/-! ### PERST_N (R545, R548) -/

/-- PERST_N_RISE: link training begins once stage 0x02 has ended. -/
def execPerstNRise (s : State) : Host.Outcome State Fault Refusal :=
  ok (State.repin { s with board := { s.board with
    perstN := true, perstSeen := true, training := decide (3 ≤ s.board.stage) } })

/-- CONVENTIONAL_RESET: a falling edge of PERST_N that is low for at least 1 µs restarts the boot at stage 0x02. -/
def execConventionalReset (s : State) : Host.Outcome State Fault Refusal :=
  let low := State.repin { s with board := { s.board with perstN := false } }
  ok (if !s.board.pwrgd || !s.board.perstSeen || !s.pow.rails then low
    else
      let s := low.wipe
      State.repin { s with
        pow := { s.pow with computeRails := true }
        board := { s.board with
          stage := 2, failed := false, failStage := 0, cause := 4, perstSeen := false, pcieClk := true } })

/-! ### Sideband registers and alert pins (R459, R537, R553, R554, Tables 14.7 and 17.4) -/

/-- What a sideband read of a register returns: reserved fields, and offsets that the tables do not list, read as zero. -/
def State.sbRead (s : State) (offset : Nat) : Word :=
  let p := s.pow
  BitVec.ofNat 32 (match offset with
    | 0x00 => packBits [(1, 8), (0, 8), (s.part, 16)]
    | 0x04 => packBits [(s.board.stage, 8), (s.board.cause, 8), (s.board.failStage, 8), (0, 6), (b2n s.host.ready, 1),
        (b2n (s.board.failed || s.host.fatal), 1)]
    | 0x08 => if s.board.stage < 2 then 0 else p.tj % 256
    | 0x40 => p.budget % 65536
    | 0x44 => p.warn % 65536
    | 0x48 => packBits [(s.peff, 16), (p.p1ms, 16)]
    | 0x4C => p.slack
    | 0x50 => p.pstat.toNat
    | _ => 0)

/-- A condition of R537 in which outputs are released: unpowered, or in reset.  A boot that has failed is not in reset, since
R547 has it alert. -/
def State.released (s : State) : Bool :=
  !s.board.aon || !s.pow.rails || (decide (s.board.stage < 9) && !s.board.failed)

/-- The level of ALERT_N (R554); high stands for released. -/
def State.alertN (s : State) : Bool := s.released || s.pow.tripped || !(s.pow.pstat != 0 || s.board.failed || s.host.fatal)

/-- The level of THERMTRIP_N (R537): low while the package is tripped. -/
def State.thermtripN (s : State) : Bool := !s.pow.tripped

/-- An output of Table 17.1. -/
inductive OutPin where
  | pcieTx | fabTx | sbSda | alertN | thermtripN | presentN | tdo
  deriving DecidableEq, Repr

/-- What an output does: held low, released to its pull-up, at high impedance, or in its function. -/
inductive PinLevel where
  | low | released | highZ | functional
  deriving DecidableEq, Repr

/-- The outputs in the conditions of R537 and outside them (R536, R537, R554, Table 17.1). -/
def State.pinLevel (s : State) : OutPin → PinLevel
  | .presentN => .low
  | .thermtripN => if s.thermtripN then .released else .low
  | .alertN => if s.alertN then .released else .low
  | .pcieTx | .fabTx | .sbSda | .tdo => if s.released || s.pow.tripped then .highZ else .functional

/-! ### Sideband CCCs (R552) -/

/-- The 48-bit provisional ID. -/
def State.provisionalId (s : State) : Nat :=
  packBits [(0, 12), (s.board.sbAddr.toNat, 3), (0, 1), (s.part, 16), (0, 1), (Config.mipiId.toNat, 15)]

/-- Bytes with the most significant first, as the bus carries them. -/
def beBytes (n v : Nat) : List Byte := (leBytes n v).reverse

def State.setDynamic (a : Option Nat) (s : State) : State := { s with board := { s.board with dynamic := a } }

def State.respond (bs : List Byte) (s : State) : State := { s with board := { s.board with response := bs } }

/-- A CCC that the addressed target answers: it has a dynamic address. -/
def State.addressed (act : State → State) (s : State) : State :=
  if s.board.aon && s.board.dynamic.isSome then act s else s

/-- ENTDAA: a target without a dynamic address sends its provisional ID, BCR and DCR, and takes the address. -/
def execEntdaa (addr : BitVec 7) (s : State) : Host.Outcome State Fault Refusal :=
  ok (if s.board.aon && s.board.dynamic.isNone then
    (s.respond (beBytes 6 s.provisionalId ++ [0, 0])).setDynamic (some addr.toNat) else s)

/-- SETDASA: at the static address, while no dynamic address is assigned. -/
def execSetdasa (addr : BitVec 7) (s : State) : Host.Outcome State Fault Refusal :=
  ok (if s.board.aon && s.board.dynamic.isNone then s.setDynamic (some addr.toNat) else s)

def execSetnewda (addr : BitVec 7) (s : State) : Host.Outcome State Fault Refusal :=
  ok (s.addressed fun s => s.setDynamic (some addr.toNat))

def execRstdaa (s : State) : Host.Outcome State Fault Refusal := ok (if s.board.aon then s.setDynamic none else s)

def execGetpid (s : State) : Host.Outcome State Fault Refusal := ok (s.addressed fun s => s.respond (beBytes 6 s.provisionalId))

def execGetbcr (s : State) : Host.Outcome State Fault Refusal := ok (s.addressed fun s => s.respond [0])

def execGetdcr (s : State) : Host.Outcome State Fault Refusal := ok (s.addressed fun s => s.respond [0])

/-- GETSTATUS: no interrupt is pending and no protocol error has occurred. -/
def execGetstatus (s : State) : Host.Outcome State Fault Refusal := ok (s.addressed fun s => s.respond [0, 0])

/-- ENEC: accepted without effect. -/
def execEnec (s : State) : Host.Outcome State Fault Refusal := ok s

/-- DISEC: accepted without effect. -/
def execDisec (s : State) : Host.Outcome State Fault Refusal := ok s

/-! ### Test port (R555, R556) -/

/-- A TAP instruction: its code and the data register it selects. -/
def State.tapTo (code : BitVec 8) (shift : List Bool) (s : State) : State :=
  if s.board.aon then State.repin { s with board := { s.board with tap := code, shift := shift } } else s

def execIdcode (s : State) : Host.Outcome State Fault Refusal :=
  ok (s.tapTo 0x01 s.idcodeBits)

/-- SAMPLE/PRELOAD: the boundary-scan register is loaded. -/
def execSamplePreload (bits : List Bool) (s : State) : Host.Outcome State Fault Refusal :=
  ok (if s.board.aon then ({ s with board := { s.board with boundaryScan := bits } }).tapTo 0x02 bits else s)

def execExtest (s : State) : Host.Outcome State Fault Refusal := ok (s.tapTo 0x03 [false])

def execClamp (s : State) : Host.Outcome State Fault Refusal := ok (s.tapTo 0x04 [false])

def execHighz (s : State) : Host.Outcome State Fault Refusal := ok (s.tapTo 0x05 [false])

def execBypass (s : State) : Host.Outcome State Fault Refusal := ok (s.tapTo 0xFF [false])

end Sys2Proof.Machine
end

