-- ==== Sys2Proof/Machine/Counters.lean ====
section
/-! DEFINITION. The counter record and COUNTER_READ (R557, R565 to R567, Tables 18.4 to 18.6). -/

namespace Sys2Proof.Machine

/-- A counter entry, Table 18.5. -/
def counterBytes (value : DWord) (source qual : Nat) (qen shadow : Bool) (die tile : Nat) : List Byte :=
  leBytes 8 value.toNat ++ leBytes 2 source ++ leBytes 2 qual ++ leBytes 1 (b2n qen + 2 * b2n shadow) ++ leBytes 1 die ++
    leBytes 2 tile

/-- Fixed counter `n`; an index that Table 18.2 does not list reads as zero (R558). -/
def State.fixedEntry (s : State) (n : Nat) : List Byte :=
  if n < 16 then
    counterBytes (mapGet 0 s.cnt.fixed n) (0x500 + n) 0 false (mapGet 0 s.cnt.fixedShadow n != 0) 4 n
  else List.replicate 16 0

/-- Selectable counter `i` of a scope, die and tile, shown with number `label`. -/
def State.selectEntry (s : State) (scope die tile i label : Nat) : List Byte :=
  let c := mapGet {} s.cnt.select (counterKey scope die tile i)
  counterBytes c.value c.source c.qual c.qen (c.shadow != 0) die label

/-- The energy block, Table 18.6. -/
def State.energyBlock (s : State) : List Byte :=
  let p := s.pow
  (p.energy.toList.flatMap fun e => leBytes 8 e) ++ leBytes 6 p.stepEpoch ++ leBytes 2 0 ++ leBytes 8 p.stepUj ++
    leBytes 8 p.stepSc ++ leBytes 4 p.stepAttempts ++ List.replicate 28 0

/-- The 76,992-byte counter record. -/
def State.counterRecord (s : State) : List Byte :=
  leBytes 4 76992 ++ leBytes 6 s.job.epoch ++ leBytes 6 s.sc ++ List.replicate 48 0 ++ bytesFor s.fixedEntry 64 ++
    bytesFor (fun i => s.selectEntry 2 4 0 i i) 32 ++
    bytesFor (fun d => bytesFor (fun i => s.selectEntry 1 d 0 i i) 16) 4 ++
    bytesFor (fun k =>
      if s.diePresent (21 + k) then bytesFor (fun i => s.selectEntry 3 (21 + k) 0 i i) 8 else List.replicate 128 0) 4 ++
    bytesFor (fun d => bytesFor (fun t => bytesFor (fun i => s.selectEntry 0 d t i t) 4) 288) 4 ++ s.energyBlock

/-- COUNTER_READ. -/
def execCounterRead (ring : Nat) (s : State) : Host.Outcome State Fault Refusal :=
  ok (s.command 0xE1 ring fun c s =>
    paramOr c [bufBytes] false true (fun s =>
      let s := s.countsNow
      s.answerRecord c s.counterRecord []) s)

end Sys2Proof.Machine
end

