-- ==== Sys2Proof/Machine/Dispatch.lean ====
section
/-! DEFINITION. The dispatcher: one arm for each command, each a direct call of its meaning. -/

namespace Sys2Proof.Machine

def exec (i : Instr) (s : State) : Host.Outcome State Fault Refusal :=
  match i with
  | .nop t f => Sys2Proof.Machine.execNop t f s
  | .li t f => Sys2Proof.Machine.execLi t f s
  | .add t f => Sys2Proof.Machine.execAdd t f s
  | .sub t f => Sys2Proof.Machine.execSub t f s
  | .mul t f => Sys2Proof.Machine.execMul t f s
  | .and t f => Sys2Proof.Machine.execAnd t f s
  | .or t f => Sys2Proof.Machine.execOr t f s
  | .xor t f => Sys2Proof.Machine.execXor t f s
  | .shl t f => Sys2Proof.Machine.execShl t f s
  | .shr t f => Sys2Proof.Machine.execShr t f s
  | .sra t f => Sys2Proof.Machine.execSra t f s
  | .slt t f => Sys2Proof.Machine.execSlt t f s
  | .sltu t f => Sys2Proof.Machine.execSltu t f s
  | .b t f => Sys2Proof.Machine.execB t f s
  | .beq t f => Sys2Proof.Machine.execBeq t f s
  | .bne t f => Sys2Proof.Machine.execBne t f s
  | .blt t f => Sys2Proof.Machine.execBlt t f s
  | .bge t f => Sys2Proof.Machine.execBge t f s
  | .bq t f => Sys2Proof.Machine.execBq t f s
  | .bqz t f => Sys2Proof.Machine.execBqz t f s
  | .loop t f => Sys2Proof.Machine.execLoop t f s
  | .qmov t f => Sys2Proof.Machine.execQmov t f s
  | .csig t f => Sys2Proof.Machine.execCsig t f s
  | .crd t f => Sys2Proof.Machine.execCrd t f s
  | .cwr t f => Sys2Proof.Machine.execCwr t f s
  | .sync t f => Sys2Proof.Machine.execSync t f s
  | .syncSatisfied t => Sys2Proof.Machine.execSyncSatisfied t s
  | .end_ t f => Sys2Proof.Machine.execEnd t f s
  | .endComplete t => Sys2Proof.Machine.execEndComplete t s
  | .abort t f => Sys2Proof.Machine.execAbort t f s
  | .pcRange t => Sys2Proof.Machine.execPcRange t s
  | .mpass t f => Sys2Proof.Machine.execMpass t f s
  | .mload t f => Sys2Proof.Machine.execMload t f s
  | .mdesc t f => Sys2Proof.Machine.execMdesc t f s
  | .stationaryLoadComplete t => Sys2Proof.Machine.execStationaryLoadComplete t s
  | .descriptorValid t vector slot => Sys2Proof.Machine.execDescriptorValid t vector slot s
  | .entryEnqueue t => Sys2Proof.Machine.execEntryEnqueue t s
  | .entryVisible t => Sys2Proof.Machine.execEntryVisible t s
  | .entryRelease t => Sys2Proof.Machine.execEntryRelease t s
  | .handoffTimeout t => Sys2Proof.Machine.execHandoffTimeout t s
  | .stationaryTimeout t => Sys2Proof.Machine.execStationaryTimeout t s
  | .vadd t f => Sys2Proof.Machine.execVadd t f s
  | .vsub t f => Sys2Proof.Machine.execVsub t f s
  | .vmul t f => Sys2Proof.Machine.execVmul t f s
  | .vmin t f => Sys2Proof.Machine.execVmin t f s
  | .vmax t f => Sys2Proof.Machine.execVmax t f s
  | .vfma t f => Sys2Proof.Machine.execVfma t f s
  | .vabs t f => Sys2Proof.Machine.execVabs t f s
  | .vneg t f => Sys2Proof.Machine.execVneg t f s
  | .vcmp t f => Sys2Proof.Machine.execVcmp t f s
  | .vsel t f => Sys2Proof.Machine.execVsel t f s
  | .viadd t f => Sys2Proof.Machine.execViadd t f s
  | .viadds t f => Sys2Proof.Machine.execViadds t f s
  | .visub t f => Sys2Proof.Machine.execVisub t f s
  | .visubs t f => Sys2Proof.Machine.execVisubs t f s
  | .vimul t f => Sys2Proof.Machine.execVimul t f s
  | .vimuls t f => Sys2Proof.Machine.execVimuls t f s
  | .vimin t f => Sys2Proof.Machine.execVimin t f s
  | .vimax t f => Sys2Proof.Machine.execVimax t f s
  | .vand t f => Sys2Proof.Machine.execVand t f s
  | .vor t f => Sys2Proof.Machine.execVor t f s
  | .vxor t f => Sys2Proof.Machine.execVxor t f s
  | .vnot t f => Sys2Proof.Machine.execVnot t f s
  | .vshl t f => Sys2Proof.Machine.execVshl t f s
  | .vshr t f => Sys2Proof.Machine.execVshr t f s
  | .vsra t f => Sys2Proof.Machine.execVsra t f s
  | .vcvt t f => Sys2Proof.Machine.execVcvt t f s
  | .vrcp t f => Sys2Proof.Machine.execVrcp t f s
  | .vsqrt t f => Sys2Proof.Machine.execVsqrt t f s
  | .vrsq t f => Sys2Proof.Machine.execVrsq t f s
  | .vexp2 t f => Sys2Proof.Machine.execVexp2 t f s
  | .vlog2 t f => Sys2Proof.Machine.execVlog2 t f s
  | .vrsum t f => Sys2Proof.Machine.execVrsum t f s
  | .vrmax t f => Sys2Proof.Machine.execVrmax t f s
  | .vrmin t f => Sys2Proof.Machine.execVrmin t f s
  | .vrnz t f => Sys2Proof.Machine.execVrnz t f s
  | .vrnan t f => Sys2Proof.Machine.execVrnan t f s
  | .vdesc t f => Sys2Proof.Machine.execVdesc t f s
  | .vectorLastResult t => Sys2Proof.Machine.execVectorLastResult t s
  | .summaryValid t q => Sys2Proof.Machine.execSummaryValid t q s
  | .xget t f => Sys2Proof.Machine.execXget t f s
  | .xput t f => Sys2Proof.Machine.execXput t f s
  | .xtile t f => Sys2Proof.Machine.execXtile t f s
  | .transferComplete t path => Sys2Proof.Machine.execTransferComplete t path s
  | .delivery t d => Sys2Proof.Machine.execDelivery t d s
  | .hget t f => Sys2Proof.Machine.execHget t f s
  | .hgetHandle t => Sys2Proof.Machine.execHgetHandle t s
  | .handleTimeout t => Sys2Proof.Machine.execHandleTimeout t s
  | .hput t f => Sys2Proof.Machine.execHput t f s
  | .taskAssign t task => Sys2Proof.Machine.execTaskAssign t task s
  | .taskEnd task => Sys2Proof.Machine.execTaskEnd task s
  | .taskAbort task r => Sys2Proof.Machine.execTaskAbort task r s
  | .peerAbort part => Sys2Proof.Machine.execPeerAbort part s
  | .taskAbortReply task => Sys2Proof.Machine.execTaskAbortReply task s
  | .streamComplete e => Sys2Proof.Machine.execStreamComplete e s
  | .streamLate ctx => Sys2Proof.Machine.execStreamLate ctx s
  | .stageEntryStart die => Sys2Proof.Machine.execStageEntryStart die s
  | .nopCommand ring => Sys2Proof.Machine.execNopCommand ring s
  | .identify ring => Sys2Proof.Machine.execIdentify ring s
  | .hostTime ring => Sys2Proof.Machine.execHostTime ring s
  | .ringAlloc ring => Sys2Proof.Machine.execRingAlloc ring s
  | .ringFree ring => Sys2Proof.Machine.execRingFree ring s
  | .ringQuery ring => Sys2Proof.Machine.execRingQuery ring s
  | .fence ring => Sys2Proof.Machine.execFence ring s
  | .fenceTimeout ring => Sys2Proof.Machine.execFenceTimeout ring s
  | .cancel ring => Sys2Proof.Machine.execCancel ring s
  | .pageMap ring => Sys2Proof.Machine.execPageMap ring s
  | .mapClearComplete ring => Sys2Proof.Machine.execMapClearComplete ring s
  | .pageUnmap ring => Sys2Proof.Machine.execPageUnmap ring s
  | .pageSeal ring => Sys2Proof.Machine.execPageSeal ring s
  | .pageOpen ring => Sys2Proof.Machine.execPageOpen ring s
  | .pageMigrate ring => Sys2Proof.Machine.execPageMigrate ring s
  | .migrationSwitch page copied => Sys2Proof.Machine.execMigrationSwitch page copied s
  | .pageQuery ring => Sys2Proof.Machine.execPageQuery ring s
  | .lendSet ring => Sys2Proof.Machine.execLendSet ring s
  | .lendQuery ring => Sys2Proof.Machine.execLendQuery ring s
  | .lenderDeclaredLost lender => Sys2Proof.Machine.execLenderDeclaredLost lender s
  | .imageLoad ring image => Sys2Proof.Machine.execImageLoad ring image s
  | .jobEnd ring => Sys2Proof.Machine.execJobEnd ring s
  | .stepRun ring agree => Sys2Proof.Machine.execStepRun ring agree s
  | .stepCommit ring => Sys2Proof.Machine.execStepCommit ring s
  | .stepAbort ring => Sys2Proof.Machine.execStepAbort ring s
  | .stepStatus ring => Sys2Proof.Machine.execStepStatus ring s
  | .taskRun ring => Sys2Proof.Machine.execTaskRun ring s
  | .tilthProgram ring => Sys2Proof.Machine.execTilthProgram ring s
  | .tilthLayer ring => Sys2Proof.Machine.execTilthLayer ring s
  | .tilthSweep ring => Sys2Proof.Machine.execTilthSweep ring s
  | .layerNumerics ring => Sys2Proof.Machine.execLayerNumerics ring s
  | .sieveSet ring => Sys2Proof.Machine.execSieveSet ring s
  | .reshard ring agree => Sys2Proof.Machine.execReshard ring agree s
  | .permutationComplete => Sys2Proof.Machine.execPermutationComplete s
  | .topologySet ring => Sys2Proof.Machine.execTopologySet ring s
  | .portQuery ring => Sys2Proof.Machine.execPortQuery ring s
  | .portEnable ring => Sys2Proof.Machine.execPortEnable ring s
  | .export_ ring => Sys2Proof.Machine.execExport ring s
  | .import_ ring => Sys2Proof.Machine.execImport ring s
  | .powerLimit ring => Sys2Proof.Machine.execPowerLimit ring s
  | .budgetStep ring => Sys2Proof.Machine.execBudgetStep ring s
  | .budgetStepDelayEnd => Sys2Proof.Machine.execBudgetStepDelayEnd s
  | .budgetLend ring => Sys2Proof.Machine.execBudgetLend ring s
  | .lendExpired => Sys2Proof.Machine.execLendExpired s
  | .powerQuery ring => Sys2Proof.Machine.execPowerQuery ring s
  | .unitDisable ring => Sys2Proof.Machine.execUnitDisable ring s
  | .unitEnable ring => Sys2Proof.Machine.execUnitEnable ring s
  | .unitQuiesced u => Sys2Proof.Machine.execUnitQuiesced u s
  | .unitWakeComplete u => Sys2Proof.Machine.execUnitWakeComplete u s
  | .keyEnrol ring => Sys2Proof.Machine.execKeyEnrol ring s
  | .keyRevoke ring => Sys2Proof.Machine.execKeyRevoke ring s
  | .seatBind ring => Sys2Proof.Machine.execSeatBind ring s
  | .attest ring => Sys2Proof.Machine.execAttest ring s
  | .auditRead ring => Sys2Proof.Machine.execAuditRead ring s
  | .guestWindow ring => Sys2Proof.Machine.execGuestWindow ring s
  | .fwUpdate ring => Sys2Proof.Machine.execFwUpdate ring s
  | .counterSelect ring => Sys2Proof.Machine.execCounterSelect ring s
  | .counterRead ring => Sys2Proof.Machine.execCounterRead ring s
  | .scrubFull ring => Sys2Proof.Machine.execScrubFull ring s
  | .selfTest ring => Sys2Proof.Machine.execSelfTest ring s
  | .contextQuery ring => Sys2Proof.Machine.execContextQuery ring s
  | .abortRead ring => Sys2Proof.Machine.execAbortRead ring s
  | .numericsRead ring => Sys2Proof.Machine.execNumericsRead ring s
  | .overflowRead ring => Sys2Proof.Machine.execOverflowRead ring s
  | .sliceEnd ring => Sys2Proof.Machine.execSliceEnd ring s
  | .commandDoorbell ring v => Sys2Proof.Machine.execCommandDoorbell ring v s
  | .completionDoorbell ring v => Sys2Proof.Machine.execCompletionDoorbell ring v s
  | .registerWrite offset size v => Sys2Proof.Machine.execRegisterWrite offset size v s
  | .epochLoRead => Sys2Proof.Machine.execEpochLoRead s
  | .dbErrRead => Sys2Proof.Machine.execDbErrRead s
  | .ringWindowWrite offset bytes => Sys2Proof.Machine.execRingWindowWrite offset bytes s
  | .apertureRead offset len => Sys2Proof.Machine.execApertureRead offset len s
  | .apertureWrite offset bytes => Sys2Proof.Machine.execApertureWrite offset bytes s
  | .functionLevelReset => Sys2Proof.Machine.execFunctionLevelReset s
  | .d3hotEntry => Sys2Proof.Machine.execD3hotEntry s
  | .d0Return => Sys2Proof.Machine.execD0Return s
  | .completionTimeout ring => Sys2Proof.Machine.execCompletionTimeout ring s
  | .write port f => Sys2Proof.Machine.execWrite port f s
  | .tileWrite port f => Sys2Proof.Machine.execTileWrite port f s
  | .readReq port f => Sys2Proof.Machine.execReadReq port f s
  | .readReply port f => Sys2Proof.Machine.execReadReply port f s
  | .errorReply port f => Sys2Proof.Machine.execErrorReply port f s
  | .collective port f => Sys2Proof.Machine.execCollective port f s
  | .gradForward port f lent => Sys2Proof.Machine.execGradForward port f lent s
  | .noticeData port f => Sys2Proof.Machine.execNoticeData port f s
  | .controlFlit port c => Sys2Proof.Machine.execControlFlit port c s
  | .portTrained port r => Sys2Proof.Machine.execPortTrained port r s
  | .laneFailure at_ lane => Sys2Proof.Machine.execLaneFailure at_ lane s
  | .stepReady => Sys2Proof.Machine.execStepReady s
  | .stepReadyNotice src => Sys2Proof.Machine.execStepReadyNotice src s
  | .commitNotice src => Sys2Proof.Machine.execCommitNotice src s
  | .commitAckNotice src => Sys2Proof.Machine.execCommitAckNotice src s
  | .stepSettledNotice src => Sys2Proof.Machine.execStepSettledNotice src s
  | .stepAbortNotice src => Sys2Proof.Machine.execStepAbortNotice src s
  | .abortNotice src => Sys2Proof.Machine.execAbortNotice src s
  | .stoppedNotice src => Sys2Proof.Machine.execStoppedNotice src s
  | .stepReplayNotice src => Sys2Proof.Machine.execStepReplayNotice src s
  | .taskAbortNotice src => Sys2Proof.Machine.execTaskAbortNotice src s
  | .layerCompleteNotice src lent => Sys2Proof.Machine.execLayerCompleteNotice src lent s
  | .ownerCommitNotice src => Sys2Proof.Machine.execOwnerCommitNotice src s
  | .specHoldNotice src => Sys2Proof.Machine.execSpecHoldNotice src s
  | .permuteDoneNotice src => Sys2Proof.Machine.execPermuteDoneNotice src s
  | .powerHoldNotice src => Sys2Proof.Machine.execPowerHoldNotice src s
  | .boundaryWorkNotice src => Sys2Proof.Machine.execBoundaryWorkNotice src s
  | .boundaryDoneNotice src => Sys2Proof.Machine.execBoundaryDoneNotice src s
  | .boundaryWorkComplete => Sys2Proof.Machine.execBoundaryWorkComplete s
  | .speculativeStart task => Sys2Proof.Machine.execSpeculativeStart task s
  | .reductionHop bucket inputs => Sys2Proof.Machine.execReductionHop bucket inputs s
  | .tilthFold slice => Sys2Proof.Machine.execTilthFold slice s
  | .inversionPhase slice => Sys2Proof.Machine.execInversionPhase slice s
  | .sweepStart layer => Sys2Proof.Machine.execSweepStart layer s
  | .sweepComplete layer => Sys2Proof.Machine.execSweepComplete layer s
  | .layerSeal layer => Sys2Proof.Machine.execLayerSeal layer s
  | .gatherLookup layer row next => Sys2Proof.Machine.execGatherLookup layer row next s
  | .shardDigestCheck layer shard digest => Sys2Proof.Machine.execShardDigestCheck layer shard digest s
  | .overflowEntry e => Sys2Proof.Machine.execOverflowEntry e s
  | .sievePairResult layer output narrow wide next => Sys2Proof.Machine.execSievePairResult layer output narrow wide next s
  | .rescale layer => Sys2Proof.Machine.execRescale layer s
  | .powerPeriod r => Sys2Proof.Machine.execPowerPeriod r s
  | .operatingPointReached => Sys2Proof.Machine.execOperatingPointReached s
  | .energySample r => Sys2Proof.Machine.execEnergySample r s
  | .droopDetected cycles => Sys2Proof.Machine.execDroopDetected cycles s
  | .holdWake => Sys2Proof.Machine.execHoldWake s
  | .holdExpiry => Sys2Proof.Machine.execHoldExpiry s
  | .thermalTrip tj => Sys2Proof.Machine.execThermalTrip tj s
  | .supplyWarn => Sys2Proof.Machine.execSupplyWarn s
  | .supplyWarnRise => Sys2Proof.Machine.execSupplyWarnRise s
  | .sbBudgetWrite v => Sys2Proof.Machine.execSbBudgetWrite v s
  | .sbWarnWrite v => Sys2Proof.Machine.execSbWarnWrite v s
  | .sbRegisterWrite offset v => Sys2Proof.Machine.execSbRegisterWrite offset v s
  | .entdaa addr => Sys2Proof.Machine.execEntdaa addr s
  | .setdasa addr => Sys2Proof.Machine.execSetdasa addr s
  | .setnewda addr => Sys2Proof.Machine.execSetnewda addr s
  | .rstdaa => Sys2Proof.Machine.execRstdaa s
  | .getpid => Sys2Proof.Machine.execGetpid s
  | .getbcr => Sys2Proof.Machine.execGetbcr s
  | .getdcr => Sys2Proof.Machine.execGetdcr s
  | .getstatus => Sys2Proof.Machine.execGetstatus s
  | .enec => Sys2Proof.Machine.execEnec s
  | .disec => Sys2Proof.Machine.execDisec s
  | .idcode => Sys2Proof.Machine.execIdcode s
  | .samplePreload bits => Sys2Proof.Machine.execSamplePreload bits s
  | .extest => Sys2Proof.Machine.execExtest s
  | .clamp => Sys2Proof.Machine.execClamp s
  | .highz => Sys2Proof.Machine.execHighz s
  | .bypass => Sys2Proof.Machine.execBypass s
  | .powerUp straps => Sys2Proof.Machine.execPowerUp straps s
  | .vin42Removed => Sys2Proof.Machine.execVin42Removed s
  | .inputRange => Sys2Proof.Machine.execInputRange s
  | .pwrgdInRise => Sys2Proof.Machine.execPwrgdInRise s
  | .pwrgdInFall => Sys2Proof.Machine.execPwrgdInFall s
  | .perstNRise => Sys2Proof.Machine.execPerstNRise s
  | .conventionalReset => Sys2Proof.Machine.execConventionalReset s
  | .pcieRefclkLoss => Sys2Proof.Machine.execPcieRefclkLoss s
  | .bootStageComplete r => Sys2Proof.Machine.execBootStageComplete r s
  | .bootStageTimeout => Sys2Proof.Machine.execBootStageTimeout s
  | .fallowSlotGrant die unit => Sys2Proof.Machine.execFallowSlotGrant die unit s
  | .fallowDeadline kind die unit => Sys2Proof.Machine.execFallowDeadline kind die unit s
  | .channelCopyComplete stack channel => Sys2Proof.Machine.execChannelCopyComplete stack channel s
  | .unitFault u => Sys2Proof.Machine.execUnitFault u s
  | .coreFault core => Sys2Proof.Machine.execCoreFault core s
  | .fatal u => Sys2Proof.Machine.execFatal u s
  | .guestRead addr len => Sys2Proof.Machine.execGuestRead addr len s
  | .guestWrite addr bytes => Sys2Proof.Machine.execGuestWrite addr bytes s
  | .lenderUnreachable lender ctx => Sys2Proof.Machine.execLenderUnreachable lender ctx s
  | .accumulatorSetFree t set => Sys2Proof.Machine.execAccumulatorSetFree t set s
  | .unitPowerDownComplete u => Sys2Proof.Machine.execUnitPowerDownComplete u s
  | .flitDiscarded port => Sys2Proof.Machine.execFlitDiscarded port s
  | .functionLevelResetReady => Sys2Proof.Machine.execFunctionLevelResetReady s
  | .unsupportedRequest => Sys2Proof.Machine.execUnsupportedRequest s
  | .vectorUnmask vector => Sys2Proof.Machine.execVectorUnmask vector s

end Sys2Proof.Machine
end

