-- ==== Sys2Proof/Machine/Step.lean ====
section
/-! DEFINITION. One step: the command at the front of the queue is carried out with the rest waiting; on an empty queue
one fc passes (notes/assumptions/4). -/

namespace Sys2Proof.Machine

/-- Take the command at the front of the queue, or let one fc pass. -/
def step (s : State) : Host.Outcome State Fault Refusal :=
  match s.pending with
  | c :: rest => exec c { s with pending := rest }
  | [] => .next (s.passFc 1)

/-- The state with the command that a table word spells put at the front of its queue.  The table gives no row bits, so
no word spells one and the state is unchanged. -/
def State.withFetchWord (s : State) (nbits w : Nat) : State :=
  match decodeTableWord nbits w with
  | some c => { s with pending := c :: s.pending }
  | none => s

end Sys2Proof.Machine
end

