-- ==== Sys2Proof/Machine/WireBits.lean ====
section
/-! DEFINITION. What a port sends, laid out in bits and bytes: frame headers, control flits, notice records, side words and
the share of each lane, and the slice records of a schedule image (R3, R272, R332 to R335, R339, R341, Tables 9.1, 11.1, 11.2,
11.4 and 11.8). -/

namespace Sys2Proof.Machine

/-- The step tag of an attempt of an epoch (R232). -/
def tagBits (attempt epoch : Nat) : Nat := attempt % 16 * 2 ^ 28 + epoch % 2 ^ 28

/-- The 64 bytes of a frame header, Table 11.4. -/
def frameHeader (f : Frame) : List Byte :=
  leBytes 1 f.fkind ++ leBytes 1 (f.flags % 8) ++ leBytes 2 f.nflit ++ leBytes 3 (f.dst % 2 ^ 20) ++ leBytes 1 f.hops ++
    leBytes 3 (f.src % 2 ^ 20) ++ leBytes 1 (f.sport % 16) ++ leBytes 4 f.stag ++ leBytes 4 f.job ++ leBytes 6 f.laddr ++
    leBytes 3 (f.ctx % 2 ^ 20) ++ leBytes 1 0 ++ leBytes 2 f.task ++ leBytes 4 (f.ring % 2 ^ 18) ++ leBytes 4 f.handle ++
    leBytes 4 f.offset ++ leBytes 4 f.dtile ++ leBytes 4 f.coll ++ leBytes 4 f.opx ++ leBytes 8 f.opy

/-- The frame that a header of Table 11.4 describes, received on virtual channel `vc` with its data; reserved bits are
ignored. -/
def frameOfHeader (vc : Nat) (bs data : List Byte) : Frame :=
  let v (a n : Nat) : Nat := leNat ((bs.drop a).take n)
  { fkind := v 0 1, flags := v 1 1 % 8, vc := vc, nflit := v 2 2, dst := v 4 3 % 2 ^ 20, hops := v 7 1
    src := v 8 3 % 2 ^ 20, sport := v 11 1 % 16, stag := v 12 4, job := v 16 4, laddr := v 20 6, ctx := v 26 3 % 2 ^ 20
    task := v 30 2, ring := v 32 4 % 2 ^ 18, handle := v 36 4, offset := v 40 4, dtile := v 44 4, coll := v 48 4
    opx := v 52 4, opy := v 56 8, data := data }

/-- The 32 bytes of a notice record, Table 11.8. -/
def noticeBytes (n : Notice) : List Byte :=
  leBytes 1 n.code ++ leBytes 1 n.cause ++ leBytes 3 (n.src % 2 ^ 20) ++ leBytes 3 (n.dst % 2 ^ 20) ++
    leBytes 4 (tagBits n.attempt n.epoch) ++ leBytes 4 n.job ++ leBytes 6 n.epoch ++ leBytes 2 n.task ++ leBytes 8 n.arg

/-- The notice of a record; none when the record is empty. -/
def noticeOfBytes (bs : List Byte) : Option Notice :=
  let v (a n : Nat) : Nat := leNat ((bs.drop a).take n)
  if v 0 1 = 0 then none
  else some { code := v 0 1, cause := v 1 1, src := v 2 3 % 2 ^ 20, dst := v 5 3 % 2 ^ 20, attempt := v 8 4 / 2 ^ 28
              job := v 12 4, epoch := v 16 6, task := v 22 2, arg := v 24 8 }

/-- The 64 bytes of a control flit, Table 11.2. -/
def controlBytes (c : ControlFlit) : List Byte :=
  leBytes 2 (c.ack % 2 ^ 11 + (if c.nak then 2 ^ 15 else 0)) ++ leBytes 2 0 ++
    ((List.range 4).flatMap fun i => leBytes 4 (c.cred.getD i 0)) ++ leBytes 4 (c.self % 2 ^ 20 + c.selfPort % 16 * 2 ^ 20) ++
    leBytes 4 (c.map % 2 ^ 20 + c.width % 4 * 2 ^ 20) ++ leBytes 4 0 ++
    (c.notice.elim (List.replicate 32 0) noticeBytes)

/-- The control flit of 64 bytes; reserved bits are ignored. -/
def controlOfBytes (bs : List Byte) : ControlFlit :=
  let v (a n : Nat) : Nat := leNat ((bs.drop a).take n)
  { ack := v 0 2 % 2 ^ 11, nak := (v 0 2).testBit 15, cred := (List.range 4).map fun i => v (4 + 4 * i) 4
    self := v 20 4 % 2 ^ 20, selfPort := v 20 4 / 2 ^ 20 % 16, map := v 24 4 % 2 ^ 20, width := v 24 4 / 2 ^ 20 % 4
    notice := noticeOfBytes ((bs.drop 32).take 32) }

/-- Kinds of flit, Table 11.1. -/
inductive FlitKind where
  | idle | header | data | last | control
  deriving DecidableEq, Repr

def FlitKind.code : FlitKind → Nat
  | .idle => 0
  | .header => 1
  | .data => 2
  | .last => 3
  | .control => 4

/-- The side word of a flit, Table 11.1, with the CRC of R335. -/
def sideWord (k : FlitKind) (vc fseq : Nat) (flit : List Byte) : Word :=
  let numbered := k == .header || k == .data || k == .last
  let high := k.code * 2 ^ 13 + (if numbered then vc % 4 * 2 ^ 11 + fseq % 2048 else 0)
  BitVec.ofNat 32 (high * 2 ^ 16 + (flitCrc flit high).toNat)

/-- R335: a receiver keeps a flit whose CRC matches. -/
def flitGood (flit : List Byte) (side : Word) : Bool :=
  flitCrc flit (side.toNat / 2 ^ 16) == BitVec.ofNat 16 (side.toNat % 2 ^ 16)

/-- R339: the flits of a frame, each with its side word, numbered from `fseq`. -/
def frameFlits (f : Frame) (fseq : Nat) : List (List Byte × Word) :=
  (frameHeader f, sideWord .header f.vc fseq (frameHeader f)) ::
    (List.range f.nflit).map fun i =>
      let flit := (((f.data.drop (64 * i)).take 64) ++ List.replicate 64 0).take 64
      (flit, sideWord (if i + 1 = f.nflit then .last else .data) f.vc (fseq + 1 + i) flit)

/-- R332, R334: the flit bytes and side-word bits that position `i` of a port of `2` or 4 positions carries. -/
def laneShare (narrow : Bool) (i : Nat) (flit : List Byte) (side : Word) : List Byte × List Byte :=
  let n := if narrow then 2 else 1
  ((flit.drop (16 * n * i)).take (16 * n), ((leBytes 4 side.toNat).drop (n * i)).take n)

/-- The 64 bytes of a slice record, Table 9.1. -/
def sliceRecord (x : SliceDecl) : List Byte :=
  leBytes 2 x.layer ++ leBytes 1 (x.die % 4 * 8 + x.unit % 8) ++ leBytes 1 (x.wfmt % 16 + x.mfmt % 16 * 16) ++ leBytes 4 x.shard ++
    leBytes 4 x.first ++ leBytes 2 x.rows ++ leBytes 2 x.cols ++ leBytes 6 x.waddr ++ leBytes 6 x.maddr ++ leBytes 6 x.saddr ++
    leBytes 6 x.paddr ++ leBytes 6 x.kaddr ++ leBytes 1 (if x.hold then 1 else 0) ++ leBytes 1 0 ++ leBytes 4 x.lrow ++
    leBytes 4 x.lcol ++ leBytes 4 x.lwidth ++ leBytes 4 0

/-- The slice that a record of Table 9.1 describes; reserved bits are ignored. -/
def sliceOfRecord (bs : List Byte) : SliceDecl :=
  let v (a n : Nat) : Nat := leNat ((bs.drop a).take n)
  { layer := v 0 2, die := v 2 1 / 8 % 4, unit := v 2 1 % 8, wfmt := v 3 1 % 16, mfmt := v 3 1 / 16, shard := v 4 4, first := v 8 4
    rows := v 12 2, cols := v 14 2, waddr := v 16 6, maddr := v 22 6, saddr := v 28 6, paddr := v 34 6, kaddr := v 40 6
    hold := v 46 1 % 2 == 1, lrow := v 48 4, lcol := v 52 4, lwidth := v 56 4 }

end Sys2Proof.Machine
end

