-- ==== Sys2Proof/Safety.lean ====
section
/-! DEFINITION. The terms that statements about the block are made in: when a tile's instruction goes ahead, when a command
packet begins, which notices and frames are heard, and the canonical form of every addressed memory. -/

namespace Sys2Proof.Machine

/-! ### Tiles -/

/-- The tile stands at instruction `w`, and once the fc that it has reached has begun the dispatch may be made in it (R91, R95,
R98). -/
def State.ready (s : State) (t : TileId) (w : TileWord) : Bool :=
  let u := (s.tileBegin t).tile t
  (s.tile t).atWord w && u.atWord w && u.mayDispatch w

/-- Everything of `s` but the tiles and the time stands in `s'`. -/
def State.alikeButTiles (s s' : State) : Prop :=
  s' = { s with tiles := s'.tiles, fc := s'.fc, sc := s'.sc, scFc := s'.scFc }

/-- `i` answers a next state in which tile `t` is `u` and time has run on to that tile's clock; of `b` no other tile and nothing
else has changed.  For a dispatch `b` is the state in which the tile's fc has begun, for an event that falls due the state
itself. -/
def State.tileBecomes (s b : State) (i : Instr) (t : TileId) (u : Tile) : Prop :=
  ∃ s', exec i s = .next s' ∧ s'.tile t = u ∧ (∀ v, v ≠ t → s'.tile v = b.tile v) ∧ b.alikeButTiles s' ∧
    s'.fc = max b.fc u.clock

/-- `i` stops the program of tile `t` with cause `cause` in the fc that has begun in `b`: its part of the task is over, and
nothing of it is left under way; nobody but the task, its step and the fabric hears of it. -/
def State.tileStops (s b : State) (i : Instr) (t : TileId) (cause : Nat) : Prop :=
  ∃ s', exec i s = .next s' ∧ (s'.tile t).phase = .aborted cause ∧ (s'.tile t).passQ = [] ∧ (s'.tile t).loadQ = [] ∧
    (s'.tile t).vecQ = [] ∧ (s'.tile t).xferQ = [] ∧ (s'.tile t).x = (b.tile t).x ∧ (s'.tile t).q = (b.tile t).q ∧
    s'.host = b.host ∧ s'.trust = b.trust ∧ s'.pow = b.pow ∧ s'.board = b.board

/-- Nothing but the tile itself has a part in the end of its fc: no transfer is under way, no row of another source waits to
enter its silt, and no cause stops it. -/
def Tile.alone (t : Tile) : Bool := t.xfer.isNone && (t.landing.all fun w => w.own.isSome) && t.stop.isNone

/-- What the fc that such a tile has reached leaves, once it has begun: the banks' turns, the writes that they take, and the
vector instructions and passes whose last result that was. -/
def Tile.fcOver (t : Tile) : Tile :=
  (((t.arbitrate t.clock (t.port && t.begun)).1.land t.clock).vecsDue t.clock).passesDue t.clock

/-- The fc is over, and the next is to begin. -/
def Tile.nextFc (t : Tile) : Tile := { t with clock := t.clock + 1, begun := false, port := false, stop := none }

/-! ### Command packets -/

/-- The command at the HEAD of `ring`, when it has opcode `op`, may start, is the next item of a management core (R389), passes
the checks of R385 up to RIGHTS and UNSEATED, and no CANCEL awaits it: the command under its key, and the state in which the
core has it and its nonce is taken (R506). -/
def State.begun (s : State) (op ring : Nat) : Option (Cmd × State) :=
  match s.front ring, s.coreFor ring with
  | some c, some core =>
    if c.ask.opcode ≠ op || !s.startable ring then none
    else
      match (s.served ring core).accept c with
      | (_, .inl _) => none
      | (s', .inr a) =>
        if (s'.aux ring).cancel.any fun k => k.1 == a.seq then none else some ({ c with ask := a }, s')
  | _, _ => none

/-- The command packets (Tables 12.6 to 12.13): opcode, ring, the bytes of PARAM that the row uses, and whether it uses
OBJECT. -/
def packetRow : Instr → Option (Nat × Nat × (Cmd → List (Nat × Nat)) × Bool)
  | .nopCommand r => some (0x00, r, fun _ => [], false)
  | .identify r => some (0x01, r, fun _ => [bufBytes], false)
  | .hostTime r => some (0x02, r, fun _ => [(16, 8)], false)
  | .ringAlloc r => some (0x03, r, fun _ => [(16, 2), (20, 5)], false)
  | .ringFree r => some (0x04, r, fun _ => [(16, 4)], false)
  | .ringQuery r => some (0x05, r, fun _ => [(16, 8), bufBytes], false)
  | .fence r => some (0x06, r, fun c => [(16, 3), (20, 4), (24, 8 * c.p 18 1)], false)
  | .cancel r => some (0x07, r, fun _ => [(16, 8)], false)
  | .pageMap r => some (0x20, r, fun _ => [(16, 13), (32, 3)], false)
  | .pageUnmap r => some (0x21, r, fun _ => [(16, 12)], false)
  | .pageSeal r => some (0x22, r, fun _ => [(16, 12)], false)
  | .pageOpen r => some (0x23, r, fun _ => [(16, 12)], false)
  | .pageMigrate r => some (0x24, r, fun _ => [(16, 13), (32, 3), (36, 4)], false)
  | .pageQuery r => some (0x25, r, fun _ => [(16, 8)], false)
  | .lendSet r => some (0x26, r, fun _ => [(16, 6)], false)
  | .lendQuery r => some (0x27, r, fun _ => [bufBytes], false)
  | .jobEnd r => some (0x41, r, fun _ => [], true)
  | .stepCommit r => some (0x43, r, fun _ => [(16, 6)], false)
  | .stepAbort r => some (0x44, r, fun _ => [], false)
  | .stepStatus r => some (0x45, r, fun _ => [bufBytes], false)
  | .taskRun r => some (0x46, r, fun _ => [], true)
  | .tilthProgram r => some (0x47, r, fun _ => [(16, 2)], false)
  | .tilthLayer r => some (0x48, r, fun _ => [(16, 3), (24, 6)], false)
  | .tilthSweep r => some (0x49, r, fun _ => [(16, 2)], false)
  | .layerNumerics r => some (0x4A, r, fun _ => [(16, 3), (20, 12)], false)
  | .sieveSet r => some (0x4B, r, fun _ => [(16, 1)], false)
  | .topologySet r => some (0x61, r, fun _ => [(16, 3), (20, 2)], false)
  | .portQuery r => some (0x62, r, fun _ => [(16, 1)], false)
  | .portEnable r => some (0x63, r, fun _ => [(16, 3)], false)
  | .export_ r => some (0x80, r, fun _ => [(16, 1), (18, 4), (24, 8), (32, 6), bufBytes], false)
  | .import_ r => some (0x81, r, fun _ => [(16, 1), (24, 6), bufBytes], false)
  | .powerLimit r => some (0xA0, r, fun _ => [(16, 2)], false)
  | .budgetStep r => some (0xA1, r, fun _ => [(16, 6)], false)
  | .budgetLend r => some (0xA2, r, fun _ => [(16, 6)], false)
  | .powerQuery r => some (0xA3, r, fun _ => [bufBytes], false)
  | .unitDisable r => some (0xA4, r, fun _ => [(16, 5)], false)
  | .unitEnable r => some (0xA5, r, fun _ => [(16, 4)], false)
  | .keyEnrol r => some (0xC0, r, fun _ => [(16, 1), (24, 8)], false)
  | .keyRevoke r => some (0xC1, r, fun _ => [(16, 1), (24, 8)], false)
  | .seatBind r => some (0xC2, r, fun _ => [(16, 32)], false)
  | .attest r => some (0xC3, r, fun _ => [(16, 32), bufBytes], false)
  | .auditRead r => some (0xC4, r, fun _ => [(16, 8), bufBytes], false)
  | .guestWindow r => some (0xC5, r, fun _ => [(16, 1)], false)
  | .fwUpdate r => some (0xC6, r, fun _ => [bufBytes], false)
  | .counterSelect r => some (0xE0, r, fun _ => [(16, 11)], false)
  | .counterRead r => some (0xE1, r, fun _ => [bufBytes], false)
  | .scrubFull r => some (0xE2, r, fun _ => [(16, 2)], false)
  | .selfTest r => some (0xE3, r, fun _ => [(16, 1)], false)
  | .contextQuery r => some (0xE4, r, fun _ => [(16, 4), bufBytes], false)
  | .abortRead r => some (0xE5, r, fun _ => [], true)
  | .numericsRead r => some (0xE6, r, fun _ => [(16, 4), bufBytes], false)
  | .overflowRead r => some (0xE7, r, fun _ => [(16, 4), bufBytes], false)
  | .imageLoad r _ => some (0x40, r, fun _ => [(16, 1), bufBytes], false)
  | .stepRun r _ => some (0x42, r, fun _ => [(16, 11)], true)
  | .reshard r _ => some (0x60, r, fun _ => [], true)
  | _ => none

/-- `i` is carried out with its ring's command begun, and everything but its queue stands in `s'`: the command under its key,
and the state it acts on. -/
def State.runsFor (s : State) (i : Instr) : Option (Cmd × State) :=
  (packetRow i).bind fun r => (s.begun r.1 r.2.1).filter fun p => p.1.clean (r.2.2.1 p.1) r.2.2.2

/-! ### Notices -/

/-- The notice that a notice row takes up: the first of its code and sender, when its content is here and it belongs to the job
and epoch; with its content, and the state without it. -/
def State.heard (s : State) (code src : Nat) : Option (Notice × List Byte × State) :=
  (s.fab.noticesIn.find? fun n => n.code == code && n.src == src).bind fun n =>
    (s.fab.contentOf n).bind fun p =>
      let u := { s with fab := { s.fab with noticesIn := s.fab.noticesIn.erase n, noticeData := p.2 } }
      if u.noticeOk n then some (n, p.1, u) else none

/-! ### Frames -/

/-- The frame rows: the port by which the frame arrives, the kind of the row, and the frame. -/
def frameRow : Instr → Option (Nat × Nat × Frame)
  | .write p f => some (p, 1, f)
  | .tileWrite p f => some (p, 2, f)
  | .readReq p f => some (p, 3, f)
  | .readReply p f => some (p, 4, f)
  | .errorReply p f => some (p, 5, f)
  | .collective p f => some (p, 6, f)
  | .gradForward p f _ => some (p, 7, f)
  | .noticeData p f => some (p, 8, f)
  | _ => none

/-! ### Memories -/

/-- The canonical form of a memory: addresses strictly rising, and no entry equal to what an unlisted address reads as. -/
def Memory.wf (m : Map Byte) : Bool := mapWf 0 m

/-- Clay, ring storage and the host's memory are in canonical form. -/
def State.memoriesWf (s : State) : Bool :=
  Memory.wf s.mem.clay && Memory.wf s.rs.storage && Memory.wf s.host.memory

/-- The tiles, and the silt of each, are in canonical form. -/
def State.tilesWf (s : State) : Bool := mapWf Tile.idle s.tiles && s.tiles.all fun e => Memory.wf e.2.silt

end Sys2Proof.Machine
end

