-- ==== Sys2Proof/WellFormed.lean ====
section
/-! DEFINITION. Which commands the block can be given: every operand lies in the range that the spec gives it.  A command
that is not well formed stands for nothing that can happen; each check that fails is named. -/

namespace Sys2Proof

/-- The checks, each by the width or range that the spec states. -/
inductive Ill where
  /-- ring numbers 0 to 262,143 (R177). -/
  | ring
  /-- stream contexts 0 to 1,048,575 (R183). -/
  | context
  /-- task numbers of 16 bits (Table 6.10). -/
  | task
  /-- die indices 0 to 25 (R8). -/
  | die
  /-- compute dies 0 to 3 and tilth units 0 to 7 of a slot grant or deadline on them; unit numbers of 9 bits. -/
  | unit
  /-- local page numbers of 27 bits (R135). -/
  | page
  /-- fabric ports 0 to 15 (Table 11.3). -/
  | port
  /-- package coordinates of 20 bits (Table 11.4). -/
  | coordinate
  /-- layer and shard numbers of 16 bits (Table 8.1). -/
  | layer
  /-- an abort record within the widths of Table 6.10. -/
  | record
  /-- an offset of BAR0's 64 MiB and an access of 1 to 8 bytes (R403). -/
  | bar0
  /-- a range of BAR2's 64 GiB (R403). -/
  | bar2
  /-- a write that stays in the ring window of 32 MiB (R410). -/
  | window
  /-- an overflow entry within the widths of Table 10.3. -/
  | overflow
  /-- the frame kind of the row (Table 11.5). -/
  | frameKind
  /-- a frame header within the widths of Table 11.4. -/
  | frameHeader
  /-- frame data of NFLIT flits of 64 bytes, within the limit of its kind (Table 11.5). -/
  | frameData
  /-- a control flit within the widths of Table 11.2. -/
  | control
  /-- bytes delivered as whole rows of 64 (R190). -/
  | delivery
  /-- one meter reading for each meter of R566. -/
  | meters
  /-- a prediction for each of the 16 operating points (Table 14.2). -/
  | points
  /-- stacks 0 to 15 with 32 channels each (Table 1.2, R140). -/
  | stack
  /-- management cores 0 to 7 (R389). -/
  | core
  /-- background kinds of Table 7.7. -/
  | background
  /-- a local address range of 48 bits (R135). -/
  | address
  deriving DecidableEq, Repr

/-- The checks of a list that fail. -/
def failing : List (Ill × Bool) → List Ill
  | [] => []
  | (_, true) :: l => failing l
  | (i, false) :: l => i :: failing l

def ringOk (r : Nat) : Ill × Bool := (.ring, decide (r < 2 ^ 18))
def ctxOk (c : Nat) : Ill × Bool := (.context, decide (c < 2 ^ 20))
def taskOk (t : Nat) : Ill × Bool := (.task, decide (t < 2 ^ 16))
def dieOk (d : Nat) : Ill × Bool := (.die, decide (d ≤ 25))
def pageOk (p : Nat) : Ill × Bool := (.page, decide (p < 2 ^ 27))
def portOk (p : Nat) : Ill × Bool := (.port, decide (p < 16))
def coordOk (c : Nat) : Ill × Bool := (.coordinate, decide (c < 2 ^ 20))
def layerOk (l : Nat) : Ill × Bool := (.layer, decide (l < 2 ^ 16))
def rangeOk (a n : Nat) : Ill × Bool := (.address, decide (a + n ≤ 2 ^ 48))

def recordOk (r : AbortRecord) : Ill × Bool :=
  (.record, decide (r.addr < 2 ^ 48) && decide (r.pkg < 2 ^ 20) && decide (r.code < 2 ^ 16) && decide (r.instr < 2 ^ 12) &&
    decide (r.die < 2 ^ 5) && decide (r.tile < 2 ^ 9) && decide (r.cause < 2 ^ 8))

def overflowOk (e : OvfEntry) : Ill × Bool :=
  (.overflow, decide (e.epoch < 2 ^ 48) && decide (e.attempt < 2 ^ 4) && decide (e.kind ≤ 2) && decide (e.layer < 2 ^ 16) &&
    decide (e.tensor < 2 ^ 8) && decide (e.block < 2 ^ 32) && decide (e.rung < 2 ^ 3))

/-- The most data flits of a frame kind (Table 11.5). -/
def mostFlits (kind : Nat) : Nat :=
  if kind = 2 then 24576 else if kind = 3 ∨ kind = 5 then 0 else if kind = 8 then 64 else 32768

/-- A frame of kind `kind` as its row takes it. -/
def frameChecks (port kind : Nat) (f : Frame) : List (Ill × Bool) :=
  [portOk port, (.frameKind, f.fkind == kind),
   (.frameHeader, decide (f.flags < 8) && decide (f.vc < 4) && decide (f.dst < 2 ^ 20) && decide (f.hops ≤ 15) &&
     decide (f.src < 2 ^ 20) && decide (f.sport < 16) && decide (f.stag < 2 ^ 32) && decide (f.job < 2 ^ 32) &&
     decide (f.laddr < 2 ^ 48) && decide (f.ctx < 2 ^ 20) && decide (f.task < 2 ^ 16) && decide (f.ring < 2 ^ 18) &&
     decide (f.handle < 2 ^ 32) && decide (f.offset < 2 ^ 32) && decide (f.dtile < 2 ^ 32) && decide (f.coll < 2 ^ 32) &&
     decide (f.opx < 2 ^ 32) && decide (f.opy < 2 ^ 64)),
   (.frameData, decide (f.nflit ≤ mostFlits kind) && decide (f.data.length ≤ 64 * f.nflit) &&
     decide (64 * f.nflit < f.data.length + 64) && (mostFlits kind == 0 || decide (1 ≤ f.nflit)))]

def unitChecks (u : UnitId) : List (Ill × Bool) :=
  [dieOk u.die, (.unit, decide (u.kind < 2 ^ 8) && decide (u.num < 2 ^ 9))]

/-- The checks that a command's operands fail; the ranges not named here are those of the operands' own types. -/
def Instr.ill (i : Instr) : List Ill :=
  failing (match i with
    | .taskAssign _ t | .taskEnd t | .taskAbortReply t | .speculativeStart t => [taskOk t]
    | .taskAbort t r => [taskOk t, recordOk r]
    | .peerAbort (.stream c) | .streamLate c => [ctxOk c]
    | .stageEntryStart d => [dieOk d]
    | .delivery _ (.fill l) => [layerOk l]
    | .delivery _ (.data c _ bs) => [ctxOk c, (.delivery, bs.length % 64 == 0)]
    | .nopCommand r | .identify r | .hostTime r | .ringAlloc r | .ringFree r | .ringQuery r | .fence r | .fenceTimeout r
    | .cancel r | .pageMap r | .mapClearComplete r | .pageUnmap r | .pageSeal r | .pageOpen r | .pageMigrate r
    | .pageQuery r | .lendSet r | .lendQuery r | .imageLoad r _ | .jobEnd r | .stepRun r _ | .stepCommit r | .stepAbort r
    | .stepStatus r | .taskRun r | .tilthProgram r | .tilthLayer r | .tilthSweep r | .layerNumerics r | .sieveSet r
    | .reshard r _ | .topologySet r | .portQuery r | .portEnable r | .export_ r | .import_ r | .powerLimit r
    | .budgetStep r | .budgetLend r | .powerQuery r | .unitDisable r | .unitEnable r | .keyEnrol r | .keyRevoke r
    | .seatBind r | .attest r | .auditRead r | .guestWindow r | .fwUpdate r | .counterSelect r | .counterRead r
    | .scrubFull r | .selfTest r | .contextQuery r | .abortRead r | .numericsRead r | .overflowRead r | .sliceEnd r
    | .completionTimeout r => [ringOk r]
    | .migrationSwitch p _ => [pageOk p]
    | .lenderDeclaredLost l => [coordOk l]
    | .lenderUnreachable l c => [coordOk l, ctxOk c]
    | .unitQuiesced u | .unitWakeComplete u | .unitPowerDownComplete u | .unitFault u | .fatal u => unitChecks u
    | .registerWrite o n _ => [(.bar0, decide (o + n ≤ 2 ^ 26) && decide (1 ≤ n) && decide (n ≤ 8))]
    | .apertureRead o n => [(.bar2, decide (o + n ≤ 2 ^ 36))]
    | .apertureWrite o d => [(.bar2, decide (o + d.bytes.length ≤ 2 ^ 36))]
    | .ringWindowWrite o d => [(.window, decide (o.toNat + d.bytes.length ≤ 2 ^ 25))]
    | .write p f => frameChecks p 1 f
    | .tileWrite p f => frameChecks p 2 f
    | .readReq p f => frameChecks p 3 f
    | .readReply p f => frameChecks p 4 f
    | .errorReply p f => frameChecks p 5 f
    | .collective p f => frameChecks p 6 f
    | .gradForward p f l => layerOk l.layer :: frameChecks p 7 f
    | .noticeData p f => frameChecks p 8 f
    | .controlFlit p c =>
      [portOk p, (.control, decide (c.ack < 2 ^ 11) && c.cred.length == 4 && c.cred.all (fun v => decide (v < 2 ^ 32)) &&
        decide (c.self < 2 ^ 20) && decide (c.selfPort < 16) && decide (c.map < 2 ^ 20) && decide (c.width < 4))]
    | .portTrained p r => [portOk p, coordOk r.peer]
    | .flitDiscarded p => [portOk p]
    | .laneFailure a _ => [dieOk a.die, dieOk (a.peer.getD 0)]
    | .stepReadyNotice n | .commitNotice n | .commitAckNotice n | .stepSettledNotice n | .stepAbortNotice n
    | .abortNotice n | .stoppedNotice n | .stepReplayNotice n | .taskAbortNotice n | .ownerCommitNotice n
    | .specHoldNotice n | .permuteDoneNotice n | .powerHoldNotice n | .boundaryWorkNotice n | .boundaryDoneNotice n =>
      [coordOk n]
    | .layerCompleteNotice n l => [coordOk n, layerOk l.layer]
    | .sweepStart l | .sweepComplete l | .layerSeal l | .rescale l | .gatherLookup l _ _ | .sievePairResult l _ _ _ _ =>
      [layerOk l]
    | .shardDigestCheck l n _ => [layerOk l, layerOk n]
    | .overflowEntry e => [overflowOk e.entry]
    | .powerPeriod r => [dieOk r.die, (.points, r.predicted.length == 16)]
    | .energySample r => [(.meters, r.uj.length == 9)]
    | .fallowSlotGrant d _ => [dieOk d]
    | .fallowDeadline k d _ => [dieOk d, (.background, decide (k ≤ 5))]
    | .channelCopyComplete k c => [(.stack, decide (k < 16) && decide (c < 32))]
    | .coreFault c => [(.core, decide (c < 8))]
    | .guestRead a n => [rangeOk a n]
    | .guestWrite a bs => [rangeOk a bs.length]
    | .bootStageComplete r => [(.unit, r.failed.all fun u => decide (u.kind < 2 ^ 8) && decide (u.die ≤ 24))]
    | _ => [])

/-- Every operand is in range. -/
def Instr.wellFormed (i : Instr) : Bool := i.ill.isEmpty

end Sys2Proof
end

