-- ==== Sys2Proof/Certificates/Slice0/Obligations.lean ====
section
/-! DEFINITION. The statements about the block, family by family of the opcode table, and about the whole machine. -/

open Sys2Proof Sys2Proof.Machine

/-! ### The queue and the step -/

/-- A step carries out the command at the front of the queue, with the rest of the queue waiting. On an empty queue one fc
passes and nothing else happens. The model's choice (notes/assumptions/4). -/
def Obligations.StepTakesTheFrontCommand : Prop :=
  (∀ (s : State) (c : Instr) (rest : List Instr), s.pending = c :: rest → step s = exec c { s with pending := rest }) ∧
  (∀ s : State, s.pending = [] → ∃ s', step s = .next s' ∧ s'.fc = s.fc + 1 ∧
    s' = { s with fc := s'.fc, sc := s'.sc, scFc := s'.scFc } ∧
    (s'.sc = if fcPerSc s.pow.point ≤ s.scFc + 1 then
        (s.sc + (s.scFc + 1) / fcPerSc s.pow.point) % 2 ^ 48 else s.sc % 2 ^ 48))

/-! ### Tile words (R96, Tables 4.1 to 4.11) -/

/-- Every tile instruction, with every value of every field, reserved ones included, is read back from its word. -/
def Obligations.TileWordsRoundTrip : Prop := ∀ w : TileWord, decodeTile (encodeTile w) = some w

/-- A 64-bit word that is an instruction is the word of that instruction: decoding drops no bit. -/
def Obligations.TileWordsHaveOneMeaning : Prop :=
  ∀ (b : BitVec 64) (w : TileWord), decodeTile b = some w → encodeTile w = b

/-! ### Scalar instructions (Table 4.11) -/

/-- NOP, LI and the arithmetic instructions, in a tile's fc once that has begun: XD takes the result, every other scalar
register keeps its value, and the next instruction follows one fc later. The second source is IMM when I is 1, else XB (Table
4.2). The beginning of an fc (issues, events that fall due) leaves the registers and the place of the program alone, and while
no transfer is under way or waits it changes nothing beyond the tile but counters. -/
def Obligations.ScalarArithmetic : Prop :=
  (∀ (s : State) (t : TileId) (f : CtlF),
    let g := s.tileBegin t
    let u := g.tile t
    let a := u.xGet f.xa.toNat
    let b := if f.tgt.getLsbD 11 then f.imm else u.xGet f.xb.toNat
    let gives (i : Instr) (op : CtlOp) (v : Word) : Prop :=
      s.ready t (.ctl op f) = true → s.tileBecomes g i t ((u.xSet f.xd.toNat v).next)
    (s.ready t (.ctl .nop f) = true → s.tileBecomes g (.nop t f) t u.next) ∧
    gives (.li t f) .li f.imm ∧ gives (.add t f) .add (a + b) ∧ gives (.sub t f) .sub (a - b) ∧
    gives (.mul t f) .mul (BitVec.ofNat 32 (a.toNat * b.toNat)) ∧ gives (.and t f) .and (a &&& b) ∧
    gives (.or t f) .or (a ||| b) ∧ gives (.xor t f) .xor (a ^^^ b) ∧
    gives (.slt t f) .slt (if a.toInt < b.toInt then 1 else 0) ∧
    gives (.sltu t f) .sltu (if a.toNat < b.toNat then 1 else 0) ∧
    ∀ (v : Word) (r : Fin 16), (u.xSet f.xd.toNat v).xGet r.val = if r.val = f.xd.toNat then v else u.xGet r.val) ∧
  ∀ (s : State) (t : TileId),
    let g := s.tileBegin t
    let u := s.tile t
    (g.tile t).x = u.x ∧ (g.tile t).pc = u.pc ∧ (g.tile t).phase = u.phase ∧ (g.tile t).seq = u.seq ∧
    (g.tile t).clock = u.clock ∧ (g.tile t).nextDispatch = u.nextDispatch ∧
    (u.xfer = none → u.xferQ = [] →
      g = { s with tiles := g.tiles, cnt := g.cnt } ∧ ∀ v, v ≠ t → g.tile v = s.tile v)

/-- R72: the shift amount is unsigned, from a scalar register or per element; an amount of the element width or more gives 0
to a left or logical right shift and the sign, filled across the element, to an arithmetic right shift. -/
def Obligations.ShiftAmounts : Prop :=
  (∀ (s : State) (t : TileId) (f : CtlF),
    let g := s.tileBegin t
    let u := g.tile t
    let a := u.xGet f.xa.toNat
    let n := (if f.tgt.getLsbD 11 then f.imm else u.xGet f.xb.toNat).toNat
    let gives (i : Instr) (op : CtlOp) (v : Word) : Prop :=
      s.ready t (.ctl op f) = true → s.tileBecomes g i t ((u.xSet f.xd.toNat v).next)
    gives (.shl t f) .shl (if 32 ≤ n then 0 else BitVec.ofNat 32 (a.toNat * 2 ^ n)) ∧
    gives (.shr t f) .shr (if 32 ≤ n then 0 else BitVec.ofNat 32 (a.toNat / 2 ^ n)) ∧
    gives (.sra t f) .sra (if 32 ≤ n then (if a.msb then BitVec.allOnes 32 else 0) else a.sshiftRight n)) ∧
  ∀ (f : VecF) (e : Elem),
    let w := (VecF.sfmt f).bits
    let n := e.b
    e.a < 2 ^ w →
    (elemOut .vshl f e).code = (if w ≤ n then 0 else e.a * 2 ^ n % 2 ^ w) ∧
    (elemOut .vshr f e).code = (if w ≤ n then 0 else e.a / 2 ^ n) ∧
    (elemOut .vsra f e).code =
      (if e.a < 2 ^ (w - 1) then e.a / 2 ^ n else 2 ^ w - 1 - (2 ^ w - 1 - e.a) / 2 ^ n)

/-- R94: a register written by a control instruction may be read by the instruction dispatched one fc later; a taken branch
dispatches its target 2 fc after the branch; a branch not taken costs the next instruction nothing.  Said of LI, of the five
branches on registers, and of LOOP. -/
def Obligations.BranchesAndTheirCost : Prop :=
  ∀ (s : State) (t : TileId) (f : CtlF),
    let g := s.tileBegin t
    let u := g.tile t
    let a := u.xGet f.xa.toNat
    let b := u.xGet f.xb.toNat
    let go (v : Tile) (c : Prop) (u' : Tile) : Prop :=
      (c → u' = { v with pc := f.tgt.toNat, seq := v.seq + 1, nextDispatch := v.clock + 2 }) ∧
      (¬ c → u' = { v with pc := v.pc + 1, seq := v.seq + 1, nextDispatch := v.clock + 1 })
    let branches (i : Instr) (op : CtlOp) (c : Prop) : Prop :=
      s.ready t (.ctl op f) = true → ∃ u', go u c u' ∧ s.tileBecomes g i t u'
    branches (.b t f) .b True ∧ branches (.beq t f) .beq (a = b) ∧ branches (.bne t f) .bne (a ≠ b) ∧
    branches (.blt t f) .blt (a.toInt < b.toInt) ∧ branches (.bge t f) .bge (b.toInt ≤ a.toInt) ∧
    (s.ready t (.ctl .loop f) = true →
      ∃ u', go (u.xSet f.xa.toNat (a - 1)) (a - 1 ≠ 0) u' ∧ u'.xGet f.xa.toNat = a - 1 ∧
        s.tileBecomes g (.loop t f) t u') ∧
    (s.ready t (.ctl .li f) = true →
      ∃ u', u'.nextDispatch = u.clock + 1 ∧ u'.xGet f.xd.toNat = f.imm ∧ s.tileBecomes g (.li t f) t u')

/-- BQ, BQZ, QMOV and CSIG with bit [55] clear (Table 4.11); with bit [55] set each is illegal (Table 4.2), as is a CSIG
whose codes name no format it takes: the program stops with cause ILLEGAL_INSTRUCTION (a transfer under way would first
land what has left, R192). -/
def Obligations.SummaryRegisterReads : Prop :=
  ∀ (s : State) (t : TileId) (f : CtlF),
    let g := s.tileBegin t
    let u := g.tile t
    let q := u.qGet (f.xd.setWidth 3).toNat
    let m := (q.setWidth 32 : Word) &&& f.imm
    let taken : Tile := { u with pc := f.tgt.toNat, seq := u.seq + 1, nextDispatch := u.clock + 2 }
    let does (i : Instr) (op : CtlOp) (u' : Tile) : Prop :=
      s.ready t (.ctl op f) = true → f.xd.getLsbD 3 = false → s.tileBecomes g i t u'
    let stops (i : Instr) (op : CtlOp) : Prop :=
      s.ready t (.ctl op f) = true → u.xfer = none → s.tileStops g i t 1
    does (.bq t f) .bq (if m ≠ 0 then taken else u.next) ∧ does (.bqz t f) .bqz (if m = 0 then taken else u.next) ∧
    does (.qmov t f) .qmov
      (u.xSet f.xa.toNat (if f.imm.getLsbD 0 then (q >>> 32).setWidth 32 else q.setWidth 32)).next ∧
    (csigLegal f.imm = true →
      let fmt := Fmt.ofCode (f.imm.toNat % 16)
      let r := pinSigma (Fmt.ofCode (f.imm.toNat / 16)) (decodeElem fmt (q.toNat % 2 ^ fmt.bits)).abs
      does (.csig t f) .csig
        { (u.xSet f.xa.toNat (BitVec.ofNat 32 r.1)).next with vflags := u.vflags ||| r.2 }) ∧
    (f.xd.getLsbD 3 = true →
      stops (.bq t f) .bq ∧ stops (.bqz t f) .bqz ∧ stops (.qmov t f) .qmov ∧ stops (.csig t f) .csig) ∧
    (csigLegal f.imm = false → stops (.csig t f) .csig)

/-- CRD and CWR (Tables 4.11 to 4.17), of every register: CRD writes MFLAGS, VFLAGS, TILE_ID, the fc since the task was
assigned, the hand-off queue's state and TASK_MODE to XD, and zero for every other number; CWR clears in MFLAGS or VFLAGS the
flags written 1, and leaves every other register as it is. -/
def Obligations.TileControlRegisters : Prop :=
  ∀ (s : State) (t : TileId) (f : CtlF),
    let g := s.tileBegin t
    let u := g.tile t
    let i := f.imm.toNat % 256
    let v := u.xGet f.xa.toNat
    let reads (w : Word) : Prop := s.tileBecomes g (.crd t f) t ((u.xSet f.xd.toNat w).next)
    (s.ready t (.ctl .crd f) = true →
      (i = 0 → reads (u.mflags.setWidth 32)) ∧ (i = 1 → reads (u.vflags.setWidth 32)) ∧
      (i = 2 → reads (BitVec.ofNat 32 (t.die.val * 512 + t.tile.val))) ∧
      (i = 3 → reads (BitVec.ofNat 32 (u.clock - u.origin))) ∧
      (i = 4 → reads (BitVec.ofNat 32 (heldEntries (u.hq.filter Entry.visible) * 8 + heldEntries u.hq))) ∧
      (i = 5 → reads (if u.spec then 1 else 0)) ∧ (6 ≤ i → reads 0)) ∧
    (s.ready t (.ctl .cwr f) = true → s.tileBecomes g (.cwr t f) t { u.next with
      mflags := if i = 0 then u.mflags &&& ~~~(v.setWidth 8) &&& 0x3F else u.mflags
      vflags := if i = 1 then u.vflags &&& ~~~(v.setWidth 8) &&& 0x3F else u.vflags })

/-- SYNC (R124): dispatch holds, and resumes in the fc after the one in which everything it names has finished, which may be its
own; END waits (R126). SYNC_SATISFIED: dispatch resumes in the fc after the last awaited write (R124).  The tile is one in which
no transfer is under way and no row of another source waits; the next fc is not begun. -/
def Obligations.SyncHoldsAndResumes : Prop :=
  (∀ (s : State) (t : TileId) (f : CtlF),
    let g := s.tileBegin t
    let u := g.tile t
    let mask : BitVec 4 := f.imm.setWidth 4
    let v := { u.next with phase := .syncHold mask u.seq }.fcOver
    (s.ready t (.ctl .sync f) = true → u.alone = true → s.cnt.select = [] →
      s.tileBecomes g (.sync t f) t
        (if v.finished mask u.seq u.clock then { v.nextFc with phase := .running } else v.nextFc)) ∧
    (s.ready t (.ctl .end_ f) = true → s.tileBecomes g (.end_ t f) t { u.next with phase := .endHold })) ∧
  (∀ (s : State) (t : TileId) (mask : BitVec 4) (upTo : Nat),
    let g := s.tileBegin t
    let u := g.tile t
    let v := u.fcOver
    u.phase = .syncHold mask upTo → u.alone = true → s.cnt.select = [] → v.finished mask upTo u.clock = true →
    s.tileBecomes g (.syncSatisfied t) t { v.nextFc with phase := .running, nextDispatch := u.clock + 1 })

/-- END_COMPLETE (R126): the tile's part has ended, the task knows it, and the flags of the tile join those of the step that
the task belongs to. ABORT (R131): the program stops with PROGRAM_ABORT; a task that runs is aborting, and its record names
the tile, the instruction and the code IMM[15:0]. -/
def Obligations.EndsAndAborts : Prop :=
  (∀ (s : State) (t : TileId),
    let u := s.tile t
    let k := s.task u.task
    u.phase = .endHold → u.finished 15 u.seq (u.clock - 1) = true →
    ∃ s', exec (.endComplete t) s = .next s' ∧ s'.tile t = { u with phase := .ended } ∧
      (∀ v, v ≠ t → s'.tile v = s.tile v) ∧ s'.task u.task = { k with ended := setInsert k.ended t.key } ∧
      (k.step = true → k.spec = false → k.epoch = s.job.epoch →
        s'.job.st.flags = s.job.st.flags ||| u.mflags ||| u.vflags) ∧
      (k.step = true → k.spec = true → s'.job.flagsNext = s.job.flagsNext ||| u.mflags ||| u.vflags) ∧
      s'.mem = s.mem ∧ s'.trust = s.trust) ∧
  (∀ (s : State) (t : TileId) (f : CtlF),
    let g := s.tileBegin t
    let u := g.tile t
    s.ready t (.ctl .abort f) = true → u.xfer = none → s.tileStops g (.abort t f) t 0x0A ∧
    (u.landing = [] → (g.task u.task).phase = .running →
      ∃ s', exec (.abort t f) s = .next s' ∧ (s'.task u.task).phase = .aborting ∧
        (s'.task u.task).record = {
          cause := 0x0A, tile := t.tile.val, die := t.die.val, instr := u.pc, code := f.imm.toNat % 65536
          pkg := s.fab.coord }))

/-- R582, R90: the dispatch of a matrix, vector or transfer instruction takes it into its sub-queue with the scalar registers
as they stand, and nothing else of the tile changes but the place of the next instruction and, for a descriptor load, the note
that its slot has one; a register written later leaves the queues alone. Said of each instruction of the units. -/
def Obligations.SubQueuesTakeTheRegisters : Prop :=
  (∀ (s : State) (t : TileId),
    let g := s.tileBegin t
    let u := g.tile t
    let e (w : TileWord) : Queued := { seq := u.seq, at_ := u.clock, pc := u.pc, word := w, x := u.x }
    let goes (i : Instr) (w : TileWord) (u' : Tile) : Prop := s.ready t w = true → s.tileBecomes g i t u'
    (∀ f : MatF,
      goes (.mpass t f) (.mat .mpass f) { u.next with passQ := u.passQ ++ [e (.mat .mpass f)] } ∧
      goes (.mload t f) (.mat .mload f) { u.next with loadQ := u.loadQ ++ [e (.mat .mload f)] } ∧
      goes (.mdesc t f) (.mat .mdesc f) { u.next with
        loadQ := u.loadQ ++ [e (.mat .mdesc f)], mslots := noteLoad u.mslots f.sla.toNat u.seq }) ∧
    (∀ f : VecF,
      let vec (i : Instr) (op : VecOp) : Prop :=
        goes i (.vec op f) { u.next with vecQ := u.vecQ ++ [e (.vec op f)] }
      vec (.vadd t f) .vadd ∧ vec (.vsub t f) .vsub ∧ vec (.vmul t f) .vmul ∧ vec (.vmin t f) .vmin ∧
      vec (.vmax t f) .vmax ∧ vec (.vfma t f) .vfma ∧ vec (.vabs t f) .vabs ∧ vec (.vneg t f) .vneg ∧
      vec (.vcmp t f) .vcmp ∧ vec (.vsel t f) .vsel ∧ vec (.viadd t f) .viadd ∧ vec (.viadds t f) .viadds ∧
      vec (.visub t f) .visub ∧ vec (.visubs t f) .visubs ∧ vec (.vimul t f) .vimul ∧ vec (.vimuls t f) .vimuls ∧
      vec (.vimin t f) .vimin ∧ vec (.vimax t f) .vimax ∧ vec (.vand t f) .vand ∧ vec (.vor t f) .vor ∧
      vec (.vxor t f) .vxor ∧ vec (.vnot t f) .vnot ∧ vec (.vshl t f) .vshl ∧ vec (.vshr t f) .vshr ∧
      vec (.vsra t f) .vsra ∧ vec (.vcvt t f) .vcvt ∧ vec (.vrcp t f) .vrcp ∧ vec (.vsqrt t f) .vsqrt ∧
      vec (.vrsq t f) .vrsq ∧ vec (.vexp2 t f) .vexp2 ∧ vec (.vlog2 t f) .vlog2 ∧ vec (.vrsum t f) .vrsum ∧
      vec (.vrmax t f) .vrmax ∧ vec (.vrmin t f) .vrmin ∧ vec (.vrnz t f) .vrnz ∧ vec (.vrnan t f) .vrnan ∧
      goes (.vdesc t f) (.vec .vdesc f) { u.next with
        vecQ := u.vecQ ++ [e (.vec .vdesc f)], vslots := noteLoad u.vslots f.sls.toNat u.seq }) ∧
    ∀ f : XferF,
      let xfer (i : Instr) (op : XferOp) : Prop :=
        goes i (.xfer op f) { u.next with xferQ := u.xferQ ++ [e (.xfer op f)] }
      xfer (.xget t f) .xget ∧ xfer (.xput t f) .xput ∧ xfer (.xtile t f) .xtile) ∧
  ∀ (u : Tile) (r : Nat) (v : Word), (u.xSet r v).passQ = u.passQ ∧ (u.xSet r v).loadQ = u.loadQ ∧
    (u.xSet r v).vecQ = u.vecQ ∧ (u.xSet r v).xferQ = u.xferQ

/-- HGET, HGET_HANDLE (R127): a handle that waits is removed and written to XH at once, and dispatch goes on in the next fc;
from an empty ring with a WAIT the tile holds, and a handle that enters is written 2 fc after it entered.  With WAIT 0 an
empty ring stops the program with HANDLE_TIMEOUT (R128); reserved bits are illegal (R97), and a ring of another task or
consumer stops it with RING_RIGHTS (R122).  `g` and `d` are the states in which the rows that post on the ring have entered. -/
def Obligations.HandlesAreTakenOldestFirst : Prop :=
  ∀ (s : State) (t : TileId) (f : HdlF),
    let r := f.ring.toNat
    let took (g : State) (i : Instr) (u' : Tile) : Prop :=
      ∃ s', exec i s = .next s' ∧ s'.tile t = u' ∧ s'.handles r = (g.handles r).tail ∧
        (∀ n, n ≠ r → s'.handles n = g.handles n) ∧ (∀ v, v ≠ t → s'.tile v = g.tile v) ∧ s'.mem = g.mem ∧
        s'.job = g.job
    (let g := (s.tileBegin t).pullRing r (s.tile t).clock
     let u := g.tile t
     mapWf [] g.rs.handles = true → s.ready t (.hdl .hget f) = true →
     (f.rsvHigh = 0 → f.rsvLow = 0 → g.ringOfTask u.task r = true → g.consumes t r = true →
       (∀ h, g.oldest r = some h → h.at_ ≤ u.clock → took g (.hget t f) ((u.xSet f.xh.toNat h.word).next)) ∧
       (g.oldest r = none → f.wait ≠ 0 →
         s.tileBecomes g (.hget t f) t { u.next with phase := .handleHold f u.clock }) ∧
       (g.oldest r = none → f.wait = 0 → u.xfer = none → s.tileStops g (.hget t f) t 6)) ∧
     (u.xfer = none →
       ((f.rsvHigh ≠ 0 ∨ f.rsvLow ≠ 0) → s.tileStops g (.hget t f) t 1) ∧
       (f.rsvHigh = 0 → f.rsvLow = 0 → (g.ringOfTask u.task r = false ∨ g.consumes t r = false) →
         s.tileStops g (.hget t f) t 8))) ∧
    ∀ since h, (s.tile t).phase = .handleHold f since →
      let g := s.pullRing r (since + 64 * f.wait.toNat)
      let fc := max h.at_ since
      g.oldest r = some h → fc < since + 64 * f.wait.toNat →
      let d := g.runTo t (fc + 1)
      mapWf [] d.rs.handles = true → (d.tile t).phase = .handleHold f since →
      took d (.hgetHandle t) { (d.tile t).xSet f.xh.toNat h.word with phase := .running, nextDispatch := fc + 2 }

/-- HPUT (R121): the handle enters the ring behind the others, bit [31] being the tile's speculative tag whatever the register
holds there; and R129: into a full ring it is not posted, and the program stops with HANDLE_RING_FULL. Reserved bits, WAIT
among them, are illegal (R97), and a ring of another task stops it with RING_RIGHTS (R122). -/
def Obligations.HandlesAreTaggedAndPosted : Prop :=
  ∀ (s : State) (t : TileId) (f : HdlF),
    let g := s.tileBegin t
    let u := g.tile t
    let r := f.ring.toNat
    let h : Word := (u.xGet f.xh.toNat &&& 0x7FFFFFFF) ||| (if u.spec then 0x80000000 else 0)
    s.ready t (.hdl .hput f) = true →
    (u.xfer = none →
      ((f.rsvHigh ≠ 0 ∨ f.rsvLow ≠ 0 ∨ f.wait ≠ 0) → s.tileStops g (.hput t f) t 1) ∧
      (f.rsvHigh = 0 → f.rsvLow = 0 → f.wait = 0 → g.ringOfTask u.task r = false → s.tileStops g (.hput t f) t 8)) ∧
    (f.rsvHigh = 0 → f.rsvLow = 0 → f.wait = 0 → g.ringOfTask u.task r = true → (g.ring r).kind = .handle →
      ((g.ring r).full = false → mapWf [] g.rs.handles = true →
        (∀ e ∈ g.handles r, e.at_ < u.clock ∨ (e.at_ = u.clock ∧ e.poster ≤ t.key)) →
        ∃ s', exec (.hput t f) s = .next s' ∧ s'.tile t = u.next ∧
          s'.handles r = g.handles r ++ [{ word := h, at_ := u.clock, poster := t.key }] ∧
          (∀ n, n ≠ r → s'.handles n = g.handles n) ∧ (s'.ring r).tail = ((g.ring r).tail + 1) % 2 ^ 17 ∧
          h.getLsbD 31 = u.spec) ∧
      ((g.ring r).full = true → u.xfer = none → u.landing = [] →
        ∃ s', exec (.hput t f) s = .next s' ∧ (s'.tile t).phase = .aborted 7 ∧ s'.handles r = g.handles r))

/-! ### Events of a tile's units -/

/-- What falls due in the fc that the tile has reached: a stationary load (R60), a descriptor (R100), an accumulator set
(R573) and a summary register (R75). Hand-off entries: enqueued in their fc (R87), visible 3 fc later in the order of
reservation (R67), and free in the fc after the last read (R68). -/
def Obligations.LoadsAndEntriesFallDue : Prop :=
  (∀ (s : State) (t : TileId),
    let u := s.tile t
    let v := u.due u.clock
    u.phase ≠ .free →
    (∀ r, u.loads.head? = some r → u.clock = r.issue + r.rows + 6 →
      s.tileBecomes s (.stationaryLoadComplete t) t v ∧ v.shadow = some r.block) ∧
    (∀ (k : Nat) (d : Desc) (slot : BitVec 2),
      ((u.vslots.getD slot.toNat {}).pending = [(k, u.clock, d)] →
        s.tileBecomes s (.descriptorValid t true slot) t v ∧ (v.vslots.getD slot.toNat {}).desc = some d) ∧
      ((u.mslots.getD slot.toNat {}).pending = [(k, u.clock, d)] →
        s.tileBecomes s (.descriptorValid t false slot) t v ∧ (v.mslots.getD slot.toNat {}).desc = some d)) ∧
    (u.accFree0 = some u.clock → s.tileBecomes s (.accumulatorSetFree t false) t v ∧ v.accFree0 = none) ∧
    (u.accFree1 = some u.clock → s.tileBecomes s (.accumulatorSetFree t true) t v ∧ v.accFree1 = none) ∧
    ∀ p, u.qPend = [p] → p.validAt = u.clock →
      s.tileBecomes s (.summaryValid t p.q) t v ∧ v.qGet p.q.toNat = p.value ∧ v.qPend = []) ∧
  (∀ (s : State) (t : TileId) (e : Entry),
    let u := s.tile t
    let v := u.due u.clock
    u.phase ≠ .free →
    ((u.hq.find? fun x => !x.enqueued) = some e → u.clock = e.enqueueAt →
      s.tileBecomes s (.entryEnqueue t) t v ∧ ∀ x ∈ v.hq, x.enqueueAt ≤ u.clock → x.enqueued = true) ∧
    (u.hq.head? = some e → e.visible = false → e.releaseAt = none → e.enqueueAt + 3 ≤ u.clock →
      s.tileBecomes s (.entryVisible t) t v ∧ v.hq.head? = some { e with enqueued := true, visible := true }) ∧
    (e ∈ u.hq → e.releaseAt = some u.clock → (∀ x ∈ u.hq, x.releaseAt = none ∨ x = e) →
      s.tileBecomes s (.entryRelease t) t v ∧ ∀ x ∈ v.hq, x.releaseAt = none))

/-- VECTOR_LAST_RESULT (R70, R75, R125): in the fc of its last result, where no bank refuses what is asked (R83), a vector
instruction's flags are set in VFLAGS and it is no longer under way; the fc after has come. -/
def Obligations.VectorResultsSetFlags : Prop :=
  ∀ (s : State) (t : TileId) (r : VecRun) (rest : List VecRun),
    let g := s.tileBegin t
    let u := g.tile t
    u.phase = .running → u.atNone = false → u.vecs = r :: rest → (∀ x ∈ rest, x.seq ≠ r.seq) →
    (s.tile t).vecs.head?.map VecRun.seq = some r.seq → u.alone = true → s.cnt.select = [] → u.clock = r.lastAt →
    (u.arbitrate u.clock (u.port && u.begun)).1.vecs = u.vecs →
    ∃ u', s.tileBecomes g (.vectorLastResult t) t u' ∧ u'.clock = u.clock + 1 ∧ u'.x = u.x ∧
      (∀ k, k < 8 → r.flags.getLsbD k = true → u'.vflags.getLsbD k = true) ∧ ∀ x ∈ u'.vecs, u.clock < x.lastAt

/-- R83, R81, R86: in one fc each bank serves at most one access, every access asked is served or refused, and one is refused
only where its bank serves another that comes before it: of a lower rank, or of the same rank and not behind it in the order
of their instructions; a delivery comes last. What is refused of the tile's own reads, or fails parity, is asked again in the
next fc. A pass of which that is so shifts by one fc, with the fc in which the next may issue and its entry's enqueue, and one
of which nothing is repeated does not. -/
def Obligations.BanksServeOneAccess : Prop :=
  ∀ (u : Tile) (now : Nat) (port : Bool), (∀ a ∈ u.asks, a.rank ≤ 3) →
    let r := serve (u.turns now port) []
    let v := (u.arbitrate now port).1
    let again := (r.2.filter fun a => !(a.rank == 5 && a.plane == 1)) ++ r.1.filter u.failsParity
    (r.1.map BankAsk.bank).Nodup ∧ (∀ a, a ∈ u.turns now port ↔ a ∈ r.1 ∨ a ∈ r.2) ∧
    (∀ a ∈ r.2, ∃ b ∈ r.1, b.bank = a.bank ∧ b.rank ≤ a.rank ∧ (b.rank = a.rank → a.rank ≤ 4 → b.seq ≤ a.seq)) ∧
    (∀ a, a ∈ v.asks ↔ a ∈ again ∧ a.rank ≤ 3) ∧
    (∀ row ∈ v.weak, ∀ a ∈ r.1, u.failsParity a = true → a.row ≠ row) ∧
    ∀ p, u.passes = [p] →
      ((∀ a ∈ again, a.seq ≠ p.seq) → v.passes = [p]) ∧
      ((∃ a ∈ again, a.seq = p.seq) →
        v.passes = [{ p with issue := p.issue + 1 }] ∧ v.passFree = u.passFree + 1 ∧
        ∀ e ∈ u.hq, e.seq = p.seq → e.releaseAt = none → { e with enqueueAt := e.enqueueAt + 1 } ∈ v.hq)

/-- Waits that run out (R66, R108, R128, R98): the program stops in that fc with the cause of the wait, or with a cause of a
lower code that arises in the same fc (R134). HANDLE_TIMEOUT comes only where no handle entered the ring before the limit, and
PC_RANGE only where no pass is held for an entry. -/
def Obligations.WaitsRunOut : Prop :=
  ∀ (s : State) (t : TileId),
    let u := s.tile t
    let stops (i : Instr) (c : Nat) : Prop := ∃ s' k, exec i s = .next s' ∧ (s'.tile t).phase = .aborted k ∧ k ≤ c
    (u.busy = true → u.begun = false → u.quiet = false →
      (∀ h, u.heldEntry = some h → u.clock = h + 4096 → stops (.handoffTimeout t) 4) ∧
      (∀ h, u.heldSwap = some h → u.clock = h + 4096 → stops (.stationaryTimeout t) 5)) ∧
    (∀ f since, u.phase = .handleHold f since →
      let limit := since + 64 * f.wait.toNat
      let g := s.pullRing f.ring.toNat limit
      let v := g.tile t
      (∀ h ∈ g.handles f.ring.toNat, limit ≤ h.at_) → v.phase = .handleHold f since → v.clock = limit → v.begun = false →
      stops (.handleTimeout t) 6) ∧
    (u.phase = .running → u.pc = 4096 →
      let v := (s.tileBegin t).tile t
      v.nextDispatch ≤ v.clock → v.heldEntry = none → stops (.pcRange t) 9)

/-- TRANSFER_COMPLETE of an XGET whose data are here, of which what has not yet entered is due in the fc that the tile has
reached (R189): the bytes stand in silt, and the unit is free in the next fc; another access of that fc is not under way.
DELIVERY of one row by a stream of kind 3 (R190): the row enters the tile's silt in this fc. -/
def Obligations.RowsLandInSilt : Prop :=
  (∀ (s : State) (t : TileId) (path : PathIn) (run : XferRun) (bs : List Byte),
    let g := s.catchUp t
    let u := s.tile t
    let w := g.workOf t.die.val u.task run.record.ctx
    u.xfer = some run → run.op = .xget → run.f.post = 0 → run.remote g = false → path.beyond g.margins = false →
    g.xgetReady u.task run = true → u.phase = .running → u.atNone = false → u.begun = false → u.later = none →
    u.passQ = [] → u.loadQ = [] → u.vecQ = [] → u.xferQ = [] → u.passes = [] → u.loads = [] → u.vecs = [] →
    u.landing = [] → u.asks = [] → u.heldEntry = none → u.heldSwap = none → run.landed < run.total →
    run.issue + 7 + run.path.getD 0 + path.added + run.total ≤ u.clock →
    g.readRange w (run.record.laddr + 64 * run.landed) (64 * (run.total - run.landed)) = (bs, none) →
    ∃ s', exec (.transferComplete t path) s = .next s' ∧
      (let v := s'.tile t
       v.silt = memWrite u.silt (run.addr + 64 * run.landed) bs ∧ v.xfer = none ∧ v.xferFree = u.clock + 1 ∧ v.x = u.x ∧
       v.phase = .running ∧ v.clock = u.clock + 1) ∧
      (∀ v, v ≠ t → s'.tile v = s.tile v) ∧ s'.mem = s.mem ∧ s'.job = s.job ∧ s'.host = s.host) ∧
  (∀ (s : State) (t : TileId) (ctx addr : Nat) (bytes : List Byte),
    let u := s.tile t
    let c := s.ctx ctx
    c.kind = 3 → (c.state = .ready ∨ c.state = .active) → bytes.length = 64 → siltIn addr 64 = true → u.phase ≠ .free →
    ∃ s', exec (.delivery t (.data ctx addr bytes)) s = .next s' ∧
      s'.tile t = (if u.clock ≤ s.fc then
          { u with landing := u.landing ++ [{ at_ := s.fc, addr := addr, bytes := bytes, own := none }] }
        else { u with silt := memWrite u.silt addr bytes }) ∧
      (∀ v, v ≠ t → s'.tile v = s.tile v) ∧ s'.mem.clay = s.mem.clay ∧ s'.mem.pages = s.mem.pages)

/-! ### Command packets (chapter 12) -/

/-- R372, R384, R385: the checks of a command in the order of Table 12.4, the first that fails being its answer: SEQUENCE with
the number expected, OPCODE, EXTENSION, SIGNATURE, RIGHTS, UNSEATED; a command that needs no role needs no key. -/
def Obligations.ChecksComeInTheirOrder : Prop :=
  ∀ (s : State) (c : Cmd),
    let a := c.ask
    let out := (s.accept c).2
    (a.seq ≠ (s.aux a.ring).nextSeq → out = .inl (1, (s.aux a.ring).nextSeq) ∧ (s.accept c).1 = s) ∧
    (a.seq = (s.aux a.ring).nextSeq →
      (opcodeNeed a.opcode = none → out = .inl (2, 0)) ∧
      ∀ need, opcodeNeed a.opcode = some need →
        (2 ^ (s.ring a.ring).log2d - 1 < a.next → out = .inl (3, 0)) ∧
        (a.next ≤ 2 ^ (s.ring a.ring).log2d - 1 →
          let roles := need.roles (c.p 16 1)
          (a.flags % 2 = 1 → s.verify c = none → out = .inl (4, 0)) ∧
          (a.flags % 2 = 0 → roles ≠ [] → s.claimOf a.ring = none → out = .inl (4, 0)) ∧
          (a.flags % 2 = 0 → roles = [] → a.flags < 8 → out = .inr { a with role := 0, keyId := 0, time := 0 }) ∧
          ∀ k, a.flags % 2 = 0 → roles ≠ [] → s.claimOf a.ring = some k →
            (k.1 ∉ roles → out = .inl (5, 0)) ∧
            (k.1 ∈ roles → s.unseated = true → seatFree a.opcode = false → out = .inl (6, 0)) ∧
            (k.1 ∈ roles → (s.unseated = false ∨ seatFree a.opcode = true) → a.flags < 8 →
              out = .inr { a with role := k.1, keyId := k.2, time := 0 } ∧ (s.accept c).1 = s)))

/-- R385, R386, R390: every command packet that a management core takes and whose checks fail is answered REFUSED with the
code of the first that fails; one that a CANCEL awaits is answered ABORTED with CANCELLED; one with a reserved byte of PARAM
or OBJECT that is not zero is answered REFUSED with PARAMETER. Nothing else happens. -/
def Obligations.PacketsAreRefusedByName : Prop :=
  ∀ (s : State) (i : Instr) (op ring core : Nat) (used : Cmd → List (Nat × Nat)) (object : Bool) (c : Cmd),
    packetRow i = some (op, ring, used, object) → s.front ring = some c → s.coreFor ring = some core →
    c.ask.opcode = op → s.startable ring = true →
    (∀ s' code r0, (s.served ring core).accept c = (s', .inl (code, r0)) →
      exec i s = .next (s'.answer c.ask 4 code [BitVec.ofNat 32 r0])) ∧
    ∀ s' a, (s.served ring core).accept c = (s', .inr a) →
      (((s'.aux ring).cancel.any fun k => k.1 == a.seq) = true → exec i s = .next (s'.answer a 3 0x40 [0, 0, 0, 0])) ∧
      (((s'.aux ring).cancel.any fun k => k.1 == a.seq) = false →
        ({ c with ask := a } : Cmd).clean (used { c with ask := a }) object = false →
        exec i s = .next (s'.answer a 4 7 [0]))

/-- R375, R377, R571: an answer that finds room is written at TAIL of the paired completion ring with the PHASE of its pass,
TAIL moves on by one, HEAD of the command ring passes the command and its packets, and the count advances by one unless the
answer is SEQUENCE.  Of the rest, only the host's interrupts and the counters may have changed. -/
def Obligations.AnswersArePosted : Prop :=
  ∀ (s : State) (a : Ask) (cls code : Nat) (results : List Word),
    let d := s.ring a.ring
    let q := d.pair
    let e := s.ring q
    let phase := b2n (((s.aux q).replies / 2 ^ e.log2d) % 2 == 0)
    d.kind = .command → e.kind = .completion → e.full = false → (s.aux q).held = [] → 1 + a.next ≤ d.used →
    mapWf 0 s.rs.storage = true → mapWf {} s.rs.aux = true →
    let s' := s.answerOnly a cls code results
    (s'.ring q).tail = (e.tail + 1) % 2 ^ 17 ∧ (s'.ring q).head = e.head ∧ (s'.ring a.ring).head = a.after ∧
    (s'.aux a.ring).nextSeq = (if cls = 4 ∧ code = 1 then (s.aux a.ring).nextSeq
      else ((s.aux a.ring).nextSeq + 1) % 2 ^ 32) ∧
    (s'.aux a.ring).current = none ∧
    (∀ b, memRead s'.rs.storage (e.entryAt e.tail) 32 = b →
      leNat (b.take 4) = a.seq % 2 ^ 32 ∧ leNat ((b.drop 4).take 2) = (cls * 2 ^ 12 + code) % 2 ^ 16 ∧
      leNat ((b.drop 6).take 1) = a.opcode % 2 ^ 8 ∧
      leNat ((b.drop 7).take 1) = phase + (if cls = 1 ∨ cls = 2 then 0 else 4) ∧
      b.drop 16 = (((results ++ [0, 0, 0, 0]).take 4).flatMap fun (w : Word) => leBytes 4 w.toNat)) ∧
    s' = { s with rs := s'.rs, host := s'.host, cnt := s'.cnt } ∧ s'.host.memory = s.host.memory

/-- R378, R379: a reply that finds its completion ring full, or replies before it that wait, is held behind them and changes
neither ring; while replies wait, no command of a ring paired with that ring may start. -/
def Obligations.FullRingsHoldReplies : Prop :=
  ∀ (s : State) (q : Nat) (h : HeldReply),
    (s.ring q).kind = .completion → ((s.ring q).full = true ∨ (s.aux q).held ≠ []) →
    let s' := s.postReply q h
    (s'.aux q).held = (s.aux q).held ++ [h] ∧ s'.rs.rings = s.rs.rings ∧ s'.rs.storage = s.rs.storage ∧
    (∀ r, (s'.ring r).pair = q → s'.startable r = false) ∧ s' = { s with rs := s'.rs }

/-- NOP, HOST_TIME, RING_ALLOC and RING_FREE (Table 12.6, R180, R381, R413, R520): the timestamp is kept and the sc count
answered; the lowest free ring number is allocated at the lowest place that fits, its storage reads zero and its command
count is 0; a freed ring is as no ring. FENCE, FENCE_TIMEOUT and CANCEL (R390, R394, R395): a fence whose condition holds is
answered DONE, one that would wait on its own ring through other fences is refused with FENCE_CYCLE, any other waits; a fence
whose limit passes is ABORTED with the first ring still unmet; a cancel of a command that is no long one in reach is refused
with STATE, and one of a posted long command waits for its end. -/
def Obligations.AdministrationCommands : Prop :=
  (∀ (s : State) (ring : Nat) (c : Cmd) (u : State),
    (s.runsFor (.nopCommand ring) = some (c, u) → exec (.nopCommand ring) s = .next (u.done c.ask [])) ∧
    (s.runsFor (.hostTime ring) = some (c, u) →
      exec (.hostTime ring) s =
        .next (({ u with host := { u.host with hostTime := c.p 16 8 } }).done c.ask (wordsOf 2 u.sc))) ∧
    (s.runsFor (.ringFree ring) = some (c, u) → c.p 16 4 ≤ 262143 →
      let v := { u with rs := { u.rs with served := u.rs.served.filter fun e => e.1 % 2 ^ 18 != c.p 16 4 } }
      exec (.ringFree ring) s = .next (if u.ringBusy (c.p 16 4) c.ask then u.refuse c.ask 9
        else ((v.setRing (c.p 16 4) {}).setAux (c.p 16 4) {}).done c.ask [])) ∧
    (s.runsFor (.ringAlloc ring) = some (c, u) → ∀ lg n base, c.p 16 1 = 2 → c.p 17 1 = lg → 6 ≤ lg → lg ≤ 16 →
      c.p 20 4 = 0 → c.p 24 1 = 0 → c.ask.flags % 2 = 0 →
      lowestFree u.rs.used 262144 0 = some n → n < 262144 → u.rs.place (2 ^ lg * 32) = some base →
      exec (.ringAlloc ring) s = .next
        ((({ u with rs := { u.rs with storage := mapClearRange base (2 ^ lg * 32) u.rs.storage } }).setRing n
          { kind := .completion, base := base / 64, die := 4, log2d := lg }).setAux n {}
          |>.done c.ask [BitVec.ofNat 32 n])) ∧
    (s.runsFor (.ringAlloc ring) = some (c, u) → (c.p 16 1 ≠ 1 ∧ c.p 16 1 ≠ 2 ∨ c.p 17 1 < 6 ∨ 16 < c.p 17 1) →
      exec (.ringAlloc ring) s = .next (u.refuse c.ask 7))) ∧
  (∀ (s : State) (ring : Nat) (c : Cmd) (u : State),
    (s.runsFor (.fence ring) = some (c, u) → c.p 16 1 = 0 → c.p 17 1 = 0 → c.p 18 1 ≤ 5 →
      (∀ p ∈ c.pairs, p.1 ≤ 262143) →
      let f : Fence := {
        all := false, final := false, limit := if c.p 20 4 = 0 then none else some (u.sc + 1024 * c.p 20 4)
        named := c.pairs, others := [] }
      exec (.fence ring) s = .next (
        if u.fenceUnmet f = [] then u.done c.ask []
        else if ring ∈ u.fenceReach u.rs.aux.length (u.fenceUnmet f) then u.refuse c.ask 12
        else u.setAux ring { u.aux ring with current := some c.ask, fence := some f })) ∧
    (∀ f a t, (s.aux ring).fence = some f → (s.aux ring).current = some a → f.limit = some t →
      exec (.fenceTimeout ring) s =
        .next ((s.toSc t).answer a 3 0x41 [BitVec.ofNat 32 ((s.fenceUnmet f).headD 0)])) ∧
    (s.runsFor (.cancel ring) = some (c, u) → c.p 16 4 ≤ 262143 → u.mem.migrations = [] →
      ((u.ring (c.p 16 4)).kind ≠ .command → exec (.cancel ring) s = .next (u.refuse c.ask 9)) ∧
      ∀ op, (u.ring (c.p 16 4)).kind = .command →
        u.postedOp (c.p 16 4) (c.p 20 4) (u.ring (c.p 16 4)).used (u.ring (c.p 16 4)).head = some op →
        longOpcode op = true →
        ∃ t : State, exec (.cancel ring) s = .next t ∧ (c.p 20 4, c.ask) ∈ (t.aux (c.p 16 4)).cancel ∧ t.mem = u.mem))

/-- The queries that write a record to a host buffer (Tables 5.2, 6.2, 6.3, 8.3, 14.6, 16.2, 16.7; R181, R183, R203, R307,
R526): the record's bytes land at the buffer and DONE follows; a buffer that is too short is refused with PARAMETER, and
nothing else changes. PAGE_QUERY and ABORT_READ answer in the result words, but a LOST page is refused with STATE (R145).
COUNTER_READ, OVERFLOW_READ and AUDIT_READ (R311, R524, R557): the counter record of 76,992 bytes once the events of the tiles
and ports up to now stand in it; overflow entries that are not speculative,
from the one named, as many as fit (notes/assumptions/24); audit entries from the one named on, as many as fit, which count
as read. -/
def Obligations.QueriesAnswerTheirRecords : Prop :=
  (∀ (s : State) (ring : Nat) (c : Cmd) (u : State),
    let writes (i : Instr) (bs : List Byte) : Prop :=
      s.runsFor i = some (c, u) →
        exec i s = .next (if c.bufLen < bs.length then u.refuse c.ask 7 else (u.hostWrite c.bufAddr bs).done c.ask [])
    writes (.identify ring) u.identityRecord ∧ writes (.lendQuery ring) u.lendRecord ∧
    writes (.powerQuery ring) u.powerRecord ∧ writes (.stepStatus ring) u.statusRecord ∧
    writes (.attest ring) (u.report ((c.packet.drop 16).take 32)) ∧
    (c.p 16 8 ≤ 262143 → writes (.ringQuery ring) (u.ring (c.p 16 8)).record) ∧
    (c.p 16 4 ≤ 1048575 → writes (.contextQuery ring) ((u.ctx (c.p 16 4)).record (c.p 16 4))) ∧
    (c.p 16 2 + c.p 18 2 ≤ 65536 → writes (.numericsRead ring)
      ((List.range (c.p 18 2)).flatMap fun k => leBytes 8 (u.record (c.p 16 2 + k)))) ∧
    (s.runsFor (.pageQuery ring) = some (c, u) → c.p 16 8 < 2 ^ 27 →
      let p := u.mem.page (c.p 16 8)
      exec (.pageQuery ring) s = .next (
        if p.valid = true ∧ p.state = .lost then u.refuse c.ask 9 else u.done c.ask (wordsOf 4 p.bits))) ∧
    (s.runsFor (.abortRead ring) = some (c, u) → c.object < 65536 →
      exec (.abortRead ring) s = .next (u.done c.ask (wordsOf 4 (AbortRecord.bits (u.task c.object).record)))) ∧
    (s.runsFor (.portQuery ring) = some (c, u) → c.p 16 1 < 16 →
      exec (.portQuery ring) s = .next (u.done c.ask (wordsOf 4 (u.portBits (c.p 16 1))))) ∧
    (u.trust.auditHead.length = 64 →
      u.identityRecord.length = 8064 ∧ (u.report ((c.packet.drop 16).take 32)).length = 5120) ∧
    u.powerRecord.length = 32 ∧ u.statusRecord.length = 32) ∧
  (∀ (s : State) (ring : Nat) (c : Cmd) (u : State),
    (s.runsFor (.counterRead ring) = some (c, u) →
      let v := u.countsNow
      v.counterRecord.length = 76992 ∧
      exec (.counterRead ring) s = .next (if c.bufLen < 76992 then v.refuse c.ask 7
        else (v.hostWrite c.bufAddr v.counterRecord).done c.ask [])) ∧
    (s.runsFor (.overflowRead ring) = some (c, u) →
      let es := ((u.num.overflow.filter fun e => !e.1.spec).drop (c.p 16 4)).take (c.bufLen / 16)
      16 * es.length ≤ c.bufLen ∧
      exec (.overflowRead ring) s = .next
        ((u.hostWrite c.bufAddr (es.flatMap fun e => ovfBytes e.1)).done c.ask [BitVec.ofNat 32 es.length])) ∧
    (s.runsFor (.auditRead ring) = some (c, u) →
      let start := max (c.p 16 8) u.trust.auditFirst
      let es := (u.trust.audit.drop (start - u.trust.auditFirst)).take (c.bufLen / 256)
      ∃ v : State, exec (.auditRead ring) s = .next (v.done c.ask (BitVec.ofNat 32 es.length :: wordsOf 2 start)) ∧
        v.host.memory = memWrite u.host.memory c.bufAddr es.flatten ∧
        v = { u with trust := v.trust, host := v.host } ∧ v.trust.audit = u.trust.audit ∧
        v.trust.unread = cutRanges start (start + es.length) u.trust.unread))

/-! ### Pages (chapter 05) -/

/-- PAGE_MAP with no job running (Table 5.3, R141, R166, R570): pages that are mapped already refuse it with STATE, a lack of
frames with RESOURCE; else every page named is mapped at home, its frames read zero, and no other page changes. PAGE_UNMAP,
PAGE_SEAL and PAGE_OPEN (Table 5.3, R145, R150): with no job running every page of the range changes, or none does and STATE
is answered; while a job runs the change is deferred to the commit of E. -/
def Obligations.PageCommands : Prop :=
  (∀ (s : State) (ring : Nat) (c : Cmd) (u : State),
    s.runsFor (.pageMap ring) = some (c, u) → c.pagesGood = true → c.p 32 3 < 2 ^ 20 → c.p 28 1 < 2 → u.job.image = none →
    let w := u.freeRetired
    ((∃ n ∈ c.pages, (u.mem.page n).valid = true) → exec (.pageMap ring) s = .next (w.refuse c.ask 9)) ∧
    ((∀ n ∈ c.pages, (u.mem.page n).valid = false) → w.mem.takeFrames (w.framesNeeded c) = none →
      exec (.pageMap ring) s = .next (w.refuse c.ask 10)) ∧
    ∀ fs, (∀ n ∈ c.pages, (u.mem.page n).valid = false) → w.mem.takeFrames (w.framesNeeded c) = some fs →
      ∃ v : State, exec (.pageMap ring) s = .next (v.done c.ask []) ∧
        (∀ n ∈ c.pages, (v.mem.page n).valid = true ∧ (v.mem.page n).state = .open_ ∧ (v.mem.page n).loc = .home ∧
          (v.mem.page n).banked = c.banked) ∧
        (∀ n, n ∉ c.pages → v.mem.page n = u.mem.page n) ∧
        (∀ f ∈ fs, ∀ a, f * 2 ^ 21 ≤ a → a < (f + 1) * 2 ^ 21 → mapGet 0 v.mem.clay a = 0) ∧
        v.tiles = u.tiles ∧ v.job = u.job) ∧
  (∀ (s : State) (ring : Nat) (c : Cmd) (u : State),
    let one (i : Instr) (op : Nat) (next : Page → Page) : Prop :=
      s.runsFor i = some (c, u) → c.pagesGood = true → (∀ n ∈ c.pages, (u.mem.page n).state ≠ .migrating) →
      (u.job.image.isSome = true → exec i s = .next (u.defer_ c 1 u.job.epoch)) ∧
      (u.job.image = none → (∃ n ∈ c.pages, (u.mem.page n).allows op = false) →
        exec i s = .next (u.refuse c.ask 9)) ∧
      (u.job.image = none → (∀ n ∈ c.pages, (u.mem.page n).allows op = true) → mapWf {} u.mem.pages = true →
        ∃ v : State, exec i s = .next (v.done c.ask []) ∧
          (∀ n, v.mem.page n = if n ∈ c.pages then next (u.mem.page n) else u.mem.page n) ∧
          v.mem.clay = u.mem.clay ∧ v.tiles = u.tiles ∧ v.job = u.job)
    one (.pageUnmap ring) 0x21 (fun _ => {}) ∧ one (.pageSeal ring) 0x22 (fun p => { p with state := .sealed }) ∧
    ((∀ n ∈ c.pages, (u.mem.page n).loc = .home) →
      one (.pageOpen ring) 0x23 (fun p => { p with state := .open_, copies := false })))

/-- R142, R143, R146, R151, R165: where a read or a write of a page lands. A banked page keeps the frame of E for reads, and
takes writes in the frame of E + 1; a sealed page takes no write; an access to a page that is not mapped, or lost, faults, and
so does a write to one whose lender does not answer. -/
def Obligations.BanksSeparateReadsFromWrites : Prop :=
  ∀ (m : MemState) (E n : Nat),
    let p := m.page n
    (p.valid = false → ∀ e, m.reachRead E e n = .fault 1 ∧ m.reachWrite E e n = .fault 1) ∧
    (p.valid = true → p.state = .lost → ∀ e, m.reachRead E e n = .fault 6 ∧ m.reachWrite E e n = .fault 6) ∧
    (p.valid = true → p.state ≠ .lost → m.noAnswer p = true → ∀ e, m.reachWrite E e n = .fault 5) ∧
    (p.valid = true → p.state = .sealed → m.noAnswer p = false → ∀ e, m.reachWrite E e n = .fault 2) ∧
    (p.valid = true → p.state = .open_ → p.loc = .home → p.banked = false → ∀ e,
      m.reachRead E e n = .frame p.frame0 ∧ m.reachWrite E e n = .frame p.frame0) ∧
    (p.valid = true → p.state = .open_ → p.loc = .home → p.banked = true →
      m.reachRead E E n = .frame (if E % 2 = 1 then p.frame1 else p.frame0) ∧
      m.reachWrite E E n = .frame (if E % 2 = 1 then p.frame0 else p.frame1) ∧
      ∀ e, e ≠ E → m.reachRead E e n = .fault 3 ∧ m.reachWrite E e n = .fault 2)

/-- MAP_CLEAR_COMPLETE, PAGE_MIGRATE and MIGRATION_SWITCH (R145, R154 to R158, R570): once the fallow slots have sufficed, the
frames of a map that waited read zero and the map is deferred to the commit of E; a page that may not migrate refuses the
command with STATE; the first page of one that may is MIGRATING, and the command is DEFERRED while a job runs and goes on in
slices otherwise; a page whose copy has arrived switches to its new frame, SEALED, with the bytes that came, and one whose copy
failed stays SEALED where it was. -/
def Obligations.MapsAndMigrationsComplete : Prop :=
  ∀ (s : State) (ring : Nat),
    (∀ k, s.mem.clearing = [k] → k.ask.ring = ring → s.job.image.isSome = true →
      allSlots (frameBursts * k.frames.length) k.slots = false → exec (.mapClearComplete ring) s = .next s) ∧
    (∀ k, s.mem.clearing = [k] → k.ask.ring = ring → s.job.image.isSome = true →
      allSlots (frameBursts * k.frames.length) k.slots = true →
      ∃ v : State, exec (.mapClearComplete ring) s = .next (v.defer_ (k.cmd s) 1 s.job.epoch) ∧ v.mem.clearing = [] ∧
        v.mem.cleared = s.mem.cleared ++ [(k.first, k.frames)] ∧
        (∀ f ∈ k.frames, ∀ a, f * 2 ^ 21 ≤ a → a < (f + 1) * 2 ^ 21 → mapGet 0 v.mem.clay a = 0) ∧
        v.mem.pages = s.mem.pages ∧ v = { s with mem := v.mem, cnt := v.cnt }) ∧
    (∀ c u, s.runsFor (.pageMigrate ring) = some (c, u) → c.pagesGood = true → c.p 28 1 = 0 → c.p 32 3 < 2 ^ 20 →
      ((∃ n ∈ c.pages, (u.mem.page n).migrates false = false) → exec (.pageMigrate ring) s = .next (u.refuse c.ask 9)) ∧
      (c.count = 0 → exec (.pageMigrate ring) s = .next (u.done c.ask []))) ∧
    (∀ c u home, s.runsFor (.pageMigrate ring) = some (c, u) → c.pagesGood = true → c.p 28 1 = b2n home →
      c.p 32 3 < 2 ^ 20 → c.count ≠ 0 → (∀ n ∈ c.pages, (u.mem.page n).migrates home = true) →
      let r := if home = true then (0, u) else u.lenderAnswer false
      let w := r.2.freeRetired
      (r.1 = 1 → exec (.pageMigrate ring) s = .next (r.2.refuse c.ask 10)) ∧
      ∀ fs ctx, r.1 ≠ 1 → w.mem.takeFrames (b2n home) = some fs → w.freeCtx = some ctx →
        ∃ v : State, (v.mem.page c.first).state = .migrating ∧ v.mem.clay = u.mem.clay ∧
          (∃ m ∈ v.mem.migrations, m.page = c.first ∧ m.home = home ∧ m.ctx = ctx ∧ m.left = c.count - 1 ∧
            m.ask = some c.ask) ∧
          exec (.pageMigrate ring) s = .next (
            if u.job.image.isSome = true then v.answer c.ask 1 0 (5 :: wordsOf 2 c.first)
            else v.setAux c.ask.ring { v.aux c.ask.ring with current := some c.ask, work := some .migrate, slices := 1 })) ∧
    (∀ m, s.mem.migrations = [m] → s.job.deferred = [] → m.left = 0 → m.copy = false →
      let p := s.mem.page m.page
      ((m.free = true ∨ allSlots frameBursts m.slots = true) →
        (m.home = false → ∃ v : State, exec (.migrationSwitch m.page true) s = .next (v.migrateAnswer m 0 0 []) ∧
          v.mem.page m.page = { p with loc := .moved, frame0 := 0, peer := m.lender, lpage := m.lpage, state := .sealed } ∧
          v.mem.migrations = [] ∧ v.mem.clay = s.mem.clay ∧
          v.mem.retiring = s.mem.retiring ++ (s.readersOf m.page).map fun x => (m.page, p.frame0, x)) ∧
        ∀ bs, m.home = true → s.fab.replyBytes m.ctx (m.page * 2 ^ 21) (2 ^ 21) = some bs →
          ∃ v : State, exec (.migrationSwitch m.page true) s = .next (v.migrateAnswer m 0 0 []) ∧
            v.mem.page m.page = { p with loc := .home, frame0 := m.frame, peer := 0, lpage := 0, state := .sealed } ∧
            v.mem.migrations = [] ∧
            v.mem.clay = memWrite (mapClearRange (m.frame * 2 ^ 21) (2 ^ 21) s.mem.clay) (m.frame * 2 ^ 21) bs) ∧
      (m.free = false → allSlots frameBursts m.slots = false → exec (.migrationSwitch m.page true) s = .next s) ∧
      ∃ v w : State, exec (.migrationSwitch m.page false) s = .next w ∧
        v.mem.page m.page = { p with state := .sealed } ∧ v.mem.migrations = [] ∧ v.mem.clay = s.mem.clay ∧
        w = (v.migrateAnswer m 5 2 (wordsOf 2 m.page)).unmapsDue)

/-- LEND_SET, LENDER_DECLARED_LOST and LENDER_UNREACHABLE (R160, R164, R165, R497): what is lent takes the values of the
command; every page REMOTE or MOVED on a lost lender becomes LOST and no other page changes; a lender that does not answer is
silent from then on, and the stream that waited for it fails. -/
def Obligations.LendingCommands : Prop :=
  ∀ (s : State),
    (∀ ring c u, s.runsFor (.lendSet ring) = some (c, u) → c.p 16 4 ≤ 784384 → c.p 20 1 ≤ 32 → c.p 21 1 = 1 →
      c.ext.length = 128 → c.x 0 4 < 2 ^ 20 → ((c.ext.drop 4).take 60).all (· == 0) = true →
      (∀ k, k < 16 → c.x (64 + 4 * k) 4 < 2 ^ 31) →
      ((∃ k, k < 16 ∧ c.x (64 + 4 * k) 4 ≠ 0 ∧ u.portAbsent k = true) → exec (.lendSet ring) s = .next (u.refuse c.ask 8)) ∧
      ((∀ k, k < 16 → c.x (64 + 4 * k) 4 ≠ 0 → u.portAbsent k = false) → (∀ e ∈ u.mem.pages, e.2.loc ≠ .lent) →
      ∃ v : State, exec (.lendSet ring) s = .next (v.done c.ask []) ∧ v.mem = { u.mem with
        lendFrames := c.p 16 4, lendTilth := c.p 20 1, borrowers := [c.x 0 4]
        lendSlots := (List.range 16).map fun k => BitVec.ofNat 32 (c.x (64 + 4 * k) 4) } ∧
        v.tiles = u.tiles ∧ v.job = u.job)) ∧
    (∀ lender, mapWf {} s.mem.pages = true → ∃ t : State, exec (.lenderDeclaredLost lender) s = .next t ∧
      lender ∈ t.mem.lostLenders ∧ lender ∉ t.mem.silent ∧ ∀ n, t.mem.page n =
        (let p := s.mem.page n
         if p.valid = true ∧ (p.loc = .remote ∨ p.loc = .moved) ∧ p.peer = lender then { p with state := .lost } else p)) ∧
    ∀ lender ctx n, (s.mem.page n).valid = true → (s.mem.page n).loc = .remote → (s.mem.page n).peer = lender →
      s.tileOfCtx ctx = none → (s.ctx ctx).state = .active →
      ∃ t : State, exec (.lenderUnreachable lender ctx) s = .next t ∧ lender ∈ t.mem.silent ∧
        (t.ctx ctx).state = .aborted ∧ (t.ctx ctx).fault = 5

/-! ### Tasks and streams (chapter 06) -/

/-- TASK_ASSIGN (R90): a tile that is not busy starts at the task's start instruction, with the registers of the image, in
this fc; its silt stays, and the task counts it as started. TASK_END and TASK_ABORT_REPLY (R204, R205, R578): a task all of
whose parts have ended is ENDED, and the TASK_RUN that started it is answered DONE, after the commit when it depends on
speculative data (R263); a task that aborts is ABORTED once nothing of it runs, and its TASK_RUN is answered ABORTED with the
128 bits of the record. TASK_ABORT and PEER_ABORT (R201 to R203): a task that runs and meets a cause of a stream or unit is
aborting, its record is that of the cause; the notice then stops its tiles and streams here. -/
def Obligations.TasksStartEndAndAbort : Prop :=
  (∀ (s : State) (t : TileId) (n : Nat) (d : TaskDecl) (x : TaskTile),
    let u := s.tile t
    let k := s.task n
    s.taskDecl n = some d → (d.tiles.find? fun y => y.tile = t) = some x → k.phase = .running → u.busy = false →
    t.key ∉ k.assigned → u.clock = s.fc →
    (k.step = true → k.spec = false → d.rescale = false → ∀ l ∈ d.layers, l ∉ s.job.rescale) →
    ∃ s', exec (.taskAssign t n) s = .next s' ∧
      (let v := s'.tile t
       v.phase = .running ∧ v.pc = x.start ∧ v.task = n ∧ v.spec = k.spec ∧ v.origin = s.fc ∧ v.nextDispatch = s.fc ∧
       v.silt = u.silt ∧ v.store = u.store ∧ v.mflags = 0 ∧ v.vflags = 0 ∧ v.passQ = [] ∧ v.vecQ = [] ∧ v.acc0 = [] ∧
       v.acc1 = [] ∧
       v.x = x.regs.foldl (fun r p => r.setIfInBounds p.1 p.2) (Vector.replicate 16 0)) ∧
      (∀ v, v ≠ t → s'.tile v = s.tile v) ∧ (s'.task n).assigned = setInsert k.assigned t.key ∧
      s' = { s with tiles := s'.tiles, rs := s'.rs }) ∧
  (∀ (s : State) (n : Nat),
    let k := s.task n
    (∀ d, s.taskDecl n = some d → d.task = n → s.taskDone d = true →
      ∃ v : State, v = s.setTask n { k with phase := .ended, ask := none } ∧ (v.task n).phase = .ended ∧
        (∀ m, m ≠ n → v.task m = s.task m) ∧
        (k.ask = none → exec (.taskEnd n) s = .next v) ∧
        ∀ a, k.ask = some a →
          let w := { v with pow := { v.pow with taskEnd := s.sc + 1 } }
          exec (.taskEnd n) s = .next (
            if k.tainted = true ∧ s.job.run.isSome = true then
              { w with job := { w.job with heldReplies := w.job.heldReplies ++ [(a, 0, 0, [])] } }
            else w.done a [])) ∧
    (k.phase = .aborting → s.tilesOf n = [] → (∀ c ∈ s.ctxsOf n, (s.ctx c).state = .aborted) →
      ∃ v : State, v = (s.emptyRings n).setTask n { k with phase := .aborted, ask := none } ∧ (v.task n).phase = .aborted ∧
        (k.ask = none → exec (.taskAbortReply n) s = .next v) ∧
        ∀ a, k.ask = some a → (k.tainted = false ∨ s.job.run = none) →
          exec (.taskAbortReply n) s =
            .next (({ v with pow := { v.pow with taskEnd := s.sc + 1 } }).answer a 3 1
              (wordsOf 4 (AbortRecord.bits k.record))))) ∧
  ((∀ (s : State) (n : Nat) (r : AbortRecord), (s.task n).phase = .running → tileId? r.die r.tile = none → r.cause ≠ 0x0B →
    ∃ s', exec (.taskAbort n r) s = .next s' ∧ (s'.task n).phase = .aborting ∧
      (s'.task n).record = { r with pkg := s.fab.coord } ∧ (∀ m, m ≠ n → s'.task m = s.task m) ∧ s'.tiles = s.tiles ∧
      s'.mem = s.mem) ∧
  (∀ (s : State) (t : TileId), (s.tile t).busy = true → (s.task (s.tile t).task).phase = .aborting →
    (s.tile t).clock = s.fc →
    let g := s.tileBegin t
    let u := g.tile t
    u.xfer = none → u.stop = none → u.landing = [] → u.atNone = false →
    ∃ s', exec (.peerAbort (.tile t)) s = .next s' ∧ (s'.tile t).phase = .aborted 0x0C ∧ (s'.tile t).x = (s.tile t).x ∧
      (∀ v, v ≠ t → s'.tile v = g.tile v) ∧ s'.mem = g.mem ∧ s'.job = g.job ∧ s'.host = g.host) ∧
  ∀ (s : State) (n : Nat), ((s.ctx n).state = .ready ∨ (s.ctx n).state = .active) →
    (s.task (s.ctx n).task).phase = .aborting →
    ∃ s', exec (.peerAbort (.stream n)) s = .next s' ∧ s'.ctx n = { s.ctx n with state := .aborted } ∧
      (∀ m, m ≠ n → s'.ctx m = s.ctx m) ∧ s'.tiles = s.tiles)

/-- STREAM_COMPLETE and STREAM_LATE (R185, R221, R576): a stream that no tile runs and that posts no handle is READY again,
but ABORTED with LINK_RETRY_EXCEEDED where one crossing took more retries than the image's margin; one that has been ACTIVE
for LIMIT fc is ABORTED with FAULT 0x10. -/
def Obligations.StreamsCompleteOrAreLate : Prop :=
  ∀ (s : State) (n : Nat),
    let c := s.ctx n
    c.state = .active →
    (∀ path : PathIn, c.kind ≠ 0 → c.kind ≠ 2 → c.kind ≠ 6 →
      (c.ring = 0 → path.beyond s.margins = false →
        ∃ s', exec (.streamComplete ⟨n, path⟩) s = .next s' ∧ s'.ctx n = { c with state := .ready, activity := 0 } ∧
          (∀ m, m ≠ n → s'.ctx m = s.ctx m) ∧ s' = { s with rs := s'.rs, cnt := s'.cnt }) ∧
      (path.beyond s.margins = true → s.tileOfCtx n = none →
        ∃ s', exec (.streamComplete ⟨n, path⟩) s = .next s' ∧ s'.ctx n = { c with state := .aborted, fault := 0x11 } ∧
          ((s.task c.task).phase = .running →
            (s'.task c.task).phase = .aborting ∧ (s'.task c.task).record.code = 0x11))) ∧
    (c.limit ≠ 0 → s.tileOfCtx n = none →
      ∃ s', exec (.streamLate n) s = .next s' ∧ (s'.ctx n).state = .aborted ∧ (s'.ctx n).fault = 0x10 ∧
        s'.fc = max s.fc (c.since + c.limit) ∧
        ((s.task c.task).phase = .running → (s'.task c.task).phase = .aborting ∧ (s'.task c.task).record.code = 0x10))

/-- STAGE_ENTRY_START and SPECULATIVE_START (R200, R258 to R260): the next entry of a die's order list starts its task for the
attempt that runs; a task that may start for E + 1 starts with the epoch E + 1 and the speculative mark. -/
def Obligations.WorkStartsInItsEpoch : Prop :=
  (∀ (s : State) (die : Nat) (d : TaskDecl), s.stageTask die (mapGet 0 s.job.order die) = some d →
    s.job.st.phase = .running → (s.task d.task).phase ≠ .running → (s.task d.task).phase ≠ .aborting →
    ∃ s', exec (.stageEntryStart die) s = .next s' ∧ mapGet 0 s'.job.order die = mapGet 0 s.job.order die + 1 ∧
      (let k := s'.task d.task
       k.phase = .running ∧ k.step = true ∧ k.spec = false ∧ k.epoch = s.job.epoch ∧ k.attempt = s.job.st.attempt ∧
       k.assigned = [] ∧ k.ended = [])) ∧
  ∀ (s : State) (n : Nat) (d : TaskDecl), s.variantOf n = some d → s.specOpen d = true → s.staged d = false →
    (s.task d.task).phase = .ended → (s.task d.task).step = true → (s.task d.task).epoch = s.job.epoch →
    (s.task d.task).attempt = s.job.st.attempt →
    ∃ s', exec (.speculativeStart n) s = .next s' ∧ s'.job.st.specRun = true ∧
      (let k := s'.task d.task
       k.phase = .running ∧ k.step = true ∧ k.spec = true ∧ k.epoch = s.job.epoch + 1)

/-! ### Jobs and steps (chapters 06 and 08) -/

/-- IMAGE_LOAD, JOB_END and TASK_RUN (Table 12.8, R204, R371, R393): each is refused with STATE where no job, or another one,
runs; a load goes on in slices; with nothing left to settle the end of a job leaves no job, no task and no record; a task that
belongs to no step starts and its command waits for its end. -/
def Obligations.JobCommands : Prop :=
  ∀ (s : State) (ring : Nat) (c : Cmd) (u : State),
    (∀ image, s.runsFor (.imageLoad ring image) = some (c, u) → c.p 16 1 < 2 →
      exec (.imageLoad ring image) s = .next (
        if u.job.image.isSome = (c.p 16 1 == 1) then
          u.setAux ring { u.aux ring with
            current := some c.ask, work := some (.load image (sha3 (Config.signedSections (u.hostRead c.bufAddr c.bufLen)))), slices := 1 }
        else u.refuse c.ask 9)) ∧
    (s.runsFor (.jobEnd ring) = some (c, u) → c.object < 2 ^ 32 →
      ((u.job.image = none ∨ u.job.run.isSome = true ∨ c.object ≠ u.jobId) →
        exec (.jobEnd ring) s = .next (u.refuse c.ask 9)) ∧
      (u.job.image.isSome = true → u.job.run = none → c.object = u.jobId → u.job.deferred = [] → u.job.reshard = none →
        (∀ e ∈ u.rs.tasks, e.2.phase ≠ .running ∧ e.2.phase ≠ .aborting) →
        ∃ v : State, exec (.jobEnd ring) s = .next (v.done c.ask []) ∧ v.job = JobState.none ∧ v.num = .none ∧
          v.rs.tasks = [] ∧ v.tilth.programs = u.tilth.programs)) ∧
    (s.runsFor (.taskRun ring) = some (c, u) → c.object < 2 ^ 16 →
      (u.taskDecl c.object = none → exec (.taskRun ring) s = .next (u.refuse c.ask 9)) ∧
      ∀ d, u.taskDecl c.object = some d → d.task = c.object →
        ((d.step = true ∨ (u.task c.object).phase = .running) → exec (.taskRun ring) s = .next (u.refuse c.ask 9)) ∧
        (d.step = false → (u.task c.object).phase = .idle →
          ∃ v : State, exec (.taskRun ring) s = .next v ∧ (v.task c.object).phase = .running ∧
            (v.task c.object).ask = some c.ask ∧ (v.aux c.ask.ring).current = some c.ask ∧ v.mem = u.mem))

/-- STEP_RUN, STEP_COMMIT and STEP_ABORT (R251, R254, R255, R257): refused with STATE unless their conditions hold; an accepted
STEP_RUN starts attempt 0 of epoch E in the mode, depth and limit of the command, with no NaN counted; an accepted STEP_ABORT
asks the leader. -/
def Obligations.StepCommands : Prop :=
  ∀ (s : State) (ring : Nat) (c : Cmd) (u : State),
    (∀ agree, s.runsFor (.stepRun ring agree) = some (c, u) →
      c.object < 2 ^ 32 → c.p 24 1 ≤ 1 → c.p 25 1 ≤ 1 → c.p 26 1 ≤ 15 →
      ((u.job.image = none ∨ c.object ≠ u.jobId ∨ u.job.run.isSome = true ∨ agree = false ∨
        u.units.paused = true) →
        exec (.stepRun ring agree) s = .next (u.refuse c.ask 9)) ∧
      (u.job.image.isSome = true → c.object = u.jobId → u.job.run = none → agree = true → u.units.paused = false →
        u.job.deferred = [] →
        ∃ v : State, exec (.stepRun ring agree) s = .next v ∧
          v.job.run = some { ask := c.ask, left := if c.p 16 8 = 0 then none else some (c.p 16 8) } ∧
          v.job.st.phase = .running ∧ v.job.st.attempt = 0 ∧ v.job.st.nans = 0 ∧ v.job.st.mode = (c.p 24 1 == 1) ∧
          v.job.st.depth = c.p 25 1 ∧ v.job.st.limit = c.p 26 1 ∧ v.job.epoch = u.job.epoch ∧
          (v.aux c.ask.ring).current = some c.ask)) ∧
    (s.runsFor (.stepCommit ring) = some (c, u) →
      ((u.job.run = none ∨ u.job.st.mode = false ∨ u.isLeader = false ∨ c.p 16 6 ≠ u.job.epoch) →
        exec (.stepCommit ring) s = .next (u.refuse c.ask 9)) ∧
      (u.job.run.isSome = true → u.job.st.mode = true → u.isLeader = true → c.p 16 6 = u.job.epoch →
        ∃ v : State, v = u.answer c.ask 1 0 (1 :: wordsOf 2 u.job.epoch) ∧
          exec (.stepCommit ring) s =
            .next (({ v with job := { v.job with
              hostCommit := v.job.hostCommit ++ [(c.ask, v.job.epoch)] } }).tryCommit))) ∧
    (s.runsFor (.stepAbort ring) = some (c, u) →
      (u.job.run = none → exec (.stepAbort ring) s = .next (u.refuse c.ask 9)) ∧
      (u.job.run.isSome = true → u.isLeader = true → u.job.st.phase = .committing →
        exec (.stepAbort ring) s = .next (u.refuse c.ask 9)) ∧
      (u.job.run.isSome = true → u.job.st.phase = .running → u.leader = u.fab.coord →
        ∃ v : State, exec (.stepAbort ring) s = .next v ∧ v.job.hostAbort = u.job.hostAbort ++ [c.ask] ∧
          v.fab.noticesIn = u.fab.noticesIn ++ [{
            code := 2, cause := 7, epoch := u.job.epoch, attempt := u.job.st.attempt, src := u.fab.coord
            dst := u.fab.coord, job := u.jobId }] ∧ v.mem = u.mem))

/-- STEP_READY (R246, R247): once every condition of Table 8.2 holds, the package's phase is ready and its STEP_READY is the
first notice that reaches the leader from it; no page, tile or ring changes. The leader (R248, R250, R254, R328, R450, R462):
each notice of a package is noted with its sender, and what it completes follows: a commit, the acknowledged commit, a
replay, a hold, or STEP_SETTLED. -/
def Obligations.TheLeaderNotesItsNotices : Prop :=
  (∀ s : State, s.readyToCommit = true → s.leader = s.fab.coord →
    ∃ s' rest, exec .stepReady s = .next s' ∧ s'.job.st.phase = .ready ∧
      s'.fab.noticesIn = s.fab.noticesIn ++ {
        code := 1, epoch := s.job.epoch, attempt := s.job.st.attempt, src := s.fab.coord
        dst := s.fab.coord, job := s.jobId } :: rest ∧
      s'.mem = s.mem ∧ s'.tiles = s.tiles ∧ s'.rs = s.rs) ∧
  (∀ (s : State) (src : Nat) (n : Notice) (bs : List Byte) (u : State),
    let j := u.job
    (s.heard 1 src = some (n, bs, u) → exec (.stepReadyNotice src) s =
      .next (({ u with job := { j with readySet := setInsert j.readySet n.src } }).tryCommit)) ∧
    (s.heard 7 src = some (n, bs, u) → exec (.commitAckNotice src) s =
      .next (({ u with job := { j with ackSet := setInsert j.ackSet n.src } }).tryAcked)) ∧
    (s.heard 4 src = some (n, bs, u) → exec (.stoppedNotice src) s =
      .next (let x := setsOf bs
        ({ u with job := { j with
          stoppedSet := setInsert j.stoppedSet n.src, raiseOvf := x.1.foldl setInsert j.raiseOvf
          raiseSieve := x.2.1.foldl setInsert j.raiseSieve
          rescaleNext := x.2.2.foldl setInsert j.rescaleNext
          unitStop := j.unitStop || n.cause == 1 } }).tryReplay)) ∧
    (s.heard 0x0D src = some (n, bs, u) → exec (.permuteDoneNotice src) s =
      .next (({ u with job := { j with permuteSet := setInsert j.permuteSet n.src } }).tryPermuted)) ∧
    (s.heard 0x0E src = some (n, bs, u) → exec (.powerHoldNotice src) s =
      .next (let v : State := { u with job := { j with holds := j.holds ++ [(n.src, n.arg)] } }
        if j.holds = [] then v.sendHold 2 else v)) ∧
    (s.heard 0x0F src = some (n, bs, u) → exec (.boundaryWorkNotice src) s =
      .next (if n.arg = 1 then
          ({ u with job := { j with boundaryWork := u.packages.foldl setInsert j.boundaryWork } }).sendHold 4
        else ({ u with job := { j with boundaryWork := setInsert j.boundaryWork n.src } }).sendHold 3)) ∧
    (s.heard 0x10 src = some (n, bs, u) → exec (.boundaryDoneNotice src) s =
      .next (({ u with job := { j with
        boundaryDone := setInsert j.boundaryDone n.src, unitStop := j.unitStop || n.arg == 1 } }).trySettle)) ∧
    (s.heard 2 src = some (n, bs, u) → u.isLeader = true → n.epoch = j.epoch → j.st.phase = .running →
      j.abortSent = false → exec (.stepAbortNotice src) s =
        .next (({ u with job := { j with abortSent := true, hostStop := n.cause == 7 } }).toAll
          { code := 3, cause := n.cause, epoch := j.epoch, attempt := j.st.attempt })) ∧
    (u.isLeader = true → j.st.phase = .ready → j.abortSent = false → j.st.mode = false → u.everyone j.readySet = true →
      ∃ v : State, u.tryCommit = v ∧ v.job.st.phase = .committing ∧ v.job.epoch = j.epoch ∧ v.job.commitSent = u.sc ∧
        v.mem = u.mem))

/-- COMMIT (R148, R248): on the last epoch of a run with no work of E + 1 to keep, the package's epoch becomes E + 1, every
banked page of its own that is not lost is open, no page changes its frames, and the memory stands; a COMMIT of another epoch
changes nothing. The packages (R202, R250, R254, R255, R366, R462): the abort notice makes the attempt aborting with its
cause, in the same epoch; STEP_REPLAY starts the next attempt; STEP_SETTLED after the last commit answers STEP_RUN and leaves
no run; SPEC_HOLD holds the work of E + 1; TASK_ABORT aborts the task here. -/
def Obligations.CommitsAbortsAndReplays : Prop :=
  (∀ (s : State) (src : Nat) (n : Notice) (bs : List Byte) (u : State), s.heard 6 src = some (n, bs, u) →
    (n.epoch ≠ u.job.epoch → exec (.commitNotice src) s = .next u) ∧
    ∀ r, n.epoch = u.job.epoch → u.job.specHold = false → u.job.deferred = [] → u.job.hostAbort = [] →
      u.job.run = some r → r.left = some 1 → u.tilth.directory = [] → u.job.reshard = none →
      mapWf {} u.mem.pages = true →
      ∃ s', exec (.commitNotice src) s = .next s' ∧ s'.job.epoch = u.job.epoch + 1 ∧ s'.job.st.phase = .committing ∧
        s'.job.st.attempt = 0 ∧ (s'.job.run.map fun x => x.left) = some (some 0) ∧ s'.mem.clay = u.mem.clay ∧
        ∀ p, (s'.mem.page p).frame0 = (u.mem.page p).frame0 ∧ (s'.mem.page p).frame1 = (u.mem.page p).frame1 ∧
          ((u.mem.page p).valid = true → (u.mem.page p).banked = true → (u.mem.page p).state ≠ .lost →
            (u.mem.page p).loc ≠ .lent → (s'.mem.page p).state = .open_) ∧
          (((u.mem.page p).banked = false ∨ (u.mem.page p).loc = .lent) →
            (s'.mem.page p).state = (u.mem.page p).state)) ∧
  (∀ (s : State) (src : Nat) (n : Notice) (bs : List Byte) (u : State),
    (s.heard 3 src = some (n, bs, u) → (u.job.st.phase = .running ∨ u.job.st.phase = .ready) → n.epoch = u.job.epoch →
      n.arg = 0 →
      u.isLeader = true → u.job.toRepair = [] → (∀ e ∈ u.rs.tasks, e.2.phase ≠ .running ∧ e.2.phase ≠ .aborting) →
      ∃ s', exec (.abortNotice src) s = .next s' ∧ s'.job.st.phase = .aborting ∧ s'.job.st.lastCause = n.cause ∧
        s'.job.epoch = u.job.epoch ∧ s'.mem.clay = u.mem.clay) ∧
    (s.heard 5 src = some (n, bs, u) → u.job.st.phase = .aborting → n.attempt = u.job.st.attempt + 1 →
      ∃ s', exec (.stepReplayNotice src) s = .next s' ∧ s'.job.st.phase = .running ∧
        s'.job.st.attempt = u.job.st.attempt + 1 ∧ s'.job.epoch = u.job.epoch) ∧
    (s.heard 5 src = some (n, bs, u) → u.job.st.phase ≠ .aborting → exec (.stepReplayNotice src) s = .next u) ∧
    (∀ r, s.heard 8 src = some (n, bs, u) → u.pow.hold = false → u.job.resharding = false → u.job.commitOwed = false →
      u.job.run = some r → r.left = some 0 →
      ∃ v : State, exec (.stepSettledNotice src) s = .next (v.done r.ask []) ∧ v.job.run = none ∧
        v.job.st.phase = .idle ∧ v.job.settled = n.epoch + 1 ∧ v.job.epoch = u.job.epoch ∧ v.mem = u.mem) ∧
    (s.heard 0x0C src = some (n, bs, u) → n.arg = 2 →
      ∃ s', exec (.specHoldNotice src) s = .next s' ∧ s'.job.specHold = u.job.run.isSome ∧ s'.job.powerHold = true ∧
        s'.mem = u.mem ∧ s'.tiles = u.tiles) ∧
    (s.heard 9 src = some (n, bs, u) → (u.task n.task).phase = .running →
      ∃ s', exec (.taskAbortNotice src) s = .next s' ∧ (s'.task n.task).phase = .aborting ∧
        (s'.task n.task).record.cause = 0x0C ∧ (s'.task n.task).record.pkg = n.src ∧ s'.mem = u.mem))

/-! ### Settings (chapters 09, 10 and 18) -/

/-- TILTH_PROGRAM, TILTH_LAYER, TILTH_SWEEP, LAYER_NUMERICS, SIEVE_SET and COUNTER_SELECT (R276, R280, R282, R291, R307,
R329, R391, R562): values out of range are refused with PARAMETER, times that are past with STATE; a legal program fills its
slot and no other; layer and numerics settings and a selection while a step runs wait, DEFERRED, for their epoch; the limit of
numeric replays and a selection with no step take effect at once; TILTH_SWEEP stays in progress with its layer released. -/
def Obligations.SettingsWaitForTheirPoint : Prop :=
  ∀ (s : State) (ring : Nat) (c : Cmd) (u : State),
    (let slot := c.p 16 1
     let n := c.p 17 1
     let prog : TilthProgram :=
       { header := BitVec.ofNat 64 (c.x 0 8), words := (List.range (n - 2)).map fun i => BitVec.ofNat 32 (c.x (8 + 4 * i) 4) }
     s.runsFor (.tilthProgram ring) = some (c, u) →
       ((slot < 3 ∨ 15 < slot ∨ n < 4 ∨ 34 < n ∨ prog.legal = false) →
         exec (.tilthProgram ring) s = .next (u.refuse c.ask 7)) ∧
       (3 ≤ slot → slot ≤ 15 → 4 ≤ n → n ≤ 34 → 4 * n ≤ c.ext.length → c.ext.length ≤ 192 →
         (c.ext.drop (4 * n)).all (· == 0) = true → prog.legal = true →
         (prog.bsize ≠ 64 ∨ prog.precond = false ∨ bitOf u.features 0 = true) →
         let used := u.tilth.layers.any fun l => (u.setting l.1 u.job.epoch).slot == slot
         (u.job.image.isSome = true → used = true → exec (.tilthProgram ring) s = .next (u.refuse c.ask 9)) ∧
         ((u.job.image = none ∨ used = false) →
           ∃ v : State, exec (.tilthProgram ring) s = .next (v.done c.ask []) ∧ v.program slot = prog ∧
             (∀ k, k ≠ slot → v.program k = u.program k) ∧ v.tilth.layers = u.tilth.layers ∧ v.mem = u.mem ∧
             v.job = u.job ∧ v.tiles = u.tiles))) ∧
    (s.runsFor (.tilthLayer ring) = some (c, u) → c.p 18 1 ≤ 15 → c.ext.length = 64 →
      (c.ext.drop 48).all (· == 0) = true → fractionCode (c.x 0 4) = true → fractionCode (c.x 8 4) = true →
      exec (.tilthLayer ring) s = .next (
        if u.job.image = none ∨ c.p 24 6 < u.job.epoch + 1 ∨ mapGet [] u.tilth.layers (c.p 16 2) = [] ∨
            u.slotFilled (c.p 18 1) = false then u.refuse c.ask 9
        else u.defer_ c 3 (c.p 24 6))) ∧
    (let sel := c.p 18 1
     let l := c.p 16 2
     s.runsFor (.layerNumerics ring) = some (c, u) → sel < 32 → (bitOf sel 0 = true → 1 ≤ c.p 20 2) →
       (bitOf sel 2 = true → c.p 23 1 = 0 ∨ (6 ≤ c.p 23 1 ∧ c.p 23 1 ≤ 12)) → (bitOf sel 3 = true → c.p 24 1 ≤ 6) →
       (bitOf sel 4 = true → c.p 25 1 ≤ 1) →
       ((u.job.image = none ∨ l ∉ u.rungLayers) → exec (.layerNumerics ring) s = .next (u.refuse c.ask 9)) ∧
       (u.job.image.isSome = true → l ∈ u.rungLayers →
         (bitOf sel 3 = false → exec (.layerNumerics ring) s = .next (
           if c.p 26 6 < u.job.epoch + 2 then u.refuse c.ask 9 else u.defer_ c 2 (c.p 26 6))) ∧
         (bitOf sel 3 = true → rungsOf (bitsOf (u.record l) 32 30) (c.p 24 1) = none →
           exec (.layerNumerics ring) s = .next (u.refuse c.ask 7)))) ∧
    (s.runsFor (.sieveSet ring) = some (c, u) →
      exec (.sieveSet ring) s = .next (
        if c.p 16 1 < 1 ∨ 14 < c.p 16 1 then u.refuse c.ask 7
        else if u.job.run.isSome = true then u.refuse c.ask 9
        else ({ u with job := { u.job with numericLimit := c.p 16 1 } }).done c.ask [])) ∧
    (s.runsFor (.counterSelect ring) = some (c, u) → c.p 16 1 ≤ 3 →
      (c.p 18 2 < 288 ∨ c.p 18 2 = 0xFFFF) →
      c.p 20 1 < scopeCounters (c.p 16 1) → sourceInScope (c.p 16 1) (c.p 22 2) = true →
      dieInScope (c.p 16 1) (c.p 17 1) = true → c.p 21 1 ≤ 1 → c.p 26 1 ≤ 1 →
      exec (.counterSelect ring) s = .next (
        if c.p 17 1 ∉ u.dies then u.refuse c.ask 8
        else if u.job.run.isSome = true then u.defer_ c 1 u.job.epoch
        else (u.counterSet c).done c.ask [])) ∧
    (let l := c.p 16 2
     s.runsFor (.tilthSweep ring) = some (c, u) →
       ((u.job.run = none ∨ (∀ x ∈ u.slicesOf l, x.1.hold = false) ∨ l ∈ u.tilth.sweeping ∨ l ∈ u.tilth.released) →
         exec (.tilthSweep ring) s = .next (u.refuse c.ask 9)) ∧
       (u.job.run.isSome = true → (∃ x ∈ u.slicesOf l, x.1.hold = true) → l ∉ u.tilth.sweeping → l ∉ u.tilth.released →
         ∃ v : State, exec (.tilthSweep ring) s = .next v ∧ v.tilth.released = u.tilth.released ++ [l] ∧
           (v.aux c.ask.ring).current = some c.ask ∧ (v.aux c.ask.ring).work = some (.sweep l) ∧ v.mem = u.mem ∧
           v.job = u.job))

/-! ### The fabric (chapter 11) -/

/-- TOPOLOGY_SET, PORT_QUERY and PORT_ENABLE (R2, R337, R338, R351, R529): a record that contradicts the seat, or comes while a
job runs, is refused with STATE; an accepted one gives each port its peer, the peer's port and its enable, and an enabled port
starts to train; a command for absent ports is refused with ABSENT (which ports a record names: notes/assumptions/89), ports
that the running image uses keep their enable. -/
def Obligations.TopologyCommands : Prop :=
  ∀ (s : State) (ring : Nat) (c : Cmd) (u : State),
    (s.runsFor (.topologySet ring) = some (c, u) →
      (c.topologyGood = false → exec (.topologySet ring) s = .next (u.refuse c.ask 7)) ∧
      (c.topologyGood = true → (∃ n ∈ c.topologyPorts, u.portAbsent n = true) →
        exec (.topologySet ring) s = .next (u.refuse c.ask 8)) ∧
      (c.topologyGood = true → (∀ n ∈ c.topologyPorts, u.portAbsent n = false) →
        ((u.job.image.isSome = true ∨ (u.seatCoord ≠ 0xFFFFF ∧ u.seatCoord ≠ c.p 16 3)) →
          exec (.topologySet ring) s = .next (u.refuse c.ask 9)) ∧
        (u.job.image = none → (u.seatCoord = 0xFFFFF ∨ u.seatCoord = c.p 16 3) →
          ∃ v : State, exec (.topologySet ring) s = .next (v.done c.ask []) ∧ v.fab = (c.topology u).fab ∧
            v.fab.coord = c.p 16 3 ∧ v.mem = u.mem ∧ v.tiles = u.tiles ∧
            (mapWf {} u.fab.ports = true → ∀ n, n < 16 →
              let w := c.x (4 * n) 4
              (v.port n).peer = bitsOf w 19 0 ∧ (v.port n).peerPort = bitsOf w 23 20 ∧ (v.port n).enable = bitOf w 24 ∧
                (v.port n).state = if bitOf w 24 && !u.portAbsent n then 1 else 0)))) ∧
    (s.runsFor (.portQuery ring) = some (c, u) →
      exec (.portQuery ring) s = .next (
        if c.p 16 1 < 16 then u.done c.ask (wordsOf 4 (u.portBits (c.p 16 1))) else u.refuse c.ask 7)) ∧
    (let ports := maskPorts (BitVec.ofNat 16 (c.p 16 2))
     let on := c.p 18 1 == 1
     s.runsFor (.portEnable ring) = some (c, u) →
       (2 ≤ c.p 18 1 → exec (.portEnable ring) s = .next (u.refuse c.ask 7)) ∧
       (c.p 18 1 < 2 →
         ((∃ n ∈ ports, u.portAbsent n = true) → exec (.portEnable ring) s = .next (u.refuse c.ask 8)) ∧
         ((∀ n ∈ ports, u.portAbsent n = false) → on = false → (∃ n ∈ ports, u.imageUsesPort n = true) →
           exec (.portEnable ring) s = .next (u.refuse c.ask 9)) ∧
         ((∀ n ∈ ports, u.portAbsent n = false) → (on = true ∨ ∀ n ∈ ports, u.imageUsesPort n = false) →
           ∃ v : State, exec (.portEnable ring) s = .next (v.done c.ask []) ∧
             v.fab = (ports.foldl (fun (s : State) n => s.enablePort on n) u).fab ∧ v.mem = u.mem ∧ v.job = u.job)))

/-- CONTROL_FLIT, FLIT_DISCARDED, PORT_TRAINED and LANE_FAILURE (R22, R335, R343, R346, R347, R349, R353, R474, R475): credits
rise by what the peer freed, what it acknowledges leaves the replay buffer, and the port sends what it then may; a notice for
this package reaches its hub; a cable to another peer makes the port MISCABLED; a port that trains on four lanes comes UP with
its counts anew; a failed lane of a port or of one direction of a die link with a spare waits for a boundary. -/
def Obligations.PortEvents : Prop :=
  ∀ (s : State) (n : Nat),
    let p := s.port n
    s.host.fatal = false →
    (∀ f : ControlFlit, p.state = 2 → f.nak = false →
      ∃ p', p' = { p with
          replay := p'.replay, unacked := stillOut p'.replay p.unacked, credits := p'.credits, credSeen := p'.credSeen } ∧
        (∀ v, v < 4 → p'.creditsOf v = p.creditsOf v + (f.cred.getD v 0 + 2 ^ 32 - p.credSeen.getD v 0) % 2 ^ 32) ∧
        (let left := (p.fseq + 2047 - f.ack) % 2048
         p'.replay = if left ≤ p.replay then left else p.replay) ∧
        ∃ t : State, t = ((s.setPort n p').followMap n f).portSends n ∧
          (f.notice = none → exec (.controlFlit n f) s = .next t) ∧
          ∀ x, f.notice = some x → x.code ≠ 0 → x.dst = t.fab.coord → ∃ v : State, v = t.answers x.src ∧
            exec (.controlFlit n f) s = .next { v with fab := { v.fab with noticesIn := v.fab.noticesIn ++ [x] } }) ∧
    (∀ f : ControlFlit, p.state ≠ 1 → p.state ≠ 2 → exec (.controlFlit n f) s = .next s) ∧
    (∀ f : ControlFlit, p.state = 1 → (f.self ≠ p.peer ∨ f.selfPort ≠ p.peerPort) →
      exec (.controlFlit n f) s =
        .next ((s.setPort n { p with state := 5 }).notice 0x803 [BitVec.ofNat 32 n, BitVec.ofNat 32 f.self])) ∧
    (p.state = 2 → exec (.flitDiscarded n) s = .next ((s.setPort n { p with nak := true }).count 5 1 false)) ∧
    (p.state ≠ 2 → exec (.flitDiscarded n) s = .next s) ∧
    (∀ r : TrainIn, p.state = 1 → s.board.fabClk = true →
      ((r.peer ≠ p.peer ∨ r.peerPort ≠ p.peerPort) → exec (.portTrained n r) s =
        .next ((s.setPort n { p with state := 5 }).notice 0x803 [BitVec.ofNat 32 n, BitVec.ofNat 32 r.peer])) ∧
      (r.peer = p.peer → r.peerPort = p.peerPort → r.flight ≤ 500 → 4 ≤ r.lanes →
        ∃ s', exec (.portTrained n r) s = .next s' ∧ s'.port n = ({ p with flight := r.flight } : Port).up ∧
          (∀ m, m ≠ n → s'.port m = s.port m) ∧ s' = { s with fab := s'.fab })) ∧
    ∀ die lane, s.job.image.isSome = true →
      (21 ≤ die → die ≤ 24 → s.diePresent die = true → lane < 18 → s.laneFailed die lane = false →
        ∃ t : State, t = { s with fab := { s.fab with failedLanes := pairInsert s.fab.failedLanes (die, lane) } } ∧
          (s.laneCarrier die lane = none → exec (.laneFailure ⟨die, none⟩ lane) s = .next t) ∧
          ∀ m, s.laneCarrier die lane = some m → s.spareState m = 0 → s.sparePromised m = false →
            exec (.laneFailure ⟨die, none⟩ lane) s =
              .next ((t.pushBoundary (.portLane die lane)).laneNotice die lane 1)) ∧
      ∀ b, s.linkPresent die b = true → laneKey ⟨die, some b⟩ lane ∉ s.units.deadLanes →
        mapGet 0 s.units.linkSpares (32 * die + b) + s.pendingItems (fun x => x == BoundaryItem.linkLane die b) < 2 →
        ∃ t : State, t = { s with units := { s.units with
            deadLanes := setInsert s.units.deadLanes (laneKey ⟨die, some b⟩ lane)
            boundary := s.units.boundary ++ [BoundaryItem.linkLane die b] } } ∧
          exec (.laneFailure ⟨die, some b⟩ lane) s = .next (t.laneNotice die lane 1)

/-- Frames (R3, R342, R356, R357, Tables 11.2 and 11.4): a frame for another package goes on with one hop less, is discarded and
counted, or is refused with an ERROR_REPLY; a port that is not UP takes none.  On the wire, every field of a frame's header is
read back from its 64 bytes, and every field of a control flit from its. -/
def Obligations.FramesThatAreNotTaken : Prop :=
  (∀ (i : Instr) (port kind : Nat) (f : Frame), frameRow i = some (port, kind, f) → i.wellFormed = true →
    (frameHeader f).length = 64 ∧ frameOfHeader f.vc (frameHeader f) f.data = f) ∧
  (∀ (n : Nat) (c : ControlFlit), (Instr.controlFlit n c).wellFormed = true → c.notice = none → c.afterLost = false →
    (controlBytes c).length = 64 ∧ controlOfBytes (controlBytes c) = c) ∧
  ∀ (s : State) (i : Instr) (port kind : Nat) (f : Frame), frameRow i = some (port, kind, f) →
    ((s.port port).state ≠ 2 → exec i s = .next s) ∧
    (s.host.fatal = false → (s.port port).state = 2 → (f.fkind = kind ∨ reservedKind f.fkind = true) →
      let u := (s.takeFlits port f).answers f.src
      (∀ q, u.frameFate f = .pass q → exec i s = .next (u.sendFrame q { f with hops := f.hops - 1 })) ∧
      (u.frameFate f = .drop → exec i s = .next (u.count 0 1 (f.flags % 2 == 1))) ∧
      (u.frameFate f = .refuse → exec i s = .next ((u.count 1 1 false).errorReply f 4)) ∧
      (∀ w lent, (f.vc = 0 ∨ f.nflit = 0) → f.fkind = 1 → u.frameFate f ≠ .take w lent))

/-- WRITE, TILE_WRITE, READ_REQ, READ_REPLY, ERROR_REPLY, COLLECTIVE, GRAD_FORWARD and NOTICE_DATA, once a package takes them
up (R163, R170, R173, R195, R342, R350, R355, R361): data of the package's own job are written where the tag's epoch writes, or
answered by an ERROR_REPLY with the fault; a read is answered with the data or the fault; replies wait under their context; a
fault ends the stream; records wait for their hop; content waits for its notice. -/
def Obligations.FramesThatAreTaken : Prop :=
  ∀ (s : State) (port : Nat) (f : Frame) (w : Work) (lent : Bool),
    let u := (s.takeFlits port f).answers f.src
    s.host.fatal = false → (s.port port).state = 2 → u.frameFate f = .take w lent →
    (f.fkind = 1 → lent = false →
      (∀ v, u.landWrite w f = (v, none) → exec (.write port f) s = .next (v.frameLanded f v.fc)) ∧
      (∀ v e, u.landWrite w f = (v, some e) → exec (.write port f) s = .next (v.errorReply f e.code)) ∧
      (let p := u.mem.page (pageOf f.laddr)
       p.valid = true → p.loc = .home → p.state = .open_ → p.banked = false → w.spec = false → f.data.length % 64 = 0 →
         f.data ≠ [] → u.meetsInlet f.laddr f.data.length = false →
         f.laddr < 2 ^ 48 → f.laddr % frameBytes + f.data.length ≤ frameBytes →
         ∃ v : State, exec (.write port f) s = .next (v.frameLanded f v.fc) ∧
           v.mem = u.mem.write (p.frame0 * frameBytes + f.laddr % frameBytes) f.data)) ∧
    (f.fkind = 2 → ∀ id : TileId, f.dtile / 512 % 32 = id.die.val → f.dtile % 512 = id.tile.val →
      siltIn (f.laddr % 2 ^ 21) f.data.length = true →
      exec (.tileWrite port f) s =
        .next (u.deliverRows id u.fc (f.laddr % 2 ^ 21) f.data (some (.frame { f with data := [] })))) ∧
    (f.fkind = 3 → lent = false →
      (u.reachesAway w f.laddr (f.opx * 64) = true → exec (.readReq port f) s = .next (u.errorReply f 5)) ∧
      (u.reachesAway w f.laddr (f.opx * 64) = false →
        (∀ bs, u.readRange w f.laddr (f.opx * 64) = (bs, none) →
          exec (.readReq port f) s = .next ((u.countRead w f.laddr (f.opx * 64)).replyData w f bs)) ∧
        ∀ bs e, u.readRange w f.laddr (f.opx * 64) = (bs, some e) →
          exec (.readReq port f) s = .next ((u.errorReply f e.code).poisonNotice e))) ∧
    (f.fkind = 4 → u.repairAt f.laddr = none → (u.ctx f.ctx).kind ≠ 3 → (u.ctx f.ctx).kind ≠ 6 →
      (u.ctx f.ctx).state = .active →
      exec (.readReply port f) s =
        .next { u with fab := { u.fab with replies := u.fab.replies ++ [(f.ctx, f.laddr, f.data)] } }) ∧
    (f.fkind = 5 → u.job.repairing = [] →
      (((u.ctx f.ctx).kind ≠ 6 ∨ (u.ctx f.ctx).state ≠ .active) → exec (.errorReply port f) s =
        .next (u.streamFail f.ctx (f.opx % 256) (f.laddr / frameBytes * frameBytes) f.src)) ∧
      ((u.ctx f.ctx).kind = 6 → (u.ctx f.ctx).state = .active → exec (.errorReply port f) s =
        .next (u.setCtx f.ctx { u.ctx f.ctx with fault := f.opx % 256 }))) ∧
    (f.fkind = 6 →
      (u.collOf (f.coll % 65536) = none → exec (.collective port f) s = .next u) ∧
      ∀ c, u.collOf (f.coll % 65536) = some c →
        let cut := (u.ctx (c.contexts.getD (c.members.idxOf u.fab.coord) 0)).state = .aborted ∧ c.op ≠ 6
        (cut → exec (.collective port f) s = .next u) ∧
        (¬cut → exec (.collective port f) s = .next (u.arriveColl c w f))) ∧
    (f.fkind = 7 → ∀ l : LentLayer,
      (u.mem.lendTilth = 0 → exec (.gradForward port f l) s = .next u) ∧
      (u.mem.lendTilth ≠ 0 → bitOf f.flags 2 = false → mapGet [] u.fab.pieces (2 ^ 64 + f.src * 2 ^ 32 + f.stag) = [] →
        ∃ x s', x = ((u.ownerJob f.src f.job).seeOwner f.src w.epoch).lentBegins f.src f.stag ∧
          exec (.gradForward port f l) s = .next s' ∧
          s' = { x with fab := s'.fab })) ∧
    (f.fkind = 8 → exec (.noticeData port f) s =
      .next { u with fab := { u.fab with noticeData := u.fab.noticeData ++ [(f.src, f.data)] } })

/-! ### Long commands (chapters 12 and 15) -/

/-- EXPORT, IMPORT, SCRUB_FULL, SELF_TEST, SLICE_END and COMPLETION_TIMEOUT (R388, R390, R396 to R400, R425): a long command
that may begin stays in progress with its first slice counted; a slice that ends, when it is a core's next item, counts the
next, or ends a command that CANCEL awaits; the last unit of a scrub or self-test ends it with DONE; a host buffer that is not
completed ends an import or a load with FAULT and its AER entry. -/
def Obligations.LongCommandsGoOnInSlices : Prop :=
  (∀ (s : State) (ring : Nat) (c : Cmd) (u : State),
    let starts (i : Instr) (w : LongWork) (v : State) : Prop :=
      exec i s = .next (v.setAux ring { v.aux ring with current := some c.ask, work := some w, slices := 1 })
    (s.runsFor (.export_ ring) = some (c, u) → c.p 16 1 < 4 → c.p 18 2 ≤ c.p 20 2 → c.p 24 8 < 2 ^ 56 →
      (u.job.image = none → exec (.export_ ring) s = .next (u.refuse c.ask 9)) ∧
      (u.job.image.isSome = true → (u.freeCtx = none → exec (.export_ ring) s = .next (u.refuse c.ask 10)) ∧
        ∀ ctx, u.freeCtx = some ctx →
          starts (.export_ ring)
            (.export_ (if c.p 24 8 = 0 then c.p 18 2 else c.p 24 2) (c.p 26 1) (c.p 27 4) 0 u.job.epoch 0 0 ctx)
            (u.setCtx ctx { state := .ready, kind := 5 }))) ∧
    (s.runsFor (.import_ ring) = some (c, u) → c.p 16 1 < 2 →
      ((u.job.image = none ∨ u.job.run.isSome = true) → exec (.import_ ring) s = .next (u.refuse c.ask 9)) ∧
      (u.job.image.isSome = true → u.job.run = none →
        (u.freeCtx = none → exec (.import_ ring) s = .next (u.refuse c.ask 10)) ∧
        ∀ ctx, u.freeCtx = some ctx → starts (.import_ ring) (.import_ 0 ctx) (u.setCtx ctx { state := .ready, kind := 5 }))) ∧
    (s.runsFor (.scrubFull ring) = some (c, u) →
      (u.job.image.isSome = true → exec (.scrubFull ring) s = .next (u.refuse c.ask 9)) ∧
      (u.job.image = none →
        starts (.scrubFull ring) (.units ((List.range 16).filter fun i => bitOf (c.p 16 2) i)) u)) ∧
    (let d := c.p 16 1
     s.runsFor (.selfTest ring) = some (c, u) →
      (0x1F < d → exec (.selfTest ring) s = .next (u.refuse c.ask 7)) ∧
      (d < 0x1F → d ∉ u.dies → exec (.selfTest ring) s = .next (u.refuse c.ask 8)) ∧
      ((d = 0x1F ∨ d ∈ u.dies) → d ≤ 0x1F →
        (u.job.image.isSome = true → exec (.selfTest ring) s = .next (u.refuse c.ask 9)) ∧
        (u.job.image = none → starts (.selfTest ring) (.units (if d = 0x1F then u.dies else [d])) u)))) ∧
  ∀ (s : State) (ring : Nat) (a : Ask) (w : LongWork),
    let x := s.aux ring
    let pair := (s.ring ring).pair
    x.current = some a → x.work = some w → s.host.fatal = false →
    ((s.aux pair).held = [] → (s.ring pair).full = false → ∀ core, s.coreFor ring = some core →
      let v := s.served ring core
      let units (k : Nat) : State := v.wakeNow (allUnits.filter fun n => n.die == k)
      (∀ l, w = .sweep l → a.prog = false → (∀ k ∈ x.cancel, k.1 ≠ a.seq) →
        exec (.sliceEnd ring) s = .next (v.setAux ring { x with slices := x.slices + 1 })) ∧
      (∀ k rest, w = .units (k :: rest) → rest ≠ [] → a.opcode = 0xE3 → a.prog = false → (∀ y ∈ x.cancel, y.1 ≠ a.seq) →
        exec (.sliceEnd ring) s =
          .next ((units k).setAux ring { x with work := some (.units rest), slices := x.slices + 1 })) ∧
      (∀ k, w = .units [k] → a.opcode = 0xE3 → exec (.sliceEnd ring) s = .next ((units k).done a [])) ∧
      (∀ l d, w = .load l d → (∃ k ∈ x.cancel, k.1 = a.seq) →
        exec (.sliceEnd ring) s = .next (v.answer a 3 0x40 [0, 0]))) ∧
    (((s.aux pair).held ≠ [] ∨ (s.ring pair).full = true ∨ s.coreFor ring = none) → exec (.sliceEnd ring) s = .next s) ∧
    (∀ l d, w = .load l d → ∃ (k : Nat) (v : State), exec (.completionTimeout ring) s =
      .next (v.answer a 5 1 [BitVec.ofNat 32 (4 + k % 256 * 256), 0, 0]) ∧ v.host.aer = s.host.aer ++ [2] ∧ v.mem = s.mem ∧
        v.rs = s.rs)

/-! ### Power (chapter 14) -/

/-- Budgets and limits (R441 to R443, R446, R447): POWER_LIMIT takes 1 to 2,000 W; a budget above 2,000 W takes effect as
2,000 W, at once or after its delay, and a delayed step that another replaces ends CANCELLED; a lend lasts its seconds, and its
expiry tells the host; the sideband's budget and warn budget take effect at its write, and a write to SB_PSTAT clears the bits
written 1 but those an event sets in its sc (R7); SUPPLY_WARN_N falls and rises. -/
def Obligations.PowerLimitsAndBudgets : Prop :=
  (∀ (s : State) (ring : Nat) (c : Cmd) (u : State),
    (s.runsFor (.powerLimit ring) = some (c, u) →
      ((c.p 16 2 < 1 ∨ 2000 < c.p 16 2) → exec (.powerLimit ring) s = .next (u.refuse c.ask 7)) ∧
      (1 ≤ c.p 16 2 → c.p 16 2 ≤ 2000 →
        ∃ v : State, exec (.powerLimit ring) s = .next (v.done c.ask []) ∧ v.pow = { u.pow with limit := c.p 16 2 } ∧
          v.mem = u.mem ∧ v.job = u.job)) ∧
    (s.runsFor (.budgetStep ring) = some (c, u) →
      (c.p 18 4 = 0 → u.pow.delayed = none → (∀ b ∈ u.pow.budgetAt, b.1 ≠ u.sc) →
        ∃ v : State, exec (.budgetStep ring) s = .next (v.done c.ask []) ∧
          v.pow = { u.pow with budget := min (c.p 16 2) 2000, budgetAt := some (u.sc, false) } ∧ v.mem = u.mem) ∧
      (c.p 18 4 ≠ 0 →
        ∃ v : State, v = { u with pow := { u.pow with
            delayed := some (c.ask, min (c.p 16 2) 2000, u.sc + c.p 18 4) } } ∧
          (u.pow.delayed = none → exec (.budgetStep ring) s =
            .next (v.answer c.ask 1 0 (4 :: wordsOf 2 (c.p 18 4 * fcPerSc u.pow.point)))) ∧
          ∀ a b t, u.pow.delayed = some (a, b, t) → exec (.budgetStep ring) s =
            .next ((v.final a 3 0x40 [0, 0, 0, 0]).answer c.ask 1 0
              (4 :: wordsOf 2 (c.p 18 4 * fcPerSc u.pow.point))))) ∧
    (s.runsFor (.budgetLend ring) = some (c, u) →
      ((2000 < c.p 16 2 ∨ 65535 < c.p 18 4) → exec (.budgetLend ring) s = .next (u.refuse c.ask 7)) ∧
      (c.p 16 2 ≤ 2000 → c.p 18 4 ≤ 65535 →
        ∃ v : State, exec (.budgetLend ring) s = .next (v.done c.ask []) ∧ v.mem = u.mem ∧
          v.pow = { u.pow with
            lent := if c.p 18 4 = 0 then 0 else c.p 16 2
            lendUntil := if c.p 18 4 = 0 then 0 else u.sc + c.p 18 4 * 25000000 }))) ∧
  ∀ s : State,
    (∀ a b due, s.pow.delayed = some (a, b, due) →
      let now := max s.sc due
      (∀ x ∈ s.pow.budgetAt, x.1 ≠ now) →
      ∃ v : State, exec .budgetStepDelayEnd s = .next (v.final a 0 0 []) ∧ v.sc = now ∧ v.mem = s.mem ∧
        v.pow = { s.pow with budget := min b 2000, budgetAt := some (now, false), delayed := none }) ∧
    (s.pow.lendUntil ≠ 0 →
      ∃ v : State, exec .lendExpired s = .next (v.powerNotice 0x823 none [BitVec.ofNat 32 s.pow.lent]) ∧
        v.pow = { s.pow with lent := 0, lendUntil := 0 } ∧ v.mem = s.mem) ∧
    (s.board.aon = true → s.pow.delayed = none → (∀ x ∈ s.pow.budgetAt, x.1 ≠ s.sc) → ∀ v : BitVec 32,
      ∃ s', exec (.sbBudgetWrite v) s = .next s' ∧ exec (.sbRegisterWrite 0x40 v) s = .next s' ∧
        s'.pow = { s.pow with budget := min (v.toNat % 65536) 2000, budgetAt := some (s.sc, true) } ∧ s'.mem = s.mem) ∧
    (s.board.aon = true → ∀ v : BitVec 32,
      ∃ s', exec (.sbWarnWrite v) s = .next s' ∧ exec (.sbRegisterWrite 0x44 v) s = .next s' ∧
        s'.pow = { s.pow with warn := v.toNat % 65536 } ∧ s'.mem = s.mem) ∧
    (s.board.aon = true → ∀ v : BitVec 32, exec (.sbRegisterWrite 0x50 v) s =
      .next { s with pow := { s.pow with pstat := s.pow.pstatNow.clear s.sc s.pow.pstat (v.setWidth 6) } }) ∧
    (s.board.aon = true → s.pow.warnIn = false →
      ∃ s', exec .supplyWarn s = .next s' ∧ s'.pow.warnIn = true ∧ s'.board.supplyWarnN = false ∧
        s'.pow.pstat = s.pow.pstat ||| 2 ∧ s'.mem = s.mem ∧ s'.job = s.job) ∧
    exec .supplyWarnRise s =
      .next { s with pow := { s.pow with warnIn := false }, board := { s.board with supplyWarnN := true } }

/-- Periods, samples, droops and trips (R433, R427, R436, R448, R457, R566): a power period ends at the next multiple of 1,024
sc, with the temperature and the binding limit of the period; a change of operating point ends 250 sc after it; a sample adds
its energy to the meters (faults that the host sees in counters only come with samples: notes/assumptions/100); a droop only
stretches cycles; a trip at 115 degrees or more removes the rails. -/
def Obligations.PowerEvents : Prop :=
  ∀ s : State,
    (∀ r : PeriodIn, s.pow.rails = true → s.host.fatal = false →
      ∃ s', exec (.powerPeriod r) s = .next s' ∧ s'.sc = (s.sc / 1024 + 1) * 1024 ∧ s'.pow.tj = r.tj ∧
        s'.pow.bind_ = r.rank ∧ s'.pow.restful = !s.job.image.isSome ∧ s'.mem = s.mem ∧ s'.job = s.job ∧
        (s'.pow.thermal = if 95 ≤ r.tj then s.pow.thermal + 25 else if r.tj < 92 then s.pow.thermal - 25
          else s.pow.thermal)) ∧
    (s.pow.pointTo = none → exec .operatingPointReached s = .next s) ∧
    (∀ p, s.pow.pointTo = some p → s.sc ≤ s.sc / 1024 * 1024 + 250 →
      ∃ s', exec .operatingPointReached s = .next s' ∧ s'.pow = { s.pow with point := p, pointTo := none } ∧
        s'.sc = s.sc / 1024 * 1024 + 250 ∧ s' = { s with pow := s'.pow, fc := s'.fc, sc := s'.sc, scFc := s'.scFc }) ∧
    (∀ r : SampleIn, s.pow.rails = true → r.quiet = [] →
      ∃ s', exec (.energySample r) s = .next s' ∧ s'.sc = (s.sc / 25 + 1) * 25 ∧ s'.pow.vin = r.vin ∧
        (∀ i, i < 8 → s'.pow.energy[i]! = (s.pow.energy[i]! + r.uj.getD i 0) % 2 ^ 64) ∧
        s' = { s with pow := s'.pow, fc := s'.fc, sc := s'.sc, scFc := s'.scFc, cnt := s'.cnt, free := s'.free }) ∧
    (∀ n, s.pow.rails = true → exec (.droopDetected n) s =
      .next (({ s with pow := { s.pow with stretchNow := s.pow.stretchNow + n } }).count 0x0E n false)) ∧
    ∀ tj, (tj < 115 → exec (.thermalTrip tj) s = .next s) ∧
      (115 ≤ tj → s.pow.rails = true →
        ∃ s', exec (.thermalTrip tj) s = .next s' ∧ s'.pow.rails = false ∧ s'.pow.computeRails = false ∧
          s'.pow.latched = 3 ∧ s'.pow.tripped = true ∧ s'.board.cause = 3 ∧ s'.tiles = [] ∧ s'.job = JobState.none ∧
          s'.trust.keys = s.trust.keys ∧ s'.trust.audit = s.trust.audit)

/-- Units (R438 to R440, Tables 14.3 and 14.4): UNIT_DISABLE of an active unit begins its shut-down and waits for the quiesced
point; of a unit the running image uses it is refused; UNIT_ENABLE of a resting unit begins its wake and is DEFERRED by the fc
that the wake takes; the quiesced point, the power-down and the wake end in their states and answer what waits. -/
def Obligations.UnitPowerStates : Prop :=
  (∀ (s : State) (ring : Nat) (c : Cmd) (u : State),
    let n := c.unit
    (s.runsFor (.unitDisable ring) = some (c, u) →
      ((unitNamed n.kind n.die n.num = false ∨ stateAllowed n.kind (c.p 20 1) = false) →
        exec (.unitDisable ring) s = .next (u.refuse c.ask 7)) ∧
      (unitNamed n.kind n.die n.num = true → stateAllowed n.kind (c.p 20 1) = true →
        (u.job.image.isSome = true → u.usesUnit n = true → exec (.unitDisable ring) s = .next (u.refuse c.ask 9)) ∧
        ((u.job.image = none ∨ u.usesUnit n = false) → u.unitPower n = .active →
          ∃ v : State, v = u.setUnit n (.shutting (c.p 20 1) u.fc [c.ask] []) ∧
            exec (.unitDisable ring) s = .next (v.setAux c.ask.ring { v.aux c.ask.ring with current := some c.ask })))) ∧
    (s.runsFor (.unitEnable ring) = some (c, u) →
      (unitNamed n.kind n.die n.num = false → exec (.unitEnable ring) s = .next (u.refuse c.ask 7)) ∧
      (unitNamed n.kind n.die n.num = true →
        (u.unitPower n = .active → exec (.unitEnable ring) s = .next (u.done c.ask [])) ∧
        ∀ k, (u.unitPower n = .idle ∧ k = 1) ∨ (u.unitPower n = .nap ∧ k = 2) ∨ (u.unitPower n = .dark ∧ k = 3) →
          exec (.unitEnable ring) s = .next ((u.setUnit n (.waking k u.fc [c.ask] [])).answer c.ask 1 0
            (4 :: wordsOf 2 (u.wakeFc n.kind k)))))) ∧
  ∀ (s : State) (n : UnitId) (t : Nat),
    (∀ to_ asks, s.unitPower n = .shutting to_ t asks [] →
      let w := s.toFc (t + quiesceFc to_)
      exec (.unitQuiesced n) s =
        .next ((w.setUnit n (if to_ = 1 then .idle else .powering to_ w.fc [])).answerAll asks)) ∧
    (∀ to_, s.unitPower n = .powering to_ t [] → to_ ≠ 3 →
      exec (.unitPowerDownComplete n) s = .next ((s.toFc (t + s.downFc)).setUnit n (restState to_))) ∧
    (∀ k en, s.unitPower n = .waking k t en [] → n.kind ≠ 4 → exec (.unitWakeComplete n) s =
      .next (en.foldl (fun (s : State) a => s.final a 0 0 []) ((s.toFc (t + s.wakeFc n.kind k)).setUnit n .active))) ∧
    (s.unitPower n = .active → exec (.unitQuiesced n) s = .next s ∧ exec (.unitPowerDownComplete n) s = .next s ∧
      exec (.unitWakeComplete n) s = .next s)

/-! ### Trust (chapter 16) -/

/-- KEY_ENROL, KEY_REVOKE, SEAT_BIND, GUEST_WINDOW and FW_UPDATE (R504 to R508, R512, R527, R528, R532): a new key joins its
role's store, a full store is refused with RESOURCE, a known or revoked key with STATE; a revoked key never comes back; a seat
takes effect while no job runs; the windows replace all of them, on a part with a guest port alone; an image that passes its
check fills the slot that did not boot at the end of a slice; any other is refused with IMAGE there; the slot is invalid from the
update's start on (that the slice is the last one is a free value, notes/assumptions/44). -/
def Obligations.TrustCommands : Prop :=
  ∀ (s : State) (ring : Nat) (c : Cmd) (u : State),
    (let role := c.p 16 1
     let id := c.p 24 8
     let pub := c.ext.take 2592
     s.runsFor (.keyEnrol ring) = some (c, u) → (role = 1 ∨ role = 2) → c.ext.length = 2624 →
       (c.ext.drop 2592).all (· == 0) = true → id = keyIdOf pub →
       (((∃ k ∈ u.trust.keys, k.keyId = id) ∨ (∃ k ∈ u.trust.fuses.makerKeys, k.1.keyId = id) ∨ id ∈ u.trust.revoked) →
         exec (.keyEnrol ring) s = .next (u.refuse c.ask 9)) ∧
       ((∀ k ∈ u.trust.keys, k.keyId ≠ id) → (∀ k ∈ u.trust.fuses.makerKeys, k.1.keyId ≠ id) → id ∉ u.trust.revoked →
         let n := (u.trust.keys.filter fun k => k.role == role).length
         (roleStore role ≤ n → exec (.keyEnrol ring) s = .next (u.refuse c.ask 10)) ∧
         (n < roleStore role →
           ∃ v : State, exec (.keyEnrol ring) s = .next (v.done c.ask []) ∧
             v.trust.keys = u.trust.keys ++ [⟨role, id, pub⟩] ∧ v.trust.fuses = u.trust.fuses ∧
             v.trust.revoked = u.trust.revoked ∧ v.mem = u.mem ∧ v.job = u.job))) ∧
    (s.runsFor (.keyRevoke ring) = some (c, u) → (c.p 16 1 = 1 ∨ c.p 16 1 = 2) →
      ((∀ k ∈ u.trust.keys, k.role ≠ c.p 16 1 ∨ k.keyId ≠ c.p 24 8) →
        exec (.keyRevoke ring) s = .next (u.refuse c.ask 9)) ∧
      ((∃ k ∈ u.trust.keys, k.role = c.p 16 1 ∧ k.keyId = c.p 24 8) →
        ∃ v : State, exec (.keyRevoke ring) s = .next (v.done c.ask []) ∧
          v.trust.keys = u.trust.keys.filter (fun k => k.keyId != c.p 24 8) ∧
          v.trust.revoked = u.trust.revoked ++ [c.p 24 8] ∧ v.mem = u.mem ∧ v.job = u.job)) ∧
    (s.runsFor (.seatBind ring) = some (c, u) →
      ((2 ^ 20 ≤ c.p 24 3 ∨ c.p 27 1 ≠ 0) → exec (.seatBind ring) s = .next (u.refuse c.ask 7)) ∧
      (c.p 24 3 < 2 ^ 20 → c.p 27 1 = 0 →
        (u.job.image.isSome = true → exec (.seatBind ring) s = .next (u.refuse c.ask 9)) ∧
        (u.job.image = none →
          ∃ v : State, exec (.seatBind ring) s = .next (v.done c.ask []) ∧
            v.trust.seat = (if c.p 16 8 = 0 then List.replicate 32 0 else (c.packet.drop 16).take 32) ∧
            v.trust.keptInstall = (if c.p 16 8 = 0 then u.trust.keptInstall else c.p 16 8) ∧
            (if c.p 16 8 ≠ 0 ∧ u.trust.keptInstall ≠ 0 ∧ c.p 16 8 ≠ u.trust.keptInstall then
              (∀ k ∈ v.trust.keys, k.role ≠ 1) ∧ v.trust.windows = []
            else v.trust.keys = u.trust.keys ∧ v.trust.windows = u.trust.windows) ∧ v.mem = u.mem))) ∧
    (let ws := (List.range (c.p 16 1)).map fun i => (c.x (16 * i) 6, c.x (16 * i + 6) 4, c.x (16 * i + 10) 1)
     s.runsFor (.guestWindow ring) = some (c, u) →
       ((32 < c.p 16 1 ∨ ws.all windowGood = false) → exec (.guestWindow ring) s = .next (u.refuse c.ask 7)) ∧
       (c.p 16 1 ≤ 32 → ws.all windowGood = true → windowTable ws = c.ext →
         (u.trust.fuses.guestPart = false → exec (.guestWindow ring) s = .next (u.refuse c.ask 8)) ∧
         (u.trust.fuses.guestPart = true →
           ∃ v : State, exec (.guestWindow ring) s = .next (v.done c.ask []) ∧ v.trust.windows = ws ∧
             v.trust.keys = u.trust.keys ∧ v.mem = u.mem))) ∧
    (let other := !(u.trust.booted.getD true)
     let v : State := { u with trust := u.trust.setSlot other {} }
     s.runsFor (.fwUpdate ring) = some (c, u) →
       v.trust.slot other = {} ∧ v.trust.slot (!other) = u.trust.slot (!other) ∧
       exec (.fwUpdate ring) s = .next (v.setAux ring { v.aux ring with
         current := some c.ask, slices := 1
         work := some (.firmware (u.hostRead c.bufAddr c.bufLen) (u.trust.slot other).bodyDigest) })) ∧
    ∀ (a : Ask) (image old : List Byte) (core : Nat),
      (s.aux ring).current = some a → (s.aux ring).work = some (.firmware image old) → s.host.fatal = false →
      (s.aux (s.ring ring).pair).held = [] → (s.ring (s.ring ring).pair).full = false → s.coreFor ring = some core →
      Config.freeNat s.free % 2 = 0 →
      let other := !(s.trust.booted.getD true)
      let v : State := { s.served ring core with free := s.free + 1 }
      (v.firmware image = none → exec (.sliceEnd ring) s = .next (v.refuse a 11)) ∧
      ∀ x, v.firmware image = some x →
        ∃ w : State, exec (.sliceEnd ring) s = .next (w.done a []) ∧ w.trust.slot other = x ∧
          w.trust.slot (!other) = s.trust.slot (!other) ∧ w.trust.booted = s.trust.booted ∧ w.mem = s.mem

/-! ### The host window (chapter 13) -/

/-- Doorbells (R182, R379, R407, R408): a doorbell that agrees with its ring sets TAIL, or HEAD of a completion ring with
nothing that waits for it; any other is discarded, recorded in DB_ERR and reported by INT_CAUSE. -/
def Obligations.DoorbellsMoveOneIndex : Prop :=
  ∀ (s : State) (r : BitVec 18) (v : BitVec 32),
    let d := s.ring r.toNat
    let x := s.aux r.toNat
    let n := v.toNat
    let past (a b : Nat) : Nat := (a + 2 ^ 17 - b) % 2 ^ 17
    (d.kind = .command → n < 2 ^ 17 → past n d.tail ≤ d.depth → past n d.head ≤ d.depth → x.skip = 0 →
      let others := (s.rs.rings.filter fun e => e.2.kind == .command && e.1 != r.toNat).map fun e => (e.1, e.2.tail)
      exec (.commandDoorbell r v) s = .next (((s.setRing r.toNat { d with
        tail := n, posted := (d.posted + past n d.tail) % 2 ^ 64, head := d.head % 2 ^ 17 }).setAux r.toNat
          { x with bells := x.bells ++ [(n, others)] }).settled)) ∧
    ((d.kind ≠ .command ∨ 2 ^ 17 ≤ n ∨ d.depth < past n d.tail ∨ d.depth < past n d.head) →
      exec (.commandDoorbell r v) s =
        .next (({ s with host := { s.host with dbValid := true, dbCq := false, dbRing := r } }).setCause 1)) ∧
    (d.kind = .completion → n < 2 ^ 17 → past d.tail n ≤ d.used → x.held = [] → r.toNat ≠ 1 →
      exec (.completionDoorbell r v) s = .next ((s.setRing r.toNat { d with head := n }).settled)) ∧
    ((d.kind ≠ .completion ∨ 2 ^ 17 ≤ n ∨ d.used < past d.tail n) →
      exec (.completionDoorbell r v) s =
        .next (({ s with host := { s.host with dbValid := true, dbCq := true, dbRing := r } }).setCause 1))

/-- Registers of BAR0 (R7, R404 to R406, R410, R411, R414, R415, Tables 13.3 to 13.7): INT_CAUSE and APERTURE_STATUS clear the
bits written 1 but those an event sets in the same fc, the others of access RW take the value; a write that is not aligned or
not of full width, or to a read-only or reserved offset, changes nothing; EPOCH_LO latches EPOCH_HI; DB_ERR clears as it is
read; the ring window writes command rings alone, and discards poisoned data (R425); an unmasked vector sends its pending
message. -/
def Obligations.WindowRegisters : Prop :=
  ∀ s : State,
    let h := s.host
    (∀ v : BitVec 64,
      exec (.registerWrite 0x014 4 v) s =
        .next { s with host := { h with intCause := h.causeNow.clear s.fc h.intCause (v.setWidth 5) } } ∧
      (∀ k, k < 5 → (h.causeNow.clear s.fc h.intCause (v.setWidth 5)).getLsbD k =
        (h.intCause.getLsbD k && (!v.getLsbD k || (h.causeNow.at_ == s.fc && h.causeNow.bits.getLsbD k)))) ∧
      exec (.registerWrite 0x018 4 v) s = .next { s with host := { h with intEnable := v.setWidth 5 } } ∧
      exec (.registerWrite 0x030 4 v) s = .next { s with host := { h with apertureBase := v.setWidth 27 } } ∧
      exec (.registerWrite 0x034 4 v) s =
        .next { s with host := { h with apertureStatus := h.apertureNow.clear s.fc h.apertureStatus (v.setWidth 4) } } ∧
      exec (.registerWrite 0x040 4 v) s = .next { s with host := { h with ringWin := v.setWidth 5 } }) ∧
    (∀ (offset size : Nat) (v : BitVec 64), offset < 0x1000 →
      (size ≠ 4 ∨ offset ∉ [0x014, 0x018, 0x030, 0x034, 0x040]) → exec (.registerWrite offset size v) s = .next s) ∧
    (∀ (r : Nat) (v : BitVec 64), r < 0x40000 → exec (.registerWrite (0x300000 + 2 * r) 2 v) s =
      .next { s with host := { h with vectors := mapSet 1 h.vectors r (v.setWidth 11) } }) ∧
    exec .epochLoRead s = .next { s with host := { h with
      epochHi := BitVec.ofNat 16 (s.job.epoch / 2 ^ 32), readData := leBytes 4 s.job.epoch, readError := false } } ∧
    exec .dbErrRead s = .next { s with host := { h with
      dbValid := false, dbCq := false, dbRing := 0, readData := leBytes 4 h.dbErr, readError := false } } ∧
    (∀ v : BitVec 11,
      let e := mapGet {} h.msix v.toNat
      e.pending = true → h.d3hot = false →
      exec (.vectorUnmask v) s = .next { s with host := { h with
        msix := mapSet {} (mapSet {} h.msix v.toNat { e with masked := false }) v.toNat
          { e with masked := false, pending := false }
        messages := h.messages ++ [⟨v.toNat, e.addr, e.data⟩] } }) ∧
    ∀ (offset : BitVec 25) (bytes : List Byte), mapWf 0 s.rs.storage = true →
      exec (.ringWindowWrite offset ⟨bytes, true⟩) s = .next { s with host := { h with aer := h.aer ++ [4] } } ∧
      ∃ s', exec (.ringWindowWrite offset ⟨bytes, false⟩) s = .next s' ∧ s' = { s with rs := s'.rs } ∧
        s'.rs = { s.rs with storage := s'.rs.storage } ∧
        ∀ a, mapGet 0 s'.rs.storage a =
          let i := a - (2 ^ 25 * h.ringWin.toNat + offset.toNat)
          if 2 ^ 25 * h.ringWin.toNat + offset.toNat ≤ a ∧ i < bytes.length ∧ a < storageBytes ∧ s.rs.inCommand a = true
          then bytes.getD i 0 else mapGet 0 s.rs.storage a

/-- The aperture and the guest port (R416 to R421, R531 to R535, Table 13.9): a read of a page that is not mapped answers all
ones and is reported; a write lands on the current frame of a page that is open to the host, and is discarded and reported
elsewhere, in an inlet (R579) and where its data are poisoned (R425); without a guest part the guest port does nothing, and an
access that no window grants is refused and counted. -/
def Obligations.OutsideAccesses : Prop :=
  ∀ (s : State) (offset : Nat),
    let la := s.apertureAddr offset
    let p := s.mem.page (pageOf la)
    (∀ n, 0 < n → la % frameBytes + n ≤ frameBytes → p.valid = false → exec (.apertureRead offset n) s =
      .next (State.apertureEvent 1 (pageOf la)
        { s with host := { s.host with readData := List.replicate n 0xFF, readError := false } })) ∧
    (∀ n, 0 < n → la % frameBytes + n ≤ frameBytes → p.valid = true → p.state ≠ .lost → p.loc = .home →
      s.meetsInlet la n = false → (p.banked = true ∨ p.spec = false) → s.tilth.directory = [] →
      let pa := p.frameOf s.job.epoch * frameBytes + la % frameBytes
      s.mem.poisoned pa n = false → exec (.apertureRead offset n) s =
        .next { s with host := { s.host with readData := s.mem.read pa n, readError := false } }) ∧
    (∀ bytes : List Byte, bytes ≠ [] → la % frameBytes + bytes.length ≤ frameBytes →
      (p.valid = true → p.state ≠ .lost → p.loc = .home → s.meetsInlet la bytes.length = false →
        (if p.banked then s.job.run = none else p.state = .open_) → p.copies = false →
        ∃ s', exec (.apertureWrite offset ⟨bytes, false⟩) s = .next s' ∧
          s'.mem = s.mem.write (p.frameOf s.job.epoch * frameBytes + la % frameBytes) bytes ∧
          s' = { s with mem := s'.mem, cnt := s'.cnt }) ∧
      ((p.valid = false ∨ s.meetsInlet la bytes.length = true) →
        exec (.apertureWrite offset ⟨bytes, false⟩) s = .next (State.apertureEvent 3 (pageOf la) s)) ∧
      exec (.apertureWrite offset ⟨bytes, true⟩) s = .next (State.apertureEvent 3 (pageOf la)
        { s with host := { s.host with aer := s.host.aer ++ [4] } })) ∧
    ∀ (a n : Nat) (bytes : List Byte),
      (s.trust.fuses.guestPart = false →
        exec (.guestRead a n) s = .next s ∧ exec (.guestWrite a bytes) s = .next s) ∧
      (s.trust.fuses.guestPart = true →
        (s.trust.granted 0 a n = false → exec (.guestRead a n) s = .next (s.denyGuest a 0)) ∧
        (s.trust.granted 1 a bytes.length = false → exec (.guestWrite a bytes) s = .next (s.denyGuest a 1)) ∧
        (∀ q, s.trust.granted 0 a n = true → 0 < n → a < 2 ^ 48 → a % frameBytes + n ≤ frameBytes →
          q = s.mem.page (pageOf a) → q.valid = true → q.state ≠ .lost → q.loc = .home → s.meetsInlet a n = false →
          (q.banked = true ∨ q.spec = false) → s.tilth.directory = [] →
          s.mem.poisoned (q.frameOf s.job.epoch * frameBytes + a % frameBytes) n = false →
          exec (.guestRead a n) s = .next { s with host := { s.host with
            readData := s.mem.read (q.frameOf s.job.epoch * frameBytes + a % frameBytes) n, readError := false } }) ∧
        (∀ q, s.trust.granted 1 a bytes.length = true → bytes ≠ [] → a < 2 ^ 48 →
          a % frameBytes + bytes.length ≤ frameBytes → q = s.mem.page (pageOf a) → q.valid = true → q.state = .open_ →
          q.loc = .home → q.banked = false → q.copies = false → s.meetsInlet a bytes.length = false →
          ∃ s', exec (.guestWrite a bytes) s = .next s' ∧ s'.host.readError = false ∧
            s'.mem = s.mem.write (q.frame0 * frameBytes + a % frameBytes) bytes))

/-- Resets and power states of the function (R422 to R425): FUNCTION_LEVEL_RESET before ready clears the registers alone; with
no job it leaves rings 0 and 1 alone and empty and READY low until FUNCTION_LEVEL_RESET_READY; in D3hot messages are held, and
sent on the return to D0; an unsupported request is reported. -/
def Obligations.FunctionResets : Prop :=
  ∀ s : State,
    ((s.host.ready = false ∨ s.host.fatal = true) →
      exec .functionLevelReset s = .next { s with host := s.host.regsReset }) ∧
    (s.host.ready = true → s.host.fatal = false → s.job.image = none → s.job.run = none →
      ∃ s', exec .functionLevelReset s = .next s' ∧ s'.host.ready = false ∧ s'.host.flr = true ∧
        s'.host.intCause = 0 ∧ s'.rs.storage = [] ∧ s'.rs.ctxs = [] ∧
        s'.ring 0 = { kind := .command, die := 4, log2d := 8, pair := 1 } ∧
        s'.ring 1 = { kind := .completion, base := 256, die := 4, log2d := 8 } ∧
        (∀ n, 2 ≤ n → (s'.ring n).kind = .handle ∨ s'.ring n = {}) ∧ s'.job.deferred = [] ∧
        s'.trust.keys = s.trust.keys ∧ s'.mem.clay = s.mem.clay) ∧
    (s.host.flr = true → ∃ s', exec .functionLevelResetReady s = .next s' ∧ s'.host.ready = true ∧ s'.host.flr = false ∧
      s'.mem = s.mem ∧ s'.job = s.job) ∧
    (s.host.flr = false → exec .functionLevelResetReady s = .next s) ∧
    exec .d3hotEntry s = .next { s with host := { s.host with d3hot := true } } ∧
    (s.host.d3hot = false → exec .d0Return s = .next s) ∧
    (s.host.d3hot = true → ∃ s', exec .d0Return s = .next s' ∧ s'.host.d3hot = false ∧
      s' = { s with host := { s.host with d3hot := false, messages := s'.host.messages, msix := s'.host.msix } } ∧
      ∃ l, s'.host.messages = s.host.messages ++ l ∧ ∀ m ∈ l, (mapGet {} s.host.msix m.vector).addr = m.addr) ∧
    exec .unsupportedRequest s = .next { s with host := { s.host with aer := s.host.aer ++ [1] } } ∧
    ∀ v, s.host.d3hot = true → ∃ m, s.raiseVector v = { s with host := { s.host with msix := m } }

/-! ### The board (chapter 17) -/

/-- Power-up, boot and resets (R428, R457, R537 to R548, Tables 17.2 and 17.3): a power-up finds nothing of what the reset
loses; PWRGD_IN starts the boot; a boot stage that ends is followed by the next, at stage 0x08 by ready; one that times out
fails the boot for good; PERST_N restarts the boot at stage 0x02; keys, seat and audit log outlast each of them, counters all but
a power-up (the model's reading, notes/assumptions/104). -/
def Obligations.BoardAndBoot : Prop :=
  ∀ s : State,
    let kept (s' : State) : Prop := s'.trust.keys = s.trust.keys ∧ s'.trust.seat = s.trust.seat ∧
      s'.trust.rollback = s.trust.rollback ∧ s'.trust.audit = s.trust.audit ∧ s'.trust.fuses = s.trust.fuses
    let lost (s' : State) : Prop := s'.tiles = [] ∧ s'.mem = .initial ∧ s'.rs = .empty ∧ s'.job = JobState.none ∧
      s'.tilth = .initial ∧ s'.num = .none ∧ s'.host.ready = false
    let counts (s' : State) : Prop := s'.cnt = s.cnt.unshadow
    (∀ straps, (s.board.aon = true → exec (.powerUp straps) s = .next s) ∧
      (s.board.aon = false → ∃ s', exec (.powerUp straps) s = .next s' ∧ kept s' ∧ lost s' ∧ s'.cnt = .initial ∧ s'.sc = 0 ∧
        s'.board.aon = true ∧ s'.board.stage = (if s.board.pwrgd then 1 else 0) ∧ s'.board.sbAddr = straps ∧ s'.board.dynamic = none)) ∧
    (s.board.aon = true → ∃ s', exec .vin42Removed s = .next s' ∧ kept s' ∧ lost s' ∧ counts s' ∧ s'.board.aon = false ∧
      s'.board.powered = false ∧ s'.pow.rails = false ∧ s'.pow.tripped = false ∧
      s'.board.cause = if s.pow.latched = 0 then 1 else s.board.cause) ∧
    (s.pow.rails = true → ∃ s', exec .inputRange s = .next s' ∧ kept s' ∧ lost s' ∧ counts s' ∧ s'.pow.latched = 2 ∧
      s'.pow.rails = false ∧ s'.board.cause = 2 ∧ s'.board.pendingAudit = s.board.pendingAudit ++ [(0x401, s.pow.vin)]) ∧
    (s.board.aon = true → s.board.pwrgd = false → s.pow.latched = 0 → exec .pwrgdInRise s = .next { s with
      board := { s.board with
        pwrgd := true, stage := 1, perstSeen := s.board.perstN, pins := .functional
        shift := if s.board.tap.toNat = 3 then [false] else s.board.shift } }) ∧
    (s.board.aon = true → s.board.pwrgd = true → s.pow.latched = 0 → ∃ s', exec .pwrgdInFall s = .next s' ∧ kept s' ∧ lost s' ∧ counts s' ∧
      s'.board.cause = 5 ∧ s'.board.stage = 0 ∧ s'.pow.rails = false) ∧
    exec .perstNRise s = .next { s with board := { s.board with
      perstN := true, perstSeen := true, training := decide (3 ≤ s.board.stage), pins := .functional
      shift := if s.board.tap.toNat = 3 then [false] else s.board.shift } } ∧
    (s.board.pwrgd = true → s.board.perstSeen = true → s.pow.rails = true →
      ∃ s', exec .conventionalReset s = .next s' ∧ kept s' ∧ lost s' ∧ counts s' ∧ s'.board.stage = 2 ∧ s'.board.perstN = false ∧
        s'.board.cause = 4 ∧ s'.pow.rails = true ∧ s'.sc = s.sc) ∧
    (let boots := s.board.aon = true ∧ s.board.failed = false ∧ s.board.pcieClk = true
     (∀ r, boots → s.board.stage = 1 → r.ok = true → ∃ s', exec (.bootStageComplete r) s = .next s' ∧ kept s' ∧
       s'.board.stage = 2 ∧ s'.pow.rails = true ∧ s'.pow.computeRails = true ∧ s'.sc = 0) ∧
     (∀ r, boots → s.board.stage = 3 → ∀ a, s.trust.bootSlot = some a → ∃ s', exec (.bootStageComplete r) s = .next s' ∧
       s'.board.stage = 4 ∧ s'.trust.booted = some a ∧ s'.host.fwVer = BitVec.ofNat 32 (s.trust.slot a).fwVer) ∧
     (∀ r, boots → s.board.stage = 8 → r.ok = true → ∃ s', exec (.bootStageComplete r) s = .next s' ∧
       s'.board.stage = 9 ∧ s'.host.ready = true ∧ s'.trust.rollback = max s.trust.rollback s.running.svn ∧
       s'.trust.keys = s.trust.keys ∧ (s'.ring 0).kind = .command ∧ (s'.ring 1).kind = .completion) ∧
     (∀ r, boots → s.board.stage = 5 → r.ok = false → ∃ s', exec (.bootStageComplete r) s = .next s' ∧ kept s' ∧
       s'.board.failed = true ∧ s'.board.failStage = 5 ∧ s'.host.fatal = true)) ∧
    (s.board.failed = false → 1 ≤ s.board.stage → s.board.stage < 9 →
      ∃ s', exec .bootStageTimeout s = .next s' ∧ kept s' ∧ s'.board.failed = true ∧
        s'.board.failStage = s.board.stage ∧ s'.host.fatal = true ∧ s'.mem = s.mem) ∧
    (s.board.failed = false → 1 ≤ s.board.stage → s.board.stage < 9 →
      ∃ s', exec .pcieRefclkLoss s = .next s' ∧ s'.board.pcieClk = false ∧ s'.board.failed = true ∧ s'.host.fatal = true)

/-- The sideband's CCCs and the test port (R551 to R556): addresses are assigned to a target that has none, changed and
reset; a target with an address answers its provisional ID, BCR, DCR and status; each TAP instruction selects its register,
and EXTEST, CLAMP and HIGHZ take the pins only while PERST_N is low before the boot; nothing else of the package changes. -/
def Obligations.SidebandAndTestPort : Prop :=
  ∀ (s : State) (a : BitVec 7) (bits : List Bool),
    let to_ (i : Instr) (b : BoardState) : Prop := exec i s = .next { s with board := b }
    let b := s.board
    let free := b.perstN = false ∧ b.stage = 0
    (b.aon = true → b.dynamic = none →
      to_ (.entdaa a) { b with response := beBytes 6 s.provisionalId ++ [0, 0], dynamic := some a.toNat } ∧
      to_ (.setdasa a) { b with dynamic := some a.toNat }) ∧
    (∀ x, b.aon = true → b.dynamic = some x →
      to_ (.entdaa a) b ∧ to_ (.setdasa a) b ∧ to_ (.setnewda a) { b with dynamic := some a.toNat } ∧
      to_ .getpid { b with response := beBytes 6 s.provisionalId } ∧ to_ .getbcr { b with response := [0] } ∧
      to_ .getdcr { b with response := [0] } ∧ to_ .getstatus { b with response := [0, 0] }) ∧
    (b.aon = true → to_ .rstdaa { b with dynamic := none }) ∧ to_ .enec b ∧ to_ .disec b ∧
    (b.aon = true →
      to_ .idcode { b with
        tap := 0x01, shift := (List.range 32).map fun i => s.idcodeWord.testBit i, pins := .functional } ∧
      to_ (.samplePreload bits) { b with tap := 0x02, shift := bits, boundaryScan := bits, pins := .functional } ∧
      to_ .bypass { b with tap := 0xFF, shift := [false], pins := .functional } ∧
      (free →
        to_ .extest { b with tap := 0x03, shift := b.boundaryScan, pins := .scan b.boundaryScan } ∧
        to_ .clamp { b with tap := 0x04, shift := [false], pins := .scan b.boundaryScan } ∧
        to_ .highz { b with tap := 0x05, shift := [false], pins := .highZ }) ∧
      (¬ free →
        to_ .extest { b with tap := 0x03, shift := [false], pins := .functional } ∧
        to_ .clamp { b with tap := 0x04, shift := [false], pins := .functional } ∧
        to_ .highz { b with tap := 0x05, shift := [false], pins := .functional })) ∧
    (b.aon = false → ∀ i ∈ [Instr.entdaa a, .setdasa a, .setnewda a, .rstdaa, .getpid, .getbcr, .getdcr, .getstatus,
      .idcode, .samplePreload bits, .extest, .clamp, .highz, .bypass], to_ i b)

/-! ### Faults (chapter 15) -/

/-- Faults and background work (R223 to R228, R472, R482, R485, R486, R488): a fatal fault stops the package and answers
nothing more; a tile that fails with a spare left waits for the boundary, an engine or gather unit has no spare and is lost; a
management core that fails is noticed; a channel whose copy has ended, in the slots it needs, waits for its switch; a slot goes
to the first task by rank (whether a stack needs a refresh in it is a free value: notes/assumptions/72), and a deadline missed
is counted and noticed once. -/
def Obligations.FaultsAndFallowWork : Prop :=
  ∀ s : State,
    (s.host.fatal = true → ∀ u, exec (.fatal u) s = .next s ∧ exec (.unitFault u) s = .next s ∧
      (∀ n, exec (.coreFault n) s = .next s) ∧ ∀ d k, exec (.fallowSlotGrant d k) s = .next s) ∧
    (s.host.fatal = false → ∀ u, (∀ e ∈ s.rs.tasks, e.2.phase ≠ .running ∧ e.2.phase ≠ .aborting) →
      ∃ s', exec (.fatal u) s = .next s' ∧ s'.host.fatal = true ∧ s'.host.aer = s.host.aer ++ [3] ∧
        s'.host.intCause.getLsbD 4 = true ∧ s'.mem = s.mem ∧ s'.tiles = s.tiles ∧ s'.job = s.job ∧
        ∀ r, s'.startable r = false) ∧
    (s.host.fatal = false → ∀ n, n < 16 → s.unitLost 2 4 n = false → s.job.image = none →
      ∃ s', exec (.unitFault ⟨2, 4, n⟩) s = .next s' ∧ s'.unitLost 2 4 n = true ∧ s'.unitPower ⟨2, 4, n⟩ = .dark ∧
        s'.mem = s.mem ∧ s'.tiles = s.tiles) ∧
    (s.host.fatal = false → ∀ t : TileId, (s.tile t).busy = false → (s.tile t).clock = s.fc →
      s.unitLost 0x10 t.die.val t.tile.val = false → s.units.boundary = [] →
      mapGet 0 s.units.tileSpares (t.die.val * 16 + t.tile.val / 18) < 2 → s.job.image.isSome = true →
      exec (.unitFault ⟨0, t.die.val, t.tile.val⟩) s =
        .next { s with units := { s.units with boundary := [.tile t] } }) ∧
    (s.host.fatal = false → ∀ n, n < 8 → n ∉ s.units.coresDown → s.coreSparesLeft = 2 → s.servedBy n = [] →
      s.job.image.isSome = true →
      ∃ s', exec (.coreFault n) s = .next s' ∧ n ∈ s'.units.coresDown ∧ BoundaryItem.core n ∈ s'.units.boundary ∧
        s'.mem = s.mem ∧ s'.job = s.job) ∧
    (s.host.fatal = false → ∀ st ch, (st, ch) ∈ s.units.copying → s.job.image.isSome = true →
      channelBursts ≤ (s.bg bgCopy (st + 5) ch).slots →
      ∃ s', exec (.channelCopyComplete st ch) s = .next s' ∧ (st, ch) ∉ s'.units.copying ∧
        (st, ch) ∈ s'.units.switching ∧ BoundaryItem.channel st ch ∈ s'.units.boundary ∧
        s' = { s with units := s'.units }) ∧
    (∀ d k, s.hasSlots d k = false → exec (.fallowSlotGrant d k) s = .next s ∧
      ∀ kind, exec (.fallowDeadline kind d k) s = .next s) ∧
    (s.host.fatal = false → ∀ d k, s.hasSlots d k = true →
      ∃ v : State, v = { s with free := s.free + 1 } ∧
        let wants := v.backgroundOf d k (Config.freeNat s.free % 40 == 0)
        (wants = [] → exec (.fallowSlotGrant d k) s = .next v) ∧
        ∀ w, bestBackground wants = some w →
          w ∈ wants ∧ (∀ x ∈ wants, w.rank ≤ x.rank ∧ (x.rank = w.rank → x.waited ≤ w.waited)) ∧
          exec (.fallowSlotGrant d k) s = .next (v.useSlot d k w) ∧
          (w.task = .copy → v.useSlot d k w =
            v.setBg bgCopy d k { s.bg bgCopy d k with slots := (s.bg bgCopy d k).slots + 1 }) ∧
          (w.task = .periodic bgTelemetry → v.useSlot d k w =
            (v.setBg bgTelemetry d k { s.bg bgTelemetry d k with slots := (s.bg bgTelemetry d k).slots + 1 }).bgDone
              bgTelemetry d k)) ∧
    (s.host.fatal = false → ∀ kind d k t, s.hasSlots d k = true → kind ∈ kindsOf d →
      s.scSince (s.bg kind d k).from_ = some t →
      ((s.bg kind d k).missed = true → exec (.fallowDeadline kind d k) s = .next s) ∧
      ((s.bg kind d k).missed = false →
        ∃ s', exec (.fallowDeadline kind d k) s = .next s' ∧ (s'.bg kind d k).missed = true ∧
          (s'.bg kind d k).slots = (s.bg kind d k).slots ∧ s'.cnt = (s.count 3 1 false).cnt ∧
          s'.sc = s.sc + (bgDeadline kind - t) ∧ (kind = bgTelemetry → d * 65536 + k ∈ s'.units.telemetryMissing) ∧
          s' = { s with units := s'.units, cnt := s'.cnt, rs := s'.rs, host := s'.host, fc := s'.fc, sc := s'.sc }))

/-! ### Boundaries and reshards (chapters 11, 14 and 15) -/

/-- RESHARD, PERMUTATION_COMPLETE, HOLD_WAKE, HOLD_EXPIRY and BOUNDARY_WORK_COMPLETE (R364 to R369, R449, R450, R461 to R464):
a reshard without its conditions is refused with STATE, one in the middle of a run is DEFERRED to the next commit not yet sent;
a permutation is over once every moved shard is here; the units that a hold rests begin their wake; the leader's hold ends
when the longest has passed; with no run every moment is a boundary. -/
def Obligations.BoundariesAndReshards : Prop :=
  (∀ (s : State) (ring : Nat) (agree : Bool) (c : Cmd) (u : State),
    s.runsFor (.reshard ring agree) = some (c, u) → c.object < 2 ^ 32 →
    let can := u.job.image.isSome = true ∧ c.object = u.jobId ∧ u.isLeader = true ∧ u.job.reshard = none ∧
      u.job.standby.isSome = true ∧ agree = true
    let v : State := { u with job := { u.job with reshard := some c.ask } }
    (¬ can → exec (.reshard ring agree) s = .next (u.refuse c.ask 9)) ∧
    (can → u.job.run.isSome = true →
      (u.job.st.phase ≠ .committing ∨ u.job.commitOwed = true ∨ u.job.settleOwed = true) →
      exec (.reshard ring agree) s = .next ((v.answer c.ask 1 0 (1 :: wordsOf 2 u.job.epoch)).sendHold 1)) ∧
    (can → u.job.run.isSome = true → u.job.st.phase = .committing → u.job.commitOwed = false → u.job.settleOwed = false →
      exec (.reshard ring agree) s = .next (v.answer c.ask 1 0 (1 :: wordsOf 2 (u.job.epoch + 1)))) ∧
    (can → u.job.run = none → ∃ w : State, exec (.reshard ring agree) s = .next (w.sendHold 1) ∧
      w.job = { u.job with reshard := some c.ask, permuteSet := [] } ∧ (w.aux c.ask.ring).current = some c.ask ∧
      w.mem = u.mem)) ∧
  ∀ s : State,
    (s.job.permuting = false → exec .permutationComplete s = .next s) ∧
    (s.job.permuting = true → (∀ h ∈ s.movedShards, (h.layer, h.shard) ∈ s.job.received) →
      ∃ s', exec .permutationComplete s = .next s' ∧ s'.job = { s.job with permuting := false } ∧
        s'.mem.clay = s.mem.clay ∧
        (s.leader = s.fab.coord → ∃ n : Notice, s'.fab.noticesIn = s.fab.noticesIn ++ [n] ∧ n.code = 0x0D ∧
          n.src = s.fab.coord)) ∧
    (s.pow.hold = false → exec .holdWake s = .next s) ∧
    (s.pow.hold = true → s.imageUnits.Nodup → ∃ s', exec .holdWake s = .next s' ∧ s' = { s with units := s'.units } ∧
      ∀ n ∈ s.imageUnits, s.unitPower n = .nap → s'.unitPower n = .waking 2 s.fc [] []) ∧
    ((s.isLeader = false ∨ s.job.settleOwed = false ∨ s.job.holds = []) → exec .holdExpiry s = .next s) ∧
    (s.isLeader = true → s.job.settleOwed = true → s.job.holds ≠ [] →
      ∃ w : State, w.job.holds = [] ∧ exec .holdExpiry s = .next w.trySettle ∧
        (∀ x ∈ s.job.holds, s.job.commitSent + 25 * x.2 ≤ w.sc) ∧
        w = { s with job := { s.job with holds := [] }, fc := w.fc, sc := w.sc, scFc := w.scFc }) ∧
    (s.host.fatal = true → exec .boundaryWorkComplete s = .next s) ∧
    (s.host.fatal = false → s.job.run = none → s.job.st.phase = .idle →
      exec .boundaryWorkComplete s = .next s.doBoundaries ∧
      ∀ a b, s.units.boundary = [.linkLane a b] → s.doBoundaries = State.passFc (12 * fcPerSc s.pow.point)
        { s with units := { s.units with
          boundary := []
          linkSpares := mapSet 0 s.units.linkSpares (32 * a + b) (mapGet 0 s.units.linkSpares (32 * a + b) + 1) } }) ∧
    (s.host.fatal = false → s.job.run.isSome = true → s.job.st.phase = .running →
      exec .boundaryWorkComplete s = .next s)

/-! ### Gradients and updates (chapters 08, 09 and 11) -/

/-- REDUCTION_HOP, TILTH_FOLD, INVERSION_PHASE and GATHER_LOOKUP (R236 to R240, R274, R284, R294 to R297, R302): a hop sums
what waits, by the sum of its own format, and a sum with the expected count is whole; more than that aborts the step; a fold
takes the record that its unit takes next, 64 fc after the one before; an inversion happens once, when every contribution is
folded; a lookup serves one row. -/
def Obligations.GradientsAreSummedAndFolded : Prop :=
  ∀ s : State,
    (∀ bucket inputs d r rest x, (s.image Image.buckets)[bucket]? = some d → mapGet [] s.job.inlets bucket = r :: rest →
      s.taskStops (s.hopTask d) = false → r.tag = s.stepTag s.job.epoch → (s.bucketSum false bucket).whole = none →
      (s.bucketSum false bucket).contrib = none →
      x = takeTagged r.tag (min 5 (max 1 inputs)) (r :: rest) →
      let o := hopSum (Config.freeNat s.free % 256) r x.1.tail
      (o.record.contrib = d.contrib → o.nan = false →
        ∃ v : State, exec (.reductionHop bucket inputs) s = .next ((v.advanceBucket bucket d).noteComplete d.layer) ∧
          (v.bucketSum false bucket).whole = some o.record ∧ v.job.st.flags = s.job.st.flags ||| o.flags ∧
          v.mem = s.mem ∧ v.tiles = s.tiles ∧ v.tilth = s.tilth) ∧
      (d.contrib < o.record.contrib → s.job.st.phase = .running → s.job.abortCause = 0 →
        ∃ v : State, exec (.reductionHop bucket inputs) s = .next ((v.advanceBucket bucket d).noteComplete d.layer) ∧
          v.job.abortCause = 5 ∧ (v.bucketSum false bucket).whole = none ∧ v.mem = s.mem)) ∧
    (∀ slice x, (s.image Image.slices)[slice]? = some x →
      let unit := x.die * 8 + x.unit
      (s.nextRecord unit = none → exec (.tilthFold slice) s = .next s) ∧
      ∀ w, s.nextRecord unit = some w →
        ((s.job.st.phase ≠ .running ∨ w.slice ≠ slice) → exec (.tilthFold slice) s = .next s) ∧
        (s.job.st.phase = .running → w.slice = slice → s.job.deferred = [] →
          ∃ v : State, v.fc = max s.fc (mapGet 0 s.tilth.busyTo unit) ∧ v.mem = s.mem ∧ v.job = s.job ∧
            v.tilth = { s.tilth with
              waiting := mapSet [] s.tilth.waiting unit ((mapGet [] s.tilth.waiting unit).erase w)
              busyTo := mapSet 0 s.tilth.busyTo unit (v.fc + 64) } ∧
            (∀ o, v.foldRecord (v.tilthWork x.layer) x w.record (v.slice slice) = .ok o →
              ∃ t : State, exec (.tilthFold slice) s = .next (t.noteComplete x.layer) ∧ t.job = o.state.job ∧
                t.mem = o.state.mem ∧ t.tilth.slices = mapSet {} o.state.tilth.slices slice o.slice) ∧
            ∀ e, v.foldRecord (v.tilthWork x.layer) x w.record (v.slice slice) = .error e →
              exec (.tilthFold slice) s = .next ((v.tilthStops x.layer x.die x.unit e).noteComplete x.layer))) ∧
    (∀ slice x, (s.image Image.slices)[slice]? = some x →
      ((s.job.st.phase ≠ .running ∨ (s.tilthWork x.layer).prog.precond = false ∨ (s.slice slice).inverted = true ∨
          s.contributionsDone x.layer = false) → exec (.inversionPhase slice) s = .next s) ∧
      (s.job.st.phase = .running → (s.tilthWork x.layer).prog.precond = true → (s.slice slice).inverted = false →
        s.contributionsDone x.layer = true → s.taskStops (s.updateTask x.layer) = false →
        (∀ e, s.invertSlice (s.tilthWork x.layer) x = .error e →
          exec (.inversionPhase slice) s = .next (s.tilthStops x.layer x.die x.unit e)) ∧
        ∀ inv n, s.invertSlice (s.tilthWork x.layer) x = .ok (inv, n) →
          ∃ s', exec (.inversionPhase slice) s = .next s' ∧ (s'.slice slice).inverses = inv ∧
            (s'.slice slice).inverted = true ∧ s'.job.st.singular = min 65535 (s.job.st.singular + n) ∧
            s' = { s with job := s'.job, tilth := s'.tilth })) ∧
    ∀ layer row next,
      ((s.image Image.sparse).find? (fun t => t.layer == layer) = none → exec (.gatherLookup layer row next) s = .next s) ∧
      ∀ t, (s.image Image.sparse).find? (fun t => t.layer == layer) = some t →
        (t.rows ≤ row → exec (.gatherLookup layer row next) s = .next s) ∧
        (row < t.rows → ∀ b, s.rowBytes t row (if next then s.job.epoch + 1 else s.job.epoch) = .ok b →
          ∃ s', exec (.gatherLookup layer row next) s = .next s' ∧ s'.tilth = { s.tilth with gathered := b.1 } ∧
            s' = { s with tilth := s'.tilth, cnt := s'.cnt })

/-- SWEEP_START, SWEEP_COMPLETE, LAYER_SEAL, SHARD_DIGEST_CHECK, LAYER_COMPLETE and OWNER_COMMIT of a lend (R172, R175, R244,
R287 to R291, R490 to R493): a sweep starts when every contribution is folded; the layer is sealed 16 fc after its sweep; a
shard whose digest agrees (the one that came behind it, or the row's where none did: notes/assumptions/95) is received and
noted in the table of the next epoch, one that does not is fetched again; a lender follows its owner. -/
def Obligations.SweepsSealTheirLayers : Prop :=
  ∀ s : State,
    (∀ layer, ((s.job.st.phase ≠ .running ∨ s.hasUpdate layer = false ∨ layer ∈ s.tilth.sweeping ∨
        s.contributionsDone layer = false) → exec (.sweepStart layer) s = .next s) ∧
      (s.job.st.phase = .running → s.hasUpdate layer = true → layer ∉ s.tilth.sweeping →
        s.contributionsDone layer = true → s.slicesOf layer = [] → s.job.deferred = [] →
        s.taskStops (s.updateTask layer) = false →
        ∃ s', exec (.sweepStart layer) s = .next s' ∧ s'.tilth.sweeping = s.tilth.sweeping ++ [layer] ∧
          s' = { s with tilth := s'.tilth, fab := s'.fab }) ∧
      ((s.job.st.phase ≠ .running ∨ layer ∉ s.tilth.sweeping) → exec (.sweepComplete layer) s = .next s) ∧
      (s.job.st.phase = .running → layer ∈ s.tilth.sweeping → layer ∉ s.job.sealed → s.slicesOf layer = [] →
        s.taskStops (s.updateTask layer) = false →
        (∀ x ∈ s.tilth.sweptLayers, x.1 ≠ layer) → (∀ x ∈ s.job.rowSums, x.layer ≠ layer ∨ x.next = true) →
        (∀ h ∈ s.image Image.shards, h.layer ≠ layer ∨ s.owns h = false ∨ h.remote = true) →
        ∃ s', exec (.sweepComplete layer) s = .next s' ∧ s'.tilth.sweptLayers = s.tilth.sweptLayers ++ [(layer, s.fc)] ∧
          s'.job.st.flags = s.job.st.flags ||| mapGet 0 s.tilth.unitFlags 32 ∧
          s' = { s with tilth := s'.tilth, job := s'.job }) ∧
      ((∀ x ∈ s.tilth.sweptLayers, x.1 ≠ layer) → exec (.layerSeal layer) s = .next s) ∧
      ∀ x, s.tilth.sweptLayers.find? (fun x => x.1 == layer) = some x → s.job.st.phase = .running →
        (∀ h ∈ s.image Image.shards, h.layer ≠ layer ∨ s.owns h = false ∨ h.remote = false) →
        ∃ s', exec (.layerSeal layer) s = .next s' ∧ s'.fc = max s.fc (x.2 + 16) ∧
          (∀ y ∈ s'.tilth.sweptLayers, y.1 ≠ layer) ∧
          s'.job.st.layersPending =
            if layer ∈ s.ownedLayers then s.job.st.layersPending - 1 else s.job.st.layersPending) ∧
    (∀ layer shard given,
      let digest := ((s.job.digestsIn.find? fun d => d.1 == layer * 65536 + shard).map Prod.snd).getD given
      (s.shardDecl layer shard = none → exec (.shardDigestCheck layer shard given) s = .next s) ∧
      ∀ h, s.shardDecl layer shard = some h → s.job.repairing = [] → h.held = true →
        (layer, shard) ∉ s.job.received → s.job.permuting = false → s.job.st.phase = .running → s.owns h = false →
        (s.digestAt h (s.job.epoch + 1) = digest → h.layer = layer → h.shard = shard →
          ∃ s', exec (.shardDigestCheck layer shard given) s = .next s' ∧
            s'.job.st.recvPending = s.job.st.recvPending - 1 ∧ (layer, shard) ∈ s'.job.received ∧
            (digest ≠ 0 → mapGet 0 s'.job.nextDigests (layer * 65536 + shard) = digest) ∧ s'.mem.clay = s.mem.clay) ∧
        (s.digestAt h (s.job.epoch + 1) ≠ digest →
          ((h.layer, h.shard) ∈ s.job.refetched → exec (.shardDigestCheck layer shard given) s =
            .next (s.taskCause (s.gatherCtx h).2 { cause := 0x11, die := 4, tile := 0x1FF })) ∧
          ((h.layer, h.shard) ∉ s.job.refetched →
            ∃ s', exec (.shardDigestCheck layer shard given) s = .next s' ∧
              s'.job.refetched = s.job.refetched ++ [(h.layer, h.shard)] ∧ s'.mem = s.mem))) ∧
    ∀ (src : Nat) (n : Notice) (bs : List Byte) (u : State),
      (s.heard 0x0A src = some (n, bs, u) → ∀ lent : LentLayer,
        exec (.layerCompleteNotice src lent) s = .next (if lent.layer ≠ n.arg % 65536 then u
          else ((u.ownerJob src n.job).seeOwner src n.epoch).lentSweep src n.epoch n.job lent)) ∧
      (s.heard 0x0B src = some (n, bs, u) → mapWf {} u.mem.pages = true →
        ∃ s', exec (.ownerCommitNotice src) s = .next s' ∧ s'.mem.clay = u.mem.clay ∧
          let v := u.ownerJob src n.job
          mapGet 0 s'.tilth.lentEpoch src = max (mapGet 0 v.tilth.lentEpoch src) (n.epoch + 2) ∧
          (mapGet 0 v.tilth.lentEpoch src < n.epoch + 2 → ∀ q, (u.mem.page q).valid = true → (u.mem.page q).loc = .lent →
            (u.mem.page q).banked = true → (u.mem.page q).peer = src → (u.mem.page q).state = .sealed →
            (s'.mem.page q).state = .open_))

/-! ### The numerics watch (chapter 10) -/

/-- OVERFLOW_ENTRY, SIEVE_PAIR_RESULT and RESCALE (R51, R311 to R316, R321 to R326, R330): an entry of running work whose
limited block is on its way joins the record, the 16,385th of an attempt is lost; under the LAYER policy below the ceiling it
aborts the step and names the layer for a raise; a pair that fails aborts the step and counts in SFAIL; a pair of another
phase has no effect; a rescale that is due writes its scales and is due no more. -/
def Obligations.TheWatchActsOnItsEntries : Prop :=
  ∀ s : State,
    (∀ o : OvfIn, (s.entryLive o.entry = false ∨ s.takeLimited o = none) → exec (.overflowEntry o) s = .next s) ∧
    (∀ (o : OvfIn) (v : State), s.entryLive o.entry = true → s.takeLimited o = some v → o.entry.kind ≠ 2 →
      let e := o.entry
      let e' : OvfEntry := { e with rung := v.rungOf e.layer, count := min 255 e.count }
      let held := v.num.overflow.filter fun x => x.1.epoch == e.epoch && x.1.attempt == e.attempt
      ((e.layer ∉ v.rungLayers ∨ v.layerPolicy e.layer = false) →
        ∃ s', exec (.overflowEntry o) s = .next s' ∧ s' = { v with num := s'.num, cnt := s'.cnt } ∧
          (held.length < 16384 → s'.num = { v.num with overflow := v.num.overflow ++ [(e', false)] }) ∧
          (16384 ≤ held.length → s'.num.overflow = v.num.overflow)) ∧
      (e.layer ∈ v.rungLayers → v.layerPolicy e.layer = true → v.atCeil e.layer = false → e.spec = false →
        held.length < 16384 → v.job.st.phase = .running → v.job.abortCause = 0 →
        ∃ s', exec (.overflowEntry o) s = .next s' ∧ s'.num.overflow = v.num.overflow ++ [(e', false)] ∧
          s'.job.st.ovfPending = true ∧ s'.job.raiseOvf = setInsert v.job.raiseOvf e.layer ∧ s'.job.abortCause = 4 ∧
          s'.fc = v.fc + 1 ∧ s'.mem = v.mem ∧ s'.tiles = v.tiles)) ∧
    (∀ layer output narrow wide next,
      (((s.layerDecl layer).bind LayerDecl.sieve = none ∨ s.job.st.phase ≠ .running) →
        exec (.sievePairResult layer output narrow wide next) s = .next s) ∧
      ∀ v a b, (s.layerDecl layer).bind LayerDecl.sieve = some v → s.sieveHandles v.ring false = some (a, b) →
        s.job.st.phase = .running →
        let u := s.compared v.ring a b
        let x := u.sieveElems u.hubWork narrow
        let y := u.sieveElems u.hubWork wide
        let fails := pairFails (bitsOf (s.record layer) 63 48) x y
        (fails = true → s.job.abortCause = 0 →
          ∃ s', exec (.sievePairResult layer output narrow wide false) s = .next s' ∧ s'.job.st.sieveFail = true ∧
            s'.job.abortCause = 3 ∧ s'.mem = s.mem ∧
            (bitsOf (s.record layer) 17 16 = 0 → s'.job.rescaleNext = setInsert s.job.rescaleNext layer) ∧
            (1 ≤ bitsOf (s.record layer) 17 16 → s'.job.raiseSieve = setInsert s.job.raiseSieve layer)) ∧
        (fails = false →
          ∃ s', exec (.sievePairResult layer output narrow wide false) s = .next s' ∧
            mapGet 0 s'.num.passed layer = mapGet 0 s.num.passed layer + 1 ∧ s'.mem = s.mem ∧
            s'.job.abortCause = s.job.abortCause ∧ s'.job.st.sieveFail = s.job.st.sieveFail)) ∧
    ∀ layer,
      ((layer ∉ s.job.rescale ∨ s.job.st.phase ≠ .running) → exec (.rescale layer) s = .next s) ∧
      (layer ∈ s.job.rescale → s.job.st.phase = .running → (s.layerDecl layer).isSome = true →
        ∃ s', exec (.rescale layer) s = .next s' ∧ layer ∉ s'.job.rescale ∧
          (∀ l, l ≠ layer → (l ∈ s'.job.rescale ↔ l ∈ s.job.rescale)) ∧ s'.job.epoch = s.job.epoch)

/-! ### Integer and bitwise results of the vector engine (R71, Table 4.11) -/

/-- Over an integer format of w bits, the wrapping operations deliver the exact result modulo 2^w, the saturating ones the
exact result limited to the range of the format with an element counted when it was limited, minimum and maximum the lesser and
the greater operand; the bitwise operations work bit by bit; none raises a flag. -/
def Obligations.IntegerElements : Prop :=
  ∀ (f : VecF) (e : Elem),
    let k := VecF.sfmt f
    let w := k.bits
    k.isInt = true → e.a < 2 ^ w → e.b < 2 ^ w →
    let val (c : Nat) : Int := if k.isSignedInt = true ∧ 2 ^ (w - 1) ≤ c then (c : Int) - 2 ^ w else c
    let low : Int := if k.isSignedInt = true then -2 ^ (w - 1) else 0
    let high : Int := if k.isSignedInt = true then 2 ^ (w - 1) - 1 else 2 ^ w - 1
    let wraps (op : VecOp) (i : Int) : Prop :=
      (elemOut op f e).flags = 0 ∧ (elemOut op f e).sat = false ∧ ((elemOut op f e).code : Int) = i % 2 ^ w
    let limits (op : VecOp) (i : Int) : Prop :=
      (elemOut op f e).flags = 0 ∧ (elemOut op f e).sat = decide (i < low ∨ high < i) ∧
        val (elemOut op f e).code = max low (min high i)
    let bitwise (op : VecOp) (g : Bool → Bool → Bool) : Prop :=
      (elemOut op f e).flags = 0 ∧ (elemOut op f e).sat = false ∧ (elemOut op f e).code < 2 ^ w ∧
        ∀ i, i < w → (elemOut op f e).code.testBit i = g (e.a.testBit i) (e.b.testBit i)
    wraps .viadd (val e.a + val e.b) ∧ wraps .visub (val e.a - val e.b) ∧ wraps .vimul (val e.a * val e.b) ∧
    wraps .vimin (min (val e.a) (val e.b)) ∧ wraps .vimax (max (val e.a) (val e.b)) ∧
    limits .viadds (val e.a + val e.b) ∧ limits .visubs (val e.a - val e.b) ∧ limits .vimuls (val e.a * val e.b) ∧
    bitwise .vand (fun a b => a && b) ∧ bitwise .vor (fun a b => a || b) ∧ bitwise .vxor (fun a b => a != b) ∧
    bitwise .vnot (fun a _ => !a)

/-! ### The whole package -/

/-- Reset (R178, R229, R430, R441, R442, R446, R537, R543, Tables 13.3 and 17.3): boot stage 0x00 with no die rail and the
package not ready, E and sc 0, no page, ring, task or key, no entry in the audit log, the seat unbound, S and the warn budget
1,000 W, B 2,000 W; and every memory is in canonical form. -/
def Obligations.ResetIsTheStateTheSpecGives : Prop :=
  let s := State.reset
  s.pending = [] ∧ s.board.stage = 0 ∧ s.pow.rails = false ∧ s.pow.computeRails = false ∧ s.host.ready = false ∧
  s.host.fatal = false ∧ s.job.epoch = 0 ∧ s.job.image = none ∧ s.sc = 0 ∧ s.mem.pages = [] ∧ s.rs.rings = [] ∧
  s.rs.tasks = [] ∧ s.trust.keys = [] ∧ s.trust.audit = [] ∧ s.unseated = true ∧ s.pow.limit = 1000 ∧
  s.pow.budget = 2000 ∧ s.pow.warn = 1000 ∧ s.pow.lent = 0 ∧ s.host.intCause = 0 ∧ s.host.intEnable = 0 ∧
  (∀ r, mapGet 1 s.host.vectors r = 1) ∧ (∀ v, (mapGet {} s.host.msix v).masked = true) ∧
  (∀ t : TileId, (s.tile t).phase = .free) ∧ (∀ u, s.unitPower u = .active) ∧ s.memoriesWf = true ∧ s.tilesWf = true

/-- Each step takes one command from the queue; nothing changes what is fused; a key that is revoked stays revoked, and no key
that is enrolled is a revoked one. -/
def Obligations.RevokedKeysStayOut : Prop :=
  ∀ s s' : State, step s = .next s' → (∀ k ∈ s.trust.keys, k.keyId ∉ s.trust.revoked) →
    s'.pending = s.pending.tail ∧ s'.trust.fuses = s.trust.fuses ∧ (∀ k ∈ s.trust.revoked, k ∈ s'.trust.revoked) ∧
    ∀ k ∈ s'.trust.keys, k.keyId ∉ s'.trust.revoked

/-- Clay, ring storage and the host's memory keep their canonical form under every step. -/
def Obligations.MemoriesStayCanonical : Prop :=
  ∀ s s' : State, step s = .next s' → s.memoriesWf = true → s'.memoriesWf = true
end

