-- ==== Sys2Proof/Laws/Sparse.lean ====
section
/-! SUPPORT. Sparse maps and memories: what a key reads after each operation, and that every operation keeps the canonical
form. -/

namespace Sys2Proof.Machine

variable {α : Type}

@[simp] theorem mapGet_nil (d : α) (i : Nat) : mapGet d [] i = d := rfl

@[simp] theorem mapWf_nil [DecidableEq α] (d : α) : mapWf d [] = true := rfl

theorem mapWf_cons [DecidableEq α] {d : α} {k : Nat} {v : α} {m : Map α} :
    mapWf d ((k, v) :: m) = true ↔ v ≠ d ∧ mapAbove k m = true ∧ mapWf d m = true := by
  simp [mapWf, and_assoc]

theorem mapAbove_mono {n k : Nat} {m : Map α} (h : n ≤ k) (hm : mapAbove k m = true) : mapAbove n m = true := by
  cases m with
  | nil => rfl
  | cons e m => simp only [mapAbove, decide_eq_true_eq] at *; omega

/-- A key at or below a bound that every listed key is above reads as unlisted. -/
theorem mapGet_of_above {d : α} {n i : Nat} {m : Map α} (hm : mapAbove n m = true) (hi : i ≤ n) : mapGet d m i = d := by
  cases m with
  | nil => rfl
  | cons e m =>
    simp only [mapAbove, decide_eq_true_eq] at hm
    have h1 : i ≠ e.1 := by omega
    have h2 : i < e.1 := by omega
    simp [mapGet, h1, h2]

/-- Setting a key to a listed value: that key reads it, and every other key reads as before, whatever the map. -/
theorem mapGet_mapSet_listed [DecidableEq α] {d v : α} (hv : v ≠ d) (m : Map α) (i j : Nat) :
    mapGet d (mapSet d m i v) j = if j = i then v else mapGet d m j := by
  induction m with
  | nil =>
    rw [mapSet, if_neg hv]; simp only [mapGet]
    split <;> simp
  | cons e m ih =>
    obtain ⟨k, w⟩ := e
    simp only [mapSet]
    split
    · next hik => subst hik; simp only [mapGet]; split <;> rfl
    · split
      · simp only [mapGet]
        split
        · rfl
        · split
          · split
            · omega
            · simp; omega
          · rfl
      · simp only [mapGet, ih]
        split
        · split <;> first | omega | rfl
        · split
          · split <;> first | omega | rfl
          · rfl

/-- Of two values set one after the other at a key, the second stands. -/
theorem mapSet_mapSet_listed [DecidableEq α] {d v w : α} (hv : v ≠ d) (hw : w ≠ d) (m : Map α) (i : Nat) :
    mapSet d (mapSet d m i v) i w = mapSet d m i w := by
  induction m with
  | nil => simp [mapSet, hv, hw]
  | cons e m ih =>
    obtain ⟨k, x⟩ := e
    rcases Nat.lt_trichotomy i k with h | h | h
    · simp [mapSet, hv, hw, h, Nat.ne_of_lt h]
    · subst h; simp [mapSet, hv, hw]
    · simp [mapSet, Nat.ne_of_gt h, Nat.not_lt_of_gt h, ih]

theorem mapAbove_mapSet [DecidableEq α] {d v : α} {n i : Nat} {m : Map α} (hm : mapAbove n m = true)
    (hw : mapWf d m = true) (hi : n < i) : mapAbove n (mapSet d m i v) = true := by
  cases m with
  | nil => simp only [mapSet]; split <;> simp [mapAbove, hi]
  | cons e m =>
    obtain ⟨k, w⟩ := e
    simp only [mapAbove, decide_eq_true_eq] at hm
    obtain ⟨-, ha, -⟩ := mapWf_cons.1 hw
    simp only [mapSet]
    split
    · split
      · exact mapAbove_mono (by omega) ha
      · simpa [mapAbove] using hi
    · split
      · split <;> simp [mapAbove, hi, hm]
      · simpa [mapAbove] using hm

/-- A map in canonical form stays so when a key is set. -/
theorem mapWf_mapSet [DecidableEq α] {d : α} {m : Map α} (hw : mapWf d m = true) (i : Nat) (v : α) :
    mapWf d (mapSet d m i v) = true := by
  induction m with
  | nil => simp only [mapSet]; split <;> simp_all [mapWf, mapAbove]
  | cons e m ih =>
    obtain ⟨k, w⟩ := e
    obtain ⟨hw1, ha, hm⟩ := mapWf_cons.1 hw
    simp only [mapSet]
    split
    · subst_vars; split
      · exact hm
      · exact mapWf_cons.2 ⟨‹_›, ha, hm⟩
    · split
      · split
        · exact hw
        · exact mapWf_cons.2 ⟨‹_›, by simpa [mapAbove] using by omega, hw⟩
      · exact mapWf_cons.2 ⟨hw1, mapAbove_mapSet ha hm (by omega), ih hm⟩

/-- In canonical form a key that is set reads what it was set to, and every other key reads as before. -/
theorem mapGet_mapSet [DecidableEq α] {d : α} {m : Map α} (hw : mapWf d m = true) (i j : Nat) (v : α) :
    mapGet d (mapSet d m i v) j = if j = i then v else mapGet d m j := by
  by_cases hv : v = d
  · subst hv
    induction m with
    | nil => simp [mapSet]
    | cons e m ih =>
      obtain ⟨k, w⟩ := e
      obtain ⟨-, ha, hm⟩ := mapWf_cons.1 hw
      simp only [mapSet]
      split
      · next hik =>
        subst hik
        simp only [if_true, mapGet]
        by_cases hj : j = i
        · subst hj; simp [mapGet_of_above ha le_rfl]
        · simp only [hj, if_false]
          by_cases hlt : j < i
          · simp [hlt, mapGet_of_above ha (Nat.le_of_lt hlt)]
          · simp [hlt]
      · split
        · simp only [if_true, mapGet]
          by_cases hj : j = i
          · subst hj
            have : j ≠ k := by omega
            simp [*]
          · simp [hj]
        · simp only [mapGet, ih hm]
          by_cases hj : j = i
          · subst hj
            have h1 : j ≠ k := by omega
            have h2 : ¬ j < k := by omega
            simp [h1, h2]
          · simp [hj]
  · exact mapGet_mapSet_listed hv m i j

theorem mapAbove_filter {n : Nat} (p : Nat × α → Bool) {d : α} [DecidableEq α] {m : Map α} (hm : mapAbove n m = true)
    (hw : mapWf d m = true) : mapAbove n (m.filter p) = true := by
  induction m generalizing n with
  | nil => rfl
  | cons e m ih =>
    obtain ⟨k, w⟩ := e
    obtain ⟨-, ha, hm'⟩ := mapWf_cons.1 hw
    simp only [mapAbove, decide_eq_true_eq] at hm
    rw [List.filter_cons]
    split
    · simpa [mapAbove] using hm
    · exact ih (mapAbove_mono (Nat.le_of_lt hm) ha) hm'

/-- Entries left out of a canonical map leave it canonical. -/
theorem mapWf_filter [DecidableEq α] {d : α} {m : Map α} (p : Nat × α → Bool) (hw : mapWf d m = true) :
    mapWf d (m.filter p) = true := by
  induction m with
  | nil => rfl
  | cons e m ih =>
    obtain ⟨k, w⟩ := e
    obtain ⟨hw1, ha, hm⟩ := mapWf_cons.1 hw
    rw [List.filter_cons]
    split
    · exact mapWf_cons.2 ⟨hw1, mapAbove_filter p ha hm, ih hm⟩
    · exact ih hm

theorem mapWf_mapClearRange [DecidableEq α] {d : α} {m : Map α} (hw : mapWf d m = true) (a n : Nat) :
    mapWf d (mapClearRange a n m) = true := mapWf_filter _ hw

theorem mapWf_mapMap [DecidableEq α] {d : α} {m : Map α} (f : Nat → α → α) (hw : mapWf d m = true) :
    mapWf d (mapMap d f m) = true := by
  have key : ∀ (m : Map α), mapWf d m = true →
      mapWf d (mapMap d f m) = true ∧ ∀ n, mapAbove n m = true → mapAbove n (mapMap d f m) = true := by
    intro m
    induction m with
    | nil => intro _; exact ⟨rfl, fun _ _ => rfl⟩
    | cons e m ih =>
      intro hw
      obtain ⟨k, w⟩ := e
      obtain ⟨-, ha, hm⟩ := mapWf_cons.1 hw
      obtain ⟨h1, h2⟩ := ih hm
      simp only [mapMap]
      split
      · refine ⟨h1, fun n hn => h2 n (mapAbove_mono ?_ ha)⟩
        simp only [mapAbove, decide_eq_true_eq] at hn; omega
      · exact ⟨mapWf_cons.2 ⟨‹_›, h2 k ha, h1⟩, fun n hn => by simpa [mapAbove] using hn⟩
  exact (key m hw).1

/-- Every byte write keeps the canonical form of a memory. -/
theorem mapWf_memWrite {m : Map (BitVec 8)} (hw : mapWf 0 m = true) (a : Nat) (bs : List (BitVec 8)) :
    mapWf 0 (memWrite m a bs) = true := by
  induction bs generalizing m a with
  | nil => exact hw
  | cons b bs ih => exact ih (mapWf_mapSet hw a b) (a + 1)

/-- A byte after a write: the byte written there, or the byte that stood there. -/
theorem mapGet_memWrite {m : Map (BitVec 8)} (hw : mapWf 0 m = true) (a : Nat) (bs : List (BitVec 8)) (i : Nat) :
    mapGet 0 (memWrite m a bs) i = if a ≤ i ∧ i < a + bs.length then bs.getD (i - a) 0 else mapGet 0 m i := by
  induction bs generalizing m a with
  | nil =>
    have : ¬ (a ≤ i ∧ i < a + 0) := by omega
    simp only [memWrite, List.length_nil, this, if_false]
  | cons b bs ih =>
    simp only [memWrite, ih (mapWf_mapSet hw a b) (a + 1), mapGet_mapSet hw, List.length_cons]
    by_cases h1 : a + 1 ≤ i ∧ i < a + 1 + bs.length
    · have h2 : a ≤ i ∧ i < a + (bs.length + 1) := by omega
      have h3 : i - a = (i - (a + 1)) + 1 := by omega
      rw [if_pos h1, if_pos h2, h3, List.getD_cons_succ]
    · by_cases h4 : i = a
      · subst h4
        have h2 : i ≤ i ∧ i < i + (bs.length + 1) := by omega
        rw [if_neg h1, if_pos rfl, if_pos h2, Nat.sub_self, List.getD_cons_zero]
      · have h2 : ¬ (a ≤ i ∧ i < a + (bs.length + 1)) := by omega
        rw [if_neg h1, if_neg h4, if_neg h2]

/-- What was written is read back. -/
theorem memRead_memWrite {m : Map (BitVec 8)} (hw : mapWf 0 m = true) (a : Nat) (bs : List (BitVec 8)) :
    memRead (memWrite m a bs) a bs.length = bs := by
  apply List.ext_getElem
  · simp [memRead]
  · intro n h1 h2
    have h3 : a ≤ a + n ∧ a + n < a + bs.length := by omega
    simp only [memRead, List.getElem_map, List.getElem_range, mapGet_memWrite hw, if_pos h3]
    simp [List.getD_eq_getElem?_getD, h2]

@[simp] theorem leBytes_length (n v : Nat) : (leBytes n v).length = n := by
  induction n generalizing v with
  | zero => rfl
  | succ n ih => simp [leBytes, ih]

/-- The number that the little-endian bytes of a number spell (R3). -/
theorem leNat_leBytes (n v : Nat) : leNat (leBytes n v) = v % 256 ^ n := by
  induction n generalizing v with
  | zero => simp [leBytes, leNat, Nat.mod_one]
  | succ n ih =>
    have : v % (256 ^ n * 256) = v % 256 + 256 * (v / 256 % 256 ^ n) := by
      rw [mul_comm, Nat.mod_mul]
    simp [leBytes, leNat, ih, pow_succ, this]

end Sys2Proof.Machine
end

