-- ==== Sys2Proof/Laws/State.lean ====
section
/-! SUPPORT. What each named update of the state leaves as it was, field by field, and what reads back after it. -/

namespace Sys2Proof.Machine

/-! ### `State.setTile` -/

@[simp] theorem State.setTile_pending (t : TileId) (v : Tile) (s : State) : (s.setTile t v).pending = s.pending := rfl
@[simp] theorem State.setTile_free (t : TileId) (v : Tile) (s : State) : (s.setTile t v).free = s.free := rfl
@[simp] theorem State.setTile_fc (t : TileId) (v : Tile) (s : State) : (s.setTile t v).fc = s.fc := rfl
@[simp] theorem State.setTile_sc (t : TileId) (v : Tile) (s : State) : (s.setTile t v).sc = s.sc := rfl
@[simp] theorem State.setTile_scFc (t : TileId) (v : Tile) (s : State) : (s.setTile t v).scFc = s.scFc := rfl
@[simp] theorem State.setTile_mem (t : TileId) (v : Tile) (s : State) : (s.setTile t v).mem = s.mem := rfl
@[simp] theorem State.setTile_rs (t : TileId) (v : Tile) (s : State) : (s.setTile t v).rs = s.rs := rfl
@[simp] theorem State.setTile_job (t : TileId) (v : Tile) (s : State) : (s.setTile t v).job = s.job := rfl
@[simp] theorem State.setTile_tilth (t : TileId) (v : Tile) (s : State) : (s.setTile t v).tilth = s.tilth := rfl
@[simp] theorem State.setTile_num (t : TileId) (v : Tile) (s : State) : (s.setTile t v).num = s.num := rfl
@[simp] theorem State.setTile_fab (t : TileId) (v : Tile) (s : State) : (s.setTile t v).fab = s.fab := rfl
@[simp] theorem State.setTile_host (t : TileId) (v : Tile) (s : State) : (s.setTile t v).host = s.host := rfl
@[simp] theorem State.setTile_pow (t : TileId) (v : Tile) (s : State) : (s.setTile t v).pow = s.pow := rfl
@[simp] theorem State.setTile_units (t : TileId) (v : Tile) (s : State) : (s.setTile t v).units = s.units := rfl
@[simp] theorem State.setTile_trust (t : TileId) (v : Tile) (s : State) : (s.setTile t v).trust = s.trust := rfl
@[simp] theorem State.setTile_board (t : TileId) (v : Tile) (s : State) : (s.setTile t v).board = s.board := rfl
@[simp] theorem State.setTile_cnt (t : TileId) (v : Tile) (s : State) : (s.setTile t v).cnt = s.cnt := rfl

/-! ### `State.modTile` -/

@[simp] theorem State.modTile_pending (t : TileId) (f : Tile → Tile) (s : State) : (s.modTile t f).pending = s.pending := rfl
@[simp] theorem State.modTile_free (t : TileId) (f : Tile → Tile) (s : State) : (s.modTile t f).free = s.free := rfl
@[simp] theorem State.modTile_fc (t : TileId) (f : Tile → Tile) (s : State) : (s.modTile t f).fc = s.fc := rfl
@[simp] theorem State.modTile_sc (t : TileId) (f : Tile → Tile) (s : State) : (s.modTile t f).sc = s.sc := rfl
@[simp] theorem State.modTile_scFc (t : TileId) (f : Tile → Tile) (s : State) : (s.modTile t f).scFc = s.scFc := rfl
@[simp] theorem State.modTile_mem (t : TileId) (f : Tile → Tile) (s : State) : (s.modTile t f).mem = s.mem := rfl
@[simp] theorem State.modTile_rs (t : TileId) (f : Tile → Tile) (s : State) : (s.modTile t f).rs = s.rs := rfl
@[simp] theorem State.modTile_job (t : TileId) (f : Tile → Tile) (s : State) : (s.modTile t f).job = s.job := rfl
@[simp] theorem State.modTile_tilth (t : TileId) (f : Tile → Tile) (s : State) : (s.modTile t f).tilth = s.tilth := rfl
@[simp] theorem State.modTile_num (t : TileId) (f : Tile → Tile) (s : State) : (s.modTile t f).num = s.num := rfl
@[simp] theorem State.modTile_fab (t : TileId) (f : Tile → Tile) (s : State) : (s.modTile t f).fab = s.fab := rfl
@[simp] theorem State.modTile_host (t : TileId) (f : Tile → Tile) (s : State) : (s.modTile t f).host = s.host := rfl
@[simp] theorem State.modTile_pow (t : TileId) (f : Tile → Tile) (s : State) : (s.modTile t f).pow = s.pow := rfl
@[simp] theorem State.modTile_units (t : TileId) (f : Tile → Tile) (s : State) : (s.modTile t f).units = s.units := rfl
@[simp] theorem State.modTile_trust (t : TileId) (f : Tile → Tile) (s : State) : (s.modTile t f).trust = s.trust := rfl
@[simp] theorem State.modTile_board (t : TileId) (f : Tile → Tile) (s : State) : (s.modTile t f).board = s.board := rfl
@[simp] theorem State.modTile_cnt (t : TileId) (f : Tile → Tile) (s : State) : (s.modTile t f).cnt = s.cnt := rfl

/-! ### `State.passFc` -/

@[simp] theorem State.passFc_pending (n : Nat) (s : State) : (s.passFc n).pending = s.pending := rfl
@[simp] theorem State.passFc_free (n : Nat) (s : State) : (s.passFc n).free = s.free := rfl
@[simp] theorem State.passFc_tiles (n : Nat) (s : State) : (s.passFc n).tiles = s.tiles := rfl
@[simp] theorem State.passFc_mem (n : Nat) (s : State) : (s.passFc n).mem = s.mem := rfl
@[simp] theorem State.passFc_rs (n : Nat) (s : State) : (s.passFc n).rs = s.rs := rfl
@[simp] theorem State.passFc_job (n : Nat) (s : State) : (s.passFc n).job = s.job := rfl
@[simp] theorem State.passFc_tilth (n : Nat) (s : State) : (s.passFc n).tilth = s.tilth := rfl
@[simp] theorem State.passFc_num (n : Nat) (s : State) : (s.passFc n).num = s.num := rfl
@[simp] theorem State.passFc_fab (n : Nat) (s : State) : (s.passFc n).fab = s.fab := rfl
@[simp] theorem State.passFc_host (n : Nat) (s : State) : (s.passFc n).host = s.host := rfl
@[simp] theorem State.passFc_pow (n : Nat) (s : State) : (s.passFc n).pow = s.pow := rfl
@[simp] theorem State.passFc_units (n : Nat) (s : State) : (s.passFc n).units = s.units := rfl
@[simp] theorem State.passFc_trust (n : Nat) (s : State) : (s.passFc n).trust = s.trust := rfl
@[simp] theorem State.passFc_board (n : Nat) (s : State) : (s.passFc n).board = s.board := rfl
@[simp] theorem State.passFc_cnt (n : Nat) (s : State) : (s.passFc n).cnt = s.cnt := rfl

/-! ### `State.toFc` -/

@[simp] theorem State.toFc_pending (h : Nat) (s : State) : (s.toFc h).pending = s.pending := rfl
@[simp] theorem State.toFc_free (h : Nat) (s : State) : (s.toFc h).free = s.free := rfl
@[simp] theorem State.toFc_tiles (h : Nat) (s : State) : (s.toFc h).tiles = s.tiles := rfl
@[simp] theorem State.toFc_mem (h : Nat) (s : State) : (s.toFc h).mem = s.mem := rfl
@[simp] theorem State.toFc_rs (h : Nat) (s : State) : (s.toFc h).rs = s.rs := rfl
@[simp] theorem State.toFc_job (h : Nat) (s : State) : (s.toFc h).job = s.job := rfl
@[simp] theorem State.toFc_tilth (h : Nat) (s : State) : (s.toFc h).tilth = s.tilth := rfl
@[simp] theorem State.toFc_num (h : Nat) (s : State) : (s.toFc h).num = s.num := rfl
@[simp] theorem State.toFc_fab (h : Nat) (s : State) : (s.toFc h).fab = s.fab := rfl
@[simp] theorem State.toFc_host (h : Nat) (s : State) : (s.toFc h).host = s.host := rfl
@[simp] theorem State.toFc_pow (h : Nat) (s : State) : (s.toFc h).pow = s.pow := rfl
@[simp] theorem State.toFc_units (h : Nat) (s : State) : (s.toFc h).units = s.units := rfl
@[simp] theorem State.toFc_trust (h : Nat) (s : State) : (s.toFc h).trust = s.trust := rfl
@[simp] theorem State.toFc_board (h : Nat) (s : State) : (s.toFc h).board = s.board := rfl
@[simp] theorem State.toFc_cnt (h : Nat) (s : State) : (s.toFc h).cnt = s.cnt := rfl

/-! ### `State.catchUp` -/

@[simp] theorem State.catchUp_pending (t : TileId) (s : State) : (s.catchUp t).pending = s.pending := rfl
@[simp] theorem State.catchUp_free (t : TileId) (s : State) : (s.catchUp t).free = s.free := rfl
@[simp] theorem State.catchUp_tiles (t : TileId) (s : State) : (s.catchUp t).tiles = s.tiles := rfl
@[simp] theorem State.catchUp_mem (t : TileId) (s : State) : (s.catchUp t).mem = s.mem := rfl
@[simp] theorem State.catchUp_rs (t : TileId) (s : State) : (s.catchUp t).rs = s.rs := rfl
@[simp] theorem State.catchUp_job (t : TileId) (s : State) : (s.catchUp t).job = s.job := rfl
@[simp] theorem State.catchUp_tilth (t : TileId) (s : State) : (s.catchUp t).tilth = s.tilth := rfl
@[simp] theorem State.catchUp_num (t : TileId) (s : State) : (s.catchUp t).num = s.num := rfl
@[simp] theorem State.catchUp_fab (t : TileId) (s : State) : (s.catchUp t).fab = s.fab := rfl
@[simp] theorem State.catchUp_host (t : TileId) (s : State) : (s.catchUp t).host = s.host := rfl
@[simp] theorem State.catchUp_pow (t : TileId) (s : State) : (s.catchUp t).pow = s.pow := rfl
@[simp] theorem State.catchUp_units (t : TileId) (s : State) : (s.catchUp t).units = s.units := rfl
@[simp] theorem State.catchUp_trust (t : TileId) (s : State) : (s.catchUp t).trust = s.trust := rfl
@[simp] theorem State.catchUp_board (t : TileId) (s : State) : (s.catchUp t).board = s.board := rfl
@[simp] theorem State.catchUp_cnt (t : TileId) (s : State) : (s.catchUp t).cnt = s.cnt := rfl

/-! ### `State.setRing` -/

@[simp] theorem State.setRing_pending (r : Nat) (v : Ring) (s : State) : (s.setRing r v).pending = s.pending := rfl
@[simp] theorem State.setRing_free (r : Nat) (v : Ring) (s : State) : (s.setRing r v).free = s.free := rfl
@[simp] theorem State.setRing_fc (r : Nat) (v : Ring) (s : State) : (s.setRing r v).fc = s.fc := rfl
@[simp] theorem State.setRing_sc (r : Nat) (v : Ring) (s : State) : (s.setRing r v).sc = s.sc := rfl
@[simp] theorem State.setRing_scFc (r : Nat) (v : Ring) (s : State) : (s.setRing r v).scFc = s.scFc := rfl
@[simp] theorem State.setRing_tiles (r : Nat) (v : Ring) (s : State) : (s.setRing r v).tiles = s.tiles := rfl
@[simp] theorem State.setRing_mem (r : Nat) (v : Ring) (s : State) : (s.setRing r v).mem = s.mem := rfl
@[simp] theorem State.setRing_job (r : Nat) (v : Ring) (s : State) : (s.setRing r v).job = s.job := rfl
@[simp] theorem State.setRing_tilth (r : Nat) (v : Ring) (s : State) : (s.setRing r v).tilth = s.tilth := rfl
@[simp] theorem State.setRing_num (r : Nat) (v : Ring) (s : State) : (s.setRing r v).num = s.num := rfl
@[simp] theorem State.setRing_fab (r : Nat) (v : Ring) (s : State) : (s.setRing r v).fab = s.fab := rfl
@[simp] theorem State.setRing_host (r : Nat) (v : Ring) (s : State) : (s.setRing r v).host = s.host := rfl
@[simp] theorem State.setRing_pow (r : Nat) (v : Ring) (s : State) : (s.setRing r v).pow = s.pow := rfl
@[simp] theorem State.setRing_units (r : Nat) (v : Ring) (s : State) : (s.setRing r v).units = s.units := rfl
@[simp] theorem State.setRing_trust (r : Nat) (v : Ring) (s : State) : (s.setRing r v).trust = s.trust := rfl
@[simp] theorem State.setRing_board (r : Nat) (v : Ring) (s : State) : (s.setRing r v).board = s.board := rfl
@[simp] theorem State.setRing_cnt (r : Nat) (v : Ring) (s : State) : (s.setRing r v).cnt = s.cnt := rfl

/-! ### `State.setAux` -/

@[simp] theorem State.setAux_pending (r : Nat) (v : RingAux) (s : State) : (s.setAux r v).pending = s.pending := rfl
@[simp] theorem State.setAux_free (r : Nat) (v : RingAux) (s : State) : (s.setAux r v).free = s.free := rfl
@[simp] theorem State.setAux_fc (r : Nat) (v : RingAux) (s : State) : (s.setAux r v).fc = s.fc := rfl
@[simp] theorem State.setAux_sc (r : Nat) (v : RingAux) (s : State) : (s.setAux r v).sc = s.sc := rfl
@[simp] theorem State.setAux_scFc (r : Nat) (v : RingAux) (s : State) : (s.setAux r v).scFc = s.scFc := rfl
@[simp] theorem State.setAux_tiles (r : Nat) (v : RingAux) (s : State) : (s.setAux r v).tiles = s.tiles := rfl
@[simp] theorem State.setAux_mem (r : Nat) (v : RingAux) (s : State) : (s.setAux r v).mem = s.mem := rfl
@[simp] theorem State.setAux_job (r : Nat) (v : RingAux) (s : State) : (s.setAux r v).job = s.job := rfl
@[simp] theorem State.setAux_tilth (r : Nat) (v : RingAux) (s : State) : (s.setAux r v).tilth = s.tilth := rfl
@[simp] theorem State.setAux_num (r : Nat) (v : RingAux) (s : State) : (s.setAux r v).num = s.num := rfl
@[simp] theorem State.setAux_fab (r : Nat) (v : RingAux) (s : State) : (s.setAux r v).fab = s.fab := rfl
@[simp] theorem State.setAux_host (r : Nat) (v : RingAux) (s : State) : (s.setAux r v).host = s.host := rfl
@[simp] theorem State.setAux_pow (r : Nat) (v : RingAux) (s : State) : (s.setAux r v).pow = s.pow := rfl
@[simp] theorem State.setAux_units (r : Nat) (v : RingAux) (s : State) : (s.setAux r v).units = s.units := rfl
@[simp] theorem State.setAux_trust (r : Nat) (v : RingAux) (s : State) : (s.setAux r v).trust = s.trust := rfl
@[simp] theorem State.setAux_board (r : Nat) (v : RingAux) (s : State) : (s.setAux r v).board = s.board := rfl
@[simp] theorem State.setAux_cnt (r : Nat) (v : RingAux) (s : State) : (s.setAux r v).cnt = s.cnt := rfl

/-! ### `State.setTask` -/

@[simp] theorem State.setTask_pending (n : Nat) (v : Task) (s : State) : (s.setTask n v).pending = s.pending := rfl
@[simp] theorem State.setTask_free (n : Nat) (v : Task) (s : State) : (s.setTask n v).free = s.free := rfl
@[simp] theorem State.setTask_fc (n : Nat) (v : Task) (s : State) : (s.setTask n v).fc = s.fc := rfl
@[simp] theorem State.setTask_sc (n : Nat) (v : Task) (s : State) : (s.setTask n v).sc = s.sc := rfl
@[simp] theorem State.setTask_scFc (n : Nat) (v : Task) (s : State) : (s.setTask n v).scFc = s.scFc := rfl
@[simp] theorem State.setTask_tiles (n : Nat) (v : Task) (s : State) : (s.setTask n v).tiles = s.tiles := rfl
@[simp] theorem State.setTask_mem (n : Nat) (v : Task) (s : State) : (s.setTask n v).mem = s.mem := rfl
@[simp] theorem State.setTask_job (n : Nat) (v : Task) (s : State) : (s.setTask n v).job = s.job := rfl
@[simp] theorem State.setTask_tilth (n : Nat) (v : Task) (s : State) : (s.setTask n v).tilth = s.tilth := rfl
@[simp] theorem State.setTask_num (n : Nat) (v : Task) (s : State) : (s.setTask n v).num = s.num := rfl
@[simp] theorem State.setTask_fab (n : Nat) (v : Task) (s : State) : (s.setTask n v).fab = s.fab := rfl
@[simp] theorem State.setTask_host (n : Nat) (v : Task) (s : State) : (s.setTask n v).host = s.host := rfl
@[simp] theorem State.setTask_pow (n : Nat) (v : Task) (s : State) : (s.setTask n v).pow = s.pow := rfl
@[simp] theorem State.setTask_units (n : Nat) (v : Task) (s : State) : (s.setTask n v).units = s.units := rfl
@[simp] theorem State.setTask_trust (n : Nat) (v : Task) (s : State) : (s.setTask n v).trust = s.trust := rfl
@[simp] theorem State.setTask_board (n : Nat) (v : Task) (s : State) : (s.setTask n v).board = s.board := rfl
@[simp] theorem State.setTask_cnt (n : Nat) (v : Task) (s : State) : (s.setTask n v).cnt = s.cnt := rfl

/-! ### `State.setCtx` -/

@[simp] theorem State.setCtx_pending (n : Nat) (c : Ctx) (s : State) : (s.setCtx n c).pending = s.pending := rfl
@[simp] theorem State.setCtx_free (n : Nat) (c : Ctx) (s : State) : (s.setCtx n c).free = s.free := rfl
@[simp] theorem State.setCtx_fc (n : Nat) (c : Ctx) (s : State) : (s.setCtx n c).fc = s.fc := rfl
@[simp] theorem State.setCtx_sc (n : Nat) (c : Ctx) (s : State) : (s.setCtx n c).sc = s.sc := rfl
@[simp] theorem State.setCtx_scFc (n : Nat) (c : Ctx) (s : State) : (s.setCtx n c).scFc = s.scFc := rfl
@[simp] theorem State.setCtx_tiles (n : Nat) (c : Ctx) (s : State) : (s.setCtx n c).tiles = s.tiles := rfl
@[simp] theorem State.setCtx_mem (n : Nat) (c : Ctx) (s : State) : (s.setCtx n c).mem = s.mem := rfl
@[simp] theorem State.setCtx_job (n : Nat) (c : Ctx) (s : State) : (s.setCtx n c).job = s.job := rfl
@[simp] theorem State.setCtx_tilth (n : Nat) (c : Ctx) (s : State) : (s.setCtx n c).tilth = s.tilth := rfl
@[simp] theorem State.setCtx_num (n : Nat) (c : Ctx) (s : State) : (s.setCtx n c).num = s.num := rfl
@[simp] theorem State.setCtx_fab (n : Nat) (c : Ctx) (s : State) : (s.setCtx n c).fab = s.fab := rfl
@[simp] theorem State.setCtx_host (n : Nat) (c : Ctx) (s : State) : (s.setCtx n c).host = s.host := rfl
@[simp] theorem State.setCtx_pow (n : Nat) (c : Ctx) (s : State) : (s.setCtx n c).pow = s.pow := rfl
@[simp] theorem State.setCtx_units (n : Nat) (c : Ctx) (s : State) : (s.setCtx n c).units = s.units := rfl
@[simp] theorem State.setCtx_trust (n : Nat) (c : Ctx) (s : State) : (s.setCtx n c).trust = s.trust := rfl
@[simp] theorem State.setCtx_board (n : Nat) (c : Ctx) (s : State) : (s.setCtx n c).board = s.board := rfl
@[simp] theorem State.setCtx_cnt (n : Nat) (c : Ctx) (s : State) : (s.setCtx n c).cnt = s.cnt := rfl

/-! ### `State.hostWrite` -/

@[simp] theorem State.hostWrite_pending (a : Nat) (bs : List Byte) (s : State) : (s.hostWrite a bs).pending = s.pending := rfl
@[simp] theorem State.hostWrite_free (a : Nat) (bs : List Byte) (s : State) : (s.hostWrite a bs).free = s.free := rfl
@[simp] theorem State.hostWrite_fc (a : Nat) (bs : List Byte) (s : State) : (s.hostWrite a bs).fc = s.fc := rfl
@[simp] theorem State.hostWrite_sc (a : Nat) (bs : List Byte) (s : State) : (s.hostWrite a bs).sc = s.sc := rfl
@[simp] theorem State.hostWrite_scFc (a : Nat) (bs : List Byte) (s : State) : (s.hostWrite a bs).scFc = s.scFc := rfl
@[simp] theorem State.hostWrite_tiles (a : Nat) (bs : List Byte) (s : State) : (s.hostWrite a bs).tiles = s.tiles := rfl
@[simp] theorem State.hostWrite_mem (a : Nat) (bs : List Byte) (s : State) : (s.hostWrite a bs).mem = s.mem := rfl
@[simp] theorem State.hostWrite_rs (a : Nat) (bs : List Byte) (s : State) : (s.hostWrite a bs).rs = s.rs := rfl
@[simp] theorem State.hostWrite_job (a : Nat) (bs : List Byte) (s : State) : (s.hostWrite a bs).job = s.job := rfl
@[simp] theorem State.hostWrite_tilth (a : Nat) (bs : List Byte) (s : State) : (s.hostWrite a bs).tilth = s.tilth := rfl
@[simp] theorem State.hostWrite_num (a : Nat) (bs : List Byte) (s : State) : (s.hostWrite a bs).num = s.num := rfl
@[simp] theorem State.hostWrite_fab (a : Nat) (bs : List Byte) (s : State) : (s.hostWrite a bs).fab = s.fab := rfl
@[simp] theorem State.hostWrite_pow (a : Nat) (bs : List Byte) (s : State) : (s.hostWrite a bs).pow = s.pow := rfl
@[simp] theorem State.hostWrite_units (a : Nat) (bs : List Byte) (s : State) : (s.hostWrite a bs).units = s.units := rfl
@[simp] theorem State.hostWrite_trust (a : Nat) (bs : List Byte) (s : State) : (s.hostWrite a bs).trust = s.trust := rfl
@[simp] theorem State.hostWrite_board (a : Nat) (bs : List Byte) (s : State) : (s.hostWrite a bs).board = s.board := rfl
@[simp] theorem State.hostWrite_cnt (a : Nat) (bs : List Byte) (s : State) : (s.hostWrite a bs).cnt = s.cnt := rfl

/-! ### `State.countSource` -/

@[simp] theorem State.countSource_pending (a b c d e f : Nat) (g : Bool) (s : State) : (s.countSource a b c d e f g).pending = s.pending := rfl
@[simp] theorem State.countSource_free (a b c d e f : Nat) (g : Bool) (s : State) : (s.countSource a b c d e f g).free = s.free := rfl
@[simp] theorem State.countSource_fc (a b c d e f : Nat) (g : Bool) (s : State) : (s.countSource a b c d e f g).fc = s.fc := rfl
@[simp] theorem State.countSource_sc (a b c d e f : Nat) (g : Bool) (s : State) : (s.countSource a b c d e f g).sc = s.sc := rfl
@[simp] theorem State.countSource_scFc (a b c d e f : Nat) (g : Bool) (s : State) : (s.countSource a b c d e f g).scFc = s.scFc := rfl
@[simp] theorem State.countSource_tiles (a b c d e f : Nat) (g : Bool) (s : State) : (s.countSource a b c d e f g).tiles = s.tiles := rfl
@[simp] theorem State.countSource_mem (a b c d e f : Nat) (g : Bool) (s : State) : (s.countSource a b c d e f g).mem = s.mem := rfl
@[simp] theorem State.countSource_rs (a b c d e f : Nat) (g : Bool) (s : State) : (s.countSource a b c d e f g).rs = s.rs := rfl
@[simp] theorem State.countSource_job (a b c d e f : Nat) (g : Bool) (s : State) : (s.countSource a b c d e f g).job = s.job := rfl
@[simp] theorem State.countSource_tilth (a b c d e f : Nat) (g : Bool) (s : State) : (s.countSource a b c d e f g).tilth = s.tilth := rfl
@[simp] theorem State.countSource_num (a b c d e f : Nat) (g : Bool) (s : State) : (s.countSource a b c d e f g).num = s.num := rfl
@[simp] theorem State.countSource_fab (a b c d e f : Nat) (g : Bool) (s : State) : (s.countSource a b c d e f g).fab = s.fab := rfl
@[simp] theorem State.countSource_host (a b c d e f : Nat) (g : Bool) (s : State) : (s.countSource a b c d e f g).host = s.host := rfl
@[simp] theorem State.countSource_pow (a b c d e f : Nat) (g : Bool) (s : State) : (s.countSource a b c d e f g).pow = s.pow := rfl
@[simp] theorem State.countSource_units (a b c d e f : Nat) (g : Bool) (s : State) : (s.countSource a b c d e f g).units = s.units := rfl
@[simp] theorem State.countSource_trust (a b c d e f : Nat) (g : Bool) (s : State) : (s.countSource a b c d e f g).trust = s.trust := rfl
@[simp] theorem State.countSource_board (a b c d e f : Nat) (g : Bool) (s : State) : (s.countSource a b c d e f g).board = s.board := rfl

/-! ### Time -/

@[simp] theorem State.passFc_fc (n : Nat) (s : State) : (s.passFc n).fc = s.fc + n := rfl

/-- Time never runs back. -/
@[simp] theorem State.toFc_fc (h : Nat) (s : State) : (s.toFc h).fc = max s.fc h := by
  simp only [State.toFc, State.passFc_fc]; omega

@[simp] theorem State.toFc_tile (h : Nat) (s : State) (t : TileId) : (s.toFc h).tile t = s.tile t := rfl

@[simp] theorem State.catchUp_tile (u : TileId) (s : State) (t : TileId) : (s.catchUp u).tile t = s.tile t := rfl

/-! ### Reads after updates -/

/-- No two tiles share a number. -/
theorem TileId.key_injective {t u : TileId} (h : t.key = u.key) : t = u := by
  obtain ⟨⟨d, hd⟩, ⟨n, hn⟩⟩ := t
  obtain ⟨⟨d', hd'⟩, ⟨n', hn'⟩⟩ := u
  simp only [TileId.key] at h
  have h1 : d = d' := by omega
  have h2 : n = n' := by omega
  subst h1 h2; rfl

/-- A tile that is set to anything but the tile no task has used reads so, and every other tile reads as before. -/
theorem State.tile_setTile {v : Tile} (hv : v ≠ Tile.idle) (t u : TileId) (s : State) :
    (s.setTile t v).tile u = if u = t then v else s.tile u := by
  simp only [State.tile, State.setTile, mapGet_mapSet_listed hv]
  by_cases h : u = t
  · subst h; simp
  · have : u.key ≠ t.key := fun hk => h (TileId.key_injective hk)
    simp [h, this]

/-- A tile set twice is as it was set last. -/
theorem State.setTile_setTile {v w : Tile} (hv : v ≠ Tile.idle) (hw : w ≠ Tile.idle) (t : TileId) (s : State) :
    (s.setTile t v).setTile t w = s.setTile t w := by
  simp only [State.setTile, mapSet_mapSet_listed hv hw]

theorem State.tile_modTile {t u : TileId} {f : Tile → Tile} {s : State} (hv : f (s.tile t) ≠ Tile.idle) :
    (s.modTile t f).tile u = if u = t then f (s.tile t) else s.tile u := State.tile_setTile hv t u s

/-- A tile whose program has dispatched an instruction is not the tile that no task has used. -/
theorem Tile.ne_idle_of_seq {v : Tile} (h : v.seq ≠ 0) : v ≠ Tile.idle := fun hv => h (by rw [hv]; rfl)

/-- A tile whose part of a task is not over is not the tile that no task has used. -/
theorem Tile.ne_idle_of_phase {v : Tile} (h : v.phase ≠ .free) : v ≠ Tile.idle := fun hv => h (by rw [hv]; rfl)

theorem State.ring_setRing {v : Ring} (hv : v ≠ {}) (n m : Nat) (s : State) :
    (s.setRing n v).ring m = if m = n then v else s.ring m := mapGet_mapSet_listed hv _ _ _

theorem State.aux_setAux {v : RingAux} (hv : v ≠ {}) (n m : Nat) (s : State) :
    (s.setAux n v).aux m = if m = n then v else s.aux m := mapGet_mapSet_listed hv _ _ _

@[simp] theorem State.aux_setRing (n m : Nat) (v : Ring) (s : State) : (s.setRing n v).aux m = s.aux m := rfl

@[simp] theorem State.ring_setAux (n m : Nat) (v : RingAux) (s : State) : (s.setAux n v).ring m = s.ring m := rfl

theorem State.task_setTask {v : Task} (hv : v ≠ {}) (n m : Nat) (s : State) :
    (s.setTask n v).task m = if m = n then v else s.task m := mapGet_mapSet_listed hv _ _ _

theorem State.ctx_setCtx {v : Ctx} (hv : v ≠ {}) (n m : Nat) (s : State) :
    (s.setCtx n v).ctx m = if m = n then v else s.ctx m := mapGet_mapSet_listed hv _ _ _

@[simp] theorem State.task_setCtx (n m : Nat) (v : Ctx) (s : State) : (s.setCtx n v).task m = s.task m := rfl

@[simp] theorem State.ctx_setTask (n m : Nat) (v : Task) (s : State) : (s.setTask n v).ctx m = s.ctx m := rfl

end Sys2Proof.Machine
end

