-- ==== Sys2Proof/Laws/Causes.lean ====
section
/-! SUPPORT. What an abort cause can change: the fabric's queues of notices, the task, the step, and a count. -/

namespace Sys2Proof.Machine

/-- A notice reaches the fabric and nothing else. -/
theorem State.sendNotice_only (n : Notice) (s : State) : ∃ f, s.sendNotice n = { s with fab := f } := by
  simp only [State.sendNotice]
  split
  · exact ⟨_, rfl⟩
  · split <;> exact ⟨_, rfl⟩

theorem State.toLeader_only (n : Notice) (s : State) : ∃ f, s.toLeader n = { s with fab := f } :=
  State.sendNotice_only _ s

theorem State.foldl_sendNotice_only {α : Type} (g : α → Notice) (l : List α) (s : State) :
    ∃ f, l.foldl (fun (s : State) p => s.sendNotice (g p)) s = { s with fab := f } := by
  induction l generalizing s with
  | nil => exact ⟨_, rfl⟩
  | cons a l ih =>
    obtain ⟨f, hf⟩ := State.sendNotice_only (g a) s
    obtain ⟨f', hf'⟩ := ih (s.sendNotice (g a))
    exact ⟨f', by rw [List.foldl_cons, hf', hf]⟩

theorem State.tellAbort_only (n : Nat) (t : Task) (s : State) : ∃ f, s.tellAbort n t = { s with fab := f } :=
  State.foldl_sendNotice_only (fun p => { code := 9, dst := p, task := n, epoch := t.epoch, attempt := t.attempt }) _ s

/-- A cause of Table 8.4 touches the step's record and the fabric only. -/
theorem State.stepAbort_only (c : Nat) (s : State) : ∃ j f, s.stepAbort c = { s with job := j, fab := f } := by
  simp only [State.stepAbort]
  split
  · obtain ⟨f, hf⟩ := State.toLeader_only { code := 2, cause := c, attempt := s.job.st.attempt, epoch := s.job.epoch }
      { s with job := { s.job with abortCause := if s.job.abortCause = 0 then c else s.job.abortCause } }
    exact ⟨_, f, hf⟩
  · exact ⟨_, _, rfl⟩

theorem State.specCause_only (c : Nat) (s : State) : ∃ j f, s.specCause c = { s with job := j, fab := f } := by
  simp only [State.specCause]
  split
  · exact ⟨_, _, rfl⟩
  · obtain ⟨f, hf⟩ := State.toLeader_only
      { code := 2, cause := c, attempt := s.job.nextAttempt, epoch := s.job.epoch + 1 }
      { s with job := { s.job with abortNext := c } }
    exact ⟨_, f, hf⟩

theorem State.count_only (n k : Nat) (b : Bool) (s : State) : ∃ c, s.count n k b = { s with cnt := c } := by
  simp only [State.count]
  split <;> exact ⟨_, rfl⟩

/-- A task that aborts touches its own entry among the tasks, the step, the fabric and the counters, and nothing else; a task
that runs takes the cause's record. -/
theorem State.taskAborts_only (n a : Nat) (r : AbortRecord) (tell : Bool) (s : State) :
    ∃ k j f c, s.taskAborts n a r tell = { s with rs := { s.rs with tasks := k }, job := j, fab := f, cnt := c } ∧
      ((s.task n).phase = .running → k =
        mapSet {} s.rs.tasks n { s.task n with phase := .aborting, record := r, recordAt := s.hubArrival a r }) := by
  simp only [State.taskAborts]
  split
  · next h =>
    have hr : (s.task n).phase ≠ .running := by rcases h with h | h <;> simp [h]
    split
    · split
      · obtain ⟨c, hc⟩ := State.count_only 2 1 (s.task n).spec
          (s.setTask n { s.task n with record := r, recordAt := s.hubArrival a r })
        exact ⟨_, _, _, c, hc, fun h => absurd h hr⟩
      · obtain ⟨c, hc⟩ := State.count_only 2 1 (s.task n).spec s
        exact ⟨_, _, _, c, hc, fun h => absurd h hr⟩
    · split
      · exact ⟨_, _, _, _, rfl, fun h => absurd h hr⟩
      · exact ⟨_, _, _, _, rfl, fun h => absurd h hr⟩
  · split
    · generalize hs1 : s.setTask n { s.task n with phase := .aborting, record := r, recordAt := s.hubArrival a r } = s1
      have h1 : s1 = { s with rs := { s.rs with
          tasks := mapSet {} s.rs.tasks n
            { s.task n with phase := .aborting, record := r, recordAt := s.hubArrival a r } } } := hs1.symm
      have tell_only : ∃ f, (if tell = true then s1.tellAbort n (s.task n) else s1) = { s1 with fab := f } := by
        split
        · exact State.tellAbort_only _ _ _
        · exact ⟨_, rfl⟩
      obtain ⟨f, hf⟩ := tell_only
      rw [hf]
      split
      · obtain ⟨j, f', h'⟩ := State.stepAbort_only 1
          { { s1 with fab := f } with job := { s1.job with st := { s1.job.st with lastTask := n } } }
        exact ⟨_, j, f', s.cnt, by rw [h', h1], fun _ => rfl⟩
      · split
        · obtain ⟨j, f', h'⟩ := State.specCause_only 1 { s1 with fab := f }
          exact ⟨_, j, f', s.cnt, by rw [h', h1], fun _ => rfl⟩
        · exact ⟨_, s.job, f, s.cnt, by rw [h1], fun _ => rfl⟩
    · next h => exact ⟨_, _, _, _, rfl, fun h' => absurd h' h⟩

theorem State.taskCauseAt_only (n a : Nat) (r : AbortRecord) (s : State) :
    ∃ k j f c, s.taskCauseAt n a r = { s with rs := { s.rs with tasks := k }, job := j, fab := f, cnt := c } := by
  obtain ⟨k, j, f, c, h, -⟩ := State.taskAborts_only n a
    { r with pkg := if r.cause = 0x0B ∧ memoryFault r.code then r.pkg else s.fab.coord } true s
  exact ⟨k, j, f, c, h⟩

@[simp] theorem State.taskCauseAt_tile (n a : Nat) (r : AbortRecord) (s : State) (t : TileId) :
    (s.taskCauseAt n a r).tile t = s.tile t := by
  obtain ⟨k, j, f, c, h⟩ := State.taskCauseAt_only n a r s
  rw [h]; rfl

@[simp] theorem State.tile_modTile_halt (s : State) (t : TileId) (c : Nat) :
    (s.modTile t (Tile.halt c)).tile t = (s.tile t).halt c := by
  have h : (s.tile t).halt c ≠ Tile.idle := Tile.ne_idle_of_phase (by simp [Tile.halt])
  simp [State.tile_modTile h]

/-- A tile that stops of its own has its part aborted with the cause. -/
theorem State.stopTile_phase (t : TileId) (s : State) (now : Nat) (r : AbortRecord) :
    ((s.stopTile t now r).tile t).phase = .aborted r.cause := by
  simp only [State.stopTile, State.haltTile]
  by_cases h : r.cause = 12
  · rw [if_pos h, State.tile_modTile_halt]; rfl
  · rw [if_neg h, State.taskCauseAt_tile, State.tile_modTile_halt]; rfl

end Sys2Proof.Machine
end

