-- ==== Sys2Proof/Laws/Host.lean ====
section
/-! SUPPORT. What notices, replies, interrupts and audit entries can touch, and how a command row that has begun is carried
out. -/

namespace Sys2Proof.Machine

/-- An interrupt touches the host interface only. -/
theorem State.raiseVector_only (v : Nat) (s : State) : ∃ h, s.raiseVector v = { s with host := h } := by
  simp only [State.raiseVector]
  split <;> exact ⟨_, rfl⟩

theorem State.setCause_only (b : Nat) (s : State) : ∃ h, s.setCause b = { s with host := h } := by
  simp only [State.setCause]
  split
  · exact State.raiseVector_only 0 _
  · exact ⟨_, rfl⟩

/-- A reply written touches the rings only. -/
theorem State.writeReply_only (r : Nat) (bs : List Byte) (s : State) : ∃ q, s.writeReply r bs = { s with rs := q } :=
  ⟨_, rfl⟩

theorem State.passCommand_only (p : Passing) (s : State) : ∃ q, s.passCommand p = { s with rs := q } := ⟨_, rfl⟩

/-- A reply touches the rings and the host interface only. -/
theorem State.postReply_only (r : Nat) (x : HeldReply) (s : State) :
    ∃ q h, s.postReply r x = { s with rs := q, host := h } := by
  simp only [State.postReply]
  split
  · exact ⟨_, _, rfl⟩
  · split
    · exact ⟨_, _, rfl⟩
    · have hp : ∀ t : State, ∃ q, (x.pass.elim t fun p => t.passCommand p) = { t with rs := q } := by
        intro t
        cases x.pass with
        | none => exact ⟨_, rfl⟩
        | some p => exact State.passCommand_only p t
      obtain ⟨q, hq⟩ := hp (s.writeReply r (x.bytes.set 7 (x.bytes.getD 7 0 &&& 0x07)))
      rw [hq]
      split
      · obtain ⟨h, hh⟩ := State.raiseVector_only
          (State.ringVector { (s.writeReply r (x.bytes.set 7 (x.bytes.getD 7 0 &&& 0x07))) with rs := q } r)
          { (s.writeReply r (x.bytes.set 7 (x.bytes.getD 7 0 &&& 0x07))) with rs := q }
        exact ⟨q, h, hh⟩
      · exact ⟨q, _, rfl⟩

/-- A notice touches the rings and the host interface only. -/
theorem State.notice_only (c : Nat) (ws : List Word) (s : State) :
    ∃ q h, s.notice c ws = { s with rs := q, host := h } := by
  simp only [State.notice]
  split
  · obtain ⟨h, hh⟩ := State.raiseVector_only (s.ringVector 1)
      (s.writeReply 1 (replyBytes 0 0 c 0 true true false 0 1 ws))
    exact ⟨_, h, hh⟩
  · split <;> exact ⟨_, _, rfl⟩

/-- An audit entry touches the log, the rings and the host interface only. -/
theorem State.appendEntry_only (e : AuditEntry) (s : State) :
    ∃ t q h, s.appendEntry e = { s with trust := t, rs := q, host := h } ∧ t.fuses = s.trust.fuses ∧
      t.keys = s.trust.keys ∧ t.seat = s.trust.seat ∧ t.windows = s.trust.windows ∧ t.revoked = s.trust.revoked ∧
      t.slotA = s.trust.slotA ∧ t.slotB = s.trust.slotB ∧ t.booted = s.trust.booted ∧
      t.keptInstall = s.trust.keptInstall ∧ t.rollback = s.trust.rollback := by
  unfold State.appendEntry
  extract_lets n k stay later prev mine chain beyond first unread high _ u
  split
  · obtain ⟨q, h, hh⟩ := State.notice_only 0x805 (wordsOf 2 ((unread.map Prod.fst).headD 0)) u
    exact ⟨u.trust, q, h, hh, rfl, rfl, rfl, rfl, rfl, rfl, rfl, rfl, rfl, rfl⟩
  · exact ⟨u.trust, u.rs, u.host, rfl, rfl, rfl, rfl, rfl, rfl, rfl, rfl, rfl, rfl, rfl⟩

theorem State.foldl_appendEntry_only (g : Nat → AuditEntry) (l : List Nat) (s : State) :
    ∃ t q h, l.foldl (fun (s : State) i => s.appendEntry (g i)) s = { s with trust := t, rs := q, host := h } ∧
      t.fuses = s.trust.fuses ∧
      t.keys = s.trust.keys ∧ t.seat = s.trust.seat ∧ t.windows = s.trust.windows ∧ t.revoked = s.trust.revoked ∧
      t.slotA = s.trust.slotA ∧ t.slotB = s.trust.slotB ∧ t.booted = s.trust.booted ∧
      t.keptInstall = s.trust.keptInstall ∧ t.rollback = s.trust.rollback := by
  induction l generalizing s with
  | nil => exact ⟨_, _, _, rfl, rfl, rfl, rfl, rfl, rfl, rfl, rfl, rfl, rfl, rfl⟩
  | cons a l ih =>
    obtain ⟨t, q, h, e, h1, h2, h3, h4, h5, h6, h7, h8, h9, h10⟩ := State.appendEntry_only (g a) s
    obtain ⟨t', q', h', e', g1, g2, g3, g4, g5, g6, g7, g8, g9, g10⟩ := ih (s.appendEntry (g a))
    refine ⟨t', q', h', ?_, ?_⟩
    · rw [List.foldl_cons, e', e]
    · rw [e] at g1 g2 g3 g4 g5 g6 g7 g8 g9 g10
      exact ⟨g1.trans h1, g2.trans h2, g3.trans h3, g4.trans h4, g5.trans h5, g6.trans h6, g7.trans h7, g8.trans h8,
        g9.trans h9, g10.trans h10⟩

theorem State.appendAudit_only (e : AuditEntry) (s : State) :
    ∃ t q h, s.appendAudit e = { s with trust := t, rs := q, host := h } ∧ t.fuses = s.trust.fuses ∧
      t.keys = s.trust.keys ∧ t.seat = s.trust.seat ∧ t.windows = s.trust.windows ∧ t.revoked = s.trust.revoked ∧
      t.slotA = s.trust.slotA ∧ t.slotB = s.trust.slotB ∧ t.booted = s.trust.booted ∧
      t.keptInstall = s.trust.keptInstall ∧ t.rollback = s.trust.rollback :=
  State.foldl_appendEntry_only _ _ s

/-- A row of Tables 12.6 to 12.13 that has begun acts on the state in which its core has it and its nonce is taken. -/
theorem State.command_begun {s u : State} {op ring : Nat} {c : Cmd} (h : s.begun op ring = some (c, u))
    (act : Cmd → State → State) : s.command op ring act = act c u := by
  unfold State.begun at h
  unfold State.command
  cases hf : s.front ring with
  | none => simp [hf] at h
  | some c0 =>
    cases hk : s.coreFor ring with
    | none => simp [hf, hk] at h
    | some core =>
      simp only [hf, hk] at h ⊢
      split at h
      · cases h
      · next hn =>
        rw [if_neg hn]
        split at h
        · cases h
        · next s' a ha =>
          rw [ha]
          simp only at h ⊢
          split at h
          · cases h
          · next hn' =>
            rw [if_neg hn']
            cases h
            rfl

/-- PARAMETER passed. -/
theorem paramOr_good {c : Cmd} {used : List (Nat × Nat)} {object good : Bool} (hc : c.clean used object = true)
    (hg : good = true) (act : State → State) (s : State) : paramOr c used object good act s = act s := by
  simp [paramOr, hc, hg]

theorem paramOr_bad {c : Cmd} {used : List (Nat × Nat)} {object good : Bool} (hg : good = false) (act : State → State)
    (s : State) : paramOr c used object good act s = s.refuse c.ask refParameter := by
  simp [paramOr, hg]

/-- A command that runs has begun, and uses only the bytes of its row. -/
theorem State.runsFor_begun {s u : State} {i : Instr} {c : Cmd} (h : s.runsFor i = some (c, u)) :
    ∃ op ring used object, packetRow i = some (op, ring, used, object) ∧ s.begun op ring = some (c, u) ∧
      c.clean (used c) object = true := by
  unfold State.runsFor at h
  obtain ⟨r, hr, h⟩ := Option.bind_eq_some_iff.mp h
  have h' := Option.filter_eq_some_iff.mp h
  exact ⟨r.1, r.2.1, r.2.2.1, r.2.2.2, hr, h'.1, h'.2⟩

/-! ### Answers -/

/-- `v` is `u` with other rings, host interface and counters, and perhaps nonces taken. -/
def State.answeredFrom (u v : State) : Prop :=
  ∃ n q h k, v = { u with trust := { u.trust with nonces := n }, rs := q, host := h, cnt := k }

theorem State.answeredFrom_refl (u : State) : u.answeredFrom u := ⟨_, _, _, _, rfl⟩

theorem State.answeredFrom_trans {u v w : State} (h : u.answeredFrom v) (h' : v.answeredFrom w) : u.answeredFrom w := by
  obtain ⟨n, q, hs, k, rfl⟩ := h
  obtain ⟨n', q', h', k', rfl⟩ := h'
  exact ⟨_, _, _, _, rfl⟩

theorem State.reply_from (a : Ask) (cls code : Nat) (ws : List Word) (s : State) :
    s.answeredFrom (s.reply a cls code ws) := by
  obtain ⟨q, h, e⟩ := State.postReply_only (s.ring a.ring).pair ⟨s.replyFor a cls code ws, none⟩ s
  exact ⟨_, q, h, _, e⟩

theorem State.answerOnly_from (a : Ask) (cls code : Nat) (ws : List Word) (s : State) :
    s.answeredFrom (s.answerOnly a cls code ws) := by
  unfold State.answerOnly
  extract_lets bytes d x _ p t u _ v
  have ht : s.answeredFrom t := ⟨_, _, _, _, rfl⟩
  have hu : t.answeredFrom u := by
    obtain ⟨q, h, e⟩ := State.postReply_only d.pair ⟨bytes, some p⟩ t
    exact ⟨_, q, h, _, e⟩
  have hv : u.answeredFrom v := by
    show u.answeredFrom (if _ then _ else _)
    split
    · exact ⟨_, _, _, _, rfl⟩
    · exact State.answeredFrom_refl u
  exact State.answeredFrom_trans (State.answeredFrom_trans (State.answeredFrom_trans ht hu) hv) ⟨_, _, _, _, rfl⟩

theorem State.foldl_answerOnly_from {α : Type} (g : α → Ask) (l : List α) (s : State) :
    s.answeredFrom (l.foldl (fun (s : State) k => s.answerOnly (g k) 0 0 []) s) := by
  induction l generalizing s with
  | nil => exact State.answeredFrom_refl s
  | cons a l ih => exact State.answeredFrom_trans (State.answerOnly_from (g a) 0 0 [] s) (ih _)

theorem State.freeCancel_from (r q : Nat) (s : State) : s.answeredFrom (s.freeCancel r q) := by
  unfold State.freeCancel
  extract_lets x met
  split
  · exact State.answeredFrom_refl s
  · exact State.answeredFrom_trans (v := s.setAux r { x with cancel := x.cancel.filter fun k => k.1 != q })
      ⟨_, _, _, _, rfl⟩ (State.foldl_answerOnly_from Prod.snd met _)

/-- The checks of R385 take at most a nonce. -/
theorem State.accept_from (s : State) (c : Cmd) : s.answeredFrom (s.accept c).1 := by
  have hf : ∀ (p : State → State × ((Nat × Nat) ⊕ Ask)) (u : State), (∀ v, (p v).1 = v) → s.answeredFrom u →
      s.answeredFrom (p u).1 := fun p u h hu => by rw [h]; exact hu
  unfold State.accept
  extract_lets a
  repeat' split
  all_goals first
    | exact State.answeredFrom_refl s
    | skip
  all_goals
    extract_lets roles fin
    have hfin : ∀ v ro k t g, (fin v ro k t g).1 = v := by
      intro v ro k t g
      simp only [fin]
      repeat' split
      all_goals rfl
    repeat' split
    all_goals first
      | exact State.answeredFrom_refl s
      | (rw [hfin]; exact ⟨_, _, _, _, rfl⟩)

theorem State.settle_from (n : Nat) (s : State) : s.answeredFrom (s.settle n) := by
  induction n generalizing s with
  | zero => exact State.answeredFrom_refl s
  | succ n ih =>
    simp only [State.settle]
    split
    · exact State.answeredFrom_trans (State.answerOnly_from _ 0 0 [] s) (ih _)
    · split
      · next c _ =>
        have h := State.accept_from s c
        split
        · next s' code r0 e =>
          rw [e] at h
          exact State.answeredFrom_trans h (State.answeredFrom_trans (State.answerOnly_from _ _ _ _ _) (ih _))
        · exact State.answeredFrom_refl s
      · exact State.answeredFrom_refl s

/-- An answer touches the rings, the host interface, the counters and nonces, and nothing else. -/
theorem State.answer_from (a : Ask) (cls code : Nat) (ws : List Word) (s : State) :
    s.answeredFrom (s.answer a cls code ws) := by
  unfold State.answer
  extract_lets t
  have ht : s.answeredFrom t := State.answerOnly_from a cls code ws s
  refine State.answeredFrom_trans ht ?_
  split
  · exact State.settle_from _ _
  · exact State.answeredFrom_trans (State.freeCancel_from _ _ t) (State.settle_from _ _)

theorem State.final_from (a : Ask) (cls code : Nat) (ws : List Word) (s : State) :
    s.answeredFrom (s.final a cls code ws) := by
  unfold State.final
  extract_lets t _ u
  have ht : s.answeredFrom t := by
    show s.answeredFrom (if _ then _ else _)
    split
    · exact State.reply_from a cls code ws s
    · exact State.answeredFrom_refl s
  have hu : t.answeredFrom u := ⟨_, _, _, _, rfl⟩
  exact State.answeredFrom_trans (State.answeredFrom_trans ht hu)
    (State.answeredFrom_trans (State.freeCancel_from _ _ u) (State.settle_from _ _))

end Sys2Proof.Machine
end

