-- ==== Sys2Proof/Laws/Memory.lean ====
section
/-! SUPPORT. Every operation over a memory keeps the canonical form, a write is read back, and it leaves every other byte. -/

namespace Sys2Proof.Machine

/-! ### Clay (R141 to R153) -/

theorem MemState.write_wf {m : MemState} (h : Memory.wf m.clay = true) (pa : Nat) (bs : List Byte) :
    Memory.wf (m.write pa bs).clay = true :=
  mapWf_memWrite h pa bs

theorem MemState.clearFrame_wf {m : MemState} (h : Memory.wf m.clay = true) (f : Nat) :
    Memory.wf (m.clearFrame f).clay = true :=
  mapWf_mapClearRange h _ _

/-- Counting the bytes that cross die links touches the counters alone. -/
theorem State.countPath_only (spec : Bool) (a b n : Nat) (s : State) : ∃ c, s.countPath spec a b n = { s with cnt := c } := by
  unfold State.countPath
  extract_lets l
  generalize l.zip (l.drop 1) = z
  induction z generalizing s with
  | nil => exact ⟨s.cnt, rfl⟩
  | cons x z ih =>
    rw [List.foldl_cons]
    split
    · obtain ⟨c, hc⟩ := ih (s.countSource 1 x.1 0 0x0204 x.2 n spec)
      exact ⟨c, hc⟩
    · exact ih s

theorem countClay_only (source who : Nat) (spec : Bool) (fuel pa n : Nat) (s : State) :
    ∃ c, countClay source who spec fuel pa n s = { s with cnt := c } := by
  induction fuel generalizing pa n s with
  | zero => exact ⟨s.cnt, rfl⟩
  | succ fuel ih =>
    rw [countClay]
    extract_lets k st s1 s2
    split
    · exact ⟨s.cnt, rfl⟩
    · have h : ∃ c, s2 = { s with cnt := c } := by
        simp only [s2]
        split
        · obtain ⟨c, hc⟩ := State.countPath_only spec (st + 5) who k s1; exact ⟨c, hc⟩
        · obtain ⟨c, hc⟩ := State.countPath_only spec who (st + 5) k s1; exact ⟨c, hc⟩
      obtain ⟨c, hc⟩ := h
      rw [hc]
      obtain ⟨c', hc'⟩ := ih (pa + k) (n - k) { s with cnt := c }
      exact ⟨c', hc'⟩

/-- Counting the bytes of a clay access touches the counters alone. -/
theorem State.countClay_only (source who : Nat) (spec : Bool) (pa n : Nat) (s : State) :
    ∃ c, s.countClay source who spec pa n = { s with cnt := c } := by
  unfold State.countClay
  split
  · exact ⟨s.cnt, rfl⟩
  · exact Sys2Proof.Machine.countClay_only _ _ _ _ _ _ _

@[simp] theorem State.countClay_mem (source who : Nat) (spec : Bool) (pa n : Nat) (s : State) :
    (s.countClay source who spec pa n).mem = s.mem := by
  obtain ⟨c, hc⟩ := s.countClay_only source who spec pa n
  rw [hc]

theorem State.clearFrames_wf {s : State} (h : Memory.wf s.mem.clay = true) (fs : List Nat) :
    Memory.wf (s.clearFrames fs).mem.clay = true := by
  unfold State.clearFrames
  induction fs generalizing s with
  | nil => exact h
  | cons f fs ih => exact ih (by rw [State.countClay_mem]; exact MemState.clearFrame_wf h f)

theorem MemState.setPage_clay (m : MemState) (n : Nat) (p : Page) : (m.setPage n p).clay = m.clay := rfl

/-- What is written is read back. -/
theorem MemState.read_write {m : MemState} (h : Memory.wf m.clay = true) (pa : Nat) (bs : List Byte) :
    (m.write pa bs).read pa bs.length = bs :=
  memRead_memWrite h pa bs

/-- A write leaves every byte outside its range. -/
theorem MemState.get_write_outside {m : MemState} (h : Memory.wf m.clay = true) {pa : Nat} {bs : List Byte} {a : Nat}
    (ha : a < pa ∨ pa + bs.length ≤ a) : mapGet 0 (m.write pa bs).clay a = mapGet 0 m.clay a := by
  have e : (m.write pa bs).clay = memWrite m.clay pa bs := rfl
  rw [e, mapGet_memWrite h]
  split
  · omega
  · rfl

/-! ### Ring storage and the host's memory (R179, R375, R410) -/

theorem State.writeReply_wf {s : State} (h : Memory.wf s.rs.storage = true) (r : Nat) (bs : List Byte) :
    Memory.wf (s.writeReply r bs).rs.storage = true :=
  mapWf_memWrite h _ _

theorem State.hostWrite_wf {s : State} (h : Memory.wf s.host.memory = true) (a : Nat) (bs : List Byte) :
    Memory.wf (s.hostWrite a bs).host.memory = true :=
  mapWf_memWrite h a bs

/-- A loop that writes some of the bytes it is given. -/
theorem foldl_put_wf {α : Type} (c : α → Prop) [DecidablePred c] (k : α → Nat) (v : α → Byte) (l : List α)
    {m : Map Byte} (h : Memory.wf m = true) :
    Memory.wf (l.foldl (fun m x => if c x then mapSet 0 m (k x) (v x) else m) m) = true := by
  induction l generalizing m with
  | nil => exact h
  | cons x l ih =>
    rw [List.foldl_cons]
    refine ih ?_
    split
    · exact mapWf_mapSet h _ _
    · exact h

theorem ringWindowWrite_wf {s s' : State} (h : Memory.wf s.rs.storage = true) {o : BitVec 25} {d : HostData}
    (e : execRingWindowWrite o d s = .next s') : Memory.wf s'.rs.storage = true := by
  cases e
  split
  · exact h
  · exact foldl_put_wf _ _ _ _ h

/-! ### Silt (R84, R190) -/

theorem Tile.land_wf {t : Tile} (h : Memory.wf t.silt = true) (now : Nat) : Memory.wf (t.land now).silt = true := by
  unfold Tile.land
  generalize t.landing = l
  show Memory.wf (l.foldl _ t.silt) = true
  generalize t.silt = m at h
  induction l generalizing m with
  | nil => exact h
  | cons w l ih =>
    rw [List.foldl_cons]
    refine ih _ ?_
    split
    · exact mapWf_memWrite h _ _
    · exact h

/-! ### After reset -/

theorem reset_memoriesWf : State.reset.memoriesWf = true := rfl

theorem reset_tilesWf : State.reset.tilesWf = true := rfl

end Sys2Proof.Machine
end

