-- ==== Sys2Proof/Laws/Ports.lean ====
section
/-! SUPPORT. What sending touches: the fabric and the counters, and nothing else. -/

namespace Sys2Proof.Machine

/-- `s'` differs from `s` in the fabric and the counters alone. -/
def State.sentFrom (s s' : State) : Prop := ∃ f c, s' = { s with fab := f, cnt := c }

theorem State.sentFrom_refl (s : State) : s.sentFrom s := ⟨_, _, rfl⟩

theorem State.sentFrom_trans {s t u : State} (h : s.sentFrom t) (h' : t.sentFrom u) : s.sentFrom u := by
  obtain ⟨f, c, rfl⟩ := h
  obtain ⟨f', c', rfl⟩ := h'
  exact ⟨f', c', rfl⟩

/-- A loop of acts that send. -/
theorem State.foldl_sentFrom {α : Type} {act : State → α → State} (h : ∀ (s : State) (x : α), s.sentFrom (act s x)) (l : List α) (s : State) :
    s.sentFrom (l.foldl act s) := by
  induction l generalizing s with
  | nil => exact s.sentFrom_refl
  | cons x l ih => exact State.sentFrom_trans (h s x) (ih _)

theorem State.portSendsOne_sent {p : Nat} {s s' : State} (h : s.portSendsOne p = some s') : s.sentFrom s' := by
  unfold State.portSendsOne at h
  extract_lets d room can at h
  split at h
  · cases h
  · obtain ⟨o, -, rfl⟩ := Option.map_eq_some_iff.mp h
    exact ⟨_, _, rfl⟩

theorem State.portSendsAll_sent (p n : Nat) (s : State) : s.sentFrom (s.portSendsAll p n) := by
  induction n generalizing s with
  | zero => exact s.sentFrom_refl
  | succ n ih =>
    rw [State.portSendsAll]
    split
    · next h => exact State.sentFrom_trans (State.portSendsOne_sent h) (ih _)
    · exact s.sentFrom_refl

theorem State.countWaits_sent (p : Nat) (s : State) : s.sentFrom (s.countWaits p) := by
  unfold State.countWaits
  extract_lets d spec s'
  have h : s.sentFrom s' := State.foldl_sentFrom (fun s w => ⟨_, _, rfl⟩) _ s
  exact State.sentFrom_trans h ⟨_, _, rfl⟩

/-- A port that sends what it may. -/
theorem State.portSends_sent (p : Nat) (s : State) : s.sentFrom (s.portSends p) := by
  unfold State.portSends
  extract_lets s1 s2 d waiting waits
  have h1 : s.sentFrom s1 := by
    simp only [s1]
    split
    · exact s.sentFrom_refl
    · exact s.countWaits_sent p
  exact State.sentFrom_trans (State.sentFrom_trans h1 (s1.portSendsAll_sent p _)) ⟨_, _, rfl⟩

theorem State.portsSend_sent (s : State) : s.sentFrom s.portsSend :=
  State.foldl_sentFrom (fun s p => s.portSends_sent p) _ s

theorem State.sendFrame_sent (p : Nat) (f : Frame) (s : State) : s.sentFrom (s.sendFrame p f) :=
  State.sentFrom_trans (t := { s with fab := _ }) ⟨_, _, rfl⟩ (State.portSends_sent p _)

theorem State.sendStream_sent (h : Frame) (data : List Byte) (s : State) : s.sentFrom (s.sendStream h data) := by
  unfold State.sendStream
  extract_lets h1 ports most per pieces
  refine State.foldl_sentFrom (fun s x => ?_) _ s
  extract_lets f
  split
  · exact s.sendFrame_sent _ _
  · exact s.sentFrom_refl

theorem State.sendHeader_sent (h : Frame) (s : State) : s.sentFrom (s.sendHeader h) := by
  unfold State.sendHeader
  extract_lets h1
  split
  · exact s.sendFrame_sent _ _
  · exact s.sentFrom_refl

theorem State.sendReads_sent (h : Frame) (la n to_ : Nat) (s : State) : s.sentFrom (s.sendReads h la n to_) :=
  State.foldl_sentFrom (fun s _ => s.sendHeader_sent _) _ s

/-- Requests for what lies on another package. -/
theorem State.requestAway_sent (w : Work) (la n : Nat) (s : State) : s.sentFrom (s.requestAway w la n) := by
  unfold State.requestAway
  refine State.foldl_sentFrom (fun s c => ?_) _ s
  split
  · exact s.sendReads_sent _ _ _ _
  · exact s.sentFrom_refl

theorem State.countClay_sent (source who : Nat) (spec : Bool) (pa n : Nat) (s : State) :
    s.sentFrom (s.countClay source who spec pa n) := by
  obtain ⟨c, hc⟩ := s.countClay_only source who spec pa n
  exact ⟨s.fab, c, hc⟩

theorem State.countRead_sent (w : Work) (la n : Nat) (s : State) : s.sentFrom (s.countRead w la n) := by
  unfold State.countRead
  split
  · exact s.sentFrom_refl
  · refine State.foldl_sentFrom (fun s c => ?_) _ s
    split
    · exact s.countClay_sent _ _ _ _ _
    · exact s.sentFrom_refl

end Sys2Proof.Machine
end

