-- ==== Sys2Proof/Laws/Tile.lean ====
section
/-! SUPPORT. What the shared operations of a tile do: dispatch when it may be made, an event that the tile has reached, a fc in
which nothing can issue, and a stop. -/

namespace Sys2Proof.Machine

/-! ### Dispatch -/

theorem State.tileUntil_now {s : State} {t : TileId} {p : Tile → Bool} {n : Nat} (h : p (s.tile t) = true) :
    s.tileUntil t p (n + 1) = some s := by
  rw [State.tileUntil, if_pos h]

theorem State.tileWhen_now {s : State} {t : TileId} {p : Tile → Bool} {n : Nat}
    (h : p ((s.tileBegin t).tile t) = true) : s.tileWhen t p (n + 1) = some (s.tileBegin t) := by
  rw [State.tileWhen, if_pos h]

theorem State.fuelOf_pos (s : State) (t : TileId) : ∃ n, s.fuelOf t = n + 1 :=
  ⟨s.fuelOf t - 1, by simp only [State.fuelOf, Tile.fuel]; omega⟩

/-- When the tile stands at `w` and may dispatch it, its fc begins, the instruction takes effect in it, and time catches up. -/
theorem State.dispatch_ready {s : State} {t : TileId} {w : TileWord} {act : State → State} (h : s.ready t w = true) :
    s.dispatch t w act = (act (s.tileBegin t)).catchUp t := by
  simp only [State.ready, Bool.and_eq_true] at h
  obtain ⟨⟨h0, h1⟩, h2⟩ := h
  obtain ⟨n, hn⟩ := s.fuelOf_pos t
  have hw : s.tileWhen t (fun u => !u.atWord w || u.mayDispatch w) (s.fuelOf t) = some (s.tileBegin t) := by
    rw [hn]; exact State.tileWhen_now (by simp [h2])
  simp only [State.dispatch, h0, if_true, hw, h1]

theorem State.ready_phase {s : State} {t : TileId} {w : TileWord} (h : s.ready t w = true) :
    (s.tile t).phase = .running := by
  simp only [State.ready, Tile.atWord, Bool.and_eq_true, beq_iff_eq] at h
  exact h.1.1.1.1

/-- Setting one tile, with time caught up, is all that `tileBecomes` says. -/
theorem State.tileBecomes_of {s b : State} {i : Instr} {t : TileId} {u : Tile} (hu : u ≠ Tile.idle)
    (h : exec i s = .next ((b.setTile t u).catchUp t)) : s.tileBecomes b i t u := by
  refine ⟨_, h, ?_, ?_, rfl, ?_⟩
  · simp [State.tile_setTile hu]
  · intro v hv; simp [State.tile_setTile hu, hv]
  · simp [State.catchUp, State.tile_setTile hu]

/-- A control instruction that is ready: its effect is on its tile alone, in the fc that has begun. -/
theorem State.tileBecomes_control {s : State} {i : Instr} {t : TileId} {op : CtlOp} {f : CtlF} {act : Tile → Tile}
    (hu : act ((s.tileBegin t).tile t) ≠ Tile.idle) (hr : s.ready t (.ctl op f) = true)
    (h : exec i s = ok (s.control t op f act)) :
    s.tileBecomes (s.tileBegin t) i t (act ((s.tileBegin t).tile t)) := by
  refine State.tileBecomes_of hu ?_
  rw [h, State.control, State.dispatch_ready hr]; rfl

@[simp] theorem Tile.next_ne_idle (u : Tile) : u.next ≠ Tile.idle := Tile.ne_idle_of_seq (by simp [Tile.next])

@[simp] theorem Tile.branch_ne_idle (u : Tile) (n : Nat) : u.branch n ≠ Tile.idle :=
  Tile.ne_idle_of_seq (by simp [Tile.branch])

/-- A scalar register that is written reads what was written, and the others read as before. -/
theorem Tile.xGet_xSet (u : Tile) (r : Nat) (v : Word) (k : Nat) (hk : k < 16) :
    (u.xSet r v).xGet k = if k = r then v else u.xGet k := by
  simp only [Tile.xGet, Tile.xSet, Vector.getD]
  by_cases h : k = r
  · subst h; simp [hk]
  · have : ¬ r = k := fun e => h e.symm
    simp [h, this]

/-! ### Events -/

/-- A tile that has reached fc `h` is not run by `runTo h`. -/
theorem State.runTo_reached {s : State} {t : TileId} {h : Nat} (hc : h ≤ (s.tile t).clock) : s.runTo t h = s := by
  simp [State.runTo, State.tileTo, hc]

/-- An event whose fc the tile has just reached: what is due happens, on that tile alone. -/
theorem State.tileBecomes_event {s : State} {i : Instr} {t : TileId} {w : Tile → Option Nat}
    (hp : (s.tile t).due (s.tile t).clock ≠ Tile.idle) (hw : w (s.tile t) = some (s.tile t).clock)
    (h : exec i s = ok (s.eventAt t w)) : s.tileBecomes s i t ((s.tile t).due (s.tile t).clock) := by
  refine State.tileBecomes_of hp ?_
  obtain ⟨n, hf⟩ := s.fuelOf_pos t
  have hn : s.tileUntil t (fun u => (w u).all (· ≤ u.clock)) (s.fuelOf t) = some s := by
    rw [hf]; exact State.tileUntil_now (by simp [hw])
  rw [h, State.eventAt, hw]
  simp only [hn, State.modTile, hw, if_true]
  rfl

end Sys2Proof.Machine
end

