-- ==== Sys2Proof/Laws/Stops.lean ====
section
/-! SUPPORT. How a tile's program stops, and the end of a tile's fc. -/

namespace Sys2Proof.Machine

@[simp] theorem Tile.halt_ne_idle (u : Tile) (c : Nat) : u.halt c ≠ Tile.idle :=
  Tile.ne_idle_of_phase (by simp [Tile.halt])

@[simp] theorem Tile.land_phase (u : Tile) (n : Nat) : (u.land n).phase = u.phase := rfl

/-- Where no transfer is under way, an abort ends the tile's part and touches no other tile. -/
theorem State.haltTile_only {s : State} {t : TileId} (hx : (s.tile t).xfer = none) (c : Nat) :
    ∃ m, s.haltTile t c = { s with tiles := m } ∧ (s.haltTile t c).tile t = (s.tile t).halt c ∧
      ∀ v, v ≠ t → (s.haltTile t c).tile v = s.tile v := by
  simp only [State.haltTile, hx]
  refine ⟨_, rfl, State.tile_modTile_halt s t c, ?_⟩
  intro v hv
  rw [State.tile_modTile (Tile.halt_ne_idle _ _), if_neg hv]

/-- A stop on a tile without a transfer under way, for a cause of its own: what it touches, the tile, and the task's record. -/
theorem State.stopTile_only {s : State} {t : TileId} (hx : (s.tile t).xfer = none) (now : Nat) (r : AbortRecord)
    (hc : r.cause ≠ 0x0C) : ∃ m k j f n, s.stopTile t now r =
        { s with tiles := m, rs := { s.rs with tasks := k }, job := j, fab := f, cnt := n } ∧
      (s.stopTile t now r).tile t = (s.tile t).halt r.cause ∧
      ∀ v, v ≠ t → (s.stopTile t now r).tile v = s.tile v := by
  obtain ⟨m, hm, h1, h2⟩ := State.haltTile_only hx r.cause
  simp only [State.stopTile, if_neg hc]
  obtain ⟨k, j, f, n, hk⟩ := State.taskCauseAt_only (s.tile t).task now { r with die := t.die.val, tile := t.tile.val }
    (s.haltTile t r.cause)
  refine ⟨m, k, j, f, n, ?_, ?_, ?_⟩
  · refine Eq.trans hk ?_
    rw [hm]
  · rw [State.taskCauseAt_tile, h1]
  · intro v hv
    rw [State.taskCauseAt_tile, h2 v hv]

/-! ### One fc -/

@[simp] theorem Tile.shift_xfer (u : Tile) (q : Nat) (r : Bool) (h : u.xfer = none) : (u.shift q r).xfer = none := by
  simp [Tile.shift, h]

@[simp] theorem Tile.shift_phase (u : Tile) (q : Nat) (r : Bool) : (u.shift q r).phase = u.phase := rfl

theorem Tile.foldl_shift (l : List Nat) (g : Nat → Bool) (u : Tile) :
    (l.foldl (fun u q => u.shift q (g q)) u).phase = u.phase ∧
    (u.xfer = none → (l.foldl (fun u q => u.shift q (g q)) u).xfer = none) := by
  induction l generalizing u with
  | nil => exact ⟨rfl, id⟩
  | cons q l ih =>
    rw [List.foldl_cons]
    exact ⟨(ih _).1, fun h => (ih _).2 (Tile.shift_xfer u q (g q) h)⟩

theorem Tile.foldl_shift_clock (l : List Nat) (g : Nat → Bool) (u : Tile) :
    (l.foldl (fun u q => u.shift q (g q)) u).clock = u.clock := by
  induction l generalizing u with
  | nil => rfl
  | cons q l ih => rw [List.foldl_cons, ih]; rfl

/-- The banks' turns change no phase and begin no transfer. -/
@[simp] theorem Tile.arbitrate_phase (u : Tile) (n : Nat) (p : Bool) : (u.arbitrate n p).1.phase = u.phase :=
  (Tile.foldl_shift _ _ u).1

@[simp] theorem Tile.arbitrate_clock (u : Tile) (n : Nat) (p : Bool) : (u.arbitrate n p).1.clock = u.clock :=
  Tile.foldl_shift_clock _ _ u

theorem Tile.arbitrate_xfer {u : Tile} (h : u.xfer = none) (n : Nat) (p : Bool) : (u.arbitrate n p).1.xfer = none :=
  (Tile.foldl_shift _ _ u).2 h

@[simp] theorem Tile.vecsDue_phase (u : Tile) (n : Nat) : (u.vecsDue n).phase = u.phase := rfl

@[simp] theorem Tile.passesDue_phase (u : Tile) (n : Nat) : (u.passesDue n).phase = u.phase := rfl

@[simp] theorem Tile.land_clock (u : Tile) (n : Nat) : (u.land n).clock = u.clock := rfl

@[simp] theorem Tile.vecsDue_clock (u : Tile) (n : Nat) : (u.vecsDue n).clock = u.clock := rfl

@[simp] theorem Tile.passesDue_clock (u : Tile) (n : Nat) : (u.passesDue n).clock = u.clock := rfl

theorem mem_portWaits {w : SiltWrite} {now : Nat} {l : List SiltWrite} {e : Bool} (h : w ∈ portWaits now e l) :
    ∃ v ∈ l, v.own = w.own := by
  induction l generalizing e with
  | nil => cases h
  | cons v l ih =>
    rw [portWaits] at h
    split at h
    · rcases List.mem_cons.mp h with h | h
      · refine ⟨v, List.mem_cons_self, ?_⟩
        rw [h]; split <;> rfl
      · obtain ⟨x, hx, e⟩ := ih h; exact ⟨x, List.mem_cons_of_mem _ hx, e⟩
    · rcases List.mem_cons.mp h with h | h
      · exact ⟨v, List.mem_cons_self, by rw [h]⟩
      · obtain ⟨x, hx, e⟩ := ih h; exact ⟨x, List.mem_cons_of_mem _ hx, e⟩

/-- Where no row of another source waits, none enters. -/
theorem Tile.entered_arbitrate {u : Tile} (h : (u.landing.all fun w => w.own.isSome) = true) (n : Nat) (p : Bool)
    (now : Nat) : (u.arbitrate n p).1.entered now = [] := by
  have own : ∀ w ∈ (u.arbitrate n p).1.landing, w.own.isSome = true := by
    intro w hw
    obtain ⟨v, hv, e⟩ := mem_portWaits hw
    obtain ⟨x, hx, rfl⟩ := List.mem_map.mp hv
    have hs := List.all_eq_true.mp h x hx
    rw [← e]
    split
    · split <;> exact hs
    · exact hs
  have none : ((u.arbitrate n p).1.landing.filter fun w => w.own.isNone && decide (w.at_ ≤ now)) = [] := by
    rw [List.filter_eq_nil_iff]
    intro w hw
    have hs := own w hw
    cases hw' : w.own with
    | none => rw [hw'] at hs; cases hs
    | some _ => simp
  rw [Tile.entered, none]; rfl

/-- A held SYNC that resolves lets the program run; nothing else changes the phase. -/
theorem Tile.resolve_phase_ne {u : Tile} (h : u.phase ≠ .free) {now : Nat} : (u.resolve now).phase ≠ .free := by
  unfold Tile.resolve
  split
  · split
    · simp
    · exact h
  · exact h

theorem Tile.resolve_ne_idle {u : Tile} (h : u.phase ≠ .free) {now : Nat} : u.resolve now ≠ Tile.idle :=
  Tile.ne_idle_of_phase (Tile.resolve_phase_ne h)

theorem Tile.nextFc_ne_idle {u : Tile} (h : u.phase ≠ .free) : u.nextFc ≠ Tile.idle := Tile.ne_idle_of_phase h

@[simp] theorem Tile.resolve_clock (u : Tile) (now : Nat) : (u.resolve now).clock = u.clock := by
  unfold Tile.resolve
  split
  · split <;> rfl
  · rfl

@[simp] theorem Tile.fcOver_clock (u : Tile) : u.fcOver.clock = u.clock := by
  rw [Tile.fcOver, Tile.passesDue_clock, Tile.vecsDue_clock, Tile.land_clock, Tile.arbitrate_clock]

theorem Tile.due_phase (u : Tile) (n : Nat) : (u.due n).phase = u.phase := by
  simp only [Tile.due, Tile.qDue, Tile.loadsDue]
  split <;> rfl

/-- A tile whose fc has begun is not begun again. -/
theorem State.tileBegin_begun {s : State} {t : TileId} (h : (s.tile t).begun = true) : s.tileBegin t = s := by
  simp only [State.tileBegin, h, Bool.true_or, if_true]

/-- The fc of a tile that is alone ends: the banks' turns, what they take, a SYNC that resolves, and nothing beyond the tile. -/
theorem State.tileEnd_alone {s : State} {t : TileId} (ha : (s.tile t).alone = true) (hn : s.cnt.select = [])
    (hp : (s.tile t).phase ≠ .free) (hf : (s.tile t).atNone = false) :
    s.tileEnd t = s.setTile t (((s.tile t).fcOver.resolve (s.tile t).clock).nextFc) := by
  simp only [Tile.alone, Bool.and_eq_true, Option.isNone_iff_eq_none] at ha
  obtain ⟨⟨hx, hl⟩, hs⟩ := ha
  have idle {u : Tile} (h : u.phase = (s.tile t).phase) : u ≠ Tile.idle := Tile.ne_idle_of_phase (by rw [h]; exact hp)
  unfold State.tileEnd
  extract_lets t0 now b s1 s2 notes s3 s4 s5
  have hb : b.1 ≠ Tile.idle := idle (Tile.arbitrate_phase _ _ _)
  have h1 : s1 = s := by simp only [s1, hn, List.isEmpty_nil, if_true]
  have h2 : s2 = s.setTile t b.1 := by
    simp only [s2, h1, State.readXfer, State.tile_setTile hb, if_true, Tile.arbitrate_xfer hx, b, t0]
  have t2 : s2.tile t = b.1 := by rw [h2, State.tile_setTile hb, if_pos rfl]
  have hno : notes = [] := by
    simp only [notes, t2, b, t0]
    exact Tile.entered_arbitrate hl _ _ _
  have hc : ((b.1.land now).vecsDue now).passesDue now = t0.fcOver := rfl
  have p3 : t0.fcOver.phase = t0.phase := by
    rw [← hc, Tile.passesDue_phase, Tile.vecsDue_phase, Tile.land_phase, Tile.arbitrate_phase]
  have n3 : t0.fcOver.resolve now ≠ Tile.idle := Tile.resolve_ne_idle (by rw [p3]; exact hp)
  have h3 : s3 = s.setTile t (t0.fcOver.resolve now) := by
    simp only [s3, State.modTile, t2, hc]
    rw [h2, State.setTile_setTile hb n3]
  have n4 : (t0.fcOver.resolve now).nextFc ≠ Tile.idle := Tile.nextFc_ne_idle (Tile.resolve_phase_ne (by rw [p3]; exact hp))
  have h4 : s4 = s.setTile t (t0.fcOver.resolve now).nextFc := by
    simp only [s4, h3, State.modTile, State.tile_setTile n3, if_true]
    rw [← State.setTile_setTile n3 n4 t s, Tile.nextFc, Tile.resolve_clock, Tile.fcOver_clock]
  have h5 : s5 = s4 := by simp only [s5, hno, List.foldl_nil]
  have hf' : t0.fetchStop now = none := by simp only [Tile.fetchStop, t0, hf, Bool.false_and, Bool.false_eq_true, if_false]
  rw [hf', show t0.stop = none from hs, h5, h4]
  simp only [firstStop, ite_self]
  rfl

/-- A busy tile whose fc brings a stop stops in it, by that cause or one of a lower code. -/
theorem State.tileEnd_stops {s : State} {t : TileId} (hb : (s.tile t).busy = true) {r : AbortRecord}
    (ht : (s.tile t).stop = some r) : ∃ c, ((s.tileEnd t).tile t).phase = .aborted c ∧ c ≤ r.cause := by
  have stop : ∀ (x : Option AbortRecord), ∃ r', firstStop (some r) x = some r' ∧ r'.cause ≤ r.cause := by
    intro x
    cases x with
    | none => exact ⟨r, rfl, le_rfl⟩
    | some x =>
      simp only [firstStop]
      split
      · exact ⟨x, rfl, by omega⟩
      · exact ⟨r, rfl, le_rfl⟩
  unfold State.tileEnd
  extract_lets t0 now b s1 s2 notes s3 s4 s5
  obtain ⟨r', h1, h2⟩ := stop (t0.fetchStop now)
  rw [if_pos hb, ht, h1]
  exact ⟨r'.cause, State.stopTile_phase _ _ _ _, h2⟩

end Sys2Proof.Machine
end

