-- ==== Sys2Proof/Laws/Units.lean ====
section
/-! SUPPORT. What the updates of ports, units and background work leave as it was, field by field, and what reads back after
them. -/

namespace Sys2Proof.Machine

/-! ### `State.setPort` -/

@[simp] theorem State.setPort_pending (n : Nat) (p : Port) (s : State) : (s.setPort n p).pending = s.pending := rfl
@[simp] theorem State.setPort_free (n : Nat) (p : Port) (s : State) : (s.setPort n p).free = s.free := rfl
@[simp] theorem State.setPort_fc (n : Nat) (p : Port) (s : State) : (s.setPort n p).fc = s.fc := rfl
@[simp] theorem State.setPort_sc (n : Nat) (p : Port) (s : State) : (s.setPort n p).sc = s.sc := rfl
@[simp] theorem State.setPort_scFc (n : Nat) (p : Port) (s : State) : (s.setPort n p).scFc = s.scFc := rfl
@[simp] theorem State.setPort_tiles (n : Nat) (p : Port) (s : State) : (s.setPort n p).tiles = s.tiles := rfl
@[simp] theorem State.setPort_mem (n : Nat) (p : Port) (s : State) : (s.setPort n p).mem = s.mem := rfl
@[simp] theorem State.setPort_rs (n : Nat) (p : Port) (s : State) : (s.setPort n p).rs = s.rs := rfl
@[simp] theorem State.setPort_job (n : Nat) (p : Port) (s : State) : (s.setPort n p).job = s.job := rfl
@[simp] theorem State.setPort_tilth (n : Nat) (p : Port) (s : State) : (s.setPort n p).tilth = s.tilth := rfl
@[simp] theorem State.setPort_num (n : Nat) (p : Port) (s : State) : (s.setPort n p).num = s.num := rfl
@[simp] theorem State.setPort_host (n : Nat) (p : Port) (s : State) : (s.setPort n p).host = s.host := rfl
@[simp] theorem State.setPort_pow (n : Nat) (p : Port) (s : State) : (s.setPort n p).pow = s.pow := rfl
@[simp] theorem State.setPort_units (n : Nat) (p : Port) (s : State) : (s.setPort n p).units = s.units := rfl
@[simp] theorem State.setPort_trust (n : Nat) (p : Port) (s : State) : (s.setPort n p).trust = s.trust := rfl
@[simp] theorem State.setPort_board (n : Nat) (p : Port) (s : State) : (s.setPort n p).board = s.board := rfl
@[simp] theorem State.setPort_cnt (n : Nat) (p : Port) (s : State) : (s.setPort n p).cnt = s.cnt := rfl

/-! ### `State.setBg` -/

@[simp] theorem State.setBg_pending (k d u : Nat) (b : Background) (s : State) : (s.setBg k d u b).pending = s.pending := rfl
@[simp] theorem State.setBg_free (k d u : Nat) (b : Background) (s : State) : (s.setBg k d u b).free = s.free := rfl
@[simp] theorem State.setBg_fc (k d u : Nat) (b : Background) (s : State) : (s.setBg k d u b).fc = s.fc := rfl
@[simp] theorem State.setBg_sc (k d u : Nat) (b : Background) (s : State) : (s.setBg k d u b).sc = s.sc := rfl
@[simp] theorem State.setBg_scFc (k d u : Nat) (b : Background) (s : State) : (s.setBg k d u b).scFc = s.scFc := rfl
@[simp] theorem State.setBg_tiles (k d u : Nat) (b : Background) (s : State) : (s.setBg k d u b).tiles = s.tiles := rfl
@[simp] theorem State.setBg_mem (k d u : Nat) (b : Background) (s : State) : (s.setBg k d u b).mem = s.mem := rfl
@[simp] theorem State.setBg_rs (k d u : Nat) (b : Background) (s : State) : (s.setBg k d u b).rs = s.rs := rfl
@[simp] theorem State.setBg_job (k d u : Nat) (b : Background) (s : State) : (s.setBg k d u b).job = s.job := rfl
@[simp] theorem State.setBg_tilth (k d u : Nat) (b : Background) (s : State) : (s.setBg k d u b).tilth = s.tilth := rfl
@[simp] theorem State.setBg_num (k d u : Nat) (b : Background) (s : State) : (s.setBg k d u b).num = s.num := rfl
@[simp] theorem State.setBg_fab (k d u : Nat) (b : Background) (s : State) : (s.setBg k d u b).fab = s.fab := rfl
@[simp] theorem State.setBg_host (k d u : Nat) (b : Background) (s : State) : (s.setBg k d u b).host = s.host := rfl
@[simp] theorem State.setBg_pow (k d u : Nat) (b : Background) (s : State) : (s.setBg k d u b).pow = s.pow := rfl
@[simp] theorem State.setBg_trust (k d u : Nat) (b : Background) (s : State) : (s.setBg k d u b).trust = s.trust := rfl
@[simp] theorem State.setBg_board (k d u : Nat) (b : Background) (s : State) : (s.setBg k d u b).board = s.board := rfl
@[simp] theorem State.setBg_cnt (k d u : Nat) (b : Background) (s : State) : (s.setBg k d u b).cnt = s.cnt := rfl

/-! ### `State.setUnit` -/

/-- A unit's power state touches nothing but the units. -/
theorem State.setUnit_eq (u : UnitId) (p : UnitPower) (s : State) :
    s.setUnit u p = { s with units := (s.setUnit u p).units } := by
  simp only [State.setUnit]; split_ifs <;> rfl

theorem State.setUnit_power (u : UnitId) (p : UnitPower) (s : State) :
    (s.setUnit u p).units.power = mapSet .active s.units.power (UnitId.key u) p := by
  simp only [State.setUnit]; split_ifs <;> rfl

@[simp] theorem State.setUnit_pending (u : UnitId) (p : UnitPower) (s : State) : (s.setUnit u p).pending = s.pending := by
  rw [State.setUnit_eq]
@[simp] theorem State.setUnit_free (u : UnitId) (p : UnitPower) (s : State) : (s.setUnit u p).free = s.free := by
  rw [State.setUnit_eq]
@[simp] theorem State.setUnit_fc (u : UnitId) (p : UnitPower) (s : State) : (s.setUnit u p).fc = s.fc := by
  rw [State.setUnit_eq]
@[simp] theorem State.setUnit_sc (u : UnitId) (p : UnitPower) (s : State) : (s.setUnit u p).sc = s.sc := by
  rw [State.setUnit_eq]
@[simp] theorem State.setUnit_scFc (u : UnitId) (p : UnitPower) (s : State) : (s.setUnit u p).scFc = s.scFc := by
  rw [State.setUnit_eq]
@[simp] theorem State.setUnit_tiles (u : UnitId) (p : UnitPower) (s : State) : (s.setUnit u p).tiles = s.tiles := by
  rw [State.setUnit_eq]
@[simp] theorem State.setUnit_mem (u : UnitId) (p : UnitPower) (s : State) : (s.setUnit u p).mem = s.mem := by
  rw [State.setUnit_eq]
@[simp] theorem State.setUnit_rs (u : UnitId) (p : UnitPower) (s : State) : (s.setUnit u p).rs = s.rs := by
  rw [State.setUnit_eq]
@[simp] theorem State.setUnit_job (u : UnitId) (p : UnitPower) (s : State) : (s.setUnit u p).job = s.job := by
  rw [State.setUnit_eq]
@[simp] theorem State.setUnit_tilth (u : UnitId) (p : UnitPower) (s : State) : (s.setUnit u p).tilth = s.tilth := by
  rw [State.setUnit_eq]
@[simp] theorem State.setUnit_num (u : UnitId) (p : UnitPower) (s : State) : (s.setUnit u p).num = s.num := by
  rw [State.setUnit_eq]
@[simp] theorem State.setUnit_fab (u : UnitId) (p : UnitPower) (s : State) : (s.setUnit u p).fab = s.fab := by
  rw [State.setUnit_eq]
@[simp] theorem State.setUnit_host (u : UnitId) (p : UnitPower) (s : State) : (s.setUnit u p).host = s.host := by
  rw [State.setUnit_eq]
@[simp] theorem State.setUnit_pow (u : UnitId) (p : UnitPower) (s : State) : (s.setUnit u p).pow = s.pow := by
  rw [State.setUnit_eq]
@[simp] theorem State.setUnit_trust (u : UnitId) (p : UnitPower) (s : State) : (s.setUnit u p).trust = s.trust := by
  rw [State.setUnit_eq]
@[simp] theorem State.setUnit_board (u : UnitId) (p : UnitPower) (s : State) : (s.setUnit u p).board = s.board := by
  rw [State.setUnit_eq]
@[simp] theorem State.setUnit_cnt (u : UnitId) (p : UnitPower) (s : State) : (s.setUnit u p).cnt = s.cnt := by
  rw [State.setUnit_eq]

/-! ### Reads after updates -/

theorem State.port_setPort {p : Port} (hp : p ≠ {}) (n m : Nat) (s : State) :
    (s.setPort n p).port m = if m = n then p else s.port m := mapGet_mapSet_listed hp _ _ _

theorem State.bg_setBg {b : Background} (hb : b ≠ {}) (k d u k' d' u' : Nat) (s : State) :
    (s.setBg k d u b).bg k' d' u' = if bgKey k' d' u' = bgKey k d u then b else s.bg k' d' u' :=
  mapGet_mapSet_listed hb _ _ _

theorem State.unitPower_setUnit {p : UnitPower} (hp : p ≠ .active) (u v : UnitId) (s : State) :
    (s.setUnit u p).unitPower v = if UnitId.key v = UnitId.key u then p else s.unitPower v := by
  rw [State.unitPower, State.setUnit_power]; exact mapGet_mapSet_listed hp _ _ _

end Sys2Proof.Machine
end

