-- ==== Sys2Proof/Tests/Slice0.lean ====
section
/-! SUPPORT. Tests of single operations and steps, and for each statement with hypotheses states and operands that meet
them.  Values expected of the block are worked from the tables of the spec. -/

set_option Elab.async false
namespace Sys2Proof.Tests

open Sys2Proof Sys2Proof.Machine

/-! ### Operands that no command may have -/

def t0 : TileId := ⟨0, 0⟩
def t1 : TileId := ⟨1, 5⟩
def noFrame : Frame := { fkind := 1, nflit := 1, data := [1] }
def lent0 (l : Nat) : LentLayer := ⟨l, [], 0, [], 0⟩
def ovf0 (k : Nat) : OvfIn := ⟨⟨0, 0, k, 0, 0, 0, 0, false, 0⟩, t0⟩

theorem test_ill_ring : Ill.ring ∈ (Instr.nopCommand (2 ^ 18)).ill := by decide
theorem test_ill_context : Ill.context ∈ (Instr.streamLate (2 ^ 20)).ill := by decide
theorem test_ill_task : Ill.task ∈ (Instr.taskAssign t0 (2 ^ 16)).ill := by decide
theorem test_ill_die : Ill.die ∈ (Instr.stageEntryStart 26).ill := by decide
theorem test_ill_unit : Ill.unit ∈ (Instr.unitQuiesced ⟨256, 0, 0⟩).ill := by decide
theorem test_ill_page : Ill.page ∈ (Instr.migrationSwitch (2 ^ 27) true).ill := by decide
theorem test_ill_port : Ill.port ∈ (Instr.flitDiscarded 16).ill := by decide
theorem test_ill_coordinate : Ill.coordinate ∈ (Instr.commitNotice (2 ^ 20)).ill := by decide
theorem test_ill_layer : Ill.layer ∈ (Instr.layerSeal (2 ^ 16)).ill := by decide
theorem test_ill_record : Ill.record ∈ (Instr.taskAbort 0 { cause := 256 }).ill := by decide
theorem test_ill_bar0 : Ill.bar0 ∈ (Instr.registerWrite (2 ^ 26) 4 0).ill := by decide
theorem test_ill_bar2 : Ill.bar2 ∈ (Instr.apertureRead (2 ^ 36) 1).ill := by decide
theorem test_ill_window : Ill.window ∈ (Instr.ringWindowWrite 0x1FFFFFF#25 ⟨[0, 0], false⟩).ill := by decide
theorem test_ill_overflow : Ill.overflow ∈ (Instr.overflowEntry (ovf0 3)).ill := by decide
theorem test_ill_frameKind : Ill.frameKind ∈ (Instr.readReq 0 noFrame).ill := by decide
theorem test_ill_frameHeader : Ill.frameHeader ∈ (Instr.write 0 { noFrame with hops := 16 }).ill := by decide
theorem test_ill_frameData : Ill.frameData ∈ (Instr.write 0 { noFrame with nflit := 3 }).ill := by decide
theorem test_ill_control : Ill.control ∈ (Instr.controlFlit 0 ⟨2 ^ 11, false, [0, 0, 0, 0], 0, 0, 0, 0, none, false⟩).ill := by
  decide
theorem test_ill_delivery : Ill.delivery ∈ (Instr.delivery t0 (.data 0 0 [1])).ill := by decide
theorem test_ill_meters : Ill.meters ∈ (Instr.energySample ⟨0, [], none, none, []⟩).ill := by decide
theorem test_ill_points : Ill.points ∈ (Instr.powerPeriod ⟨0, 0, [], 0, 0, 0, false⟩).ill := by decide
theorem test_ill_stack : Ill.stack ∈ (Instr.channelCopyComplete 16 0).ill := by decide
theorem test_ill_core : Ill.core ∈ (Instr.coreFault 8).ill := by decide
theorem test_ill_background : Ill.background ∈ (Instr.fallowDeadline 6 0 0).ill := by decide
theorem test_ill_address : Ill.address ∈ (Instr.guestRead (2 ^ 48) 1).ill := by decide
theorem test_wellFormed : (Instr.write 0 noFrame).wellFormed = true ∧ (Instr.nopCommand 0x3FFFF).wellFormed = true ∧
    (Instr.taskAbort 0 { cause := 255 }).wellFormed = true ∧ (Instr.gradForward 15 { noFrame with fkind := 7 } (lent0 0)).ill = [] := by
  decide

/-! ### Tile words (the examples of chapter 04, and words from Tables 4.2 to 4.10) -/

def mpass0 : MatF := ⟨1, 0, 0, 1, 1, 0, 1, 0, 4, 0, 0, 0⟩
def vcvt0 : VecF := ⟨0, 3, 1, 0b100000, 0b110000, 0b110000, 6, 0, 0, 1, 0, 0, 0, 0, 0x3FF⟩

theorem test_word_mpass : decodeTile 0x204C880000000000 = some (.mat .mpass mpass0) := by decide
theorem test_word_vcvt : decodeTile 0x68063061830403FF = some (.vec .vcvt vcvt0) := by decide
/-- ADD x1, x2, IMM = 5: OP 0x02, XD 1, XA 2, XB 0, I 1. -/
theorem test_word_add : decodeTile 0x0212080000000005 = some (.ctl .add ⟨1, 2, 0, 0x800, 5⟩) := by decide
/-- XTILE with SA x6, SR x7, SH x8, ring 3 and POST. -/
theorem test_word_xtile : decodeTile 0x326780000E000000 = some (.xfer .xtile ⟨6, 7, 8, 3, 1, 0⟩) := by decide
/-- HGET into x9 from ring 5 with WAIT 1. -/
theorem test_word_hget : decodeTile 0x3890000500010000 = some (.hdl .hget ⟨9, 0, 5, 1, 0⟩) := by decide
theorem test_word_reserved : decodeTile 0x1C00000000000000 = none ∧ decodeTile 0x7F00000000000000 = none := by decide
theorem test_table_word : decodeTableWord 8 0 = none := by decide

/-! ### Tiles -/

/-- A state in which tile `t` is `u`. -/
def tileIn (t : TileId) (u : Tile) : State := State.reset.setTile t u

/-- A tile about to dispatch `w`, with the scalar registers `x`. -/
def standing (w : TileWord) (x : List Word) : Tile :=
  { Tile.idle with
    phase := .running, store := [(0, encodeTile w)], x := Vector.ofFn fun i : Fin 16 => x.getD i.val 0
    q := Vector.replicate 8 0x7F }

def ctl0 : CtlF := ⟨1, 2, 3, 0, 7⟩
def ctlAt (op : CtlOp) (f : CtlF) : State := tileIn t1 (standing (.ctl op f) [0, 5, 1, 4])

/-- Operation `op` of the control layout can be dispatched: with XB for the second source, and with IMM. -/
def ctlReady (op : CtlOp) : Bool :=
  (ctlAt op ctl0).ready t1 (.ctl op ctl0) && (ctlAt op { ctl0 with tgt := 0x800 }).ready t1 (.ctl op { ctl0 with tgt := 0x800 })

theorem test_scalar_ready : [CtlOp.nop, .li, .add, .sub, .mul, .and, .or, .xor, .slt, .sltu].all ctlReady = true := by
  decide +kernel
theorem test_shift_ready : [CtlOp.shl, .shr, .sra].all ctlReady = true := by decide +kernel
theorem test_branch_ready : [CtlOp.b, .beq, .bne, .blt, .bge, .loop, .li].all ctlReady = true := by decide +kernel
/-- IMM[9:0] of CSIG is legal in the first and names a K target without an F8 or K source format in the second. -/
theorem test_summary_ready : [CtlOp.bq, .bqz, .qmov, .csig].all ctlReady = true ∧ ctl0.xd.getLsbD 3 = false ∧
    csigLegal 0x51 = true ∧ csigLegal 7 = false ∧
    (ctlAt .csig { ctl0 with imm := 0x51 }).ready t1 (.ctl .csig { ctl0 with imm := 0x51 }) = true ∧
    (ctlAt .bq { ctl0 with xd := 8 }).ready t1 (.ctl .bq { ctl0 with xd := 8 }) = true ∧
    (((ctlAt .bq ctl0).tileBegin t1).tile t1).xfer = none := by decide +kernel
theorem test_control_register_ready : [CtlOp.crd, .cwr, .sync, .end_, .abort].all ctlReady = true := by decide +kernel

/-- The state after, at one tile. -/
def after (i : Instr) (s : State) : Option State :=
  match exec i s with
  | .next s' => some s'
  | _ => none

theorem test_add_wraps : (after (.add t1 ⟨1, 2, 3, 0, 0⟩) (tileIn t1 (standing (.ctl .add ⟨1, 2, 3, 0, 0⟩)
    [0, 0, 0xFFFFFFFF, 2]))).map (fun s => (s.tile t1).xGet 1) = some 1 := by decide +kernel
/-- The destination is also a source: 4 - 4 from IMM. -/
theorem test_sub_imm : (after (.sub t1 ⟨2, 2, 3, 0x800, 4⟩) (tileIn t1 (standing (.ctl .sub ⟨2, 2, 3, 0x800, 4⟩)
    [0, 0, 4, 9]))).map (fun s => (s.tile t1).xGet 2) = some 0 := by decide +kernel
theorem test_sra_wide : (after (.sra t1 ⟨1, 2, 3, 0, 0⟩) (tileIn t1 (standing (.ctl .sra ⟨1, 2, 3, 0, 0⟩)
    [0, 0, 0x80000000, 33]))).map (fun s => (s.tile t1).xGet 1) = some 0xFFFFFFFF := by decide +kernel
/-- A taken branch costs one fc more (R94). -/
theorem test_branch_costs : (after (.b t1 ⟨0, 0, 0, 9, 0⟩) (ctlAt .b ⟨0, 0, 0, 9, 0⟩)).map
    (fun s => ((s.tile t1).pc, (s.tile t1).nextDispatch)) = some (9, 2) := by decide +kernel

/-- SYNC with nothing under way, and with a pass in its sub-queue. -/
def sync0 : CtlF := ⟨0, 0, 0, 0, 1⟩
def queued (w : TileWord) : Queued := ⟨0, 0, 0, w, Vector.replicate 16 0⟩
theorem test_sync_ready :
    let a := standing (.ctl .sync sync0) []
    let b := { a with passQ := [queued (.mat .mpass mpass0)], seq := 1 }
    let v (u : Tile) : Tile := { ((tileIn t0 u).tileBegin t0).tile t0 with phase := .syncHold 1 u.seq }.fcOver
    (tileIn t0 a).ready t0 (.ctl .sync sync0) = true ∧ (((tileIn t0 a).tileBegin t0).tile t0).alone = true ∧
    (v a).finished 1 a.seq a.clock = true ∧ (tileIn t0 b).ready t0 (.ctl .sync sync0) = true ∧
    (((tileIn t0 b).tileBegin t0).tile t0).alone = true ∧ (v b).finished 1 b.seq b.clock = false := by decide +kernel

/-- A tile that a SYNC holds, with nothing else under way. -/
def holding : Tile := { Tile.idle with phase := .syncHold 15 1, seq := 1, clock := 7 }
theorem test_sync_satisfied_ready :
    let u := ((tileIn t0 holding).tileBegin t0).tile t0
    u.phase = .syncHold 15 1 ∧ u.alone = true ∧ (tileIn t0 holding).cnt.select = [] ∧
    u.fcOver.finished 15 1 u.clock = true := by decide +kernel

/-- END waits on a tile of a task of step E, and of one of speculative work. -/
def endTask (spec : Bool) : State :=
  let s := tileIn t0 { Tile.idle with phase := .endHold, task := 3, clock := 1, mflags := 2 }
  s.setTask 3 { phase := .running, step := true, epoch := 0, spec := spec, assigned := [0] }
theorem test_end_ready : ((endTask false).tile t0).phase = .endHold ∧
    ((endTask false).tile t0).finished 15 0 0 = true ∧ ((endTask false).task 3).step = true ∧
    ((endTask false).task 3).spec = false ∧ ((endTask true).task 3).spec = true := by decide +kernel
theorem test_abort_ready :
    let s := (tileIn t0 { standing (.ctl .abort ctl0) [] with task := 3 }).setTask 3 { phase := .running }
    let u := (s.tileBegin t0).tile t0
    s.ready t0 (.ctl .abort ctl0) = true ∧ u.xfer = none ∧ u.landing = [] ∧ u.task = 3 ∧
    ((s.tileBegin t0).task 3).phase = .running := by decide +kernel

/-- Each row of a unit dispatches into its sub-queue. -/
def queueReady (w : TileWord) : Bool := (tileIn t0 (standing w [])).ready t0 w
def vec0 : VecF := { vcvt0 with rel := 0 }
def xfer0 : XferF := ⟨1, 0, 0, 0, 0, 0⟩
theorem test_queue_ready :
    ([MatOp.mpass, .mload, .mdesc].all fun op => queueReady (.mat op mpass0)) = true ∧
    ([XferOp.xget, .xput, .xtile].all fun op => queueReady (.xfer op xfer0)) = true ∧
    ([VecOp.vadd, .vsub, .vmul, .vmin, .vmax, .vfma, .vabs, .vneg, .vcmp, .vsel, .viadd, .viadds, .visub, .visubs, .vimul,
      .vimuls, .vimin, .vimax].all fun op => queueReady (.vec op vec0)) = true ∧
    ([VecOp.vand, .vor, .vxor, .vnot, .vshl, .vshr, .vsra, .vcvt, .vrcp, .vsqrt, .vrsq, .vexp2, .vlog2, .vrsum, .vrmax,
      .vrmin, .vrnz, .vrnan, .vdesc].all fun op => queueReady (.vec op vec0)) = true := by decide +kernel

def image0 : Image :=
  { missing := [], job := 9, coord := 0, packages := [0], tclass := 0, features := 0, marginOnDie := 0, marginDieLink := 0
    marginFabric := 0, programs := [], tasks := [], rings := [], contexts := [], furrows := [], stages := [], orders := []
    slotPlan := [], routes := [], pins := [], moves := [], shards := [], slices := [], sparse := [], collectives := [], layers := [], lossWords := []
    buckets := [], frames := 0, keyId := 7, signature := [] }

def task0 (n : Nat) : TaskDecl :=
  { task := n, step := false, layers := [], rung := none, rescale := false, tiles := [], contexts := [], rings := []
    unitWork := false, sampleWord := none, home := 0 }

/-- A handle ring of depth 2 whose consumer is tile 0, of task 3, with the handles given. -/
def handleRing (hs : List HandleIn) (u : Tile) : State :=
  let s := tileIn t0 { u with task := 3 }
  let d : Ring := { kind := .handle, log2d := 1, task := 3, tile := some 0, head := 0, tail := hs.length }
  { s.setRing 7 d with
    rs := { (s.setRing 7 d).rs with handles := mapSet [] [] 7 hs }
    job := { JobState.none with image := some { image0 with tasks := [{ task0 3 with rings := [7] }] } } }
def hdl0 (wait : BitVec 16) : HdlF := ⟨4, 0, 7, wait, 0⟩
theorem test_hget_ready :
    let begins (s : State) : State := (s.tileBegin t0).pullRing 7 0
    let s := handleRing [⟨5, 0, 0⟩] (standing (.hdl .hget (hdl0 1)) [])
    let e := handleRing [] (standing (.hdl .hget (hdl0 1)) [])
    let h := handleRing [⟨5, 9, 0⟩] { Tile.idle with phase := .handleHold (hdl0 1) 2, clock := 9 }
    mapWf [] (begins s).rs.handles = true ∧ s.ready t0 (.hdl .hget (hdl0 1)) = true ∧
    (begins s).ringOfTask 3 7 = true ∧ ((begins s).tile t0).task = 3 ∧ (begins s).consumes t0 7 = true ∧
    (begins s).oldest 7 = some ⟨5, 0, 0⟩ ∧ e.ready t0 (.hdl .hget (hdl0 1)) = true ∧ (begins e).oldest 7 = none ∧
    ((begins e).tile t0).xfer = none ∧
    (h.tile t0).phase = .handleHold (hdl0 1) 2 ∧ (h.pullRing 7 66).oldest 7 = some ⟨5, 9, 0⟩ ∧
    mapWf [] ((h.pullRing 7 66).runTo t0 10).rs.handles = true ∧
    (((h.pullRing 7 66).runTo t0 10).tile t0).phase = .handleHold (hdl0 1) 2 := by decide +kernel
theorem test_hput_ready :
    let u := standing (.hdl .hput (hdl0 0)) []
    let s := handleRing [⟨5, 0, 0⟩] u
    let f := handleRing [⟨5, 0, 0⟩, ⟨6, 0, 0⟩] u
    s.ready t0 (.hdl .hput (hdl0 0)) = true ∧ (s.tileBegin t0).ringOfTask 3 7 = true ∧
    ((s.tileBegin t0).ring 7).kind = .handle ∧ ((s.tileBegin t0).ring 7).full = false ∧
    mapWf [] (s.tileBegin t0).rs.handles = true ∧ (s.tileBegin t0).handles 7 = [⟨5, 0, 0⟩] ∧ t0.key = 0 ∧
    f.ready t0 (.hdl .hput (hdl0 0)) = true ∧ ((f.tileBegin t0).ring 7).full = true ∧
    ((f.tileBegin t0).tile t0).xfer = none ∧ ((f.tileBegin t0).tile t0).landing = [] := by decide +kernel
/-- The same rings for each form that HGET and HPUT refuse: reserved bits, and a ring that the task has not. -/
theorem test_handle_stops :
    let bad : HdlF := { hdl0 1 with rsvLow := 1 }
    let far : HdlF := { hdl0 0 with ring := 9 }
    let at_ (w : TileWord) : State := handleRing [] (standing w [])
    let g (w : TileWord) : State := ((at_ w).tileBegin t0).pullRing (hdl0 0).ring.toNat 0
    (at_ (.hdl .hget (hdl0 0))).ready t0 (.hdl .hget (hdl0 0)) = true ∧ (g (.hdl .hget (hdl0 0))).oldest 7 = none ∧
    ((g (.hdl .hget (hdl0 0))).tile t0).xfer = none ∧
    (at_ (.hdl .hget bad)).ready t0 (.hdl .hget bad) = true ∧
    (at_ (.hdl .hget far)).ready t0 (.hdl .hget far) = true ∧ ((at_ (.hdl .hget far)).tileBegin t0).ringOfTask 3 9 = false ∧
    (at_ (.hdl .hput (hdl0 1))).ready t0 (.hdl .hput (hdl0 1)) = true ∧
    (at_ (.hdl .hput far)).ready t0 (.hdl .hput far) = true ∧
    (((at_ (.hdl .hput far)).tileBegin t0).tile t0).xfer = none := by decide +kernel

theorem test_hput_tags : (after (.hput t0 (hdl0 0)) (handleRing [⟨5, 0, 0⟩]
    { standing (.hdl .hput (hdl0 0)) [0, 0, 0, 0, 0x80000009] with spec := false })).map (fun s => s.handles 7) =
    some [⟨5, 0, 0⟩, ⟨9, 0, 0⟩] := by decide +kernel


/-! ### A package that is ready, with a command at HEAD of ring 0 -/

/-- The 64 bytes of a packet: opcode, NEXT, OBJECT, and fields of PARAM as offset, size and value. -/
def packet (op next object : Nat) (fields : List (Nat × Nat × Nat)) : List Byte :=
  memRead (fields.foldl (fun m f => memWrite m f.1 (leBytes f.2.1 f.2.2))
    (memWrite [] 0 (leBytes 1 op ++ leBytes 1 0 ++ leBytes 2 next ++ leBytes 4 0 ++ leBytes 8 object))) 0 64

/-- A key of each role that a command may need. -/
def claimFor (op role : Nat) : Option (Nat × Nat) :=
  match opcodeNeed op with
  | some .anyone => none
  | some .installer => some (2, 5)
  | some .maker => some (3, 9)
  | some .enrol => some (if role = 1 then (2, 5) else (3, 9))
  | _ => some (1, 7)

/-- Stage 0x09 is over and the package is seated; an operator's, an installer's and the maker's key are enrolled. -/
def ready0 : State :=
  { State.reset.firstRings with
    host := { HostState.initial with ready := true }
    pow := { PowState.initial with rails := true, computeRails := true }
    board := { BoardState.initial with stage := 9, pwrgd := true, perstN := true, perstSeen := true }
    fab := { FabState.none with coord := 0 }
    trust := { TrustState.initial with
      keys := [⟨1, 7, []⟩, ⟨2, 5, []⟩], seat := leBytes 8 1 ++ leBytes 3 0xFFFFF ++ List.replicate 21 0
      auditHead := List.replicate 64 0, booted := some true
      fuses := { Fuses.initial with makerKeys := [(⟨3, 9, []⟩, true)] } } }

/-- A command and its extension packets, posted on ring 0. -/
def posted (b : State) (op object : Nat) (fields : List (Nat × Nat × Nat)) (ext : List (List Byte)) : State :=
  let ps := packet op ext.length object fields :: ext
  let d := b.ring 0
  let b := b.setAux 0 { b.aux 0 with claim := claimFor op ((fields.find? fun f => f.1 == 16).elim 0 fun f => f.2.2 % 256) }
  let b := b.setRing 0 { d with tail := d.head + ps.length, posted := ps.length }
  { b with rs := { b.rs with
    storage := ps.zipIdx.foldl (fun m p => memWrite m (d.entryAt (d.head + p.2)) p.1) b.rs.storage } }

/-- The command of a row begins and acts, and what it acts on meets `p`. -/
def acts (s : State) (i : Instr) (p : Cmd → State → Bool) : Bool := (s.runsFor i).any fun x => p x.1 x.2

/-- `acts` says that there are a command and a state to act on, and that they meet the conditions. -/
theorem acts_iff {s : State} {i : Instr} {p : Cmd → State → Bool} (h : acts s i p = true) :
    ∃ c u, s.runsFor i = some (c, u) ∧ p c u = true := by
  cases e : s.runsFor i with
  | none => simp [acts, e] at h
  | some x => exact ⟨x.1, x.2, rfl, by simpa [acts, e] using h⟩

def run (op object : Nat) (fields : List (Nat × Nat × Nat)) (i : Instr) (p : Cmd → State → Bool) : Bool :=
  acts (posted ready0 op object fields []) i p

/-! ### Witnesses: packets and queries -/

theorem test_checks_order :
    let c (op flags next seq : Nat) : Cmd :=
      ⟨⟨0, seq, op, flags, next, 0, 0, 0, 0⟩, 0, [], [], []⟩
    let s := ready0.setAux 0 { ready0.aux 0 with claim := some (1, 7) }
    (s.accept (c 0 0 0 1)).2 = .inl (1, 0) ∧ (s.accept (c 0xFF 0 0 0)).2 = .inl (2, 0) ∧
    (s.accept (c 0 0 256 0)).2 = .inl (3, 0) ∧ s.verify (c 0x41 1 255 0) = none ∧
    (s.accept (c 0x41 1 255 0)).2 = .inl (4, 0) ∧ (ready0.accept (c 0x41 0 0 0)).2 = .inl (4, 0) ∧
    (s.accept (c 0xA0 0 0 0)).2 = .inl (5, 0) ∧
    ({ s with trust := { s.trust with seat := List.replicate 32 0 } }.accept (c 0x41 0 0 0)).2 = .inl (6, 0) ∧
    (s.accept (c 0 0 0 0)).2 = .inr ⟨0, 0, 0, 0, 0, 0, 0, 0, 0⟩ ∧
    (s.accept (c 0x41 0 0 0)).2 = .inr ⟨0, 0, 0x41, 0, 0, 1, 7, 0, 0⟩ := by decide +kernel

theorem test_packets_refused :
    let s := posted ready0 0x41 0 [(16, 1, 1)] []
    let n := s.setAux 0 { s.aux 0 with claim := none }
    let x := s.setAux 0 { s.aux 0 with cancel := [(0, ⟨1, 0, 7, 0, 0, 1, 7, 0, 1⟩)] }
    (packetRow (.jobEnd 0)).isSome = true ∧ s.startable 0 = true ∧ (s.front 0).any (fun c => c.ask.opcode == 0x41) = true ∧
    (n.front 0).any (fun c => (n.accept c).2 == .inl (4, 0)) = true ∧
    (x.front 0).any (fun c => (x.accept c).2.isRight && (x.aux 0).cancel.any fun k => k.1 == c.ask.seq) = true ∧
    (s.front 0).any (fun c => (s.accept c).2.isRight && !c.clean [] true) = true := by decide +kernel

theorem test_answers_posted :
    let s := posted ready0 0 0 [] []
    (s.ring 0).kind = .command ∧ (s.ring (s.ring 0).pair).kind = .completion ∧ (s.ring 1).full = false ∧
    (s.aux 1).held = [] ∧ 1 + 0 ≤ (s.ring 0).used ∧ mapWf 0 s.rs.storage = true ∧ mapWf {} s.rs.aux = true := by
  decide +kernel

/-- NOP is answered DONE: SEQ 0, STATUS 0, OPCODE 0, FINAL and the PHASE of the first pass; HEAD passes it. -/
theorem test_nop_answer : (after (.nopCommand 0) (posted ready0 0 0 [] [])).map (fun s =>
    (memRead s.rs.storage (256 * 64) 8, (s.ring 0).head, (s.ring 1).tail, (s.aux 0).nextSeq)) =
    some ([0, 0, 0, 0, 0, 0, 0, 5], 1, 1, 1) := by decide +kernel

theorem test_full_ring :
    let s := ready0.setRing 1 { ready0.ring 1 with tail := 256 }
    (s.ring 1).kind = .completion ∧ (s.ring 1).full = true := by decide +kernel

theorem test_administration_runs :
    run 0 0 [] (.nopCommand 0) (fun _ _ => true) ∧ run 2 0 [(16, 8, 5)] (.hostTime 0) (fun c _ => c.p 16 8 == 5) ∧
    run 4 0 [(16, 4, 262143)] (.ringFree 0) (fun c u => c.p 16 4 == 262143 && u.ringBusy (c.p 16 4) c.ask) ∧
    run 3 0 [(16, 1, 2), (17, 1, 16)] (.ringAlloc 0) (fun c u =>
      c.p 17 1 == 16 && c.p 20 4 == 0 && c.ask.flags % 2 == 0 && lowestFree u.rs.used 262144 0 == some 2 &&
        (u.rs.place (2 ^ 16 * 32)).isSome) ∧
    run 3 0 [(16, 1, 2), (17, 1, 5)] (.ringAlloc 0) (fun c _ => decide (c.p 17 1 < 6)) := by decide +kernel

theorem test_fence_runs :
    let asks (n : Nat) (s : State) : State := s.setAux n { s.aux n with fence := some ⟨false, false, some 9, [(0, 0)], []⟩,
                                                                        current := some ⟨n, 0, 6, 0, 0, 1, 7, 0, 1⟩ }
    let two := ready0.setRing 2 { kind := .command, base := 384, die := 4, log2d := 6, pair := 1 }
    run 6 0 [] (.fence 0) (fun c u => u.fenceUnmet ⟨false, false, none, c.pairs, []⟩ == []) ∧
    acts (posted (asks 2 two) 6 0 [(18, 1, 1), (24, 4, 2)] []) (.fence 0) (fun c u =>
      let un := u.fenceUnmet ⟨false, false, none, c.pairs, []⟩
      un == [2] && (u.fenceReach u.rs.aux.length un).contains 0) ∧
    acts (posted two 6 0 [(18, 1, 1), (20, 4, 1), (24, 4, 2)] []) (.fence 0) (fun c u =>
      let un := u.fenceUnmet ⟨false, false, some 1024, c.pairs, []⟩
      un == [2] && !(u.fenceReach u.rs.aux.length un).contains 0) ∧
    ((asks 0 ready0).aux 0).fence.isSome ∧ ((asks 0 ready0).aux 0).current.isSome ∧
    run 7 0 [(16, 4, 3)] (.cancel 0) (fun c u => (u.ring (c.p 16 4)).kind != .command && u.mem.migrations == []) = true := by decide +kernel

/-- A long command of ring 2 stands at its HEAD, and ring 0 cancels it. -/
theorem test_cancel_runs :
    let two := ready0.setRing 2 { kind := .command, base := 384, die := 4, log2d := 6, pair := 1, tail := 1 }
    let s := { two with rs := { two.rs with storage := memWrite [] (384 * 64) (packet 0x80 0 0 []) } }
    acts (posted s 7 0 [(16, 4, 2)] []) (.cancel 0) (fun c u =>
      u.mem.migrations == [] && (u.ring (c.p 16 4)).kind == .command &&
        u.postedOp 2 0 (u.ring 2).used (u.ring 2).head == some 0x80 && longOpcode 0x80) = true := by decide +kernel

theorem test_queries_run :
    let buf := [(48, 8, 0x1000), (56, 4, 8064)]
    run 1 0 buf (.identify 0) (fun c u => c.bufLen == 8064 && u.trust.auditHead.length == 64) ∧
    run 0x27 0 buf (.lendQuery 0) (fun _ _ => true) ∧ run 0xA3 0 buf (.powerQuery 0) (fun _ _ => true) ∧
    run 0x45 0 buf (.stepStatus 0) (fun _ _ => true) ∧ run 0xC3 0 buf (.attest 0) (fun _ _ => true) ∧
    run 5 0 ((16, 8, 262143) :: buf) (.ringQuery 0) (fun c _ => c.p 16 8 ≤ 262143) ∧
    run 0xE4 0 ((16, 4, 1048575) :: buf) (.contextQuery 0) (fun c _ => c.p 16 4 ≤ 1048575) ∧
    run 0xE6 0 ((16, 2, 65535) :: (18, 2, 1) :: buf) (.numericsRead 0) (fun c _ => c.p 16 2 + c.p 18 2 ≤ 65536) ∧
    run 0x25 0 [(16, 8, 0x7FFFFFF)] (.pageQuery 0) (fun c _ => c.p 16 8 < 2 ^ 27) ∧
    run 0xE5 65535 [] (.abortRead 0) (fun c _ => c.object < 65536) ∧
    run 0x62 0 [(16, 1, 15)] (.portQuery 0) (fun c _ => c.p 16 1 < 16) ∧
    run 0xE1 0 buf (.counterRead 0) (fun _ u => u.tiles.all fun e => !e.2.busy) ∧
    run 0xE7 0 buf (.overflowRead 0) (fun _ _ => true) ∧ run 0xC4 0 buf (.auditRead 0) (fun _ _ => true) := by decide +kernel

/-- A command whose buffer is one byte short is refused with PARAMETER: STATUS 0x4007. -/
theorem test_buffer_short : (after (.powerQuery 0) (posted ready0 0xA3 0 [(48, 8, 0x1000), (56, 4, 31)] [])).map (fun s =>
    (memRead s.rs.storage (256 * 64 + 4) 2, s.host.memory)) = some ([7, 0x40], []) := by decide +kernel

/-! ### Witnesses: pages -/

/-- A page at home in frames `f` and `f + 1`. -/
def homePage (st : PageState) (banked : Bool) (f : Nat) : Page :=
  { valid := true, state := st, banked := banked, frame0 := f, frame1 := if banked then f + 1 else 0 }

def paged (ps : List (Nat × Page)) (s : State) : State :=
  { s with mem := { s.mem with pages := ps.foldl (fun m p => mapSet {} m p.1 p.2) [] } }

theorem test_page_map_runs :
    let f := [(16, 8, 5), (24, 4, 2)]
    let good (c : Cmd) (u : State) : Bool :=
      c.pagesGood && decide (c.p 32 3 < 2 ^ 20) && decide (c.p 28 1 < 2) && u.job.image.isNone
    acts (posted (paged [(6, homePage .open_ false 0)] ready0) 0x20 0 f []) (.pageMap 0) (fun c u =>
      good c u && c.pages.any fun n => (u.mem.page n).valid) ∧
    run 0x20 0 f (.pageMap 0) (fun c u =>
      good c u && c.pages == [5, 6] && (c.pages.all fun n => !(u.mem.page n).valid) &&
        u.freeRetired.mem.takeFrames (u.freeRetired.framesNeeded c) == some [0, 1]) := by decide +kernel

/-- Every frame is lent or mapped but one, and a banked page needs two. -/
theorem test_page_map_short :
    let b := paged ((List.range 4).map fun i => (i, homePage .open_ true (2 * i))) ready0
    let s := { b with mem := { b.mem with lendFrames := 784384 - 8 } }
    acts (posted s 0x20 0 [(16, 8, 9), (24, 4, 1), (28, 1, 1)] []) (.pageMap 0) (fun c u =>
      u.freeRetired.framesNeeded c == 2 && (u.freeRetired.mem.takeFrames 2).isNone) = true := by decide +kernel

theorem test_page_changes_run :
    let f := [(16, 8, 5), (24, 4, 2)]
    let o := paged [(5, homePage .open_ false 0), (6, homePage .open_ false 1)] ready0
    let z := paged [(5, homePage .sealed false 0), (6, homePage .sealed false 1)] ready0
    let ok (op : Nat) (c : Cmd) (u : State) : Bool :=
      c.pagesGood && u.job.image.isNone && mapWf {} u.mem.pages &&
        c.pages.all fun n => (u.mem.page n).allows op && (u.mem.page n).state != .migrating && (u.mem.page n).loc == .home
    acts (posted o 0x21 0 f []) (.pageUnmap 0) (ok 0x21) ∧ acts (posted o 0x22 0 f []) (.pageSeal 0) (ok 0x22) ∧
    acts (posted z 0x23 0 f []) (.pageOpen 0) (ok 0x23) ∧
    acts (posted o 0x23 0 f []) (.pageOpen 0) (fun c u => c.pages.any fun n => !(u.mem.page n).allows 0x23) := by
  decide +kernel

theorem test_banks :
    let m := (paged [(1, homePage .open_ true 4), (2, homePage .open_ false 9), (3, homePage .sealed false 8),
      (4, homePage .lost false 7)] ready0).mem
    m.reachRead 1 1 1 = .frame 5 ∧ m.reachWrite 1 1 1 = .frame 4 ∧ m.reachRead 0 0 1 = .frame 4 ∧
    m.reachRead 0 3 2 = .frame 9 ∧ m.reachWrite 0 0 3 = .fault 2 ∧ m.reachRead 0 0 4 = .fault 6 ∧
    m.reachRead 0 0 0 = .fault 1 := by decide +kernel

/-! ### A job -/

def ask0 : Ask := ⟨0, 0, 0x42, 0, 0, 1, 7, 0, 1⟩

/-- Image `im` runs; with a STEP_RUN of `left` steps in phase `p` when `left` is given. -/
def jobOf (im : Image) (left : Option Nat) (p : StepPhase) (s : State) : State :=
  { s with job := { s.job with
    image := some im, run := left.map fun n => ⟨ask0, some n⟩, st := { s.job.st with phase := p } } }

/-- Image 9 runs and nothing more. -/
def job0 : State := jobOf image0 none .idle ready0
/-- A step of image 9 runs. -/
def step0 (p : StepPhase) : State := jobOf image0 (some 1) p ready0

theorem test_page_change_deferred :
    acts (posted (paged [(5, homePage .open_ false 0)] job0) 0x21 0 [(16, 8, 5), (24, 4, 1)] []) (.pageUnmap 0) (fun c u =>
      c.pagesGood && u.job.image.isSome && c.pages.all fun n => (u.mem.page n).state != .migrating) = true := by
  decide +kernel

def move0 (home : Bool) : Migration :=
  { page := 5, home, frame := 3, lender := 2, lpage := 1, ask := some ask0, since := 0, free := true, left := 0, ctx := 0 }

/-- Every channel has had `n` fallow slots. -/
def slotsHad (n : Nat) : Map Nat := (List.range 512).map fun i => (i, n)

theorem mapGet_range (n a m i : Nat) :
    mapGet 0 ((List.range' a m).map fun i => (i, n)) i = if a ≤ i ∧ i < a + m then n else 0 := by
  induction m generalizing a with
  | zero => simp
  | succ m ih =>
    simp only [List.range'_succ, List.map_cons, mapGet, ih]
    split_ifs <;> first | rfl | omega

theorem allSlots_slotsHad (k n : Nat) : allSlots k (slotsHad n) = decide (k ≤ n) := by
  have h : ∀ i < 512, mapGet 0 (slotsHad n) i = n := fun i hi => by
    rw [slotsHad, List.range_eq_range', mapGet_range, if_pos ⟨Nat.zero_le i, by omega⟩]
  generalize slotsHad n = m at h
  rw [Bool.eq_iff_iff, allSlots, List.all_eq_true, decide_eq_true_eq]
  constructor
  · intro a
    have := a 0 (List.mem_range.2 (by omega))
    rwa [h 0 (by omega), decide_eq_true_eq] at this
  · intro a i hi
    rw [h i (List.mem_range.1 hi)]
    exact decide_eq_true a

/-- The clearing of one frame whose channels have had the slots of `m`. -/
def clearing0 (m : Map Nat) : Clearing :=
  { ask := ask0, first := 5, count := 1, flags := 0, lender := 0, frames := [3], since := 0, slots := m }

theorem test_clearing :
    allSlots (frameBursts * 1) (slotsHad 63) = false ∧ allSlots (frameBursts * 1) (slotsHad 64) = true ∧
    ∀ m, let a : State := { job0 with mem := { job0.mem with clearing := [clearing0 m] } }
      a.mem.clearing = [clearing0 m] ∧ (clearing0 m).slots = m ∧ (clearing0 m).frames.length = 1 ∧
      (clearing0 m).ask.ring = 0 ∧ a.job.image.isSome = true := by
  refine ⟨?_, ?_, fun _ => ⟨rfl, rfl, rfl, rfl, rfl⟩⟩ <;> rw [allSlots_slotsHad] <;> rfl

theorem test_migrations :
    let z := paged [(5, homePage .sealed false 0)] ready0
    let m := { z with mem := { z.mem with migrations := [move0 false] } }
    run 0x24 0 [(16, 8, 5), (24, 4, 1)] (.pageMigrate 0) (fun c u =>
      c.pagesGood && c.p 28 1 == 0 && c.pages.any fun n => !(u.mem.page n).migrates false) ∧
    run 0x24 0 [(16, 8, 5)] (.pageMigrate 0) (fun c _ => c.pagesGood && c.count == 0) ∧
    m.mem.migrations = [move0 false] ∧ m.job.deferred = [] ∧ (move0 false).left = 0 ∧ (m.mem.page 5).valid = true := by
  decide +kernel

/-- A page that may leave, with a lender that answers, and one that may return, with a frame free; and the bytes that a page on
its way home has brought. -/
theorem test_pages_migrate :
    let f (dir : Nat) := [(16, 8, 5), (24, 4, 1), (28, 1, dir), (32, 3, 2)]
    let z := paged [(5, homePage .sealed false 0)] ready0
    let away := paged [(5, { homePage .sealed false 0 with loc := .moved, peer := 2 })] ready0
    let ok (home : Bool) (c : Cmd) (u : State) : Bool :=
      c.pagesGood && c.p 28 1 == b2n home && c.count != 0 && (c.pages.all fun n => (u.mem.page n).migrates home) &&
        ((if home then u else (u.lenderAnswer false).2).freeRetired.mem.takeFrames (b2n home)).isSome &&
          (if home then u else (u.lenderAnswer false).2).freeRetired.freeCtx.isSome
    acts (posted z 0x24 0 (f 0) []) (.pageMigrate 0) (ok false) ∧
    acts (posted away 0x24 0 (f 1) []) (.pageMigrate 0) (ok true) := by decide +kernel

/-- A page whose every byte a lender has returned as `b`. -/
theorem replyBytes_const (f : FabState) (ctx la n : Nat) (b : Byte) (h : f.replies = [(ctx, la, List.replicate n b)]) :
    f.replyBytes ctx la n = some (List.replicate n b) := by
  have key : ∀ l : List Nat, (∀ i ∈ l, i < n) →
      l.mapM (fun i => match f.replies.find? fun r => r.1 == ctx && r.2.1 ≤ la + i && la + i < r.2.1 + r.2.2.length with
        | some r => r.2.2[la + i - r.2.1]?
        | none => none) = some (l.map fun _ => b) := by
    intro l hl
    induction l with
    | nil => rfl
    | cons i l ih =>
      have hi := hl i List.mem_cons_self
      have := ih fun j hj => hl j (List.mem_cons_of_mem i hj)
      rw [List.mapM_cons, this, h]
      simp [hi]
  have e := key (List.range n) fun i hi => List.mem_range.1 hi
  unfold FabState.replyBytes
  exact e.trans (by simp [List.map_const'])

theorem test_page_returns : ∃ s : State, s.mem.migrations = [move0 true] ∧ s.job.deferred = [] ∧ (move0 true).left = 0 ∧
    (move0 true).free = true ∧ (s.fab.replyBytes 0 (5 * 2 ^ 21) (2 ^ 21)).isSome = true := by
  refine ⟨{ ready0 with
    mem := { ready0.mem with migrations := [move0 true] }
    fab := { ready0.fab with replies := [(0, 5 * 2 ^ 21, List.replicate (2 ^ 21) 7)] } }, rfl, rfl, rfl, rfl, ?_⟩
  rw [replyBytes_const _ _ _ _ 7 rfl]
  rfl

theorem test_lending :
    let b := paged [(5, { homePage .open_ true 0 with loc := .remote, peer := 2 })] ready0
    let c := { b with rs := { b.rs with ctxs := mapSet {} [] 8 { state := .active, kind := 1, task := 3 } } }
    acts (posted ready0 0x26 0 [(16, 4, 784384), (20, 1, 32), (21, 1, 1)]
      [leBytes 4 0xFFFFF ++ List.replicate 60 0, List.replicate 64 0]) (.lendSet 0) (fun c u =>
        c.p 16 4 == 784384 && c.p 20 1 == 32 && c.p 21 1 == 1 && c.ext.length == 128 && c.x 0 4 == 0xFFFFF &&
          u.mem.pages.all fun e => e.2.loc != .lent) ∧
    acts (posted { ready0 with trust := { ready0.trust with fuses := { ready0.trust.fuses with guestPart := true } } } 0x26 0
      [(21, 1, 1)] [leBytes 4 1 ++ List.replicate 60 0, List.replicate 60 0 ++ leBytes 4 1]) (.lendSet 0) (fun c u =>
        c.x (64 + 4 * 15) 4 == 1 && u.portAbsent 15 && c.x 0 4 == 1) ∧
    mapWf {} b.mem.pages = true ∧ (c.mem.page 5).loc = .remote ∧ (c.mem.page 5).peer = 2 ∧ c.tileOfCtx 8 = none ∧
    (c.ctx 8).state = .active := by decide +kernel


/-! ### Witnesses: events of a tile's units -/

def busy0 : Tile := { Tile.idle with phase := .running, clock := 40 }
def desc0 : Desc := ⟨0, 0, 0x3F800000, 4, 0, false, 32, .s32⟩
def load0 : LoadRun := ⟨0, 0, 2, 32, 32, 0, 0, desc0, []⟩
def entry0 : Entry := ⟨0, false, [], 40, false, false, none⟩
def vrun0 (last : Nat) : VecRun :=
  ⟨0, 0, last, .vand, { vec0 with sf := 10, tf := 10 }, Vector.replicate 16 0, none, none, none, false, 0, 0, 0, [], 2, false, 0, [], 0⟩

theorem test_unit_events :
    let due (u : Tile) : Tile := (tileIn t0 u).tile t0
    ((due { busy0 with loads := [load0] }).loads.head?.map fun r => r.issue + r.rows + 6) = some 40 ∧
    ((due { busy0 with vslots := busy0.vslots.set 3 { pending := [(1, 40, desc0)] } }).vslots.getD 3 {}).pending =
      [(1, 40, desc0)] ∧
    ((due { busy0 with mslots := busy0.mslots.set 0 { pending := [(1, 40, desc0)] } }).mslots.getD 0 {}).pending =
      [(1, 40, desc0)] ∧
    (due { busy0 with accFree0 := some 40 }).accFree0 = some 40 ∧ (due { busy0 with accFree1 := some 40 }).accFree1 = some 40 ∧
    (due { busy0 with qPend := [⟨0, 2, 9, 40⟩] }).qPend = [⟨0, 2, 9, 40⟩] ∧ (due busy0).vecs = [] ∧
    (due busy0).phase ≠ .free ∧
    ((due { busy0 with hq := [entry0] }).hq.find? fun x => !x.enqueued) = some entry0 ∧ entry0.enqueueAt = 40 ∧
    ((due { busy0 with hq := [{ entry0 with enqueueAt := 37 }] }).hq.head?.map fun e =>
      (e.visible, e.releaseAt, decide (e.enqueueAt + 3 ≤ 40))) = some (false, none, true) ∧
    (due { busy0 with hq := [{ entry0 with releaseAt := some 40 }] }).hq = [{ entry0 with releaseAt := some 40 }] := by
  decide +kernel

theorem test_vector_last_result :
    let r := { vrun0 40 with done := 1, groups := 1 }
    let s := tileIn t0 { busy0 with clock := r.lastAt, vecs := [r], landing := [⟨r.lastAt, 64, [7], some (0, 0), none⟩] }
    let u := (s.tileBegin t0).tile t0
    u.phase = .running ∧ u.atNone = false ∧ u.vecs = [r] ∧ (s.tile t0).vecs.head?.map VecRun.seq = some r.seq ∧
    u.alone = true ∧ s.cnt.select = [] ∧ u.clock = r.lastAt ∧
    (u.arbitrate u.clock (u.port && u.begun)).1.vecs = u.vecs := by decide +kernel

/-- Rows 0 and 16 are in bank 0, row 1 in bank 1: a pass refused a read, and one that is not, beside a load. -/
def pass0 : PassRun := ⟨3, 0, 40, 0, false, .w16, true, true, false, 0, desc0, 0, 0, none, 0, none, 1, 0⟩
theorem test_silt_banks :
    let hit := { busy0 with
      passes := [pass0], asks := [⟨1, 3, 0, 0⟩, ⟨1, 3, 0, 16⟩], hq := [{ entry0 with seq := 3, enqueueAt := 86 }] }
    let free := { busy0 with passes := [pass0], asks := [⟨1, 3, 0, 0⟩, ⟨2, 4, 0, 16⟩] }
    (serve (hit.turns 40 false) []).2 = [⟨1, 3, 0, 16⟩] ∧ (hit.arbitrate 40 false).1.passes.map PassRun.issue = [41] ∧
    (hit.arbitrate 40 false).1.hq.map Entry.enqueueAt = [87] ∧ (serve (free.turns 40 false) []).2 = [⟨2, 4, 0, 16⟩] ∧
    (free.arbitrate 40 false).1.passes = [pass0] ∧
    (serve [⟨3, 1, 0, 1⟩, ⟨4, 0, 0, 17⟩, ⟨5, 9, 1, 2⟩] []).2 = [⟨4, 0, 0, 17⟩] := by decide +kernel
/-- R190: of two deliveries due the first enters; the other waits one fc. -/
theorem test_port_waits : portWaits 40 true [⟨40, 0, [1], none, none⟩, ⟨40, 64, [2], none, none⟩] =
    [⟨40, 0, [1], none, none⟩, ⟨41, 64, [2], none, none⟩] := by decide

theorem test_waits_run_out :
    let p := queued (.mat .mpass mpass0)
    let e := { busy0 with passQ := [p], heldEntry := some 4, clock := 4100 }
    let w := { busy0 with passQ := [p], heldSwap := some 4, clock := 4100 }
    let h := { busy0 with phase := .handleHold (hdl0 1) 4, clock := 68 }
    let r := { busy0 with pc := 4096 }
    let g := (handleRing [⟨5, 68, 0⟩] h).pullRing 7 68
    let v := ((tileIn t0 r).tileBegin t0).tile t0
    e.busy = true ∧ e.begun = false ∧ e.quiet = false ∧ w.busy = true ∧ w.begun = false ∧ w.quiet = false ∧
    (hdl0 1).wait.toNat = 1 ∧ g.handles 7 = [⟨5, 68, 0⟩] ∧ (g.tile t0).phase = .handleHold (hdl0 1) 4 ∧
    (g.tile t0).clock = 68 ∧ (g.tile t0).begun = false ∧
    r.phase = .running ∧ v.nextDispatch ≤ v.clock ∧ v.heldEntry = none := by decide +kernel

/-- An XGET of two rows from a page at home, the first of which has entered. -/
def xget0 : XferRun :=
  { seq := 0, pc := 0, issue := 0, op := .xget, f := { xfer0 with post := 0 }, x := Vector.replicate 16 0
    record := ⟨0, 0, false, 128, 8, 0, 0, 0⟩, addr := 128, path := some 1, extra := none, done := 0, landed := 1
    rows := [], flight := [], landedAt := none }

theorem test_rows_land :
    let s := { paged [(0, homePage .open_ false 3)] (ready0.setTile t0 { busy0 with xfer := some xget0 }) with fc := 40 }
    let g := s.catchUp t0
    let u := s.tile t0
    let d := { s with rs := { s.rs with ctxs := mapSet {} [] 8 { state := .ready, kind := 3 } } }
    u.xfer = some xget0 ∧ xget0.remote g = false ∧ ({} : PathIn).beyond g.margins = false ∧
    g.xgetReady u.task xget0 = true ∧ u.phase = .running ∧ u.atNone = false ∧ u.begun = false ∧ u.later = none ∧
    (u.passQ = [] ∧ u.loadQ = [] ∧ u.vecQ = [] ∧ u.xferQ = [] ∧ u.passes = [] ∧ u.loads = [] ∧ u.vecs = [] ∧
      u.landing = [] ∧ u.asks = [] ∧ u.heldEntry = none ∧ u.heldSwap = none) ∧ 1 < xget0.total ∧ 0 + 7 + 1 + ({} : PathIn).added + xget0.total ≤ u.clock ∧
    g.readRange (g.workOf 0 u.task 8) (0 + 64 * 1) (64 * (xget0.total - 1)) = (List.replicate 64 0, none) ∧
    (d.ctx 8).kind = 3 ∧ (d.ctx 8).state = .ready ∧ siltIn 0 64 = true ∧ (d.tile t0).phase ≠ .free := by decide +kernel

/-! ### Witnesses: tasks and streams -/

def part0 : TaskTile := ⟨t0, 5, [(3, 9)]⟩
/-- Task 3 of the image has a part on tile 0; here it is in phase `p`. -/
def tasked (p : TaskPhase) (k : Task) : State :=
  let s := jobOf { image0 with tasks := [{ task0 3 with tiles := [part0] }] } (some 1) .running ready0
  s.setTask 3 { k with phase := p }

theorem test_task_assign :
    let s := tasked .running {}
    (s.taskDecl 3).any (fun d => (d.tiles.find? fun y => y.tile = t0) == some part0) = true ∧ (s.task 3).phase = .running ∧
    (s.tile t0).busy = false ∧ t0.key ∉ (s.task 3).assigned ∧ (s.tile t0).clock = s.fc ∧ (s.task 3).step = false := by
  decide +kernel

/-- The tile starts at instruction 5 with x3 = 9. -/
theorem test_task_starts : (after (.taskAssign t0 3) (tasked .running {})).map (fun s =>
    ((s.tile t0).pc, (s.tile t0).xGet 3, (s.task 3).assigned)) = some (5, 9, [0]) := by decide +kernel

theorem test_task_ends :
    let s := tasked .running { ended := [0], ask := some ask0 }
    let n := tasked .running { ended := [0] }
    let a := tasked .aborting { ask := some ask0 }
    (s.taskDecl 3).any (fun d => d.task == 3 && s.taskDone d) = true ∧
    (n.taskDecl 3).any (fun d => n.taskDone d) = true ∧ (a.task 3).phase = .aborting ∧ a.tilesOf 3 = [] ∧
    a.ctxsOf 3 = [] := by decide +kernel

theorem test_task_aborts :
    let s := tasked .aborting {}
    let b := s.setTile t0 { busy0 with task := 3, clock := 0 }
    let c := { s with rs := { s.rs with ctxs := mapSet {} [] 8 { state := .active, task := 3 } } }
    let u := (b.tileBegin t0).tile t0
    (tasked .running {}).task 3 = { phase := .running } ∧ tileId? 4 0x1FF = none ∧ (b.tile t0).busy = true ∧
    (b.task 3).phase = .aborting ∧ (b.tile t0).clock = b.fc ∧ u.xfer = none ∧ u.stop = none ∧ u.landing = [] ∧
    u.atNone = false ∧ (c.ctx 8).state = .active := by
  decide +kernel

theorem test_streams :
    let s := tasked .running {}
    let c := { s with rs := { s.rs with ctxs := mapSet {} [] 8 { state := .active, kind := 3, task := 3, limit := 5 } } }
    (c.ctx 8).state = .active ∧ (c.ctx 8).ring = 0 ∧ c.tileOfCtx 8 = none ∧ (c.task 3).phase = .running ∧
    ({} : PathIn).beyond c.margins = false ∧ ({ fabric := [64] } : PathIn).beyond c.margins = true := by decide +kernel

/-- One stage of one die, whose forward task is 3; and a step task 4 beside it. -/
def staged0 : State :=
  let e : StageEntry := ⟨0, 0, false⟩
  let im := { image0 with
    tasks := [{ task0 3 with step := true }, { task0 4 with step := true, layers := [2] }], stages := [⟨0, 0, 1, [0], 2, 2, 0, 0, 0, 3, 3⟩]
    orders := [(1, [e])] }
  jobOf im (some 2) .running ready0

theorem test_work_starts :
    let s := staged0
    let d := { s with job := { s.job with st := { s.job.st with depth := 1 }, sealed := [2] } }
    let e := d.setTask 4 { phase := .ended, step := true }
    (s.stageTask 1 (mapGet 0 s.job.order 1)).any (fun d => d.task == 3) = true ∧ (s.task 3).phase = .idle ∧
    (e.variantOf 4).any (fun d => e.specOpen d && !e.staged d) = true ∧ (e.task 4).phase = .ended ∧
    (e.task 4).epoch = e.job.epoch ∧ (e.task 4).attempt = e.job.st.attempt := by decide +kernel

/-! ### Witnesses: jobs and steps -/

theorem test_job_commands :
    let im := { image0 with tasks := [task0 3] }
    run 0x40 0 [(16, 1, 1)] (.imageLoad 0 none) (fun c u => c.p 16 1 < 2 && u.job.image.isNone) ∧
    acts (posted job0 0x40 0 [(16, 1, 1), (56, 4, 1)] []) (.imageLoad 0 none) (fun c u => u.job.image.isSome && c.p 16 1 == 1) ∧
    run 0x41 9 [] (.jobEnd 0) (fun c u => u.job.image.isNone && c.object < 2 ^ 32) ∧
    acts (posted job0 0x41 9 [] []) (.jobEnd 0) (fun c u =>
      c.object == u.jobId && u.job.run.isNone && u.job.deferred == [] && u.job.reshard.isNone && u.rs.tasks == []) ∧
    run 0x46 3 [] (.taskRun 0) (fun c u => c.object < 2 ^ 16 && (u.taskDecl c.object).isNone) ∧
    acts (posted (jobOf im none .idle ready0) 0x46 3 [] []) (.taskRun 0) (fun c u =>
      (u.taskDecl c.object).any (fun d => d.task == c.object && !d.step) && (u.task c.object).phase == .idle) ∧
    acts (posted ((jobOf im none .idle ready0).setTask 3 { phase := .running }) 0x46 3 [] []) (.taskRun 0) (fun c u =>
      (u.taskDecl c.object).any (fun d => d.task == c.object) && (u.task c.object).phase == .running) := by decide +kernel

theorem test_step_commands :
    let f := [(16, 8, 2), (24, 1, 1), (25, 1, 1), (26, 1, 15)]
    let h : State := { step0 .running with job := { (step0 .running).job with st := { phase := .running, mode := true } } }
    acts (posted job0 0x42 9 f []) (.stepRun 0 true) (fun c u =>
      c.object == u.jobId && c.p 24 1 == 1 && c.p 25 1 == 1 && c.p 26 1 == 15 && u.job.run.isNone && !u.units.paused &&
        u.job.deferred == []) ∧
    acts (posted job0 0x42 9 f []) (.stepRun 0 false) (fun _ _ => true) ∧
    run 0x43 0 [(16, 6, 0)] (.stepCommit 0) (fun _ u => u.job.run.isNone) ∧
    acts (posted h 0x43 0 [(16, 6, 0)] []) (.stepCommit 0) (fun c u =>
      u.job.run.isSome && u.job.st.mode && u.isLeader && c.p 16 6 == u.job.epoch) ∧
    run 0x44 0 [] (.stepAbort 0) (fun _ u => u.job.run.isNone) ∧
    acts (posted (step0 .committing) 0x44 0 [] []) (.stepAbort 0) (fun _ u =>
      u.job.run.isSome && u.isLeader && u.job.st.phase == .committing) ∧
    acts (posted (step0 .running) 0x44 0 [] []) (.stepAbort 0) (fun _ u =>
      u.job.run.isSome && u.job.st.phase == .running && u.leader == u.fab.coord) := by decide +kernel

/-- A notice of code `c` from the package to itself has arrived. -/
def told (n : Notice) (s : State) : State :=
  { s with fab := { s.fab with noticesIn := [{ n with src := 0, dst := 0, job := 9 }] } }
def hears (n : Notice) (s : State) (p : Notice → State → Bool) : Bool :=
  ((told n s).heard n.code 0).any fun x => p x.1 x.2.2

theorem test_leader_hears :
    let r := step0 .running
    let c (p : StepPhase) : State :=
      { step0 p with job := { (step0 p).job with epoch := 1, st := { (step0 p).job.st with phase := p } } }
    (r.job.st.phase = .running) ∧
    ([1, 4, 0x0C, 0x0E, 0x0F, 9].all fun k => hears { code := k } r fun _ _ => true) = true ∧
    ([7, 0x0D, 0x10].all fun k => hears { code := k } (c .committing) fun _ _ => true) = true ∧
    hears { code := 0x0F } r (fun n _ => n.arg == 0) = true ∧
    hears { code := 2, cause := 4 } r (fun n u =>
      u.isLeader && n.epoch == u.job.epoch && u.job.st.phase == .running && !u.job.abortSent) = true ∧
    (let t := step0 .ready
     t.isLeader && !t.job.abortSent && !t.job.st.mode && t.everyone [0]) = true ∧
    (let d : TaskDecl := { task0 4 with step := true }
     let s := (jobOf { image0 with tasks := [d] } (some 1) .running ready0).setTask 4 { phase := .ended, step := true }
     let s : State := { s with job := { s.job with st := { s.job.st with sieveClean := true } } }
     s.readyToCommit && s.leader == s.fab.coord) = true := by decide +kernel

theorem test_commits :
    let c := paged [(5, homePage .sealed true 0)] (step0 .committing)
    let a := step0 .aborting
    let z : State := { step0 .committing with job := { (step0 .committing).job with run := some ⟨ask0, some 0⟩, epoch := 1 } }
    hears { code := 6 } c (fun n u => n.epoch == u.job.epoch && !u.job.specHold && u.job.deferred == [] &&
      u.job.hostAbort == [] && u.job.run.any (fun r => r.left == some 1) && u.tilth.directory == [] &&
      u.job.reshard.isNone && mapWf {} u.mem.pages) = true ∧
    hears { code := 6, epoch := 1 } c (fun n u => n.epoch != u.job.epoch) = true ∧
    hears { code := 3, cause := 4 } (step0 .ready) (fun n u => u.job.st.phase == .ready && n.epoch == u.job.epoch &&
      u.isLeader && u.job.toRepair == [] && u.rs.tasks == []) = true ∧
    hears { code := 5, attempt := 1 } a (fun n u => u.job.st.phase == .aborting && n.attempt == 1) = true ∧
    hears { code := 5, attempt := 1 } (step0 .running) (fun _ u => u.job.st.phase != .aborting) = true ∧
    hears { code := 8 } z (fun _ u => !u.pow.hold && !u.job.resharding && !u.job.commitOwed &&
      u.job.run.any fun r => r.left == some 0) = true ∧
    hears { code := 0x0C, arg := 2 } a (fun n _ => n.arg == 2) = true ∧
    hears { code := 9, task := 3 } (tasked .running {}) (fun n u => (u.task n.task).phase == .running) = true := by
  decide +kernel

/-! ### Witnesses: settings and the fabric -/

/-- The program of slot 1 as it is shipped, as a packet carries it. -/
def shipped (k : Nat) : List Byte :=
  let p := mapGet {} shippedPrograms k
  leBytes 8 p.header.toNat ++ p.words.flatMap fun w => leBytes 4 w.toNat

theorem test_tilth_program :
    let bs := shipped 1
    let n := bs.length / 4
    let ext := (List.range ((bs.length + 63) / 64)).map fun i =>
      ((bs.drop (64 * i)).take 64 ++ List.replicate 64 0).take 64
    acts (posted ready0 0x47 0 [(16, 1, 15), (17, 1, n)] ext) (.tilthProgram 0) (fun c u =>
      let prog : TilthProgram :=
        { header := BitVec.ofNat 64 (c.x 0 8), words := (List.range (n - 2)).map fun i => BitVec.ofNat 32 (c.x (8 + 4 * i) 4) }
      c.p 16 1 == 15 && 4 ≤ n && n ≤ 34 && 4 * n ≤ c.ext.length && c.ext.length ≤ 192 && prog.legal &&
        (c.ext.drop (4 * n)).all (· == 0) && !prog.precond && u.job.image.isNone) ∧
    run 0x47 0 [(16, 1, 2)] (.tilthProgram 0) (fun c _ => c.p 16 1 < 3) := by decide +kernel

def layer0 : LayerDecl :=
  { layer := 2, updateTask := 3, gradFmt := 3, onRung := true, numerics := 0, variants := [3, 4, 5, 6], tensors := []
    sieve := none, slot := 0, consts := [] }

theorem test_settings :
    let j := jobOf { image0 with layers := [layer0] } none .idle ready0
    let l := { j with tilth := { j.tilth with layers := mapSet [] [] 2 [⟨0, 0, []⟩] } }
    run 0x4A 0 [(16, 2, 2), (18, 1, 1), (20, 2, 1), (26, 6, 2)] (.layerNumerics 0) (fun c u =>
      bitOf (c.p 18 1) 0 && 1 ≤ c.p 20 2 && u.job.image.isNone) ∧
    acts (posted j 0x4A 0 [(16, 2, 2), (18, 1, 0x15), (20, 2, 1), (23, 1, 12), (25, 1, 1), (26, 6, 2)] []) (.layerNumerics 0) (fun c u =>
      c.p 18 1 == 0x15 && c.p 23 1 == 12 && c.p 25 1 == 1 && u.job.image.isSome && u.job.epoch + 2 ≤ c.p 26 6 &&
        u.rungLayers.contains 2) ∧
    acts (posted l 0x48 0 [(16, 2, 2), (18, 1, 15), (24, 6, 1)] [leBytes 4 0x3F7FFFFF ++ List.replicate 60 0])
      (.tilthLayer 0) (fun c u => c.ext.length == 64 && fractionCode (c.x 0 4) && fractionCode (c.x 8 4) &&
        !(mapGet [] u.tilth.layers (c.p 16 2)).isEmpty) ∧
    run 0x4B 0 [(16, 1, 14)] (.sieveSet 0) (fun c u => c.p 16 1 == 14 && u.job.run.isNone) ∧
    run 0xE0 0 [(16, 1, 3), (17, 1, 24), (22, 2, 0x0401)] (.counterSelect 0) (fun c u =>
      c.p 16 1 == 3 && c.p 18 2 == 0 && sourceInScope 3 (c.p 22 2) && dieInScope 3 (c.p 17 1) && u.dies.contains (c.p 17 1)) ∧
    run 0x49 0 [(16, 2, 2)] (.tilthSweep 0) (fun _ u => u.job.run.isNone) := by decide +kernel

theorem test_topology :
    let ext := [leBytes 4 0x1000001 ++ List.replicate 60 0, List.replicate 64 0, List.replicate 64 0]
    acts (posted ready0 0x61 0 [] ext) (.topologySet 0) (fun c u =>
      c.topologyGood && u.job.image.isNone && u.seatCoord == 0xFFFFF && mapWf {} u.fab.ports) ∧
    acts (posted ready0 0x61 0 [] ext) (.topologySet 0) (fun c u =>
      c.topologyPorts == [0] && c.topologyPorts.all fun n => !u.portAbsent n) ∧
    acts (posted { ready0 with trust := { ready0.trust with fuses := { ready0.trust.fuses with guestPart := true } } } 0x61 0 []
      [List.replicate 48 0 ++ leBytes 4 0x1000001 ++ List.replicate 12 0, List.replicate 64 0, List.replicate 64 0])
      (.topologySet 0) (fun c u => c.topologyGood && c.topologyPorts.any u.portAbsent) ∧
    acts (posted job0 0x61 0 [] ext) (.topologySet 0) (fun c u => c.topologyGood && u.job.image.isSome) ∧
    run 0x61 0 [(20, 2, 1)] (.topologySet 0) (fun c _ => !c.topologyGood) ∧
    run 0x63 0 [(16, 2, 0x8001), (18, 1, 1)] (.portEnable 0) (fun c u =>
      c.p 18 1 == 1 && (maskPorts (BitVec.ofNat 16 (c.p 16 2))) == [0, 15] && !u.portAbsent 0 && !u.portAbsent 15) ∧
    run 0x63 0 [(18, 1, 2)] (.portEnable 0) (fun c _ => decide (2 ≤ c.p 18 1)) := by decide +kernel


/-- R351: without a topology record a port that is enabled stays DISABLED. -/
theorem test_port_held :
    let p := (State.reset.enablePort true 0).port 0
    State.reset.fab.coord = 0xFFFFF ∧ p.enable = true ∧ p.state = 0 := by decide +kernel

/-- R432: the fused voltages of the part at reset; Table 14.2 gives 0.78 V at point 15. -/
theorem test_voltages : State.reset.trust.fuses.voltages.all (fun v => v.getD 15 0 == 780 && v.getD 0 0 == 600) = true := by
  decide +kernel

/-! ### Witnesses: ports and frames -/

/-- Port 2 as given; the others as at reset. -/
def port2 (p : Port) (s : State) : State := s.setPort 2 p
def up2 : Port := { enable := true, peer := 1, peerPort := 3, state := 2, width := 1, credits := [5, 5, 5, 5] }
def flit0 : ControlFlit := ⟨0x7FF, false, [1, 0, 0, 2 ^ 32 - 1], 1, 3, 0, 0, none, false⟩

theorem test_port_events :
    let s := port2 up2 ready0
    let t := port2 { up2 with state := 1 } ready0
    let r : TrainIn := ⟨1, 3, 500, 4⟩
    s.host.fatal = false ∧ (s.port 2).state = 2 ∧ (s.port 2).width = 1 ∧ flit0.nak = false ∧ (s.port 3).state ≠ 2 ∧
    (t.port 2).state = 1 ∧ { flit0 with selfPort := 4 }.selfPort ≠ (t.port 2).peerPort ∧ t.board.fabClk = true ∧ r.peer = (t.port 2).peer ∧ r.peerPort = (t.port 2).peerPort ∧
    (∃ x : Notice, x.code ≠ 0 ∧ x.dst = s.fab.coord) :=
  ⟨by decide, by decide, by decide, by decide, by decide, by decide, by decide, by decide, by decide, by decide,
    ⟨{ code := 1 }, by decide, by decide⟩⟩

theorem test_lane_events :
    let s := { jobOf image0 none .idle ready0 with fab := { ready0.fab with
      ports := mapSet {} [] 15 { enable := true, peer := 1 }, spareCable := List.replicate 8 (1, false) } }
    s.job.image.isSome = true ∧ s.diePresent 24 = true ∧ s.laneFailed 24 15 = false ∧ s.laneCarrier 24 15 = some 15 ∧
    s.spareState 15 = 0 ∧ s.sparePromised 15 = false ∧ s.linkPresent 4 24 = true ∧
    laneKey ⟨4, some 24⟩ 200 ∉ s.units.deadLanes ∧
    mapGet 0 s.units.linkSpares (32 * 4 + 24) + s.pendingItems (fun b => b == BoundaryItem.linkLane 4 24) < 2 := by
  decide +kernel

/-- DST of a header stands in bytes 4 to 6, OPX in bytes 52 to 55 (Table 11.4); SELF and its port in word 5 of a control flit
(Table 11.2); the die and unit of a slice record in its byte 2 (Table 9.1).  Each is read back. -/
theorem test_wire :
    let f : Frame := { fkind := 3, dst := 0x54321, opx := 9 }
    let x : SliceDecl := ⟨2, 3, 5, 3, 10, 1, 0, 4, 4, 0, 64, 128, 0, 0, true, 0, 0, 4⟩
    ((frameHeader f).drop 4).take 3 = [0x21, 0x43, 0x05] ∧ ((frameHeader f).drop 52).take 4 = [9, 0, 0, 0] ∧
    frameOfHeader 1 (frameHeader f) [] = f ∧ ((controlBytes flit0).drop 20).take 4 = [1, 0, 0x30, 0] ∧
    controlOfBytes (controlBytes flit0) = flit0 ∧ (Instr.controlFlit 2 flit0).wellFormed = true ∧
    ((sliceRecord x).drop 2).take 2 = [29, 0xA3] ∧ sliceOfRecord (sliceRecord x) = x := by decide +kernel

/-- A frame of the job for this package, by port 2. -/
def frameOf (k : Nat) : Frame :=
  { fkind := k, vc := 1, nflit := 1, dst := 0, src := 1, job := 9, laddr := 128, ctx := 8, opx := 1, data := List.replicate 64 7 }
/-- The page of the frames is at home in frame 3; context 8 is that of an XGET; port 2 is UP. -/
def linked : State :=
  let s := paged [(0, homePage .open_ false 3)] (port2 up2 (step0 .running))
  { s with rs := { s.rs with ctxs := mapSet {} [] 8 { state := .active, kind := 1 } } }
def takes (f : Frame) (s : State) (p : Work → Bool → State → Bool) : Bool :=
  let u := (s.takeFlits 2 f).answers f.src
  match u.frameFate f with
  | .take w l => p w l u
  | _ => false

theorem test_frames_not_taken :
    let f := frameOf 1
    let r := { port2 up2 linked with fab := { (port2 up2 linked).fab with members := [0, 4] } }
    frameRow (.write 2 f) = some (2, 1, f) ∧ (ready0.port 2).state ≠ 2 ∧ linked.host.fatal = false ∧
    (linked.port 2).state = 2 ∧ linked.frameFate { f with dst := 5 } = .drop ∧
    r.frameFate { f with dst := 1, src := 3 } = .pass 2 ∧ linked.frameFate { f with job := 8 } = .refuse := by decide +kernel

theorem test_frames_taken :
    let h (k : Nat) : Frame := { frameOf k with nflit := 0, data := [], vc := 0 }
    takes (frameOf 1) linked (fun w l u =>
      !l && !w.spec && (u.landWrite w (frameOf 1)).2 == none && (u.mem.page 0).valid && (u.mem.page 0).loc == .home &&
        (u.mem.page 0).state == .open_ && !(u.mem.page 0).banked && !u.meetsInlet 128 64) ∧
    takes { frameOf 1 with laddr := 2 ^ 22 } linked (fun w _ u =>
      (u.landWrite w { frameOf 1 with laddr := 2 ^ 22 }).2 == some ⟨1, 2 ^ 22, 0⟩) ∧
    takes { frameOf 2 with dtile := 517 } linked (fun _ _ _ => siltIn 128 64) ∧
    takes (h 3) linked (fun w l u => !l && !u.reachesAway w 128 64 && (u.readRange w 128 64).2.isNone) ∧
    takes { h 3 with laddr := 2 ^ 22 } linked (fun w l u => !l && (u.readRange w (2 ^ 22) 64).2.isSome) ∧
    takes (frameOf 4) linked (fun _ _ u => (u.repairAt 128).isNone && (u.ctx 8).kind == 1 && (u.ctx 8).state == .active) ∧
    takes (h 5) linked (fun _ _ u => u.job.repairing == [] && (u.ctx 8).kind == 1) ∧
    takes (h 5) { linked with rs := { linked.rs with ctxs := mapSet {} [] 8 { state := .active, kind := 6 } } }
      (fun _ _ u => (u.ctx 8).kind == 6 && (u.ctx 8).state == .active) ∧
    takes { frameOf 6 with vc := 2 } linked (fun _ _ u => (u.collOf 0).isNone) ∧
    takes { frameOf 8 with vc := 0 } linked (fun _ _ _ => true) := by decide +kernel

/-- A borrower's gradients, and a record of a collective of the job. -/
theorem test_frames_of_others :
    let b := { linked with mem := { linked.mem with borrowers := [1], lendTilth := 1 } }
    let c : CollDecl := ⟨5, 0, [0, 1], 0, 0, 3, [8, 8], []⟩
    let s := { linked with job := { linked.job with image := some { image0 with collectives := [c] } } }
    takes { frameOf 7 with vc := 3, job := 4 } b (fun _ l u =>
      l && u.mem.lendTilth != 0 && mapGet [] u.fab.pieces (2 ^ 64 + 2 ^ 32) == []) ∧
    takes { frameOf 6 with vc := 2, coll := 5 } s (fun _ _ u =>
      u.collOf 5 == some c && (u.ctx (c.contexts.getD (c.members.idxOf u.fab.coord) 0)).state != .aborted) := by decide +kernel

/-! ### Witnesses: long commands -/

theorem test_long_commands :
    let e := [(16, 1, 3), (24, 8, 2 ^ 56 - 1)]
    run 0x80 0 e (.export_ 0) (fun c u => c.p 16 1 < 4 && c.p 18 2 ≤ c.p 20 2 && c.p 24 8 < 2 ^ 56 && u.job.image.isNone) ∧
    acts (posted job0 0x80 0 e []) (.export_ 0) (fun _ u => u.job.image.isSome && u.freeCtx == some 0) ∧
    run 0x81 0 [(16, 1, 1)] (.import_ 0) (fun c u => c.p 16 1 < 2 && u.job.image.isNone) ∧
    acts (posted job0 0x81 0 [] []) (.import_ 0) (fun _ u => u.job.image.isSome && u.job.run.isNone && u.freeCtx == some 0) ∧
    run 0xE2 0 [(16, 2, 0xFFFF)] (.scrubFull 0) (fun _ u => u.job.image.isNone) ∧
    acts (posted job0 0xE2 0 [] []) (.scrubFull 0) (fun _ u => u.job.image.isSome) ∧
    run 0xE3 0 [(16, 1, 0x1F)] (.selfTest 0) (fun c u => c.p 16 1 == 0x1F && u.job.image.isNone) ∧
    run 0xE3 0 [(16, 1, 25)] (.selfTest 0) (fun c u => c.p 16 1 == 25 && !u.dies.contains 25) ∧
    run 0xE3 0 [(16, 1, 0x20)] (.selfTest 0) (fun c _ => decide (0x1F < c.p 16 1)) := by decide +kernel

/-- A long command of ring 0 that goes on at `w`. -/
def longOf (op : Nat) (w : LongWork) (cancel : List (Nat × Ask)) : State :=
  ready0.setAux 0 { current := some { ask0 with opcode := op }, work := some w, slices := 1, cancel := cancel }

theorem test_slices :
    let ok (s : State) : Bool :=
      !s.host.fatal && (s.aux 1).held == [] && !(s.ring 1).full && (s.ring 0).pair == 1 && (s.coreFor 0).isSome
    ok (longOf 0x49 (.sweep 2) []) = true ∧ ok (longOf 0xE3 (.units [1, 2]) []) = true ∧
    ok (longOf 0xE3 (.units [2]) []) = true ∧ ok (longOf 0x40 (.load none []) [(0, ask0)]) = true ∧
    { ask0 with opcode := 0xE3 }.prog = false := by decide +kernel

/-! ### Witnesses: power -/

theorem test_power_settings :
    let d : State := { ready0 with pow := { ready0.pow with delayed := some (ask0, 7, 50) } }
    run 0xA0 0 [(16, 2, 2000)] (.powerLimit 0) (fun c _ => c.p 16 2 == 2000) ∧
    run 0xA0 0 [] (.powerLimit 0) (fun c _ => decide (c.p 16 2 < 1)) ∧
    run 0xA1 0 [(16, 2, 65535)] (.budgetStep 0) (fun c u => c.p 18 4 == 0 && u.pow.delayed.isNone && u.pow.budgetAt.isNone) ∧
    acts (posted d 0xA1 0 [(18, 4, 1)] []) (.budgetStep 0) (fun c u => c.p 18 4 == 1 && u.pow.delayed.isSome) ∧
    run 0xA1 0 [(18, 4, 1)] (.budgetStep 0) (fun c u => c.p 18 4 == 1 && u.pow.delayed.isNone) ∧
    run 0xA2 0 [(16, 2, 2000), (18, 4, 65535)] (.budgetLend 0) (fun c _ => c.p 16 2 == 2000 && c.p 18 4 == 65535) ∧
    run 0xA2 0 [(18, 4, 65536)] (.budgetLend 0) (fun c _ => decide (65535 < c.p 18 4)) ∧
    d.pow.delayed = some (ask0, 7, 50) ∧ d.pow.budgetAt = none ∧ ready0.board.aon = true ∧ ready0.pow.warnIn = false ∧
    ({ ready0 with pow := { ready0.pow with lendUntil := 9 } } : State).pow.lendUntil ≠ 0 := by decide +kernel

theorem test_power_events :
    let p : State := { ready0 with pow := { ready0.pow with pointTo := some 4 } }
    ready0.pow.rails = true ∧ ready0.host.fatal = false ∧ ready0.pow.pointTo = none ∧ p.pow.pointTo = some 4 ∧
    p.sc ≤ p.sc / 1024 * 1024 + 250 := by decide +kernel

/-- A change of operating point ends at sc 250, at the new point. -/
theorem test_operating_point :
    (after .operatingPointReached { ready0 with pow := { ready0.pow with pointTo := some 4 } }).map (fun s =>
      (s.sc, s.pow.point, s.pow.pointTo)) = some (250, 4, none) := by decide +kernel

theorem test_units :
    let n : UnitId := ⟨0, 3, 15⟩
    let f := [(16, 1, 3), (17, 1, 0), (18, 2, 15), (20, 1, 3)]
    let rest (p : UnitPower) : State := ready0.setUnit n p
    let im := { image0 with programs := [(⟨3, 287⟩, [])] }
    run 0xA4 0 f (.unitDisable 0) (fun c u =>
      c.unit == n && unitNamed 0 3 15 && stateAllowed 0 (c.p 20 1) && u.job.image.isNone && u.unitPower n == .active) ∧
    run 0xA4 0 [(16, 1, 4)] (.unitDisable 0) (fun c _ => !unitNamed c.unit.kind c.unit.die c.unit.num) ∧
    acts (posted (jobOf im none .idle ready0) 0xA4 0 f []) (.unitDisable 0) (fun _ u => u.usesUnit n) ∧
    acts (posted (rest .dark) 0xA5 0 (f.take 3) []) (.unitEnable 0) (fun c u => c.unit == n && u.unitPower n == .dark) ∧
    run 0xA5 0 (f.take 3) (.unitEnable 0) (fun _ u => u.unitPower n == .active) ∧
    (rest (.shutting 2 0 [ask0] [])).unitPower n = .shutting 2 0 [ask0] [] ∧
    (rest (.powering 2 0 [])).unitPower n = .powering 2 0 [] ∧ n.kind ≠ 4 ∧
    (rest (.waking 1 0 [ask0] [])).unitPower n = .waking 1 0 [ask0] [] := by decide +kernel

/-! ### Witnesses: trust -/

theorem test_trust :
    let g : State := { ready0 with trust := { ready0.trust with fuses := { ready0.trust.fuses with guestPart := true } } }
    let win := leBytes 6 (2 ^ 48 - frameBytes) ++ leBytes 4 1 ++ leBytes 6 3 ++ List.replicate 48 0
    let ext := win :: List.replicate 7 (List.replicate 64 0)
    let good (c : Cmd) : Bool :=
      let ws := (List.range (c.p 16 1)).map fun i => (c.x (16 * i) 6, c.x (16 * i + 6) 4, c.x (16 * i + 10) 1)
      ws == [(2 ^ 48 - frameBytes, 1, 3)] && ws.all windowGood && windowTable ws == c.ext
    run 0xC1 0 [(16, 1, 1), (24, 8, 7)] (.keyRevoke 0) (fun c u =>
      c.p 16 1 == 1 && u.trust.keys.any fun k => k.role == 1 && k.keyId == c.p 24 8) ∧
    run 0xC1 0 [(16, 1, 2), (24, 8, 7)] (.keyRevoke 0) (fun c u =>
      c.p 16 1 == 2 && u.trust.keys.all fun k => k.role != 2 || k.keyId != c.p 24 8) ∧
    run 0xC2 0 [(16, 8, 5), (24, 3, 0xFFFFF)] (.seatBind 0) (fun c u =>
      c.p 24 3 == 0xFFFFF && c.p 27 1 == 0 && u.job.image.isNone) ∧
    run 0xC2 0 [(24, 3, 0x100000)] (.seatBind 0) (fun c _ => c.p 24 3 == 2 ^ 20) ∧
    acts (posted job0 0xC2 0 [] []) (.seatBind 0) (fun _ u => u.job.image.isSome) ∧
    acts (posted ready0 0xC5 0 [(16, 1, 1)] ext) (.guestWindow 0) (fun c u => good c && !u.trust.fuses.guestPart) ∧
    acts (posted g 0xC5 0 [(16, 1, 1)] ext) (.guestWindow 0) (fun c u => good c && u.trust.fuses.guestPart) ∧
    run 0xC5 0 [(16, 1, 33)] (.guestWindow 0) (fun c _ => decide (32 < c.p 16 1)) ∧
    run 0xC6 0 [] (.fwUpdate 0) (fun _ u => u.trust.booted == some true) := by decide +kernel

/-- An empty buffer is no firmware image: its SVN is 0. -/
theorem test_firmware_none : ready0.firmware [] = none := by
  simp [State.firmware, leNat]

/-! ### Witnesses: the host window and the guest -/

theorem test_doorbells :
    (ready0.ring 0).kind = .command ∧ (ready0.aux 0).skip = 0 ∧ (256 + 2 ^ 17 - 0) % 2 ^ 17 ≤ (ready0.ring 0).depth ∧
    (ready0.ring 0).depth < (257 + 2 ^ 17 - 0) % 2 ^ 17 ∧
    (let s := ready0.setRing 4 { kind := .completion, log2d := 6, tail := 3 }
     (s.ring 4).kind = .completion ∧ (3 + 2 ^ 17 - 3) % 2 ^ 17 ≤ (s.ring 4).used ∧ (s.aux 4).held = [] ∧
       (s.ring 4).used < (3 + 2 ^ 17 - 4) % 2 ^ 17) := by decide +kernel

theorem test_window :
    let s : State := { ready0 with host := { ready0.host with msix := mapSet {} [] 9 { addr := 64, pending := true } } }
    (mapGet {} s.host.msix (9#11).toNat).pending = true ∧ s.host.d3hot = false ∧ mapWf 0 s.rs.storage = true ∧
    (0x010 ∉ [0x014, 0x018, 0x030, 0x034, 0x040]) := by decide +kernel

/-- INT_CAUSE: a bit written 1 is cleared, and no other. -/
theorem test_int_cause :
    let s : State := { ready0 with host := { ready0.host with intCause := 0b00110 } }
    (after (.registerWrite 0x014 4 2) s).map (fun s => s.host.intCause) = some 0b00100 := by decide +kernel

theorem test_outside :
    let s := paged [(1, homePage .open_ false 3)] ready0
    let g : State := { s with trust := { s.trust with
      fuses := { s.trust.fuses with guestPart := true }, windows := [(0, 2, 3)] } }
    let la := 2 ^ 22 - 1
    s.apertureAddr la = la ∧ la % frameBytes + 1 ≤ frameBytes ∧ (s.mem.page (pageOf la)).valid = true ∧
    (s.mem.page (pageOf la)).loc = .home ∧ (s.mem.page (pageOf la)).spec = false ∧ s.tilth.directory = [] ∧
    (s.mem.page (pageOf la)).state = .open_ ∧ (s.mem.page (pageOf la)).copies = false ∧ s.meetsInlet la 1 = false ∧
    s.mem.poisoned (3 * frameBytes + la % frameBytes) 1 = false ∧ (s.mem.page 0).valid = false ∧
    s.trust.fuses.guestPart = false ∧ g.trust.granted 0 la 1 = true ∧ g.trust.granted 1 la 1 = true ∧
    g.trust.granted 0 (la + 1) 1 = false ∧ g.trust.granted 1 (la + 1) 1 = false := by decide +kernel

/-- A byte written through the aperture lands in the frame of its page. -/
theorem test_aperture_write :
    (after (.apertureWrite (2 ^ 21 + 5) ⟨[9], false⟩) (paged [(1, homePage .open_ false 3)] ready0)).map (fun s => s.mem.clay) =
      some [(3 * 2 ^ 21 + 5, 9)] := by decide +kernel

theorem test_function_resets :
    State.reset.host.ready = false ∧ ready0.host.ready = true ∧ ready0.host.fatal = false ∧ ready0.job.image = none ∧
    ready0.job.run = none ∧ ({ ready0 with host := { ready0.host with flr := true } } : State).host.flr = true ∧
    ready0.host.flr = false ∧ ready0.host.d3hot = false ∧
    ({ ready0 with host := { ready0.host with d3hot := true } } : State).host.d3hot = true := by decide +kernel

/-! ### Witnesses: the board -/

def boardIn (f : BoardState → BoardState) (s : State) : State := { s with board := f s.board }

theorem test_board :
    let off := boardIn (fun b => { b with aon := false }) State.reset
    let boot (n : Nat) : State := boardIn (fun b => { b with stage := n, pwrgd := true, perstSeen := true }) State.reset
    off.board.aon = false ∧ ready0.board.aon = true ∧ ready0.pow.rails = true ∧ State.reset.board.pwrgd = false ∧
    State.reset.pow.latched = 0 ∧ ready0.board.pwrgd = true ∧ ready0.board.perstSeen = true ∧
    (boot 1).board.stage = 1 ∧ (boot 3).trust.bootSlot = some true ∧ (boot 8).board.stage = 8 ∧
    (boot 5).board.failed = false ∧ (boot 5).board.pcieClk = true ∧ (boot 5).board.aon = true := by decide +kernel

/-- The last stage of the boot brings READY and rings 0 and 1. -/
theorem test_boot_ready :
    (after (.bootStageComplete ⟨true, [], [], [], 0⟩) (boardIn (fun b => { b with stage := 8, pwrgd := true }) State.reset)).map
      (fun s => (s.board.stage, s.host.ready, (s.ring 0).kind, (s.ring 1).base)) = some (9, true, .command, 256) := by
  decide +kernel

theorem test_sideband :
    (boardIn (fun b => { b with dynamic := some 9 }) ready0).board.dynamic = some 9 ∧ ready0.board.dynamic = none ∧
    ready0.board.aon = true ∧ (State.reset.board.perstN = false ∧ State.reset.board.stage = 0) ∧
    ¬ (ready0.board.perstN = false ∧ ready0.board.stage = 0) := by decide +kernel

/-! ### Witnesses: faults and boundaries -/

theorem test_faults :
    let j := job0
    let c : State := { j with units := { j.units with copying := [(15, 31)] } }
    let b : State := j.setBg bgCopy 20 31 { slots := channelBursts }
    let d (kind : Nat) : State := j.setBg kind 0 3 {}
    ({ j with host := { j.host with fatal := true } } : State).host.fatal = true ∧ j.host.fatal = false ∧ j.rs.tasks = [] ∧
    ready0.unitLost 2 4 15 = false ∧ ready0.job.image = none ∧ (j.tile t1).busy = false ∧ (j.tile t1).clock = j.fc ∧
    j.unitLost 0x10 1 5 = false ∧ j.units.boundary = [] ∧ mapGet 0 j.units.tileSpares 16 < 2 ∧ j.job.image.isSome = true ∧
    7 ∉ j.units.coresDown ∧ j.coreSparesLeft = 2 ∧ j.servedBy 7 = [] ∧ (15, 31) ∈ c.units.copying ∧
    channelBursts ≤ (b.bg bgCopy 20 31).slots ∧ j.hasSlots 30 0 = false ∧ j.hasSlots 0 3 = true ∧
    ((d bgTelemetry).backgroundOf 0 3 false).isEmpty = false ∧ bgTelemetry ∈ kindsOf 0 ∧
    (d bgTelemetry).scSince ((d bgTelemetry).bg bgTelemetry 0 3).from_ = some 0 ∧
    ((d bgTelemetry).bg bgTelemetry 0 3).missed = false ∧
    ((j.setBg bgTelemetry 0 3 { missed := true }).bg bgTelemetry 0 3).missed = true ∧
    ([true, false].all fun r => (((kindsOf 0).foldl (fun (s : State) k => s.setBg k 0 3 { from_ := 9 }) j).backgroundOf 0 3
      r).isEmpty) = true ∧
    bestBackground ((d bgTelemetry).backgroundOf 0 3 true) =
      bestBackground ((d bgTelemetry).backgroundOf 0 3 false) ∧
    (bestBackground ((d bgTelemetry).backgroundOf 0 3 false)).isSome = true := by decide +kernel

/-- A tile of the image and its unit, which a hold rests. -/
def held0 : State :=
  let s := (jobOf { image0 with programs := [(t0, [])] } (some 1) .committing ready0).setUnit ⟨0, 0, 0⟩ .nap
  { s with pow := { s.pow with hold := true }, job := { s.job with settleOwed := true, holds := [(0, 3)] } }

theorem test_boundaries :
    let sb (s : State) : State := { s with job := { s.job with standby := some image0 } }
    let p : State := { job0 with job := { job0.job with permuting := true } }
    let l : State := { ready0 with units := { ready0.units with boundary := [.linkLane 4 24] } }
    let can (c : Cmd) (u : State) : Bool :=
      u.job.image.isSome && c.object == u.jobId && u.isLeader && u.job.reshard.isNone && u.job.standby.isSome
    acts (posted (sb job0) 0x60 9 [] []) (.reshard 0 true) (fun c u => can c u && u.job.run.isNone) ∧
    acts (posted (sb (step0 .running)) 0x60 9 [] []) (.reshard 0 true) (fun c u =>
      can c u && u.job.run.isSome && u.job.st.phase != .committing) ∧
    acts (posted (sb (step0 .committing)) 0x60 9 [] []) (.reshard 0 true) (fun c u =>
      can c u && u.job.run.isSome && u.job.st.phase == .committing && !u.job.commitOwed && !u.job.settleOwed) ∧
    acts (posted job0 0x60 9 [] []) (.reshard 0 false) (fun c u => !can c u) ∧
    p.job.permuting = true ∧ p.movedShards = [] ∧ job0.job.permuting = false ∧ p.leader = p.fab.coord ∧
    held0.pow.hold = true ∧ held0.imageUnits = [⟨0, 0, 0⟩] ∧ held0.unitPower ⟨0, 0, 0⟩ = .nap ∧ held0.isLeader = true ∧
    held0.job.settleOwed = true ∧ held0.job.holds ≠ [] ∧ l.host.fatal = false ∧ l.job.run = none ∧ l.job.st.phase = .idle ∧
    l.units.boundary = [.linkLane 4 24] ∧ (step0 .running).job.run.isSome = true := by decide +kernel


/-! ### Witnesses: gradients, sweeps and the watch -/

def bucket0 : BucketDecl := ⟨2, 1, 0, 0, 0, 1, 2, 2, 0, none⟩
def record0 (c : Nat) : BucketRecord := ⟨[0x3F80], 127, 3, 2, 1, 0, 1, c, 0⟩
/-- A bucket of layer 2 that waits for `contrib` contributions, with two records at its inlet. -/
def hops0 : State :=
  let s := jobOf { image0 with buckets := [bucket0] } (some 1) .running ready0
  { s with job := { s.job with inlets := mapSet [] [] 0 [record0 1, record0 1, record0 1] } }

/-- The record of a hop has the summed contributions of what the hop takes. -/
theorem hopSum_contrib (g : Nat) (r : BucketRecord) (rs : List BucketRecord) :
    (hopSum g r rs).record.contrib = ((r :: rs).map BucketRecord.contrib).foldl (· + ·) 0 := rfl

theorem test_reduction_hop :
    (hops0.image Image.buckets)[0]? = some bucket0 ∧ mapGet [] hops0.job.inlets 0 = record0 1 :: [record0 1, record0 1] ∧
    (record0 1).tag = hops0.stepTag hops0.job.epoch ∧ (hops0.bucketSum false 0).whole = none ∧
    (hops0.bucketSum false 0).contrib = none ∧ hops0.taskStops (hops0.hopTask bucket0) = false ∧
    (let x := takeTagged 0 (min 5 (max 1 2)) [record0 1, record0 1, record0 1]
     (hopSum (Config.freeNat hops0.free % 256) (record0 1) x.1.tail).record.contrib = bucket0.contrib) ∧
    (let x := takeTagged 0 (min 5 (max 1 3)) [record0 1, record0 1, record0 1]
     bucket0.contrib < (hopSum (Config.freeNat hops0.free % 256) (record0 1) x.1.tail).record.contrib) ∧
    hops0.job.st.phase = .running ∧ hops0.job.abortCause = 0 :=
  ⟨by decide +kernel, by decide +kernel, by decide +kernel, by decide +kernel, by decide +kernel, by decide +kernel, rfl,
    by show (2 : Nat) < 0 + 1 + 1 + 1; omega, rfl, rfl⟩

/-- Two W16 ones with Y = 127 sum to two, whatever is drawn: no NaN is seen. -/
theorem test_hop_finite : ∀ g, (hopSum g (record0 1) [record0 1]).nan = false := by
  intro g
  have h : (hopSum 0 (record0 1) [record0 1]).nan = false := by decide +kernel
  exact h

def slice0 (bs : Nat) : SliceDecl := ⟨2, 0, 0, 3, 3, 1, 0, 1, 1, 0, 0, 0, 0, 0, bs == 1, 0, 0, 0⟩
/-- One slice of layer 2 with a record at its unit. -/
def folds0 (p : StepPhase) : State :=
  let s := jobOf { image0 with slices := [slice0 0] } (some 1) p ready0
  { s with tilth := { s.tilth with waiting := mapSet [] [] 0 [⟨0, 2, 0, 0, record0 1⟩] } }

theorem test_fold :
    ((folds0 .running).image Image.slices)[0]? = some (slice0 0) ∧
    (folds0 .running).nextRecord 0 = some ⟨0, 2, 0, 0, record0 1⟩ ∧ ready0.nextRecord 0 = none ∧ (folds0 .running).job.st.phase = .running ∧
    (folds0 .running).job.deferred = [] ∧ (folds0 .idle).job.st.phase ≠ .running ∧
    ((folds0 .idle).slice 0).inverted = false := by decide +kernel

/-- A slice of a program with PRECOND: one narrower than a block has none to invert, and one whose blocks are not mapped
stops. -/
theorem test_inversion :
    let s := folds0 .running
    let k : TilthProgram := { header := BitVec.ofNat 64 (2 ^ 64 - 1) }
    let w : State := { s with tilth := { s.tilth with programs := mapSet {} [] 0 k } }
    (w.tilthWork 2).prog.precond = true ∧ w.contributionsDone 2 = true ∧ (w.slice 0).inverted = false ∧
    (match w.invertSlice (w.tilthWork 2) (slice0 0) with | .error _ => false | .ok x => x.2 == 0) = true ∧
    (match w.invertSlice (w.tilthWork 2) { slice0 0 with cols := 64 } with | .error _ => true | .ok _ => false) = true := by decide +kernel

def sparse0 : SparseDecl := ⟨6, 4, 1, 3, 0, 64, 128, 256, 1, 4096, [(0, 4, 0)], 0, 1⟩
theorem test_gather_lookup :
    let s := paged [(0, homePage .open_ true 4)] (jobOf { image0 with sparse := [sparse0] } (some 1) .running ready0)
    (s.image Image.sparse).find? (fun t => t.layer == 6) = some sparse0 ∧ 3 < sparse0.rows ∧ sparse0.rows ≤ 4 ∧
    (match s.rowBytes sparse0 3 s.job.epoch with | .ok b => b.1 == [0, 0] | .error _ => false) = true ∧
    (s.image Image.sparse).find? (fun t => t.layer == 5) = none := by decide +kernel

/-- A shard of layer 2 as the package holds it. -/
def shard0 (owner : Nat) : ShardDecl :=
  { layer := 2, shard := 1, owners := [owner], remote := false, lender := 0, held := true, fmt := 3, rows := 1, cols := 1
    addr := 0, ownerAddr := 0, replicas := [], gather := 0 }
def shards0 (owner : Nat) : State :=
  paged [(0, homePage .open_ true 4)] (jobOf { image0 with shards := [shard0 owner] } (some 1) .running ready0)

theorem test_sweeps :
    let s := jobOf { image0 with sparse := [sparse0] } (some 1) .running ready0
    let w : State := { s with tilth := { s.tilth with sweeping := [6] } }
    let z : State := { s with tilth := { s.tilth with sweptLayers := [(6, 9)] } }
    s.hasUpdate 6 = true ∧ 6 ∉ s.tilth.sweeping ∧ s.contributionsDone 6 = true ∧ s.slicesOf 6 = [] ∧ s.job.deferred = [] ∧
    6 ∈ w.tilth.sweeping ∧ 6 ∉ w.job.sealed ∧ w.job.rowSums = [] ∧ w.tilth.sweptLayers = [] ∧
    (w.image Image.shards) = [] ∧ z.tilth.sweptLayers.find? (fun x => x.1 == 6) = some (6, 9) ∧
    s.taskStops (s.updateTask 6) = false ∧ s.hasUpdate 5 = false ∧ ready0.shardDecl 2 1 = none := by decide +kernel

theorem test_shard_check :
    let s := shards0 1
    let d := s.digestAt (shard0 1) 1
    let f : State := { s with job := { s.job with refetched := [(2, 1)] } }
    (s.job.digestsIn.find? fun d => d.1 == 2 * 65536 + 1) = none ∧ s.job.st.phase = .running ∧
    s.shardDecl 2 1 = some (shard0 1) ∧ s.job.repairing = [] ∧ (2, 1) ∉ s.job.received ∧ s.job.permuting = false ∧
    s.owns (shard0 1) = false ∧ s.digestAt (shard0 1) (s.job.epoch + 1) = d ∧ d ≠ 0 ∧ d ≠ d + 1 ∧
    (2, 1) ∉ s.job.refetched ∧ (2, 1) ∈ f.job.refetched := by decide +kernel

theorem test_lender_hears :
    let b := paged [(3, { homePage .sealed true 4 with loc := .lent, peer := 0 })] (step0 .running)
    let b : State := { b with mem := { b.mem with borrowers := [0] } }
    hears { code := 0x0A, arg := 2 } b (fun n _ => (lent0 2).layer == n.arg % 65536) = true ∧
    hears { code := 0x0B } b (fun n u => mapWf {} u.mem.pages && decide (mapGet 0 u.tilth.lentEpoch 0 < n.epoch + 2) &&
      (u.mem.page 3).valid && (u.mem.page 3).loc == .lent && (u.mem.page 3).banked && (u.mem.page 3).peer == 0 &&
        (u.mem.page 3).state == .sealed) = true := by decide +kernel

/-- Layer 2 on rung 3 with CEIL 6 under the LAYER policy, with a sieve whose ring holds both handles of a pair. -/
def watched : State :=
  let l := { layer0 with sieve := some ⟨0, 7, 1, 0, 0⟩ }
  let s := paged [(0, homePage .open_ false 3)] (jobOf { image0 with layers := [l] } (some 1) .running ready0)
  let r : BitVec 64 := BitVec.ofNat 64 (3 * 2 ^ 27 + 2 ^ 26 + 6 * 2 ^ 30 + 2 ^ 48)
  { s with
    num := { s.num with records := mapSet 0 [] 2 r }
    rs := { s.rs with handles := mapSet [] [] 7 [⟨0, 1, 0⟩, ⟨2 ^ 29, 2, 0⟩] } }
def ovf2 : OvfEntry := { (ovf0 0).entry with layer := 2, count := 300 }
/-- A limited block of 255 elements of tile 0 of die 0 is on its way to the hub. -/
def limiting : State := watched.setTile t0 { Tile.idle with limited := [(false, 255)] }

theorem test_overflow :
    ready0.entryLive ovf2 = false ∧ (watched.takeLimited ⟨ovf2, t0⟩).isNone = true ∧
    (limiting.takeLimited ⟨ovf2, t0⟩).any (fun v => v.rungLayers.contains 2 && v.layerPolicy 2 && !v.atCeil 2) = true ∧
    watched.entryLive ovf2 = true ∧ ovf2.kind ≠ 2 ∧ 2 ∈ watched.rungLayers ∧
    watched.layerPolicy 2 = true ∧ watched.atCeil 2 = false ∧ ovf2.spec = false ∧ watched.num.overflow = [] ∧
    watched.job.st.phase = .running ∧ watched.job.abortCause = 0 ∧ 5 ∉ watched.rungLayers ∧
    watched.entryLive { ovf2 with layer := 5 } = true ∧
    (limiting.takeLimited ⟨{ ovf2 with layer := 5 }, t0⟩).any (fun v => !v.rungLayers.contains 5) = true := by decide +kernel

/-- A count above 255 enters as 255, with the rung the layer has (Table 10.3). -/
theorem test_overflow_entry : (after (.overflowEntry ⟨ovf2, t0⟩) limiting).map (fun s =>
    s.num.overflow.map fun e => (e.1.count, e.1.rung)) = some [(255, 3)] := by decide +kernel

theorem test_sieve :
    ((watched.layerDecl 2).bind LayerDecl.sieve).isSome = true ∧ (watched.sieveHandles 7 false).isSome = true ∧
    ((ready0.layerDecl 2).bind LayerDecl.sieve) = none := by decide +kernel

/-- A pair of elements 0 passes, and one with a NaN fails whatever THETA is. -/
theorem test_pair :
    pairFails 1 [.fin false 0 0] [.fin false 0 0] = false ∧ pairFails 65535 [.nan false false 0] [.fin false 1 0] = true := by
  decide +kernel

/-- Zero elements pass; with a NaN in the first one the pair fails. -/
theorem test_sieve_pairs :
    let bad : State := { watched with mem := { watched.mem with clay := memWrite [] (3 * frameBytes) [0, 0, 0xC0, 0x7F] } }
    let fails (s : State) : Bool :=
      let u := s.compared 7 ⟨0, 1, 0⟩ ⟨2 ^ 29, 2, 0⟩
      pairFails 1 (u.sieveElems u.hubWork 0) (u.sieveElems u.hubWork 4096)
    watched.sieveHandles 7 false = some (⟨0, 1, 0⟩, ⟨2 ^ 29, 2, 0⟩) ∧ bitsOf (watched.record 2) 63 48 = 1 ∧
    fails watched = false ∧ fails bad = true := by decide +kernel

theorem test_rescale :
    let s : State := { watched with job := { watched.job with rescale := [2] } }
    2 ∈ s.job.rescale ∧ s.job.st.phase = .running ∧ (s.layerDecl 2).isSome = true ∧ 2 ∉ watched.job.rescale := by
  decide +kernel

/-! ### Witnesses: integers and the whole machine -/

def intF (sf : BitVec 4) : VecF := { vec0 with sf := sf, tf := sf }
theorem test_integers :
    ([10, 11, 12, 13, 14, 15].all fun c => (VecF.sfmt (intF c)).isInt) = true ∧ (200 : Nat) < 2 ^ (VecF.sfmt (intF 10)).bits := by
  decide

/-- I8: 100 + 100 wraps to −56, and VIADDS limits it to 127; U8: 200 + 100 wraps to 44 and is limited to 255. -/
theorem test_viadd :
    (elemOut .viadd (intF 10) ⟨100, 100, 0, 0⟩).code = 200 ∧ (elemOut .viadds (intF 10) ⟨100, 100, 0, 0⟩).code = 127 ∧
    (elemOut .viadd (intF 13) ⟨200, 100, 0, 0⟩).code = 44 ∧ (elemOut .viadds (intF 13) ⟨200, 100, 0, 0⟩).code = 255 := by
  decide +kernel

theorem test_invariants :
    (∀ k ∈ ready0.trust.keys, k.keyId ∉ ready0.trust.revoked) ∧ ready0.memoriesWf = true ∧
    (∀ k ∈ State.reset.trust.keys, k.keyId ∉ State.reset.trust.revoked) := by decide +kernel

/-- The queue gives up its front command. -/
theorem test_step :
    (match step { ready0 with pending := [.enec, .disec] } with | .next s => s.pending == [.disec] | _ => false) = true := by
  decide +kernel

theorem test_step_idle :
    (match step State.reset with | .next s => (s.fc, s.sc, s.scFc) == (1, 0, 1) | _ => false) = true := by decide +kernel


/-- A sweep of layer 6 waits for the host: its one slice is held. -/
theorem test_held_sweep :
    let d : SliceDecl := { layer := 6, die := 4, unit := 0, wfmt := 3, mfmt := 3, shard := 0, first := 0, rows := 1, cols := 1
                           waddr := 0, maddr := 0, saddr := 0, paddr := 0, kaddr := 0, hold := true, lrow := 0, lcol := 0, lwidth := 1 }
    acts (posted (jobOf { image0 with slices := [d] } (some 1) .running ready0) 0x49 0 [(16, 2, 6)] []) (.tilthSweep 0)
      (fun c u => c.p 16 2 == 6 && u.job.run.isSome && (u.slicesOf 6).any (fun x => x.1.hold) && u.tilth.sweeping.isEmpty &&
        u.tilth.released.isEmpty) = true := by decide +kernel


/-! ### A key is enrolled

The KEYID is the beginning of a SHA3-512 digest, which the witness leaves unevaluated: `v` stands for it. -/

def enrolPacket (v : Nat) : List Byte :=
  [0xC0, 0, 41, 0, 0, 0, 0, 0, 0, 0, 0, 0, 0, 0, 0, 0, 1, 0, 0, 0, 0, 0, 0, 0] ++ leBytes 8 v ++ List.replicate 32 0

/-- The installer's key 5 claims ring 0, where a KEY_ENROL of KEYID v stands with 41 packets of zeros. -/
def enrolling (v : Nat) : State :=
  let b := ready0.setAux 0 { claim := some (2, 5) }
  let b := b.setRing 0 { b.ring 0 with tail := 42, posted := 42 }
  { b with rs := { b.rs with storage := (enrolPacket v).zipIdx.map fun p => (p.2, p.1) } }

def enrolCmd (v : Nat) : Cmd :=
  { ask := ⟨0, 0, 0xC0, 0, 41, 2, 5, 0, 42⟩, object := 0, packet := enrolPacket v, ext := List.replicate 2624 0, trailer := [] }

theorem mapGet_zipIdx (l : List Byte) (n i : Nat) :
    mapGet 0 ((l.zipIdx n).map fun p => (p.2, p.1)) i = if i < n then 0 else l.getD (i - n) 0 := by
  induction l generalizing n with
  | nil => simp
  | cons b l ih =>
    simp only [List.zipIdx_cons, List.map_cons, mapGet, ih]
    rcases Nat.lt_trichotomy i n with h | h | h
    · have : ¬ i = n := by omega
      simp [h, this]
    · subst h; simp
    · have h1 : ¬ i = n := by omega
      have h2 : ¬ i < n := by omega
      have h3 : ¬ i < n + 1 := by omega
      have h4 : i - n = (i - (n + 1)) + 1 := by omega
      rw [if_neg h1, if_neg h2, if_neg h3, if_neg h2, h4, List.getD_cons_succ]

theorem enrolPacket_length (v : Nat) : (enrolPacket v).length = 64 := rfl

theorem enrol_entry (v i : Nat) : (enrolling v).entryBytes 0 i =
    (List.range 64).map fun k => (enrolPacket v).getD (i % 256 * 64 + k) 0 := by
  have e : (enrolling v).entryBytes 0 i = memRead ((enrolPacket v).zipIdx.map fun p => (p.2, p.1)) (i % 256 * 64) 64 := by
    show memRead _ (0 * 64 + i % 256 * 64) 64 = _
    rw [Nat.zero_mul, Nat.zero_add]; rfl
  rw [e, memRead]
  exact List.map_congr_left fun k _ => by rw [mapGet_zipIdx]; simp

theorem enrol_first (v : Nat) : (enrolling v).entryBytes 0 0 = enrolPacket v := by
  rw [enrol_entry]; rfl

theorem enrol_rest (v i : Nat) (h : i < 41) : (enrolling v).entryBytes 0 (0 + 1 + i) = List.replicate 64 0 := by
  rw [enrol_entry]
  rw [List.eq_replicate_iff]
  refine ⟨by simp, fun b hb => ?_⟩
  obtain ⟨k, hk, rfl⟩ := List.mem_map.1 hb
  rw [List.getD_eq_getElem?_getD, List.getElem?_eq_none]
  · rfl
  · rw [enrolPacket_length]; omega

theorem flatten_zeros (l : List Nat) (f : Nat → List Byte) (h : ∀ i ∈ l, f i = List.replicate 64 0) :
    (l.map f).flatten = List.replicate (64 * l.length) 0 := by
  induction l with
  | nil => rfl
  | cons a l ih =>
    rw [List.map_cons, List.flatten_cons, h a (by simp), ih fun i hi => h i (by simp [hi]), List.replicate_append_replicate,
      List.length_cons]
    congr 1; omega

theorem enrol_ext (v : Nat) : ((List.range 41).map fun i => (enrolling v).entryBytes 0 (0 + 1 + i)).flatten =
    List.replicate 2624 0 :=
  flatten_zeros (List.range 41) _ fun i hi => enrol_rest v i (List.mem_range.1 hi)

theorem enrol_front (v : Nat) :
    (enrolling v).front 0 = some { enrolCmd v with ask := ⟨0, 0, 0xC0, 0, 41, 0, 0, 0, 42⟩ } := by
  have hd : (enrolling v).ring 0 = { kind := .command, die := 4, log2d := 8, pair := 1, tail := 42, posted := 42 } := rfl
  have hx := enrol_ext v
  have hk : (List.replicate 2624 (0 : Byte)).length = 2624 := List.length_replicate
  unfold enrolCmd State.front
  rw [hd]
  generalize List.replicate 2624 (0 : Byte) = e at hx hk
  extract_lets d pk f next big ext sig cut
  have e1 : pk = enrolPacket v := enrol_first v
  have e2 : next = 41 := by show leNat ((pk.drop 2).take 2) = 41; rw [e1]; simp [enrolPacket, leNat]
  have e3 : big = False := by show (d.depth - 1 < next) = False; rw [e2]; decide
  have e4 : ext = e := by
    show (if big then [] else ((List.range next).map fun i => (enrolling v).entryBytes 0 (0 + 1 + i)).flatten) = e
    rw [if_neg (by rw [e3]; exact not_false), e2]
    exact hx
  have e5 : sig = false := by show (leNat ((pk.drop 1).take 1) % 2 == 1) = false; rw [e1]; simp [enrolPacket, leNat]
  have e6 : cut = 2624 := by
    show (if sig then ext.length - 73 * 64 else ext.length) = 2624
    rw [e5, e4]; exact hk
  have a0 : f 0 1 = 0xC0 := by show leNat ((pk.drop 0).take 1) = 0xC0; rw [e1]; simp [enrolPacket, leNat]
  have a1 : f 1 1 = 0 := by show leNat ((pk.drop 1).take 1) = 0; rw [e1]; simp [enrolPacket, leNat]
  have a4 : f 4 4 = 0 := by show leNat ((pk.drop 4).take 4) = 0; rw [e1]; simp [enrolPacket, leNat]
  have a8 : f 8 8 = 0 := by show leNat ((pk.drop 8).take 8) = 0; rw [e1]; simp [enrolPacket, leNat]
  have t1 : e.take 2624 = e := by rw [← hk, List.take_length]
  have t2 : e.drop 2624 = [] := by rw [← hk, List.drop_length]
  have hu : ¬ d.used < 1 + next := by rw [e2]; decide
  have hc : ¬ (!decide big && decide (d.used < 1 + next)) = true := by simp [hu]
  rw [if_neg (by decide), if_neg hc, e6, e4, e1, a0, a1, a4, a8, t1, t2]
  simp only [e2]
  rfl

theorem enrol_clean (v : Nat) : (enrolCmd v).clean [(16, 1), (24, 8)] false = true := by
  have h : ∀ i < 48, i = 0 ∨ (8 ≤ i ∧ i < 16) ∨ (enrolPacket v).getD (16 + i) 0 = 0 := by
    intro i hi
    by_cases h2 : 16 ≤ i
    · right; right
      rw [enrolPacket, List.getD_eq_getElem?_getD, List.getElem?_append_right (by simp [leBytes]; omega)]
      rw [List.getElem?_replicate]
      split <;> rfl
    · by_cases h3 : 8 ≤ i
      · exact .inr (.inl ⟨h3, by omega⟩)
      · have : ∀ i < 8, i = 0 ∨ ([0xC0, 0, 41, 0, 0, 0, 0, 0, 0, 0, 0, 0, 0, 0, 0, 0, 1, 0, 0, 0, 0, 0, 0, 0] : List Byte).getD
            (16 + i) 0 = 0 := by decide
        rcases this i (by omega) with h | h
        · exact .inl h
        · right; right
          rw [enrolPacket, List.append_assoc, List.getD_eq_getElem?_getD, List.getElem?_append_left (by simp; omega),
            ← List.getD_eq_getElem?_getD]
          exact h
  unfold Cmd.clean
  simp only [enrolCmd, Bool.false_or, beq_self_eq_true, Bool.true_and, List.all_eq_true, List.mem_range, Bool.or_eq_true,
    List.any_cons, List.any_nil, Bool.or_false, decide_eq_true_eq, Bool.and_eq_true, beq_iff_eq]
  intro i hi
  rcases h i hi with h | h | h
  · exact .inr (.inl (by omega))
  · exact .inr (.inr (by omega))
  · exact .inl h

/-- The state in which management core 0 has the command. -/
def enrolled (v : Nat) : State := (enrolling v).served 0 0

theorem enrol_core (v : Nat) : (enrolling v).coreFor 0 = some 0 := by
  have h : (enrolling v).servedBefore 0 0 = [] := by
    have hr : (enrolling v).rs.rings.map Prod.fst = [0, 1] := rfl
    have hl : ∀ n, mapGet 0 (enrolling v).rs.served n = 0 := fun _ => rfl
    simp [State.servedBefore, hr, hl]
  have h0 : (enrolling v).coreServes 0 0 = true := rfl
  rw [State.coreFor]
  simp only [List.range_eq_range', List.range', List.find?_cons, h, h0, Bool.true_and, List.length_nil, Nat.zero_le, decide_true]

theorem enrol_accept (v : Nat) (x : List Byte) : (enrolled v).accept
    { ask := ⟨0, 0, 0xC0, 0, 41, 0, 0, 0, 42⟩, object := 0, packet := enrolPacket v, ext := x, trailer := [] } =
      (enrolled v, .inr ⟨0, 0, 0xC0, 0, 41, 2, 5, 0, 42⟩) := rfl

theorem enrol_runs (v : Nat) : (enrolling v).runsFor (.keyEnrol 0) = some (enrolCmd v, enrolled v) := by
  have hf := enrol_front v
  have hc := enrol_clean v
  have ha := enrol_accept v
  have hs : (enrolling v).startable 0 = true := rfl
  have hq : ((enrolled v).aux 0).cancel = [] := rfl
  have hk := enrol_core v
  unfold enrolCmd at hf hc ⊢
  unfold enrolled at ha hq ⊢
  generalize List.replicate 2624 (0 : Byte) = e at hf hc
  generalize enrolling v = s at hf ha hs hq hk
  have hb : s.begun 0xC0 0 = some (⟨⟨0, 0, 0xC0, 0, 41, 2, 5, 0, 42⟩, 0, enrolPacket v, e, []⟩, s.served 0 0) := by
    simp [State.begun, hf, hs, ha, hq, hk]
  have hp : packetRow (.keyEnrol 0) = some (0xC0, 0, fun _ => [(16, 1), (24, 8)], false) := rfl
  simp [State.runsFor, hp, hb, hc, Option.filter]

theorem leNat_lt (l : List Byte) : leNat l < 256 ^ l.length := by
  induction l with
  | nil => decide
  | cons b l ih =>
    have := b.isLt
    simp only [leNat, List.length_cons, Nat.pow_succ]
    omega

theorem keyIdOf_lt (l : List Byte) : keyIdOf l < 256 ^ 8 := by
  refine Nat.lt_of_lt_of_le (leNat_lt _) (Nat.pow_le_pow_right (by decide) ?_)
  rw [List.length_take]; omega

/-- A KEY_ENROL of an operator's key whose KEYID agrees with its 2,592 bytes; the store has room. -/
theorem test_key_enrol : ∃ s c u, State.runsFor s (.keyEnrol 0) = some (c, u) ∧
    c.p 16 1 = 1 ∧ c.ext.length = 2624 ∧ (c.ext.drop 2592).all (· == 0) = true ∧ c.p 24 8 = keyIdOf (c.ext.take 2592) ∧
    u.trust.revoked = [] ∧ (u.trust.keys.filter fun k => k.role == 1).length < roleStore 1 := by
  have hv := keyIdOf_lt (List.replicate 2592 0)
  have h1 : (List.replicate 2624 (0 : Byte)).take 2592 = List.replicate 2592 0 := by rw [List.take_replicate, Nat.min_eq_left (by decide)]
  have h2 : ((List.replicate 2624 (0 : Byte)).drop 2592).all (· == 0) = true := by
    rw [List.drop_replicate, List.all_replicate]; rfl
  have h3 : (List.replicate 2624 (0 : Byte)).length = 2624 := List.length_replicate
  have key : ∀ v, v < 256 ^ 8 → (enrolCmd v).p 24 8 = v := fun v h => by
    show leNat (leBytes 8 v) = v
    rw [leNat_leBytes]; exact Nat.mod_eq_of_lt h
  have hk := key _ hv
  have hr := enrol_runs (keyIdOf (List.replicate 2592 0))
  rw [← h1] at hk hr
  refine ⟨_, _, _, hr, ?_, h3, h2, hk, ?_, ?_⟩
  · exact (fun v => rfl : ∀ v, (enrolCmd v).p 16 1 = 1) _
  · exact (fun v => rfl : ∀ v, (enrolled v).trust.revoked = []) _
  · exact (fun v => by show (1 : Nat) < 32; omega :
      ∀ v, ((enrolled v).trust.keys.filter fun k => k.role == 1).length < roleStore 1) _


/-! ### A firmware image

The verification of a signature is a free function, so the witness takes its answer as a premise. -/

/-- An image with an empty body: its digest is the SHA3-512 of nothing, from FIPS 202. -/
def firmwareHead : List Byte := leBytes 4 0x01000001 ++ leBytes 4 1 ++ leBytes 16 9 ++
  leBytes 32 0xa6805c47c1dcd1e05958e24f1682c9976e755a18dc67b5c8c59a3aa2cc739fa6 ++
  leBytes 32 0x26cd1d2886857501e3d3b6959d1900f558c53a2c40e9e3114cf9f5f13a12b215
def firmware0 : List Byte := firmwareHead ++ List.replicate 4648 0
/-- The maker's FW_UPDATE of that image, which stands in host memory from address 0. -/
def updating : State :=
  posted { ready0 with
    trust := { ready0.trust with keys := ⟨3, 9, []⟩ :: ready0.trust.keys }
    host := { ready0.host with memory := memWrite ready0.host.memory 0 firmwareHead } } 0xC6 0 [(56, 4, 4736)] []

theorem sha3_nothing : sha3 [] = (firmwareHead.drop 24).take 64 := by decide +kernel

theorem test_fw_update : acts updating (.fwUpdate 0) (fun c u => c.bufAddr == 0 && c.bufLen == 4736 &&
    u.host.memory == memWrite [] 0 firmwareHead && u.trust.booted == some true) = true := by decide +kernel

/-- That update at the end of a slice. -/
def updatingOn (image : List Byte) : State :=
  updating.setAux 0 { current := some { ask0 with opcode := 0xC6 }, work := some (.firmware image []), slices := 1 }

theorem test_fw_update_slice :
    let s := updatingOn []
    !s.host.fatal && (s.aux 1).held == [] && !(s.ring 1).full && (s.ring 0).pair == 1 && (s.coreFor 0).isSome &&
    s.trust.keyOf 3 9 == some [] && s.trust.rollback == 0 && s.trust.booted == some true := by decide +kernel

theorem mapGet_past {m : Map Byte} {n k : Nat} (h : ∀ e ∈ m, e.1 < n) (hk : n ≤ k) : mapGet 0 m k = 0 := by
  induction m with
  | nil => rfl
  | cons e m ih =>
    have h1 := h e List.mem_cons_self
    unfold mapGet
    rw [if_neg (by omega), ih fun x hx => h x (List.mem_cons_of_mem e hx)]
    split <;> rfl

theorem firmware0_reads : memRead (memWrite [] 0 firmwareHead) 0 4736 = firmware0 := by
  have h : ∀ e ∈ memWrite [] 0 firmwareHead, e.1 < 88 := by decide +kernel
  have e1 : memRead (memWrite [] 0 firmwareHead) 0 88 = firmwareHead := memRead_memWrite rfl 0 firmwareHead
  have e3 : (List.range 4648).map (fun i => mapGet 0 (memWrite [] 0 firmwareHead) (0 + (88 + i))) =
      List.replicate 4648 0 := by
    rw [List.eq_replicate_iff]
    refine ⟨by simp, fun b hb => ?_⟩
    obtain ⟨k, _, rfl⟩ := List.mem_map.1 hb
    exact mapGet_past h (by omega)
  rw [memRead] at e1 ⊢
  rw [show 4736 = 88 + 4648 from rfl, List.range_add, List.map_append, e1, List.map_map]
  exact congrArg (firmwareHead ++ ·) e3

theorem test_firmware_some (s : State) (hk : s.trust.keyOf 3 9 = some []) (hr : s.trust.rollback = 0)
    (hv : Config.mldsaVerify [] (sha3 (firmware0.take 88)) ((firmware0.drop 88).take 4627) = true) :
    s.firmware firmware0 = some ⟨true, 0x01000001, 1, sha3 []⟩ := by
  have h0 : leNat (firmware0.take 4) = 0x01000001 := by decide +kernel
  have h4 : leNat ((firmware0.drop 4).take 2) = 1 := by decide +kernel
  have h8 : leNat ((firmware0.drop 8).take 8) = 9 := by decide +kernel
  have h16 : leNat ((firmware0.drop 16).take 8) = 0 := by decide +kernel
  have hd : (firmware0.drop 24).take 64 = (firmwareHead.drop 24).take 64 := by decide +kernel
  have hl : firmware0.length = 4736 := by decide +kernel
  unfold State.firmware
  simp [h0, h4, h8, h16, hl, hk, hr, hv, hd, ← sha3_nothing]

end Sys2Proof.Tests
end

section
/-! SUPPORT. Shifts by an unsigned amount (R72): of a machine word, and of a code of `w` bits held as a number. -/

namespace Sys2Proof.Machine

/-! ### Words -/

theorem shiftLeft_eq_ofNat_mul {w : Nat} (a : BitVec w) (n : Nat) :
    a <<< n = if w ≤ n then 0 else BitVec.ofNat w (a.toNat * 2 ^ n) := by
  split
  next h => exact BitVec.shiftLeft_eq_zero h
  next => exact BitVec.eq_of_toNat_eq (by simp [Nat.shiftLeft_eq])

theorem ushiftRight_eq_ofNat_div {w : Nat} (a : BitVec w) (n : Nat) :
    a >>> n = if w ≤ n then 0 else BitVec.ofNat w (a.toNat / 2 ^ n) := by
  split
  next h => exact BitVec.ushiftRight_eq_zero h
  next =>
    have hlt : a.toNat / 2 ^ n < 2 ^ w := (Nat.div_le_self ..).trans_lt a.isLt
    exact BitVec.eq_of_toNat_eq (by simp [Nat.shiftRight_eq_div_pow, Nat.mod_eq_of_lt hlt])

theorem sshiftRight_eq_fill {w : Nat} (a : BitVec w) (n : Nat) :
    a.sshiftRight n = if w ≤ n then (if a.msb then BitVec.allOnes w else 0) else a.sshiftRight n := by
  by_cases h : w ≤ n
  · rw [if_pos h]
    ext i hi
    rw [BitVec.getElem_sshiftRight, dif_neg (by omega)]
    cases a.msb <;> simp
  · rw [if_neg h]

/-! ### Codes -/

theorem shlBits_eq_mul (w a n : Nat) : shlBits w a n = if w ≤ n then 0 else a * 2 ^ n % 2 ^ w := by
  rw [shlBits, Nat.shiftLeft_eq]

theorem shrBits_eq_div {w a : Nat} (n : Nat) (ha : a < 2 ^ w) :
    shrBits w a n = if w ≤ n then 0 else a / 2 ^ n := by
  rw [shrBits, Nat.mod_eq_of_lt ha, Nat.shiftRight_eq_div_pow]

theorem testBit_top_iff {w a : Nat} (ha : a < 2 ^ w) : a.testBit (w - 1) = true ↔ 2 ^ (w - 1) ≤ a := by
  refine ⟨Nat.ge_two_pow_of_testBit, fun h => ?_⟩
  refine Nat.testBit_of_two_pow_le_and_two_pow_add_one_gt h (ha.trans_le ?_)
  exact Nat.pow_le_pow_right Nat.two_pos (by omega)

/-- Of a code of `w` bits nothing is left at an amount of `w`, nor beyond it. -/
theorem div_two_pow_min {w a : Nat} (n : Nat) (ha : a < 2 ^ w) : a / 2 ^ min n w = a / 2 ^ n := by
  obtain h | h := Nat.le_total n w
  · rw [Nat.min_eq_left h]
  · rw [Nat.min_eq_right h, Nat.div_eq_of_lt ha,
      Nat.div_eq_of_lt (ha.trans_le (Nat.pow_le_pow_right Nat.two_pos h))]

/-- The fill of an arithmetic shift: the complement of a code shifted right is the shifted code under `k` ones. -/
theorem div_two_pow_add_fill {w a k : Nat} (hk : k ≤ w) (ha : a < 2 ^ w) :
    a / 2 ^ k + (2 ^ w - 2 ^ (w - k)) = 2 ^ w - 1 - (2 ^ w - 1 - a) / 2 ^ k := by
  have hw : 2 ^ k * 2 ^ (w - k) = 2 ^ w := by rw [← Nat.pow_add, Nat.add_sub_cancel' hk]
  have hc : (2 ^ k * 2 ^ (w - k) - (a + 1)) / 2 ^ k = 2 ^ (w - k) - (a / 2 ^ k + 1) :=
    Nat.mul_sub_div a _ _ (by rwa [hw])
  have ht : a / 2 ^ k < 2 ^ (w - k) := Nat.div_lt_of_lt_mul (by rwa [hw])
  have hle : 2 ^ (w - k) ≤ 2 ^ w := Nat.pow_le_pow_right Nat.two_pos (by omega)
  rw [hw, Nat.add_comm a 1, ← Nat.sub_sub] at hc
  rw [hc]
  generalize a / 2 ^ k = d at ht ⊢
  omega

/-- The sign is the most significant bit of the code, whatever its format (notes/assumptions/16): a code below 2^(w-1) is
divided, any other keeps its complement divided. -/
theorem sraBits_eq_fill {w a : Nat} (n : Nat) (ha : a < 2 ^ w) :
    sraBits w a n = if a < 2 ^ (w - 1) then a / 2 ^ n else 2 ^ w - 1 - (2 ^ w - 1 - a) / 2 ^ n := by
  have hc : 2 ^ w - 1 - a < 2 ^ w := by omega
  simp only [sraBits, Nat.mod_eq_of_lt ha, Nat.shiftRight_eq_div_pow, testBit_top_iff ha, ← Nat.not_lt, ite_not]
  rw [div_two_pow_add_fill (Nat.min_le_right n w) ha, div_two_pow_min n ha, div_two_pow_min n hc]

/-! ### Scalar instructions and elements -/

/-- A scalar instruction of two sources that is ready gives XD its value, in the fc that has begun. -/
theorem State.tileBecomes_arith {s : State} {i : Instr} {t : TileId} {op : CtlOp} {f : CtlF} {g : Word → Word → Word}
    {v : Word} (hr : s.ready t (.ctl op f) = true) (h : exec i s = ok (s.arith t op f g))
    (hv : g (((s.tileBegin t).tile t).xGet f.xa.toNat) (ctlSecond f ((s.tileBegin t).tile t)) = v) :
    s.tileBecomes (s.tileBegin t) i t ((((s.tileBegin t).tile t).xSet f.xd.toNat v).next) := by
  subst hv
  exact State.tileBecomes_control (act := fun u => (u.xSet f.xd.toNat (g (u.xGet f.xa.toNat) (ctlSecond f u))).next)
    (Tile.next_ne_idle _) hr h

/-- Settles O5: a scalar shift puts the word's shift in XD, an element's code is the code's shift, and each shift has its
equation with amounts of the width or more told apart. -/
theorem shiftAmounts : Obligations.ShiftAmounts := by
  unfold Obligations.ShiftAmounts
  refine ⟨fun s t f => ⟨fun hr => ?_, fun hr => ?_, fun hr => ?_⟩, fun f e ha => ⟨?_, ?_, ?_⟩⟩
  · exact State.tileBecomes_arith hr rfl (shiftLeft_eq_ofNat_mul ..)
  · exact State.tileBecomes_arith hr rfl (ushiftRight_eq_ofNat_div ..)
  · exact State.tileBecomes_arith hr rfl (sshiftRight_eq_fill ..)
  · exact shlBits_eq_mul ..
  · exact shrBits_eq_div _ ha
  · exact sraBits_eq_fill _ ha

end Sys2Proof.Machine
end

section
/-! SUPPORT. Dispatch into the sub-queues (R582). -/

namespace Sys2Proof.Machine

/-- An instruction that a unit executes: it waits in a sub-queue (R90). -/
def TileWord.forUnit : TileWord → Bool
  | .mat _ _ | .vec _ _ | .xfer _ _ => true
  | .ctl _ _ | .hdl _ _ => false

theorem Tile.enqueueWord_seq {w : TileWord} (hw : TileWord.forUnit w = true) (u : Tile) :
    (u.enqueueWord w).seq = u.seq + 1 := by
  cases w with
  | mat op f => cases op <;> rfl
  | vec op f => cases op <;> rfl
  | xfer op f => rfl
  | ctl op f => cases hw
  | hdl op f => cases hw

/-- An instruction of a unit that is ready enters its sub-queue, in the fc that has begun. -/
theorem State.tileBecomes_enqueue {s : State} {i : Instr} {t : TileId} {w : TileWord} (hw : TileWord.forUnit w = true)
    (h : exec i s = ok (s.enqueueFor t w)) (hr : s.ready t w = true) :
    s.tileBecomes (s.tileBegin t) i t (((s.tileBegin t).tile t).enqueueWord w) := by
  refine State.tileBecomes_of (Tile.ne_idle_of_seq (by rw [Tile.enqueueWord_seq hw]; exact Nat.succ_ne_zero _)) ?_
  rw [h, State.enqueueFor, State.dispatch_ready hr]
  rfl

/-- Settles O11: every instruction of a unit is dispatched by `enqueueFor`, whose entry holds the registers of its fc; a
register write is a write of the register file alone. -/
theorem subQueuesTakeTheRegisters : Obligations.SubQueuesTakeTheRegisters := by
  unfold Obligations.SubQueuesTakeTheRegisters
  refine ⟨fun s t => ⟨fun f => ?matrix, fun f => ?vector, fun f => ?transfer⟩, fun u r v => ?registers⟩
  case registers => exact ⟨rfl, rfl, rfl, rfl⟩
  all_goals
    and_intros
    all_goals exact State.tileBecomes_enqueue rfl rfl

end Sys2Proof.Machine
end

section
/-! SUPPORT. Words of handle instructions, and what operations of rings, contexts and tasks leave of the tiles and of what
stands outside them. -/

namespace Sys2Proof.Machine

/-! ### Handle words (Table 4.10) -/

theorem decodeTile_encodeTile_hdl (op : HdlOp) (f : HdlF) : (decodeTile (encodeTile (.hdl op f))).isSome = true := by
  have hop : (encodeTile (.hdl op f)).extractLsb' 56 8 = op.code := BitVec.extractLsb'_append_eq_left
  have hc : ctlOps.find? (fun o => o.code == op.code) = none := by cases op <;> decide
  have hv : vecOps.find? (fun o => o.code == op.code) = none := by cases op <;> decide
  simp only [decodeTile, hop, hc, hv]
  cases op <;> rfl

/-- A tile that stands at a handle instruction stands at a word that spells one. -/
theorem Tile.atNone_of_atWord_hdl {u : Tile} {op : HdlOp} {f : HdlF} (h : u.atWord (.hdl op f) = true) :
    u.atNone = false := by
  simp only [Tile.atWord, Bool.and_eq_true, beq_iff_eq, decide_eq_true_eq] at h
  obtain ⟨⟨-, hpc⟩, hw⟩ := h
  obtain ⟨w, hs⟩ := Option.isSome_iff_exists.mp (decodeTile_encodeTile_hdl op f)
  rw [Tile.atNone, hw, hs]
  simp [Nat.ne_of_lt hpc]

/-! ### Tiles that are not written -/

/-- A listed key reads as before when another key is set, whatever the map. -/
theorem mapGet_mapSet_of_ne {α : Type} [DecidableEq α] {d v : α} {m : Map α} {i j : Nat} (hij : j ≠ i)
    (hm : mapGet d m j ≠ d) : mapGet d (mapSet d m i v) j = mapGet d m j := by
  by_cases hv : v = d
  · subst hv
    induction m with
    | nil => simp [mapSet]
    | cons e m ih =>
      obtain ⟨k, w⟩ := e
      by_cases hjk : j = k
      · subst hjk
        rw [mapSet, if_neg (Ne.symm hij)]
        split <;> simp [mapGet]
      · have hlt : ¬ j < k := fun h => hm (by simp [mapGet, hjk, h])
        have htl : mapGet v m j ≠ v := by simpa [mapGet, hjk, hlt] using hm
        rcases Nat.lt_trichotomy i k with h | h | h
        · simp [mapSet, h, Nat.ne_of_lt h]
        · simp [mapSet, h, mapGet, hjk, hlt]
        · simp [mapSet, Nat.ne_of_gt h, Nat.not_lt_of_gt h, mapGet, hjk, hlt, ih htl]
  · rw [mapGet_mapSet_listed hv, if_neg hij]

/-- A tile that has been used reads as before when another tile is set to anything. -/
theorem State.tile_setTile_of_ne {s : State} {t id : TileId} (hid : t ≠ id) (ht : s.tile t ≠ Tile.idle) (v : Tile) :
    (s.setTile id v).tile t = s.tile t :=
  mapGet_mapSet_of_ne (fun hk => hid (TileId.key_injective hk)) ht

/-! ### Operations that reach no tile -/

/-- `s'` differs from `s` in the memory, the rings and contexts, the step, the fabric and the counters alone. -/
def State.besideTiles (s s' : State) : Prop :=
  ∃ m k j f c, s' = { s with mem := m, rs := k, job := j, fab := f, cnt := c }

theorem State.besideTiles_refl (s : State) : s.besideTiles s := ⟨_, _, _, _, _, rfl⟩

theorem State.besideTiles_trans {s u v : State} (h : s.besideTiles u) (h' : u.besideTiles v) : s.besideTiles v := by
  obtain ⟨m, k, j, f, c, rfl⟩ := h
  obtain ⟨m', k', j', f', c', rfl⟩ := h'
  exact ⟨m', k', j', f', c', rfl⟩

theorem State.besideTiles_tiles {s s' : State} (h : s.besideTiles s') : s'.tiles = s.tiles := by
  obtain ⟨m, k, j, f, c, rfl⟩ := h
  rfl

theorem State.besideTiles_tile {s s' : State} (h : s.besideTiles s') (t : TileId) : s'.tile t = s.tile t := by
  rw [State.tile, State.besideTiles_tiles h, State.tile]

theorem State.ctxStart_beside (n now : Nat) (s : State) : s.besideTiles (s.ctxStart n now) := by
  simp only [State.ctxStart]
  split
  · exact ⟨_, _, _, _, _, rfl⟩
  · exact ⟨_, _, _, _, _, rfl⟩
  · exact s.besideTiles_refl

theorem State.ctxMoved_beside (n units : Nat) (done : Bool) (s : State) : s.besideTiles (s.ctxMoved n units done) := by
  simp only [State.ctxMoved]
  split
  · exact ⟨_, _, _, _, _, rfl⟩
  · exact s.besideTiles_refl

theorem State.postHandle_beside (r : Nat) (h : Word) (a p : Nat) (s : State) : s.besideTiles (s.postHandle r h a p).1 := by
  simp only [State.postHandle]
  split
  · exact s.besideTiles_refl
  · split
    · exact s.besideTiles_refl
    · exact ⟨_, _, _, _, _, rfl⟩

theorem State.taskCauseAt_beside (n a : Nat) (r : AbortRecord) (s : State) : s.besideTiles (s.taskCauseAt n a r) := by
  obtain ⟨k, j, f, c, h⟩ := s.taskCauseAt_only n a r
  exact ⟨_, _, j, f, c, h⟩

theorem State.postFor_beside (n r : Nat) (h : Word) (a p die : Nat) (s : State) :
    s.besideTiles (s.postFor n r h a p die) := by
  simp only [State.postFor]
  split
  · exact s.besideTiles_refl
  · split
    · exact s.postHandle_beside r h a p
    · exact State.besideTiles_trans (s.postHandle_beside r h a p) (State.taskCauseAt_beside ..)

theorem State.postStream_beside (f : Frame) (a : Nat) (s : State) : s.besideTiles (s.postStream f a) := by
  unfold State.postStream
  split
  · exact s.postFor_beside ..
  · split
    · exact s.besideTiles_refl
    · exact s.taskCauseAt_beside ..

theorem State.frameLanded_beside (f : Frame) (a : Nat) (s : State) : s.besideTiles (s.frameLanded f a) := by
  unfold State.frameLanded
  extract_lets key old last whole c here s1 s2 now fab s3
  have h1 : s.besideTiles s1 := by
    unfold s1
    split
    · exact s.ctxStart_beside ..
    · exact s.besideTiles_refl
  have h2 : s1.besideTiles s2 := by
    unfold s2
    split
    · exact s1.ctxMoved_beside ..
    · exact s1.besideTiles_refl
  have h3 : s.besideTiles s3 := State.besideTiles_trans (State.besideTiles_trans h1 h2) ⟨_, _, _, _, _, rfl⟩
  split
  · exact State.besideTiles_trans h3 (s3.postStream_beside ..)
  · exact h3

/-! ### What stands outside tiles and tasks -/

/-- The host's side, trust, power and the board stand as they were. -/
def State.sameOutside (s s' : State) : Prop :=
  s'.host = s.host ∧ s'.trust = s.trust ∧ s'.pow = s.pow ∧ s'.board = s.board

theorem State.sameOutside_trans {s u v : State} (h : s.sameOutside u) (h' : u.sameOutside v) : s.sameOutside v := by
  obtain ⟨hh, ht, hp, hb⟩ := h
  obtain ⟨hh', ht', hp', hb'⟩ := h'
  exact ⟨hh'.trans hh, ht'.trans ht, hp'.trans hp, hb'.trans hb⟩

theorem State.sameOutside_of_beside {s s' : State} (h : s.besideTiles s') : s.sameOutside s' := by
  obtain ⟨m, k, j, f, c, rfl⟩ := h
  exact ⟨rfl, rfl, rfl, rfl⟩

theorem State.sameOutside_setTile (s : State) (id : TileId) (v : Tile) : s.sameOutside (s.setTile id v) :=
  ⟨rfl, rfl, rfl, rfl⟩

/-! ### Rows of other sources that enter a silt (R120, R195, R355) -/

theorem State.xtileLanded_sameOutside (id : TileId) (a : Nat) (s : State) : s.sameOutside (s.xtileLanded id a) := by
  unfold State.xtileLanded
  extract_lets u
  split
  · next run =>
    split
    · extract_lets s1 p
      have h1 : s.sameOutside s1 := s.sameOutside_setTile id _
      have hp : s.sameOutside p.1 := State.sameOutside_trans h1 (State.sameOutside_of_beside (s1.postHandle_beside ..))
      split
      · split
        · exact hp
        · exact State.sameOutside_trans h1 (s1.sameOutside_setTile id _)
      · exact h1
    · exact ⟨rfl, rfl, rfl, rfl⟩
  · exact ⟨rfl, rfl, rfl, rfl⟩

theorem State.rowLanded_sameOutside (n : RowNote) (a : Nat) (s : State) : s.sameOutside (s.rowLanded n a) := by
  cases n with
  | xtile src =>
    simp only [State.rowLanded]
    split
    · exact s.xtileLanded_sameOutside ..
    · exact ⟨rfl, rfl, rfl, rfl⟩
  | fill ring h task die => exact State.sameOutside_of_beside (s.postFor_beside ..)
  | frame f => exact State.sameOutside_of_beside (s.frameLanded_beside ..)

end Sys2Proof.Machine
end

section
/-! SUPPORT. The end of a tile's fc up to the stop that it brings, and the stop of an instruction in its dispatch fc
(R132). -/

namespace Sys2Proof.Machine

/-- Of a row that enters a silt nothing reaches a tile in use that has no transfer under way. -/
theorem State.xtileLanded_tile {s : State} {t : TileId} (ht : s.tile t ≠ Tile.idle) (hx : (s.tile t).xfer = none)
    (id : TileId) (a : Nat) : (s.xtileLanded id a).tile t = s.tile t := by
  unfold State.xtileLanded
  extract_lets u
  split
  · next run hrun =>
    have hid : t ≠ id := by
      rintro rfl
      rw [hx] at hrun
      cases hrun
    split
    · extract_lets s1 p
      have h1 : s1.tile t = s.tile t := State.tile_setTile_of_ne hid ht _
      have hp : p.1.tile t = s.tile t := (State.besideTiles_tile (s1.postHandle_beside ..) t).trans h1
      split
      · split
        · exact hp
        · exact (State.tile_setTile_of_ne hid (by rwa [h1]) _).trans h1
      · exact h1
    · rfl
  · rfl

theorem State.rowLanded_tile {s : State} {t : TileId} (ht : s.tile t ≠ Tile.idle) (hx : (s.tile t).xfer = none)
    (n : RowNote) (a : Nat) : (s.rowLanded n a).tile t = s.tile t := by
  cases n with
  | xtile src =>
    simp only [State.rowLanded]
    split
    · exact State.xtileLanded_tile ht hx ..
    · rfl
  | fill ring h task die => exact State.besideTiles_tile (s.postFor_beside ..) t
  | frame f => exact State.besideTiles_tile (s.frameLanded_beside ..) t

theorem State.rowsLanded_tile {s : State} {t : TileId} (ht : s.tile t ≠ Tile.idle) (hx : (s.tile t).xfer = none)
    (l : List RowNote) (a : Nat) : (l.foldl (fun (s : State) n => s.rowLanded n a) s).tile t = s.tile t := by
  refine List.foldlRecOn (motive := fun v : State => v.tile t = s.tile t) l _ rfl fun v hv n _ => ?_
  rw [State.rowLanded_tile (by rwa [hv]) (by rwa [hv]), hv]

theorem State.rowsLanded_sameOutside (l : List RowNote) (a : Nat) (s : State) :
    s.sameOutside (l.foldl (fun (s : State) n => s.rowLanded n a) s) :=
  List.foldlRecOn (motive := fun v : State => s.sameOutside v) l _ ⟨rfl, rfl, rfl, rfl⟩ fun v hv n _ =>
    State.sameOutside_trans hv (v.rowLanded_sameOutside n a)

/-! ### The end of a fc, up to the stop that it brings -/

/-- Fc `clock` of the tile has ended, and the stop that a cause of it may bring is still to come (R132). -/
def State.fcLeft (id : TileId) (s : State) : State :=
  let t := s.tile id
  let now := t.clock
  let b := t.arbitrate now (t.port && t.begun)
  let s := if s.cnt.select.isEmpty then s
    else (s.tileCount id t 0x0107 1 t.waitsHandle).tileCount id t 0x0108 b.2 (b.2 != 0 && t.busy)
  let s := (s.setTile id b.1).readXfer id now
  let notes := (s.tile id).entered now
  let s := s.modTile id fun t => (((t.land now).vecsDue now).passesDue now).resolve now
  let s := s.modTile id fun t => { t with clock := now + 1, begun := false, port := false, stop := none }
  notes.foldl (fun (s : State) n => s.rowLanded n now) s

/-- A fc ends by what it leaves and by the stop of its first cause. -/
theorem State.tileEnd_eq (id : TileId) (s : State) :
    s.tileEnd id =
      if (s.tile id).busy then
        match firstStop (s.tile id).stop ((s.tile id).fetchStop (s.tile id).clock) with
        | some r => (s.fcLeft id).stopTile id (s.tile id).clock r
        | none => s.fcLeft id
      else s.fcLeft id := rfl

theorem State.tileCount_only (id : TileId) (u : Tile) (source k : Nat) (b : Bool) (s : State) :
    ∃ c, s.tileCount id u source k b = { s with cnt := c } := by
  unfold State.tileCount
  split <;> exact ⟨_, rfl⟩

@[simp] theorem Tile.fcOver_phase (u : Tile) : u.fcOver.phase = u.phase := by
  rw [Tile.fcOver, Tile.passesDue_phase, Tile.vecsDue_phase, Tile.land_phase, Tile.arbitrate_phase]

theorem State.readXfer_of_none {s : State} {id : TileId} (h : (s.tile id).xfer = none) (now : Nat) :
    s.readXfer id now = s := by
  simp only [State.readXfer, h]

/-- The end of a fc of a tile in use without a transfer under way: its own turn, counts, and the rows that have entered. -/
theorem State.fcLeft_rows {s : State} {t : TileId} (hp : (s.tile t).phase ≠ .free) (hx : (s.tile t).xfer = none) :
    ∃ c l, s.fcLeft t = l.foldl (fun (v : State) n => v.rowLanded n (s.tile t).clock)
        { s.setTile t ((s.tile t).fcOver.resolve (s.tile t).clock).nextFc with cnt := c } ∧
      ((s.tile t).landing = [] → l = []) := by
  unfold State.fcLeft
  extract_lets u now b s1 s2 notes s3 s4
  have hb : b.1 ≠ Tile.idle := Tile.ne_idle_of_phase (by simpa [b] using hp)
  have hr : (u.fcOver.resolve now).phase ≠ .free := Tile.resolve_phase_ne (by simpa [u] using hp)
  obtain ⟨c, h1⟩ : ∃ c, s1 = { s with cnt := c } := by
    unfold s1
    split
    · exact ⟨_, rfl⟩
    · obtain ⟨c, hc⟩ := State.tileCount_only t u 0x0107 1 u.waitsHandle s
      rw [hc]
      exact State.tileCount_only ..
  have t1 : (s1.setTile t b.1).tile t = b.1 := by rw [State.tile_setTile hb, if_pos rfl]
  have h2 : s2 = s1.setTile t b.1 := State.readXfer_of_none (by rw [t1]; exact Tile.arbitrate_xfer hx _ _) _
  have h3 : s3 = s1.setTile t (u.fcOver.resolve now) := by
    simp only [s3, State.modTile, h2, t1]
    exact State.setTile_setTile hb (Tile.ne_idle_of_phase hr) t s1
  have h4 : s4 = s1.setTile t (u.fcOver.resolve now).nextFc := by
    have hc : (u.fcOver.resolve now).clock = now := by rw [Tile.resolve_clock, Tile.fcOver_clock]
    rw [← State.setTile_setTile (Tile.ne_idle_of_phase hr) (Tile.nextFc_ne_idle hr), Tile.nextFc, hc]
    simp only [s4, State.modTile, h3, State.tile_setTile (Tile.ne_idle_of_phase hr), if_true]
  refine ⟨c, notes, ?_, fun hl => ?_⟩
  · rw [h4, h1]
    rfl
  · have ht : s2.tile t = b.1 := by rw [h2, t1]
    simp only [notes, ht]
    exact Tile.entered_arbitrate (by simp [u, hl]) ..

theorem Tile.foldl_shift_regs (l : List Nat) (g : Nat → Bool) (u : Tile) :
    (l.foldl (fun u q => u.shift q (g q)) u).x = u.x ∧ (l.foldl (fun u q => u.shift q (g q)) u).q = u.q := by
  induction l generalizing u with
  | nil => exact ⟨rfl, rfl⟩
  | cons q l ih => exact ih (u.shift q (g q))

theorem Tile.arbitrate_regs (u : Tile) (n : Nat) (p : Bool) :
    (u.arbitrate n p).1.x = u.x ∧ (u.arbitrate n p).1.q = u.q := Tile.foldl_shift_regs _ _ u

/-- After the banks' turns a fc ends with writes to silt, results and flags. -/
theorem Tile.landed_only (u : Tile) (now : Nat) : ∃ m l f v b p g r, ((u.land now).vecsDue now).passesDue now =
    { u with silt := m, landing := l, vflags := f, vecs := v, limited := b, qPend := p, mflags := g, passes := r } :=
  ⟨_, _, _, _, _, _, _, _, rfl⟩

theorem Tile.resolve_only (u : Tile) (now : Nat) :
    ∃ p n, u.resolve now = { u with phase := p, nextDispatch := n } := by
  unfold Tile.resolve
  split
  · split <;> exact ⟨_, _, rfl⟩
  · exact ⟨_, _, rfl⟩

/-- The end of a fc writes no scalar and no summary register, and begins no transfer. -/
theorem Tile.nextFc_regs {u : Tile} (hx : u.xfer = none) (now : Nat) :
    (u.fcOver.resolve now).nextFc.x = u.x ∧ (u.fcOver.resolve now).nextFc.q = u.q ∧
      (u.fcOver.resolve now).nextFc.xfer = none := by
  obtain ⟨h1, h2⟩ := u.arbitrate_regs u.clock (u.port && u.begun)
  have h3 := Tile.arbitrate_xfer hx u.clock (u.port && u.begun)
  rw [Tile.fcOver]
  generalize (u.arbitrate u.clock (u.port && u.begun)).1 = w at h1 h2 h3 ⊢
  obtain ⟨m, l, f, v, b, p, g, r, ho⟩ := w.landed_only u.clock
  obtain ⟨p', n, hr⟩ := (((w.land u.clock).vecsDue u.clock).passesDue u.clock).resolve_only now
  rw [hr, ho]
  exact ⟨h1, h2, h3⟩

theorem State.fcLeft_tile {s : State} {t : TileId} (hp : (s.tile t).phase ≠ .free) (hx : (s.tile t).xfer = none) :
    (s.fcLeft t).tile t = ((s.tile t).fcOver.resolve (s.tile t).clock).nextFc := by
  obtain ⟨c, l, h, -⟩ := State.fcLeft_rows hp hx
  have hi : ((s.tile t).fcOver.resolve (s.tile t).clock).nextFc ≠ Tile.idle :=
    Tile.nextFc_ne_idle (Tile.resolve_phase_ne (by simpa using hp))
  have hv : ((s.tile t).fcOver.resolve (s.tile t).clock).nextFc.xfer = none :=
    (Tile.nextFc_regs hx _).2.2
  generalize ((s.tile t).fcOver.resolve (s.tile t).clock).nextFc = v at h hi hv ⊢
  have ht : ({ s.setTile t v with cnt := c } : State).tile t = v := (State.tile_setTile hi t t s).trans (if_pos rfl)
  rw [h, State.rowsLanded_tile (by rwa [ht]) (by rwa [ht]), ht]

theorem State.fcLeft_sameOutside {s : State} {t : TileId} (hp : (s.tile t).phase ≠ .free)
    (hx : (s.tile t).xfer = none) : s.sameOutside (s.fcLeft t) := by
  obtain ⟨c, l, h, -⟩ := State.fcLeft_rows hp hx
  rw [h]
  exact State.sameOutside_trans ⟨rfl, rfl, rfl, rfl⟩ (State.rowsLanded_sameOutside ..)

/-- Where no row is on its way in, no handle is posted at the end of the fc. -/
theorem State.fcLeft_rs {s : State} {t : TileId} (hp : (s.tile t).phase ≠ .free) (hx : (s.tile t).xfer = none)
    (hl : (s.tile t).landing = []) : (s.fcLeft t).rs = s.rs := by
  obtain ⟨c, l, h, hn⟩ := State.fcLeft_rows hp hx
  rw [h, hn hl]
  rfl

/-! ### A stop in the dispatch fc (R132) -/

theorem Tile.fetchStop_of_atNone {u : Tile} (h : u.atNone = false) (now : Nat) : u.fetchStop now = none := by
  simp [Tile.fetchStop, h]

theorem Tile.busy_of_running {u : Tile} (h : u.phase = .running) : u.busy = true := by
  rw [Tile.busy, h]

/-- The tile with the cause that stops it at the end of its fc. -/
def Tile.stopping (c code : Nat) (u : Tile) : Tile :=
  { u with stop := some { cause := c, instr := u.pc, code := code } }

theorem State.tile_stopping {s : State} {t : TileId} (hp : (s.tile t).phase = .running) (c code : Nat) :
    (s.modTile t (Tile.stopping c code)).tile t = (s.tile t).stopping c code :=
  (State.tile_modTile (Tile.ne_idle_of_phase (by simp [Tile.stopping, hp]))).trans (if_pos rfl)

/-- At a place of its program that holds an instruction, a tile that `stopNow` stops has that cause and no other. -/
theorem State.stopNow_eq {s : State} {t : TileId} (hp : (s.tile t).phase = .running) (hn : (s.tile t).atNone = false)
    (c code : Nat) : s.stopNow t c code = ((s.modTile t (Tile.stopping c code)).fcLeft t).stopTile t (s.tile t).clock
      { cause := c, instr := (s.tile t).pc, code := code } := by
  have hu : ∀ now, ((s.tile t).stopping c code).fetchStop now = none := fun now => Tile.fetchStop_of_atNone hn now
  have hb : ((s.tile t).stopping c code).busy = true := Tile.busy_of_running hp
  change (s.modTile t (Tile.stopping c code)).tileEnd t = _
  rw [State.tileEnd_eq, State.tile_stopping hp, if_pos hb, hu]
  rfl

/-- What `stopNow` leaves, at an instruction in its place and without a transfer under way: the tile's part ended with the
cause, its registers, and what stands outside tiles and tasks; where no row is on its way in, the rings' handles too. -/
theorem State.stopNow_only {s : State} {t : TileId} {c : Nat} (hp : (s.tile t).phase = .running)
    (hn : (s.tile t).atNone = false) (hx : (s.tile t).xfer = none) (hc : c ≠ 0x0C) (code : Nat) :
    (∃ u : Tile, (s.stopNow t c code).tile t = u.halt c ∧ u.x = (s.tile t).x ∧ u.q = (s.tile t).q) ∧
      s.sameOutside (s.stopNow t c code) ∧
      ((s.tile t).landing = [] → (s.stopNow t c code).rs.handles = s.rs.handles) := by
  have ht := State.tile_stopping hp c code
  have hp' : ((s.modTile t (Tile.stopping c code)).tile t).phase ≠ .free := by simp [ht, Tile.stopping, hp]
  have hx' : ((s.modTile t (Tile.stopping c code)).tile t).xfer = none := by rw [ht]; exact hx
  have hleft := State.fcLeft_tile hp' hx'
  obtain ⟨hrx, hrq, hrf⟩ := Tile.nextFc_regs hx' ((s.modTile t (Tile.stopping c code)).tile t).clock
  rw [← hleft] at hrx hrq hrf
  obtain ⟨m, k, j, f, n, hs, hu, -⟩ := State.stopTile_only hrf (s.tile t).clock
    { cause := c, instr := (s.tile t).pc, code := code } hc
  rw [State.stopNow_eq hp hn]
  refine ⟨⟨_, hu, hrx.trans ?_, hrq.trans ?_⟩, ?_, fun hl => ?_⟩
  · rw [ht]; rfl
  · rw [ht]; rfl
  · refine State.sameOutside_trans (State.sameOutside_trans (s.sameOutside_setTile t _)
      (State.fcLeft_sameOutside hp' hx')) ?_
    rw [hs]
    exact ⟨rfl, rfl, rfl, rfl⟩
  · have hr := State.fcLeft_rs hp' hx' (by rw [ht]; exact hl)
    have hh := congrArg RingState.handles hr
    rw [hs]
    exact hh

/-- An instruction that ends in `stopNow`, at its place in the program and without a transfer under way, stops the tile
with its cause. -/
theorem State.tileStops_stopNow {s b : State} {i : Instr} {t : TileId} {c code : Nat}
    (h : exec i s = ok ((b.stopNow t c code).catchUp t)) (hp : (b.tile t).phase = .running)
    (hn : (b.tile t).atNone = false) (hx : (b.tile t).xfer = none) (hc : c ≠ 0x0C) : s.tileStops b i t c := by
  obtain ⟨⟨u, hu, hrx, hrq⟩, ⟨hh, ht, hpow, hb⟩, -⟩ := State.stopNow_only hp hn hx hc code
  refine ⟨_, h, ?_⟩
  simp only [State.catchUp_tile, hu]
  exact ⟨rfl, rfl, rfl, rfl, rfl, hrx, hrq, hh, ht, hpow, hb⟩

end Sys2Proof.Machine
end

section
/-! SUPPORT. Handles that a tile's program posts (R121, R129). -/

namespace Sys2Proof.Machine

/-- Bit [31] of a tagged handle is the tag. -/
theorem tagHandle_tag (spec : Bool) (h : Word) : (tagHandle spec h).getLsbD 31 = spec := by
  cases spec <;> simp [tagHandle]

/-- A handle that no other of its ring comes after stands last (R194). -/
theorem insertHandle_last {e : HandleIn} {l : List HandleIn}
    (h : ∀ x ∈ l, x.at_ < e.at_ ∨ (x.at_ = e.at_ ∧ x.poster ≤ e.poster)) : insertHandle e l = l ++ [e] := by
  induction l with
  | nil => rfl
  | cons x l ih =>
    have hx : (x.at_ < e.at_ || (x.at_ == e.at_ && x.poster ≤ e.poster)) = true := by
      simpa using h x List.mem_cons_self
    rw [insertHandle, if_pos hx, ih fun y hy => h y (List.mem_cons_of_mem _ hy)]
    rfl

theorem State.ring_setRing_handle {v : Ring} (hv : v.kind = .handle) (r : Nat) (s : State) :
    (s.setRing r v).ring r = v :=
  (State.ring_setRing (by rintro rfl; cases hv) r r s).trans (if_pos rfl)

/-- A handle ring that is full takes no handle. -/
theorem State.postHandle_full {s : State} {r : Nat} (hk : (s.ring r).kind = .handle) (hf : (s.ring r).full = true)
    (h : Word) (a p : Nat) : s.postHandle r h a p = (s, false) := by
  simp [State.postHandle, hk, hf]

/-- A handle ring that is not full takes the handle, and its TAIL passes it. -/
theorem State.postHandle_room {s : State} {r : Nat} (hk : (s.ring r).kind = .handle) (hf : (s.ring r).full = false)
    (hw : mapWf [] s.rs.handles = true) (h : Word) (a p : Nat) :
    ∃ s', s.postHandle r h a p = (s', true) ∧ s'.tiles = s.tiles ∧
      (∀ n, s'.handles n = if n = r then insertHandle ⟨h, a, p⟩ (s.handles r) else s.handles n) ∧
      (s'.ring r).tail = ((s.ring r).tail + 1) % 2 ^ 17 := by
  simp only [State.postHandle, hk, hf, ne_eq, not_true_eq_false, if_false, Bool.false_eq_true]
  refine ⟨_, rfl, rfl, fun n => mapGet_mapSet hw r n _, ?_⟩
  refine congrArg Ring.tail (State.ring_setRing_handle ?_ r s)
  rfl

theorem State.ready_atWord {s : State} {t : TileId} {w : TileWord} (h : s.ready t w = true) :
    ((s.tileBegin t).tile t).atWord w = true := by
  simp only [State.ready, Bool.and_eq_true] at h
  obtain ⟨⟨-, hat⟩, -⟩ := h
  exact hat

theorem Tile.running_of_atWord {u : Tile} {w : TileWord} (h : u.atWord w = true) : u.phase = .running := by
  simp only [Tile.atWord, Bool.and_eq_true, beq_iff_eq] at h
  obtain ⟨⟨hp, -⟩, -⟩ := h
  exact hp

/-! ### HPUT, case by case -/

section
variable {s : State} {t : TileId} {f : HdlF} (hr : s.ready t (.hdl .hput f) = true)
include hr

theorem execHput_reserved (h : f.rsvHigh ≠ 0 ∨ f.rsvLow ≠ 0 ∨ f.wait ≠ 0) :
    exec (.hput t f) s = ok (((s.tileBegin t).stopNow t 1 0).catchUp t) := by
  have hb : (f.rsvHigh != 0 || f.rsvLow != 0 || f.wait != 0) = true := by simpa [or_assoc] using h
  change ok (s.dispatch t _ _) = _
  rw [State.dispatch_ready hr, if_pos hb]

variable (h1 : f.rsvHigh = 0) (h2 : f.rsvLow = 0) (h3 : f.wait = 0)
include h1 h2 h3

theorem execHput_foreign
    (h : (s.tileBegin t).ringOfTask ((s.tileBegin t).tile t).task f.ring.toNat = false) :
    exec (.hput t f) s = ok (((s.tileBegin t).stopNow t 8 0).catchUp t) := by
  change ok (s.dispatch t _ _) = _
  rw [State.dispatch_ready hr]
  simp [h1, h2, h3, h]

theorem execHput_posts
    (h : (s.tileBegin t).ringOfTask ((s.tileBegin t).tile t).task f.ring.toNat = true) {p : State × Bool}
    (hp : (s.tileBegin t).postHandle f.ring.toNat (tagHandle ((s.tileBegin t).tile t).spec
      (((s.tileBegin t).tile t).xGet f.xh.toNat)) ((s.tileBegin t).tile t).clock t.key = p) :
    exec (.hput t f) s = ok ((if p.2 then p.1.modTile t Tile.next else (s.tileBegin t).stopNow t 7 0).catchUp t) := by
  change ok (s.dispatch t _ _) = _
  rw [State.dispatch_ready hr]
  simp [h1, h2, h3, h, hp]

end

/-- Settles O13: the checks in their order, then the ring's answer to the tagged handle. -/
theorem handlesAreTaggedAndPosted : Obligations.HandlesAreTaggedAndPosted := by
  unfold Obligations.HandlesAreTaggedAndPosted
  intro s t f g u r h hr
  have hat : u.atWord (.hdl .hput f) = true := State.ready_atWord hr
  have hrun : u.phase = .running := Tile.running_of_atWord hat
  have hnone : u.atNone = false := Tile.atNone_of_atWord_hdl hat
  refine ⟨fun hx => ⟨fun hb => ?reserved, fun h1 h2 h3 ht => ?foreign⟩,
    fun h1 h2 h3 ht hk => ⟨fun hf hw hlast => ?room, fun hf hx hl => ?full⟩⟩
  case reserved => exact State.tileStops_stopNow (execHput_reserved hr hb) hrun hnone hx (by decide)
  case foreign => exact State.tileStops_stopNow (execHput_foreign hr h1 h2 h3 ht) hrun hnone hx (by decide)
  case room =>
    obtain ⟨g', hp, htiles, hhandles, htail⟩ := State.postHandle_room hk hf hw h u.clock t.key
    have hu : g'.tile t = u := by rw [State.tile, htiles]; rfl
    refine ⟨_, execHput_posts hr h1 h2 h3 ht hp, ?_, ?_, fun n hn => ?_, htail, tagHandle_tag _ _⟩
    · simp [State.tile_modTile, hu]
    · exact (hhandles r).trans ((if_pos rfl).trans (insertHandle_last hlast))
    · exact (hhandles n).trans (if_neg hn)
  case full =>
    obtain ⟨⟨v, hv, -⟩, -, hh⟩ := State.stopNow_only hrun hnone hx (by decide : (7 : Nat) ≠ 0x0C) 0
    refine ⟨_, execHput_posts hr h1 h2 h3 ht (State.postHandle_full hk hf _ _ _), ?_, ?_⟩
    · exact congrArg Tile.phase hv
    · exact congrArg (fun m => mapGet [] m r) (hh hl)

end Sys2Proof.Machine
end

section
/-! SUPPORT. Where a tile's program stands, and that the fc of other tiles, and the beginning of its own, leave it there. -/

namespace Sys2Proof.Machine

/-! ### The place of a program -/

/-- Where the control core of a tile stands: what it does, the place of the next instruction, the program, and the clock. -/
def Tile.place (u : Tile) : TilePhase × Nat × Map DWord × Nat := (u.phase, u.pc, u.store, u.clock)

theorem Tile.phase_of_place {u v : Tile} (h : v.place = u.place) : v.phase = u.phase := congrArg Prod.fst h

theorem Tile.clock_of_place {u v : Tile} (h : v.place = u.place) : v.clock = u.clock :=
  congrArg (fun p => p.2.2.2) h

theorem Tile.atNone_of_place {u v : Tile} (h : v.place = u.place) : v.atNone = u.atNone := by
  obtain ⟨hp, hpc, hs, -⟩ : v.phase = u.phase ∧ v.pc = u.pc ∧ v.store = u.store ∧ v.clock = u.clock := by
    simpa [Tile.place] using h
  simp only [Tile.atNone, hp, hpc, hs]

@[simp] theorem Tile.due_place (now : Nat) (u : Tile) : (u.due now).place = u.place := by
  simp only [Tile.due, Tile.loadsDue]
  split <;> rfl

@[simp] theorem Tile.issueLoad_place (now : Nat) (u : Tile) : (u.issueLoad now).1.place = u.place := by
  simp only [Tile.issueLoad]
  repeat' split
  all_goals rfl

theorem Tile.passStart_place (p : PassRun) (swap : Bool) (u : Tile) : (u.passStart p swap).place = u.place := by
  simp only [Tile.passStart]
  repeat' split
  all_goals rfl

@[simp] theorem Tile.issuePass_place (now : Nat) (u : Tile) : (u.issuePass now).1.place = u.place := by
  simp only [Tile.issuePass]
  split
  · rfl
  · split
    · split
      · rfl
      · split
        · rfl
        · split
          · rfl
          · split
            · rfl
            · exact Tile.passStart_place ..
    · rfl

@[simp] theorem Tile.issueVec_place (now : Nat) (u : Tile) : (u.issueVec now).1.place = u.place := by
  simp only [Tile.issueVec]
  repeat' split
  all_goals rfl

@[simp] theorem Tile.readPass_place (now : Nat) (u : Tile) : (u.readPass now).1.place = u.place := by
  simp only [Tile.readPass, Tile.setAcc]
  repeat' split
  all_goals rfl

@[simp] theorem Tile.readLoad_place (now : Nat) (u : Tile) : (u.readLoad now).1.place = u.place := by
  simp only [Tile.readLoad]
  repeat' split
  all_goals rfl

@[simp] theorem Tile.readVec_place (gen unit off now : Nat) (u : Tile) : (u.readVec gen unit off now).place = u.place := by
  simp only [Tile.readVec]
  split <;> rfl

/-! ### Operations that leave a program at its place -/

/-- A program of tile `t` that is assigned stands in `s'` where it stood. -/
structure State.KeepsPlace (t : TileId) (s s' : State) : Prop where
  place : (s.tile t).phase ≠ .free → (s'.tile t).place = (s.tile t).place

theorem State.keepsPlace_refl (t : TileId) (s : State) : s.KeepsPlace t s := ⟨fun _ => rfl⟩

theorem State.keepsPlace_trans {t : TileId} {s u v : State} (h : s.KeepsPlace t u) (h' : u.KeepsPlace t v) :
    s.KeepsPlace t v where
  place hp := (h'.place (by rwa [Tile.phase_of_place (h.place hp)])).trans (h.place hp)

theorem State.keepsPlace_of_tiles {s s' : State} (h : s'.tiles = s.tiles) (t : TileId) : s.KeepsPlace t s' where
  place _ := by rw [State.tile, h, State.tile]

theorem State.keepsPlace_of_beside {s s' : State} (h : s.besideTiles s') (t : TileId) : s.KeepsPlace t s' :=
  State.keepsPlace_of_tiles (State.besideTiles_tiles h) t

theorem State.keepsPlace_setTile_of_ne {t id : TileId} (hid : t ≠ id) (v : Tile) (s : State) :
    s.KeepsPlace t (s.setTile id v) where
  place hp := by rw [State.tile_setTile_of_ne hid (Tile.ne_idle_of_phase hp)]

theorem State.keepsPlace_setTile {s : State} {id : TileId} {v : Tile} (hv : v.place = (s.tile id).place) (t : TileId) :
    s.KeepsPlace t (s.setTile id v) := by
  by_cases hid : t = id
  · subst hid
    refine ⟨fun hp => ?_⟩
    rw [State.tile_setTile (Tile.ne_idle_of_phase (by rwa [Tile.phase_of_place hv])), if_pos rfl, hv]
  · exact State.keepsPlace_setTile_of_ne hid v s

theorem State.keepsPlace_modTile {f : Tile → Tile} (hf : ∀ u, (f u).place = u.place) (id : TileId) (s : State)
    (t : TileId) : s.KeepsPlace t (s.modTile id f) := State.keepsPlace_setTile (hf _) t

/-! ### More that reaches no tile -/

theorem State.besideTiles_of_sent {s s' : State} (h : s.sentFrom s') : s.besideTiles s' := by
  obtain ⟨f, c, rfl⟩ := h
  exact ⟨_, _, _, _, _, rfl⟩

theorem State.countPath_beside (spec : Bool) (a b n : Nat) (s : State) : s.besideTiles (s.countPath spec a b n) := by
  obtain ⟨c, h⟩ := s.countPath_only spec a b n
  exact ⟨_, _, _, _, c, h⟩

theorem State.tileCount_beside (id : TileId) (u : Tile) (source k : Nat) (b : Bool) (s : State) :
    s.besideTiles (s.tileCount id u source k b) := by
  obtain ⟨c, h⟩ := s.tileCount_only id u source k b
  exact ⟨_, _, _, _, c, h⟩

theorem State.countTile_beside (id : TileId) (now : Nat) (u : Tile) (s : State) :
    s.besideTiles (s.countTile id now u) := by
  unfold State.countTile
  split
  · exact s.besideTiles_refl
  · extract_lets waits macs s1 s2 s3 s4 s5 s6
    have h1 : s.besideTiles s1 := State.tileCount_beside ..
    have h2 : s.besideTiles s2 := State.besideTiles_trans h1 (State.tileCount_beside ..)
    have h3 : s.besideTiles s3 := State.besideTiles_trans h2 (State.tileCount_beside ..)
    have h4 : s.besideTiles s4 := State.besideTiles_trans h3 (State.tileCount_beside ..)
    have h5 : s.besideTiles s5 := State.besideTiles_trans h4 (State.tileCount_beside ..)
    have h6 : s.besideTiles s6 := State.besideTiles_trans h5 (State.tileCount_beside ..)
    exact State.besideTiles_trans h6 (State.tileCount_beside ..)

theorem State.taint_only (n : Nat) (yes : Bool) (s : State) :
    ∃ k, s.taint n yes = { s with rs := { s.rs with tasks := k } } := by
  simp only [State.taint]
  split
  · exact ⟨_, rfl⟩
  · exact ⟨_, rfl⟩

theorem State.taint_beside (n : Nat) (yes : Bool) (s : State) : s.besideTiles (s.taint n yes) := by
  obtain ⟨k, h⟩ := s.taint_only n yes
  exact ⟨_, _, _, _, _, h⟩

theorem State.writeRange_beside (w : Work) (la : Nat) (bs : List Byte) (s : State) :
    s.besideTiles (s.writeRange w la bs).1 := by
  unfold State.writeRange
  refine List.foldlRecOn (motive := fun acc : State × Option MemFault × List Byte => s.besideTiles acc.1) _ _
    s.besideTiles_refl fun acc hv c _ => ?_
  refine State.besideTiles_trans hv ?_
  obtain ⟨v, fault, rest⟩ := acc
  cases fault with
  | some e => exact v.besideTiles_refl
  | none =>
    simp only
    split
    · exact v.besideTiles_refl
    · exact State.besideTiles_trans (u := { v with mem := _ }) ⟨_, _, _, _, _, rfl⟩
        (State.besideTiles_of_sent (State.countClay_sent ..))
    · split
      · exact State.besideTiles_trans (v.countPath_beside ..) ⟨_, _, _, _, _, rfl⟩
      · exact State.besideTiles_trans (v.countPath_beside ..) (State.besideTiles_of_sent (State.sendStream_sent ..))

theorem State.putRows_beside (die task : Nat) (run : XferRun) (first : Nat) (bs : List Byte) (s : State) :
    s.besideTiles (s.putRows die task run first bs).1 := by
  simp only [State.putRows]
  split
  · split
    · simp only [State.intoInlet]
      split
      · exact ⟨_, _, _, _, _, rfl⟩
      · exact s.besideTiles_refl
    · exact s.besideTiles_refl
  · exact s.writeRange_beside ..

theorem State.sendRows_beside (die task : Nat) (run : XferRun) (whole : Bool) (s : State) :
    s.besideTiles (s.sendRows die task run whole) := by
  simp only [State.sendRows]
  split
  · exact State.besideTiles_trans (s.countPath_beside ..) (State.besideTiles_of_sent (State.sendStream_sent ..))
  · exact State.besideTiles_trans (s.countPath_beside ..) (State.besideTiles_of_sent (State.sendStream_sent ..))
  · exact s.countPath_beside ..

theorem State.cutXfer_beside (die task : Nat) (run : XferRun) (s : State) :
    s.besideTiles (s.cutXfer die task run) := by
  unfold State.cutXfer
  split
  · exact s.besideTiles_refl
  · split
    · split
      · exact s.sendRows_beside ..
      · exact s.besideTiles_refl
    · split
      · split
        · exact s.besideTiles_refl
        · exact s.putRows_beside ..
      · exact s.besideTiles_refl

theorem State.refusedStream_beside (u : Tile) (c : AbortRecord) (s : State) : s.besideTiles (s.refusedStream u c) := by
  simp only [State.refusedStream]
  split
  · exact s.besideTiles_refl
  · split
    · split
      · exact s.besideTiles_refl
      · split
        · exact ⟨_, _, _, _, _, rfl⟩
        · exact s.besideTiles_refl
    · exact s.besideTiles_refl

theorem State.faultNotice_tiles (code : Nat) (ws : List Word) (s : State) : (s.faultNotice code ws).tiles = s.tiles := by
  obtain ⟨q, h, hn⟩ := s.notice_only code ws
  obtain ⟨t, q', h', ha, -⟩ := (s.notice code ws).appendAudit_only
    ((s.notice code ws).entry (0x500 + (code - 0x800)) 0 0 0 0 [] (ws.flatMap fun (w : Word) => leBytes 4 w.toNat))
  have hv : (s.notice code ws).tiles = s.tiles := by rw [hn]
  exact (congrArg State.tiles ha).trans hv

/-- What follows poison reaches no tile. -/
theorem State.poisonNotice_tiles (e : MemFault) (s : State) : (s.poisonNotice e).tiles = s.tiles := by
  simp only [State.poisonNotice, State.poisonFound]
  split
  · split
    · exact State.faultNotice_tiles ..
    · exact State.faultNotice_tiles ..
  · rfl

/-! ### A tile's transfer (R189, R190) -/

theorem State.xferDone_place (id : TileId) (run : XferRun) (last : Nat) (s : State) (t : TileId) :
    s.KeepsPlace t (s.xferDone id run last) := by
  unfold State.xferDone
  extract_lets u s1 s2 p
  have h1 : s.KeepsPlace t s1 := State.keepsPlace_setTile (by rfl) t
  have h2 : s.KeepsPlace t s2 := State.keepsPlace_trans h1 (State.keepsPlace_of_beside
    (State.besideTiles_trans (s1.ctxMoved_beside ..) ⟨_, _, _, _, _, rfl⟩) t)
  have hp : s.KeepsPlace t p.1 := State.keepsPlace_trans h2 (State.keepsPlace_of_beside (s2.postHandle_beside ..) t)
  split
  · split
    · exact hp
    · exact State.keepsPlace_trans h2 (State.keepsPlace_modTile (fun _ => by rfl) ..)
  · exact h2

theorem State.xferFault_place (run : XferRun) (e : MemFault) (s : State) (t : TileId) :
    s.KeepsPlace t (s.xferFault run e).1 :=
  State.keepsPlace_of_tiles (s := s) (State.poisonNotice_tiles e (s.ctxFault run.record.ctx e.code)) t

theorem State.xgetRows_place (id : TileId) (now : Nat) (run : XferRun) (s : State) (t : TileId) :
    s.KeepsPlace t (s.xgetRows id now run).1 := by
  unfold State.xgetRows
  extract_lets k w la b s1 run' s2
  have h1 : s.KeepsPlace t s1 := by
    unfold s1
    split
    · exact s.keepsPlace_refl t
    · exact State.keepsPlace_of_beside (State.besideTiles_of_sent (s.countRead_sent ..)) t
  have h2 : s.KeepsPlace t s2 := State.keepsPlace_trans h1 (State.keepsPlace_trans
    (State.keepsPlace_modTile (fun _ => by rfl) ..) (State.keepsPlace_of_beside (State.ctxMoved_beside ..) t))
  split
  · exact s.keepsPlace_refl t
  · split
    · exact State.keepsPlace_trans h2 (s2.xferFault_place ..)
    · split
      · exact State.keepsPlace_trans h2 (s2.xferDone_place ..)
      · exact h2

theorem State.xputRows_place (id : TileId) (now : Nat) (run : XferRun) (s : State) (t : TileId) :
    s.KeepsPlace t (s.xputRows id now run).1 := by
  unfold State.xputRows
  extract_lets due1 due run' b
  have hb : s.KeepsPlace t b.1 := State.keepsPlace_trans (State.keepsPlace_modTile (fun _ => by rfl) ..)
    (State.keepsPlace_of_beside (State.putRows_beside ..) t)
  split
  · exact s.keepsPlace_refl t
  · split
    · exact State.keepsPlace_trans hb (State.keepsPlace_trans (State.keepsPlace_modTile (fun _ => by rfl) ..)
        (State.xferFault_place ..))
    · split
      · exact State.keepsPlace_trans hb (b.1.xferDone_place ..)
      · exact hb

theorem State.moveXfer_place (id : TileId) (now : Nat) (s : State) (t : TileId) :
    s.KeepsPlace t (s.moveXfer id now).1 := by
  have done (c : Bool) (run : XferRun) (last : Nat) :
      s.KeepsPlace t (if c = true then s.xferDone id run last else s) := by
    split
    · exact s.xferDone_place ..
    · exact s.keepsPlace_refl t
  unfold State.moveXfer
  split
  · exact s.keepsPlace_refl t
  · split
    · exact s.xgetRows_place ..
    · split
      · split
        · exact s.xferDone_place ..
        · exact s.keepsPlace_refl t
      · exact done ..
    · split
      · exact done ..
      · exact s.xputRows_place ..

theorem State.xferStart_place (id : TileId) (now : Nat) (q : Queued) (op : XferOp) (f : XferF) (r : XferRec) (a : Nat)
    (s : State) (t : TileId) : s.KeepsPlace t (s.xferStart id now q op f r a) := by
  unfold State.xferStart
  extract_lets u run s1 w
  have h1 : s.KeepsPlace t s1 := State.keepsPlace_trans (State.keepsPlace_setTile (by rfl) t)
    (State.keepsPlace_of_beside (State.ctxStart_beside ..) t)
  refine State.keepsPlace_trans h1 (State.keepsPlace_of_beside ?_ t)
  split
  · split
    · exact State.besideTiles_of_sent (State.sendReads_sent ..)
    · exact State.besideTiles_trans (s1.taint_beside ..) (State.besideTiles_of_sent (State.requestAway_sent ..))
  · exact s1.besideTiles_refl

/-! ### The beginning of a fc -/

theorem State.tileBegin_place (id : TileId) (s : State) (t : TileId) : s.KeepsPlace t (s.tileBegin id) := by
  unfold State.tileBegin
  extract_lets t0 now t1 late x s1 u1 refused tried
  split
  · exact s.keepsPlace_refl t
  · have h1 : s.KeepsPlace t s1 := State.keepsPlace_trans
      (State.keepsPlace_setTile ((Tile.due_place now t0 :) ▸ rfl) t) (State.moveXfer_place ..)
    clear_value tried
    split
    next s2 c0 hm =>
    extract_lets u2 a b c issued p l v s3
    have h2 : s1.KeepsPlace t s2 := by
      split at hm
      · obtain ⟨rfl, -⟩ := Prod.mk.inj hm
        exact State.xferStart_place ..
      · obtain ⟨rfl, -⟩ := Prod.mk.inj hm
        exact s1.keepsPlace_refl t
      · obtain ⟨rfl, -⟩ := Prod.mk.inj hm
        exact State.keepsPlace_of_beside (State.refusedStream_beside ..) t
    have hi : issued.1.place = u2.place := by
      unfold issued
      split
      · rfl
      · simp [c, b, a]
    have hv : v.place = u2.place := by simp [v, l, p, hi]
    have h3 : s2.besideTiles s3 := State.besideTiles_trans (State.countTile_beside ..) (State.tileCount_beside ..)
    have hs : v.place = (s3.tile id).place := by rw [hv, State.besideTiles_tile h3]
    clear_value s3 v
    exact State.keepsPlace_trans h1 (State.keepsPlace_trans h2 (State.keepsPlace_trans
      (State.keepsPlace_of_beside h3 t) (State.keepsPlace_setTile (by exact hs) t)))

/-! ### A fc of another tile -/

theorem State.xtileLanded_place (id : TileId) (a : Nat) (s : State) (t : TileId) :
    s.KeepsPlace t (s.xtileLanded id a) := by
  unfold State.xtileLanded
  extract_lets u
  split
  · next run _ =>
    split
    · extract_lets s1 p
      have h1 : s.KeepsPlace t s1 := State.keepsPlace_setTile (by rfl) t
      have hp : s.KeepsPlace t p.1 := State.keepsPlace_trans h1 (State.keepsPlace_of_beside (s1.postHandle_beside ..) t)
      split
      · split
        · exact hp
        · exact State.keepsPlace_trans h1 (State.keepsPlace_modTile (fun _ => by rfl) ..)
      · exact h1
    · exact s.keepsPlace_refl t
  · exact s.keepsPlace_refl t

theorem State.rowLanded_place (n : RowNote) (a : Nat) (s : State) (t : TileId) : s.KeepsPlace t (s.rowLanded n a) := by
  cases n with
  | xtile src =>
    simp only [State.rowLanded]
    split
    · exact s.xtileLanded_place ..
    · exact s.keepsPlace_refl t
  | fill ring h task die => exact State.keepsPlace_of_beside (s.postFor_beside ..) t
  | frame f => exact State.keepsPlace_of_beside (s.frameLanded_beside ..) t

theorem State.deliver_place (id : TileId) (a addr : Nat) (bs : List Byte) (note : Option RowNote) (s : State)
    (t : TileId) : s.KeepsPlace t (s.deliver id a addr bs note) := by
  unfold State.deliver
  extract_lets s1
  have h1 : s.KeepsPlace t s1 := State.keepsPlace_modTile (fun _ => by rfl) ..
  split
  · exact State.keepsPlace_modTile (fun _ => by rfl) ..
  · split
    · exact State.keepsPlace_trans h1 (s1.rowLanded_place ..)
    · exact h1

theorem State.readXfer_place (id : TileId) (now : Nat) (s : State) (t : TileId) :
    s.KeepsPlace t (s.readXfer id now) := by
  unfold State.readXfer
  extract_lets u
  split
  · exact s.keepsPlace_refl t
  · next run _ =>
    extract_lets row lands s1 keep run' s2 last
    have h1 : s.besideTiles s1 := s.ctxMoved_beside ..
    have h2 : s.KeepsPlace t s2 := State.keepsPlace_trans (State.keepsPlace_of_beside h1 t)
      (State.keepsPlace_setTile (by rw [State.besideTiles_tile h1]; rfl) t)
    split
    · exact s.keepsPlace_refl t
    · refine State.keepsPlace_trans h2 ?_
      split
      · split
        · exact State.keepsPlace_of_beside (s2.sendRows_beside ..) t
        · exact s2.keepsPlace_refl t
      · split
        · split
          · exact State.keepsPlace_trans (State.keepsPlace_of_beside (s2.countPath_beside ..) t) (State.deliver_place ..)
          · exact s2.keepsPlace_refl t
        · exact s2.keepsPlace_refl t

section
variable {t id : TileId} (hid : t ≠ id)
include hid

theorem State.fcLeft_place (s : State) : s.KeepsPlace t (s.fcLeft id) := by
  unfold State.fcLeft
  extract_lets u now b s1 s2 notes s3 s4
  have h1 : s.besideTiles s1 := by
    unfold s1
    split
    · exact s.besideTiles_refl
    · exact State.besideTiles_trans (s.tileCount_beside ..) (State.tileCount_beside ..)
  have h2 : s.KeepsPlace t s2 := State.keepsPlace_trans (State.keepsPlace_of_beside h1 t)
    (State.keepsPlace_trans (State.keepsPlace_setTile_of_ne hid ..) (State.readXfer_place ..))
  have h4 : s2.KeepsPlace t s4 := State.keepsPlace_trans (State.keepsPlace_setTile_of_ne hid ..)
    (State.keepsPlace_setTile_of_ne hid ..)
  exact List.foldlRecOn (motive := fun v : State => s.KeepsPlace t v) notes _ (State.keepsPlace_trans h2 h4)
    fun v hv n _ => State.keepsPlace_trans hv (v.rowLanded_place n now t)

theorem State.stopTile_place (now : Nat) (r : AbortRecord) (s : State) : s.KeepsPlace t (s.stopTile id now r) := by
  have h : s.KeepsPlace t (s.haltTile id r.cause) := by
    unfold State.haltTile
    extract_lets u v
    refine State.keepsPlace_trans (State.keepsPlace_of_beside ?_ t) (State.keepsPlace_setTile_of_ne hid ..)
    unfold v
    split
    · exact s.cutXfer_beside ..
    · exact s.besideTiles_refl
  simp only [State.stopTile]
  split
  · exact h
  · exact State.keepsPlace_trans h (State.keepsPlace_of_beside (State.taskCauseAt_beside ..) t)

theorem State.tileEnd_place (s : State) : s.KeepsPlace t (s.tileEnd id) := by
  rw [State.tileEnd_eq]
  split
  · split
    · exact State.keepsPlace_trans (State.fcLeft_place hid _) (State.stopTile_place hid ..)
    · exact State.fcLeft_place hid _
  · exact State.fcLeft_place hid _

theorem State.tileFc_place (s : State) : s.KeepsPlace t (s.tileFc id) :=
  State.keepsPlace_trans (s.tileBegin_place id t) (State.tileEnd_place hid _)

theorem State.tileTo_place (h n : Nat) (s : State) : s.KeepsPlace t (s.tileTo id h n) := by
  induction n generalizing s with
  | zero => exact s.keepsPlace_refl t
  | succ n ih =>
    rw [State.tileTo]
    extract_lets u k s1
    split
    · exact s.keepsPlace_refl t
    · split
      · have h1 : s1.tiles = s.tiles := by
          unfold s1
          split
          · rfl
          · split <;> rfl
        exact State.keepsPlace_trans (State.keepsPlace_of_tiles h1 t)
          (State.keepsPlace_trans (State.keepsPlace_setTile_of_ne hid ..) (ih _))
      · exact State.keepsPlace_trans (State.tileFc_place hid s) (ih _)

end

/-- No tile that is run up to a fc that tile `t` has reached moves the program of `t`, `t` itself among them. -/
theorem State.runTo_place {s : State} {t : TileId} {h : Nat} (hc : h ≤ (s.tile t).clock) (id : TileId) :
    s.KeepsPlace t (s.runTo id h) := by
  by_cases hid : t = id
  · rw [← hid, State.runTo_reached hc]
    exact s.keepsPlace_refl t
  · exact State.tileTo_place hid ..

/-- Rows drawn into a ring up to a fc that a tile has reached leave its program where it stands. -/
theorem State.pullRing_place {s : State} {t : TileId} (r : Nat) (hp : (s.tile t).phase ≠ .free) :
    ((s.pullRing r (s.tile t).clock).tile t).place = (s.tile t).place := by
  unfold State.pullRing
  refine List.foldlRecOn (motive := fun v : State => (v.tile t).place = (s.tile t).place) _ _ rfl fun v hv k _ => ?_
  split
  · have hp' : (v.tile t).phase ≠ .free := by rwa [Tile.phase_of_place hv]
    exact ((State.runTo_place (Tile.clock_of_place hv).ge _).place hp').trans hv
  · exact hv

end Sys2Proof.Machine
end

section
/-! SUPPORT. Handles that a tile's program takes (R127, R128). -/

namespace Sys2Proof.Machine

/-! ### The oldest handle leaves its ring -/

/-- A tile takes the oldest handle of a ring: that ring has the others left, and nothing else has changed but the tile, the
ring's HEAD and the task that the handle may taint. -/
theorem State.takeHandle_only {g : State} {r : Nat} (hw : mapWf [] g.rs.handles = true) {t : TileId} {act : Tile → Tile}
    (ha : act (g.tile t) ≠ Tile.idle) (n : Nat) (yes : Bool) :
    ∃ s', (((g.takeHandle r).taint n yes).modTile t act).catchUp t = s' ∧ s'.tile t = act (g.tile t) ∧
      s'.handles r = (g.handles r).tail ∧ (∀ m, m ≠ r → s'.handles m = g.handles m) ∧
      (∀ v, v ≠ t → s'.tile v = g.tile v) ∧ s'.mem = g.mem ∧ s'.job = g.job := by
  obtain ⟨k, hk⟩ := State.taint_only n yes (g.takeHandle r)
  have hh (m : Nat) : (g.takeHandle r).handles m = if m = r then (g.handles r).tail else g.handles m :=
    mapGet_mapSet hw r m _
  have ht (v : TileId) : (((g.takeHandle r).taint n yes).modTile t act).tile v =
      if v = t then act (g.tile t) else g.tile v := by
    rw [hk]
    exact State.tile_modTile ha
  refine ⟨_, rfl, (ht t).trans (if_pos rfl), ?_, fun m hm => ?_, fun v hv => (ht v).trans (if_neg hv), ?_, ?_⟩
  · rw [hk]
    exact (hh r).trans (if_pos rfl)
  · rw [hk]
    exact (hh m).trans (if_neg hm)
  · rw [hk]
    rfl
  · rw [hk]
    rfl

/-! ### HGET, case by case -/

/-- The fc of a tile that may dispatch is the one that it has reached. -/
theorem State.ready_clock {s : State} {t : TileId} {w : TileWord} (hr : s.ready t w = true) :
    ((s.tileBegin t).tile t).clock = (s.tile t).clock :=
  Tile.clock_of_place ((s.tileBegin_place t t).place (by simp [State.ready_phase hr]))

section
variable {s g : State} {t : TileId} {f : HdlF} (hr : s.ready t (.hdl .hget f) = true)
  (hg : (s.tileBegin t).pullRing f.ring.toNat (s.tile t).clock = g)
include hr hg

/-- What the rows that enter meanwhile leave of a tile at its HGET. -/
theorem State.hget_stands : (g.tile t).phase = .running ∧ (g.tile t).atNone = false := by
  have hat := State.ready_atWord hr
  have hrun := Tile.running_of_atWord hat
  have h := State.pullRing_place f.ring.toNat (s := s.tileBegin t) (t := t) (by simp [hrun])
  rw [State.ready_clock hr, hg] at h
  exact ⟨(Tile.phase_of_place h).trans hrun, (Tile.atNone_of_place h).trans (Tile.atNone_of_atWord_hdl hat)⟩

theorem execHget_reserved (h : f.rsvHigh ≠ 0 ∨ f.rsvLow ≠ 0) :
    exec (.hget t f) s = ok ((g.stopNow t 1 0).catchUp t) := by
  have hb : (f.rsvHigh != 0 || f.rsvLow != 0) = true := by simpa using h
  change ok (s.dispatch t _ _) = _
  simp only [State.dispatch_ready hr, State.ready_clock hr, hg, hb, if_true]

variable (h1 : f.rsvHigh = 0) (h2 : f.rsvLow = 0)
include h1 h2

theorem execHget_foreign (h : g.ringOfTask (g.tile t).task f.ring.toNat = false ∨ g.consumes t f.ring.toNat = false) :
    exec (.hget t f) s = ok ((g.stopNow t 8 0).catchUp t) := by
  have hb : (!g.ringOfTask (g.tile t).task f.ring.toNat || !g.consumes t f.ring.toNat) = true := by simpa using h
  change ok (s.dispatch t _ _) = _
  simp only [State.dispatch_ready hr, State.ready_clock hr, hg, hb, if_true]
  simp [h1, h2]

variable (h3 : g.ringOfTask (g.tile t).task f.ring.toNat = true) (h4 : g.consumes t f.ring.toNat = true)
include h3 h4

theorem execHget_takes {h : HandleIn} (ho : g.oldest f.ring.toNat = some h) (ha : h.at_ ≤ (g.tile t).clock) :
    exec (.hget t f) s = ok ((((g.takeHandle f.ring.toNat).taint (g.tile t).task h.word.msb).modTile t
      fun u => (u.xSet f.xh.toNat h.word).next).catchUp t) := by
  change ok (s.dispatch t _ _) = _
  simp only [State.dispatch_ready hr, State.ready_clock hr, hg]
  simp [h1, h2, h3, h4, ho, ha]

theorem execHget_empty (ho : g.oldest f.ring.toNat = none) :
    exec (.hget t f) s = ok ((if f.wait = 0 then g.stopNow t 6 0
      else g.modTile t fun u => { u.next with phase := .handleHold f u.clock }).catchUp t) := by
  change ok (s.dispatch t _ _) = _
  simp only [State.dispatch_ready hr, State.ready_clock hr, hg]
  simp [h1, h2, h3, h4, ho]

end

/-- HGET_HANDLE in a hold that a handle ends: the fc in which it enters is carried out, and it is taken. -/
theorem execHgetHandle_takes {s g d : State} {t : TileId} {f f' : HdlF} {since since' : Nat} {h : HandleIn}
    (hp : (s.tile t).phase = .handleHold f since)
    (hg : s.pullRing f.ring.toNat (since + 64 * f.wait.toNat) = g) (ho : g.oldest f.ring.toNat = some h)
    (hl : max h.at_ since < since + 64 * f.wait.toNat) (hd : g.runTo t (max h.at_ since + 1) = d)
    (hh : (d.tile t).phase = .handleHold f' since') :
    exec (.hgetHandle t) s = ok ((((d.takeHandle f.ring.toNat).taint (d.tile t).task h.word.msb).modTile t fun u =>
      { u.xSet f.xh.toNat h.word with phase := .running, nextDispatch := max h.at_ since + 2 }).catchUp t) := by
  change execHgetHandle t s = _
  simp only [execHgetHandle, hp, hg, ho, hl, if_true, hd, hh]

/-- Settles O12: HGET's checks in their order, then what its ring holds; and the hold that a handle ends. -/
theorem handlesAreTakenOldestFirst : Obligations.HandlesAreTakenOldestFirst := by
  unfold Obligations.HandlesAreTakenOldestFirst
  intro s t f r took
  refine ⟨?dispatched, ?held⟩
  case held =>
    intro since h hp g fc ho hl d hw hh
    obtain ⟨s', hs', h⟩ := State.takeHandle_only hw (t := t) (n := (d.tile t).task) (yes := h.word.msb)
      (act := fun u => { u.xSet f.xh.toNat h.word with phase := .running, nextDispatch := fc + 2 })
      (Tile.ne_idle_of_phase (by simp))
    exact ⟨s', (execHgetHandle_takes hp rfl ho hl rfl hh).trans (congrArg ok hs'), h⟩
  case dispatched =>
    intro g u hw hr
    obtain ⟨hrun, hnone⟩ := State.hget_stands hr (g := g) rfl
    refine ⟨fun h1 h2 h3 h4 => ⟨fun h ho ha => ?takes, fun ho hwait => ?holds, fun ho hwait hx => ?late⟩,
      fun hx => ⟨fun hb => ?reserved, fun h1 h2 hf => ?foreign⟩⟩
    case takes =>
      obtain ⟨s', hs', h⟩ := State.takeHandle_only hw (t := t) (n := u.task) (yes := h.word.msb)
        (act := fun u => (u.xSet f.xh.toNat h.word).next) (Tile.next_ne_idle _)
      exact ⟨s', (execHget_takes hr rfl h1 h2 h3 h4 ho ha).trans (congrArg ok hs'), h⟩
    case holds =>
      refine State.tileBecomes_of (Tile.ne_idle_of_phase (by simp)) ?_
      rw [execHget_empty hr rfl h1 h2 h3 h4 ho, if_neg hwait]
      rfl
    case late =>
      refine State.tileStops_stopNow (code := 0) ?_ hrun hnone hx (by decide)
      rw [execHget_empty hr rfl h1 h2 h3 h4 ho, if_pos hwait]
    case reserved => exact State.tileStops_stopNow (execHget_reserved hr rfl hb) hrun hnone hx (by decide)
    case foreign => exact State.tileStops_stopNow (execHget_foreign hr rfl h1 h2 hf) hrun hnone hx (by decide)

end Sys2Proof.Machine
end

section
/-! SUPPORT. A fc of a tile that carries out nothing but its transfer, and rows that enter silt (R189, R190; when a row of
an XGET and one of a delivery enter, and in a tile whose clock is ahead: notes/assumptions/12, 26, 83). -/

namespace Sys2Proof.Machine

/-! ### What a stream touches -/

/-- `s'` differs from `s` in the rings and contexts, the fabric and the counters alone. -/
def State.streamsOnly (s s' : State) : Prop := ∃ k f c, s' = { s with rs := k, fab := f, cnt := c }

theorem State.streamsOnly_refl (s : State) : s.streamsOnly s := ⟨_, _, _, rfl⟩

theorem State.streamsOnly_trans {s u v : State} (h : s.streamsOnly u) (h' : u.streamsOnly v) : s.streamsOnly v := by
  obtain ⟨k, f, c, rfl⟩ := h
  obtain ⟨k', f', c', rfl⟩ := h'
  exact ⟨k', f', c', rfl⟩

theorem State.streamsOnly_tile {s s' : State} (h : s.streamsOnly s') (t : TileId) : s'.tile t = s.tile t := by
  obtain ⟨k, f, c, rfl⟩ := h
  rfl

theorem State.streamsOnly_setTile {s s' : State} (h : s.streamsOnly s') (t : TileId) (v : Tile) :
    (s.setTile t v).streamsOnly (s'.setTile t v) := by
  obtain ⟨k, f, c, rfl⟩ := h
  exact ⟨k, f, c, rfl⟩

/-- A tile set twice, with streams that move in between, is as it was set last. -/
theorem State.streamsOnly_setTile_setTile {s u v : State} {t : TileId} {a b : Tile} (ha : a ≠ Tile.idle)
    (hb : b ≠ Tile.idle) (h : (s.setTile t a).streamsOnly u) (h' : (u.setTile t b).streamsOnly v) :
    (s.setTile t b).streamsOnly v := by
  have hu := State.streamsOnly_setTile h t b
  rw [State.setTile_setTile ha hb] at hu
  exact State.streamsOnly_trans hu h'

/-- A tile that is set, with streams that move after it: it reads as it was set, and every other tile as before. -/
theorem State.streamsOnly_tile_setTile {s s' : State} {t : TileId} {v : Tile} (hv : v ≠ Tile.idle)
    (h : (s.setTile t v).streamsOnly s') (u : TileId) : s'.tile u = if u = t then v else s.tile u :=
  (State.streamsOnly_tile h u).trans (State.tile_setTile hv t u s)

theorem State.tileCount_streams (id : TileId) (u : Tile) (source k : Nat) (b : Bool) (s : State) :
    s.streamsOnly (s.tileCount id u source k b) := by
  obtain ⟨c, h⟩ := s.tileCount_only id u source k b
  exact ⟨_, _, c, h⟩

theorem State.countTile_streams (id : TileId) (now : Nat) (u : Tile) (s : State) :
    s.streamsOnly (s.countTile id now u) := by
  unfold State.countTile
  split
  · exact s.streamsOnly_refl
  · extract_lets waits macs
    iterate 7 refine State.streamsOnly_trans ?_ (State.tileCount_streams ..)
    exact s.streamsOnly_refl

theorem State.ctxMoved_streams (n units : Nat) (done : Bool) (s : State) : s.streamsOnly (s.ctxMoved n units done) := by
  simp only [State.ctxMoved]
  split
  · exact ⟨_, _, _, rfl⟩
  · exact s.streamsOnly_refl

/-! ### An XGET whose last rows enter (R189) -/

/-- Once TRANSFER_COMPLETE has told what the path adds, every row is due by the fc of the last (R189). -/
theorem XferRun.due_told {run : XferRun} {extra now : Nat}
    (h : run.issue + 7 + run.path.getD 0 + extra + run.total ≤ now) : (run.told extra).due now = run.total :=
  Nat.min_eq_left (show run.total ≤ now + 1 - (run.issue + 8 + run.path.getD 0 + extra) by omega)

/-- The tile in the fc in which the last bytes `bs` of an XGET enter its silt, before the transfer ends. -/
def Tile.lastRows (run : XferRun) (bs : List Byte) (u : Tile) : Tile :=
  { u with silt := memWrite u.silt (run.addr + 64 * run.landed) bs, xfer := some { run with landed := run.total }
           port := true }

/-- The transfer is over in fc `now`. -/
def Tile.xferOver (now : Nat) (u : Tile) : Tile := { u with xfer := none, xferFree := now + 1 }

/-- A transfer without a handle ends: the unit is free in the next fc. -/
theorem State.xferDone_streams {run : XferRun} (hf : run.f.post = 0) (t : TileId) (last : Nat) (s : State) :
    (s.setTile t ((s.tile t).xferOver last)).streamsOnly (s.xferDone t run last) := by
  simp only [State.xferDone, hf]
  exact State.streamsOnly_trans (State.ctxMoved_streams ..) ⟨_, _, _, rfl⟩

theorem State.xgetRows_last {s : State} {t : TileId} {run : XferRun} {now : Nat} {bs : List Byte}
    (hp : (s.tile t).phase ≠ .free) (hf : run.f.post = 0) (hr : run.remote s = false) (hl : run.landed < run.total)
    (hd : run.due now = run.total)
    (hb : s.readRange (s.workOf t.die.val (s.tile t).task run.record.ctx) (run.record.laddr + 64 * run.landed)
      (64 * (run.total - run.landed)) = (bs, none)) :
    ∃ s', s.xgetRows t now run = (s', none) ∧
      (s.setTile t (((s.tile t).lastRows run bs).xferOver now)).streamsOnly s' := by
  have hk : run.total - run.landed ≠ 0 := by omega
  have hlast : run.landed + (run.total - run.landed) = run.total := by omega
  obtain ⟨f, c, hc⟩ := s.countRead_sent (s.workOf t.die.val (s.tile t).task run.record.ctx)
    (run.record.laddr + 64 * run.landed) (64 * (run.total - run.landed))
  simp only [State.xgetRows, hd, hr, hb, if_neg hk, hlast, Bool.false_eq_true, if_false, if_true, hc]
  refine ⟨_, rfl, ?_⟩
  have hu : (s.tile t).lastRows run bs ≠ Tile.idle := Tile.ne_idle_of_phase hp
  have hrows : (s.setTile t ((s.tile t).lastRows run bs)).streamsOnly
      ((({ s with fab := f, cnt := c } : State).modTile t (Tile.lastRows run bs)).ctxMoved run.record.ctx
        (bs.length / 64) false) :=
    State.streamsOnly_trans ⟨_, f, c, rfl⟩ (State.ctxMoved_streams ..)
  have hdone := State.xferDone_streams (run := { run with landed := run.total }) hf t now
    ((({ s with fab := f, cnt := c } : State).modTile t (Tile.lastRows run bs)).ctxMoved run.record.ctx
        (bs.length / 64) false)
  rw [State.streamsOnly_tile hrows, State.tile_setTile hu, if_pos rfl] at hdone
  exact State.streamsOnly_setTile_setTile hu (Tile.ne_idle_of_phase hp) hrows hdone

/-! ### A fc in which the units of a tile have nothing to do -/

/-- Nothing waits or is under way in the tile but its transfer and its program. -/
def Tile.unitsIdle (u : Tile) : Prop :=
  u.passQ = [] ∧ u.loadQ = [] ∧ u.vecQ = [] ∧ u.xferQ = [] ∧ u.passes = [] ∧ u.loads = [] ∧ u.vecs = [] ∧
    u.landing = [] ∧ u.asks = [] ∧ u.heldEntry = none ∧ u.heldSwap = none

/-- What falls due where no load is under way: entries, summary registers, slots and accumulator sets. -/
theorem Tile.due_only {u : Tile} (h : u.loads = []) (now : Nat) : ∃ hq q p m v a b, u.due now =
    { u with hq := hq, q := q, qPend := p, mslots := m, vslots := v, accFree0 := a, accFree1 := b } := by
  have hl : (u.entriesDue now).loadsDue now = u.entriesDue now := by
    have he : (u.entriesDue now).loads = [] := h
    simp only [Tile.loadsDue, he, List.find?_nil]
  rw [Tile.due, hl]
  exact ⟨_, _, _, _, _, _, _, rfl⟩

theorem Tile.timeouts_of_none {u : Tile} (he : u.heldEntry = none) (hs : u.heldSwap = none) (now : Nat) :
    u.timeouts now = none := by
  simp [Tile.timeouts, he, hs, firstStop]

/-- Where no unit has an access to make, the banks' turns leave the tile as it is. -/
theorem Tile.arbitrate_of_idle {u : Tile} (hi : u.unitsIdle) (hx : u.xfer = none) (now : Nat) (p : Bool) :
    (u.arbitrate now p).1 = u := by
  obtain ⟨-, -, -, -, -, -, -, hland, hasks, -, -⟩ := hi
  have ht : u.turns now p = [] := by
    simp [Tile.turns, Tile.writeAsks, Tile.xferAsks, Tile.delivery?, hland, hasks, hx, sortAsks]
  calc (u.arbitrate now p).1 = { u with landing := [], asks := [] } := by
        simp [Tile.arbitrate, ht, serve, portWaits, hland]
    _ = u := by rw [← hland, ← hasks]

/-- Such a fc ends without a result. -/
theorem Tile.fcOver_of_idle {u : Tile} (hi : u.unitsIdle) (hx : u.xfer = none) : u.fcOver = u := by
  rw [Tile.fcOver, Tile.arbitrate_of_idle hi hx]
  obtain ⟨-, -, -, -, hpass, -, hvec, hland, -, -, -⟩ := hi
  calc ((u.land u.clock).vecsDue u.clock).passesDue u.clock = { u with landing := [], vecs := [], passes := [] } := by
        simp [Tile.land, Tile.vecsDue, Tile.passesDue, hland, hvec, hpass]
    _ = u := by rw [← hland, ← hvec, ← hpass]

/-! ### Sub-queues and units with nothing in them -/

theorem Tile.issueLoad_nil {u : Tile} (h : u.loadQ = []) (now : Nat) : u.issueLoad now = (u, none) := by
  simp only [Tile.issueLoad, h]

theorem Tile.issuePass_nil {u : Tile} (h : u.passQ = []) (now : Nat) : u.issuePass now = (u, none) := by
  simp only [Tile.issuePass, h]

theorem Tile.issueVec_nil {u : Tile} (h : u.vecQ = []) (now : Nat) : u.issueVec now = (u, none) := by
  simp only [Tile.issueVec, h]

theorem Tile.readPass_nil {u : Tile} (h : u.passes = []) (now : Nat) : u.readPass now = (u, none) := by
  simp only [Tile.readPass, h, List.find?_nil]

theorem Tile.readLoad_nil {u : Tile} (h : u.loads = []) (now : Nat) : u.readLoad now = (u, none) := by
  simp only [Tile.readLoad, h, List.any_nil, Bool.false_eq_true, if_false, List.find?_nil]

theorem Tile.readVec_nil {u : Tile} (h : u.vecs = []) (gen unit off now : Nat) : u.readVec gen unit off now = u := by
  simp only [Tile.readVec, h, List.find?_nil]

theorem Tile.recordRow_nil {u : Tile} (h : u.xferQ = []) (before : Tile) (now : Nat) :
    before.recordRow u now = none := by
  simp only [Tile.recordRow, h]

theorem State.xferTry_nil {u : Tile} (h : u.xferQ = []) (s : State) (before : Tile) (now : Nat) :
    s.xferTry before u now = .inl .hold := by
  simp only [State.xferTry, h]

theorem firstStop_none (b : Option AbortRecord) : firstStop none b = b := by
  cases b <;> rfl

/-- The fc of the tile has begun, without a cause that stops it. -/
def Tile.inFc (u : Tile) : Tile := { u with begun := true, stop := none }

/-- The fc of a running tile whose units have nothing to do begins with its transfer alone, here one that ends in it. -/
theorem State.tileBegin_idle {s s' : State} {t : TileId} (hp : (s.tile t).phase = .running)
    (hb : (s.tile t).begun = false) (hl : (s.tile t).later = none) (hi : (s.tile t).unitsIdle)
    (hx : (s.setTile t ((s.tile t).due (s.tile t).clock)).moveXfer t (s.tile t).clock = (s', none))
    (hi' : (s'.tile t).unitsIdle) (hx' : (s'.tile t).xfer = none) :
    (s'.setTile t (s'.tile t).inFc).streamsOnly (s.tileBegin t) := by
  obtain ⟨hpassQ, hloadQ, hvecQ, hxferQ, hpass, hload, hvec, -, -, -, -⟩ := hi'
  have hlate : { (s.tile t).due (s.tile t).clock with later := none } = (s.tile t).due (s.tile t).clock ∧
      ((s.tile t).due (s.tile t).clock).timeouts (s.tile t).clock = none := by
    obtain ⟨-, -, -, -, -, hload, -, -, -, hentry, hswap⟩ := hi
    obtain ⟨hq, q, p, m, v, a, b, hd⟩ := Tile.due_only hload (s.tile t).clock
    rw [hd]
    exact ⟨by rw [← hl], Tile.timeouts_of_none hentry hswap _⟩
  obtain ⟨hlater, htime⟩ := hlate
  have hhandle : s.handleLate ((s.tile t).due (s.tile t).clock) (s.tile t).clock = none := by
    simp only [State.handleLate, Tile.due_phase, hp]
  simp only [State.tileBegin, hb, Tile.busy_of_running hp, Bool.not_true, Bool.or_false, Bool.false_eq_true, if_false,
    hlater, htime, hhandle, hl, hx, hx', Tile.recordRefused, Tile.recordRow_nil hxferQ, State.xferTry_nil hxferQ,
    Tile.xferHolds, Tile.issueLoad_nil hloadQ, Tile.issuePass_nil hpassQ, Tile.issueVec_nil hvecQ,
    Tile.readPass_nil hpass, Tile.readLoad_nil hload, Tile.readVec_nil hvec, firstStop_none, Option.any_none, Tile.inFc]
  exact State.streamsOnly_setTile (State.streamsOnly_trans (s'.countTile_streams ..) (State.tileCount_streams ..)) t _

/-- Such a fc ends, and the next is to begin. -/
theorem State.tileEnd_idle {s : State} {t : TileId} (hp : (s.tile t).phase = .running)
    (hn : (s.tile t).atNone = false) (hs : (s.tile t).stop = none) (hi : (s.tile t).unitsIdle)
    (hx : (s.tile t).xfer = none) : (s.setTile t (s.tile t).nextFc).streamsOnly (s.tileEnd t) := by
  have hland : (s.tile t).landing = [] := by
    obtain ⟨-, -, -, -, -, -, -, hland, -⟩ := hi
    exact hland
  have hr : (s.tile t).resolve (s.tile t).clock = s.tile t := by simp only [Tile.resolve, hp]
  obtain ⟨c, l, hleft, hnil⟩ := State.fcLeft_rows (by simp [hp]) hx
  rw [Tile.fcOver_of_idle hi hx, hr, hnil hland, List.foldl_nil] at hleft
  rw [State.tileEnd_eq, if_pos (Tile.busy_of_running hp), hs, Tile.fetchStop_of_atNone hn, firstStop_none, hleft]
  exact ⟨_, _, c, rfl⟩

/-! ### The last fc of an XGET -/

theorem State.readRange_setTile (t : TileId) (v : Tile) (s : State) (w : Work) (la n : Nat) :
    (s.setTile t v).readRange w la n = s.readRange w la n := rfl

theorem State.workOf_setTile (t : TileId) (v : Tile) (s : State) (die task ctx : Nat) :
    (s.setTile t v).workOf die task ctx = s.workOf die task ctx := rfl

/-- In the fc that tile `t` has reached, the last bytes `bs` of its XGET `run`, which posts no handle, enter; no unit of
the tile has anything to do, and its program stands at an instruction. -/
structure State.XgetLast (s : State) (t : TileId) (run : XferRun) (bs : List Byte) : Prop where
  running : (s.tile t).phase = .running
  place : (s.tile t).atNone = false
  begun : (s.tile t).begun = false
  later : (s.tile t).later = none
  idle : (s.tile t).unitsIdle
  xfer : (s.tile t).xfer = some run
  op : run.op = .xget
  post : run.f.post = 0
  here : run.remote s = false
  left : run.landed < run.total
  due : run.due (s.tile t).clock = run.total
  data : s.readRange (s.workOf t.die.val (s.tile t).task run.record.ctx) (run.record.laddr + 64 * run.landed)
    (64 * (run.total - run.landed)) = (bs, none)

/-- The tile with what falls due in its fc, once the last rows of its XGET have entered. -/
def Tile.xgetEntered (run : XferRun) (bs : List Byte) (u : Tile) : Tile :=
  ((u.due u.clock).lastRows run bs).xferOver u.clock

theorem Tile.xgetEntered_only {u : Tile} (h : u.unitsIdle) (run : XferRun) (bs : List Byte) :
    ∃ hq q p m v a b, u.xgetEntered run bs =
      { u with
        hq := hq, q := q, qPend := p, mslots := m, vslots := v, accFree0 := a, accFree1 := b, port := true
        silt := memWrite u.silt (run.addr + 64 * run.landed) bs, xfer := none, xferFree := u.clock + 1 } := by
  obtain ⟨-, -, -, -, -, hload, -⟩ := h
  obtain ⟨hq, q, p, m, v, a, b, hdue⟩ := Tile.due_only hload u.clock
  rw [Tile.xgetEntered, hdue]
  exact ⟨hq, q, p, m, v, a, b, rfl⟩

theorem Tile.xgetEntered_unitsIdle {u : Tile} (h : u.unitsIdle) (run : XferRun) (bs : List Byte) :
    (u.xgetEntered run bs).unitsIdle := by
  obtain ⟨hq, q, p, m, v, a, b, hu⟩ := Tile.xgetEntered_only h run bs
  rw [hu]
  exact h

theorem Tile.xgetEntered_atNone {u : Tile} (h : u.unitsIdle) (run : XferRun) (bs : List Byte) :
    (u.xgetEntered run bs).atNone = u.atNone := by
  obtain ⟨hq, q, p, m, v, a, b, hu⟩ := Tile.xgetEntered_only h run bs
  rw [hu]
  rfl

@[simp] theorem Tile.xgetEntered_phase (run : XferRun) (bs : List Byte) (u : Tile) :
    (u.xgetEntered run bs).phase = u.phase := Tile.due_phase u u.clock

section
variable {s : State} {t : TileId} {run : XferRun} {bs : List Byte} (h : s.XgetLast t run bs)
include h

theorem State.XgetLast.moveXfer : ∃ s',
    (s.setTile t ((s.tile t).due (s.tile t).clock)).moveXfer t (s.tile t).clock = (s', none) ∧
      (s.setTile t ((s.tile t).xgetEntered run bs)).streamsOnly s' := by
  obtain ⟨-, -, -, -, -, hload, -⟩ := h.idle
  obtain ⟨hq, q, p, m, v, a, b, hdue⟩ := Tile.due_only hload (s.tile t).clock
  have hp : ((s.tile t).due (s.tile t).clock).phase ≠ .free := by simp [Tile.due_phase, h.running]
  have hx : ((s.tile t).due (s.tile t).clock).xfer = some run := by rw [hdue]; exact h.xfer
  have hw : (s.tile t).xgetEntered run bs ≠ Tile.idle := Tile.ne_idle_of_phase (by simp [h.running])
  have ht : (s.setTile t ((s.tile t).due (s.tile t).clock)).tile t = (s.tile t).due (s.tile t).clock :=
    (State.tile_setTile (Tile.ne_idle_of_phase hp) t t s).trans (if_pos rfl)
  obtain ⟨s', hrows, hs'⟩ := State.xgetRows_last (s := s.setTile t ((s.tile t).due (s.tile t).clock)) (t := t)
    (bs := bs) (by rwa [ht]) h.post h.here h.left h.due
    (by rw [ht, State.readRange_setTile, State.workOf_setTile, hdue]; exact h.data)
  rw [ht] at hs'
  refine ⟨s', ?_, ?_⟩
  · simp only [State.moveXfer, ht, hx, h.op, hrows]
  · rw [← State.setTile_setTile (Tile.ne_idle_of_phase hp) hw]
    exact hs'

theorem State.XgetLast.tileBegin :
    (s.setTile t ((s.tile t).xgetEntered run bs).inFc).streamsOnly (s.tileBegin t) := by
  obtain ⟨s', hmove, hs'⟩ := h.moveXfer
  have hw : ((s.tile t).xgetEntered run bs).phase ≠ .free := by simp [h.running]
  have ht : s'.tile t = (s.tile t).xgetEntered run bs :=
    (State.streamsOnly_tile_setTile (Tile.ne_idle_of_phase hw) hs' t).trans (if_pos rfl)
  have hbegin := State.tileBegin_idle h.running h.begun h.later h.idle hmove
    (by rw [ht]; exact Tile.xgetEntered_unitsIdle h.idle run bs) (by rw [ht]; rfl)
  rw [ht] at hbegin
  exact State.streamsOnly_setTile_setTile (Tile.ne_idle_of_phase hw) (Tile.ne_idle_of_phase hw) hs' hbegin

theorem State.XgetLast.tileFc :
    (s.setTile t ((s.tile t).xgetEntered run bs).nextFc).streamsOnly (s.tileFc t) := by
  have hp : ((s.tile t).xgetEntered run bs).phase = .running := (Tile.xgetEntered_phase ..).trans h.running
  have hw : ((s.tile t).xgetEntered run bs).inFc ≠ Tile.idle := Tile.ne_idle_of_phase (by simp [Tile.inFc, h.running])
  have ht : (s.tileBegin t).tile t = ((s.tile t).xgetEntered run bs).inFc :=
    (State.streamsOnly_tile_setTile hw h.tileBegin t).trans (if_pos rfl)
  have hend := State.tileEnd_idle (s := s.tileBegin t) (t := t) (by rw [ht]; exact hp)
    (by rw [ht]; exact (Tile.xgetEntered_atNone h.idle run bs).trans h.place) (by rw [ht]; rfl)
    (by rw [ht]; exact Tile.xgetEntered_unitsIdle h.idle run bs) (by rw [ht]; rfl)
  rw [ht] at hend
  exact State.streamsOnly_setTile_setTile hw (Tile.ne_idle_of_phase (by simp [Tile.nextFc, h.running])) h.tileBegin hend

/-- The transfer is over when the fc has passed. -/
theorem State.XgetLast.endXfer {n : Nat} (hn : 2 ≤ n) :
    (s.setTile t ((s.tile t).xgetEntered run bs).nextFc).streamsOnly (s.endXfer t run.seq n) := by
  have hw : ((s.tile t).xgetEntered run bs).phase ≠ .free := by simp [h.running]
  have ht : ((s.tileFc t).tile t).xfer = none :=
    congrArg Tile.xfer ((State.streamsOnly_tile_setTile (Tile.nextFc_ne_idle hw) h.tileFc t).trans (if_pos rfl))
  obtain ⟨n, rfl⟩ := Nat.exists_eq_add_of_le' hn
  have hover : s.endXfer t run.seq (n + 2) = s.tileFc t := by
    simp [State.endXfer, State.tileUntil, h.xfer, ht]
  rw [hover]
  exact h.tileFc

end

/-! ### TRANSFER_COMPLETE of an XGET -/

/-- The tile whose transfer is told what its path adds. -/
def Tile.tellXfer (extra : Nat) (u : Tile) : Tile := { u with xfer := u.xfer.map (XferRun.told extra) }

/-- TRANSFER_COMPLETE of an XGET whose data are here, by a path within the margins: the retries are counted, what the path
adds is told, and the tile runs until the transfer is over. -/
theorem execTransferComplete_xget {s : State} {t : TileId} {path : PathIn} {run : XferRun}
    (hx : (s.tile t).xfer = some run) (ho : run.op = .xget)
    (hg : (s.catchUp t).xgetReady (s.tile t).task run = true) (hm : path.beyond (s.catchUp t).margins = false) :
    ∃ c n, 2 ≤ n ∧ exec (.transferComplete t path) s =
      ok (((({ s.catchUp t with cnt := c } : State).modTile t (Tile.tellXfer path.added)).endXfer t
        (run.told path.added).seq n).catchUp t) := by
  have hissued : s.xferIssued t = s := by simp only [State.xferIssued, hx, Option.isSome_some, Bool.true_or, if_true]
  obtain ⟨c, hc⟩ := (s.catchUp t).count_only 4 path.onDie.sum (s.tile t).spec
  have hfuel : 2 ≤ s.fuelOf t := by
    simp only [State.fuelOf, Tile.fuel]
    omega
  refine ⟨c, s.fuelOf t + run.total + run.path.getD 0 + path.added + run.issue, by omega, ?_⟩
  change execTransferComplete t path s = _
  simp only [execTransferComplete, hissued, State.catchUp_tile, hx, ho, hg, hm, hc, Bool.not_true, Bool.and_false,
    Bool.false_eq_true, if_false, reduceCtorEq, decide_false, Bool.false_and]
  rfl

/-! ### Rows of a delivery -/

theorem State.streamMoves_only (n units : Nat) (s : State) :
    ∃ m k f, s.streamMoves n units = { s with mem := { s.mem with retiring := m }, rs := k, fab := f } := by
  have hstart : ∃ m k f, (if (s.ctx n).state = .ready then s.ctxStart n s.fc else s) =
      { s with mem := { s.mem with retiring := m }, rs := k, fab := f } := by
    split
    next h =>
      simp only [State.ctxStart, h]
      exact ⟨_, _, _, rfl⟩
    next => exact ⟨_, _, _, rfl⟩
  obtain ⟨m, k, f, hs⟩ := hstart
  simp only [State.streamMoves, hs, State.ctxMoved]
  split <;> exact ⟨_, _, _, rfl⟩

theorem State.deliverRows_one {bs : List Byte} (h : bs.length = 64) (t : TileId) (first addr : Nat) (s : State) :
    s.deliverRows t first addr bs none = s.deliver t first addr bs none := by
  have hrows : cutData 64 (bs.length / 64 + 1) bs = [bs] := by
    have hne : bs ≠ [] := by rintro rfl; simp at h
    simp [h, cutData, hne, List.take_of_length_le h.le, List.drop_of_length_le h.le]
  simp [State.deliverRows, hrows]

/-- A row of another source at the mesh port: it waits for its fc, or has entered where the program has run past it. -/
def Tile.takeRow (a addr : Nat) (bs : List Byte) (u : Tile) : Tile :=
  if u.clock ≤ a then { u with landing := u.landing ++ [{ at_ := a, addr := addr, bytes := bs, own := none }] }
  else { u with silt := memWrite u.silt addr bs }

theorem State.deliver_none (t : TileId) (a addr : Nat) (bs : List Byte) (s : State) :
    s.deliver t a addr bs none = s.modTile t (Tile.takeRow a addr bs) := by
  simp only [State.deliver, State.modTile, Tile.takeRow]
  split <;> rfl

theorem Tile.takeRow_phase (a addr : Nat) (bs : List Byte) (u : Tile) : (u.takeRow a addr bs).phase = u.phase := by
  unfold Tile.takeRow
  split <;> rfl

/-- DELIVERY of one row by a stream of kind 3: the tile takes the row, and the stream moves. -/
theorem execDelivery_row {s : State} {ctx addr : Nat} {bytes : List Byte} (hk : (s.ctx ctx).kind = 3)
    (hs : (s.ctx ctx).state = .ready ∨ (s.ctx ctx).state = .active) (hl : bytes.length = 64)
    (hi : siltIn addr 64 = true) (t : TileId) :
    ∃ m k f, exec (.delivery t (.data ctx addr bytes)) s =
      ok (({ s with mem := { s.mem with retiring := m }, rs := k, fab := f } : State).modTile t
        (Tile.takeRow s.fc addr bytes)) := by
  obtain ⟨m, k, f, hmoves⟩ := State.streamMoves_only ctx (bytes.length / 64) s
  have hc : (s.ctx ctx).kind = 3 ∧ ((s.ctx ctx).state = .ready ∨ (s.ctx ctx).state = .active) ∧
      bytes.length % 64 = 0 ∧ siltIn addr bytes.length = true := ⟨hk, hs, by rw [hl], by rwa [hl]⟩
  refine ⟨m, k, f, ?_⟩
  change execDelivery t (.data ctx addr bytes) s = _
  simp only [execDelivery]
  rw [if_pos hc, hmoves, State.deliverRows_one hl, State.deliver_none]

/-- Settles O18: the fc in which the rest of an XGET's rows enter, and the one row of a delivery. -/
theorem rowsLandInSilt : Obligations.RowsLandInSilt := by
  unfold Obligations.RowsLandInSilt
  refine ⟨?xget, ?delivery⟩
  case xget =>
    intro s t path run bs g u w hx ho hf hr hm hg hp hn hb hl hpassQ hloadQ hvecQ hxferQ hpass hload hvec hland hasks
      hentry hswap hleft htime hbs
    have hne : u.phase ≠ .free := by simp [hp]
    obtain ⟨c, n, hn2, hexec⟩ := execTransferComplete_xget hx ho hg hm
    generalize hs0 : ({ s.catchUp t with cnt := c } : State).modTile t (Tile.tellXfer path.added) = s0 at hexec
    have hu0 (v : TileId) : s0.tile v = if v = t then u.tellXfer path.added else s.tile v := by
      rw [← hs0]
      exact State.tile_modTile (Tile.ne_idle_of_phase hne)
    have hu : s0.tile t = u.tellXfer path.added := (hu0 t).trans (if_pos rfl)
    have hi : (u.tellXfer path.added).unitsIdle :=
      ⟨hpassQ, hloadQ, hvecQ, hxferQ, hpass, hload, hvec, hland, hasks, hentry, hswap⟩
    have hlast : s0.XgetLast t (run.told path.added) bs :=
      { running := by rw [hu]; exact hp
        place := by rw [hu]; exact hn
        begun := by rw [hu]; exact hb
        later := by rw [hu]; exact hl
        idle := by rw [hu]; exact hi
        xfer := by rw [hu, Tile.tellXfer, hx, Option.map_some]
        op := ho
        post := hf
        here := by rw [← hs0]; exact hr
        left := hleft
        due := by rw [hu]; exact XferRun.due_told htime
        data := by rw [hu, ← hs0]; exact hbs }
    have hend := hlast.endXfer hn2
    rw [hu] at hend
    have hw : ((u.tellXfer path.added).xgetEntered (run.told path.added) bs).phase ≠ .free := by
      rw [Tile.xgetEntered_phase]
      exact hne
    have ht := State.streamsOnly_tile_setTile (Tile.nextFc_ne_idle hw) hend
    refine ⟨_, hexec, ?_, fun v hv => ?_, ?_⟩
    · obtain ⟨hq, q, p, m, v, a, b, hafter⟩ := Tile.xgetEntered_only hi (run.told path.added) bs
      simp only [State.catchUp_tile]
      rw [ht, if_pos rfl, hafter]
      exact ⟨rfl, rfl, rfl, rfl, hp, rfl⟩
    · rw [State.catchUp_tile, ht, if_neg hv, hu0, if_neg hv]
    · obtain ⟨k, f, c', hs⟩ := hend
      rw [hs, ← hs0]
      exact ⟨rfl, rfl, rfl⟩
  case delivery =>
    intro s t ctx addr bytes u c hkind hstate hlen hin hfree
    obtain ⟨m, k, f, hexec⟩ := execDelivery_row hkind hstate hlen hin t
    have hv : u.takeRow s.fc addr bytes ≠ Tile.idle := Tile.ne_idle_of_phase (by rwa [Tile.takeRow_phase])
    exact ⟨_, hexec, (State.tile_modTile hv).trans (if_pos rfl), fun v ht => (State.tile_modTile hv).trans (if_neg ht),
      rfl, rfl⟩

end Sys2Proof.Machine
end

section
/-! SUPPORT. The codec of the tile words (R96, Tables 4.1 to 4.11): the fields of each layout are read back from its bits, and
joined again they are the bits they were read from; a byte is the code of at most one opcode. -/

namespace Sys2Proof

/-! ### The opcode byte -/

theorem extractLsb'_opcode (c : BitVec 8) (b : BitVec 56) : (c ++ b).extractLsb' 56 8 = c :=
  BitVec.extractLsb'_append_eq_left

theorem opcode_append_rest (w : BitVec 64) : w.extractLsb' 56 8 ++ w.extractLsb' 0 56 = w :=
  BitVec.extractLsb'_append_extractLsb' (w := 8) (len := 56)

theorem find?_ctlOps_code (o : CtlOp) : ctlOps.find? (fun p => p.code == o.code) = some o := by
  cases o <;> rfl

theorem find?_ctlOps_vec (o : VecOp) : ctlOps.find? (fun p => p.code == o.code) = none := by
  cases o <;> rfl

theorem find?_vecOps_code (o : VecOp) : vecOps.find? (fun p => p.code == o.code) = some o := by
  cases o <;> rfl

/-! ### Fields read back from bits -/

theorem CtlF.ofBits_bits (c : BitVec 8) (f : CtlF) : CtlF.ofBits (c ++ f.bits) = f := by
  simp only [CtlF.ofBits, CtlF.bits]
  congr 1
  all_goals
    rw [BitVec.extractLsb'_append_eq_of_add_le (by decide)]
    repeat rw [BitVec.extractLsb'_append_eq_of_le (by decide)]
  case e_xd => exact BitVec.extractLsb'_eq_self
  all_goals exact BitVec.extractLsb'_append_eq_right

theorem MatF.ofBits_bits (c : BitVec 8) (f : MatF) : MatF.ofBits (c ++ f.bits) = f := by
  simp only [MatF.ofBits, MatF.bits]
  congr 1
  all_goals
    rw [BitVec.extractLsb'_append_eq_of_add_le (by decide)]
    repeat rw [BitVec.extractLsb'_append_eq_of_le (by decide)]
  case e_kind => exact BitVec.extractLsb'_eq_self
  all_goals exact BitVec.extractLsb'_append_eq_right

theorem VecF.ofBits_bits (c : BitVec 8) (f : VecF) : VecF.ofBits (c ++ f.bits) = f := by
  simp only [VecF.ofBits, VecF.bits]
  congr 1
  all_goals
    rw [BitVec.extractLsb'_append_eq_of_add_le (by decide)]
    repeat rw [BitVec.extractLsb'_append_eq_of_le (by decide)]
  case e_rm => exact BitVec.extractLsb'_eq_self
  all_goals exact BitVec.extractLsb'_append_eq_right

theorem XferF.ofBits_bits (c : BitVec 8) (f : XferF) : XferF.ofBits (c ++ f.bits) = f := by
  simp only [XferF.ofBits, XferF.bits]
  congr 1
  all_goals
    rw [BitVec.extractLsb'_append_eq_of_add_le (by decide)]
    repeat rw [BitVec.extractLsb'_append_eq_of_le (by decide)]
  case e_sa => exact BitVec.extractLsb'_eq_self
  all_goals exact BitVec.extractLsb'_append_eq_right

theorem HdlF.ofBits_bits (c : BitVec 8) (f : HdlF) : HdlF.ofBits (c ++ f.bits) = f := by
  simp only [HdlF.ofBits, HdlF.bits]
  congr 1
  all_goals
    rw [BitVec.extractLsb'_append_eq_of_add_le (by decide)]
    repeat rw [BitVec.extractLsb'_append_eq_of_le (by decide)]
  case e_xh => exact BitVec.extractLsb'_eq_self
  all_goals exact BitVec.extractLsb'_append_eq_right

/-! ### Bits joined again from fields -/

theorem CtlF.bits_ofBits (w : BitVec 64) : (CtlF.ofBits w).bits = w.extractLsb' 0 56 := by
  simp only [CtlF.ofBits, CtlF.bits]
  repeat rw [BitVec.extractLsb'_append_extractLsb'_eq_extractLsb' (by decide)]

theorem MatF.bits_ofBits (w : BitVec 64) : (MatF.ofBits w).bits = w.extractLsb' 0 56 := by
  simp only [MatF.ofBits, MatF.bits]
  repeat rw [BitVec.extractLsb'_append_extractLsb'_eq_extractLsb' (by decide)]

theorem VecF.bits_ofBits (w : BitVec 64) : (VecF.ofBits w).bits = w.extractLsb' 0 56 := by
  simp only [VecF.ofBits, VecF.bits]
  repeat rw [BitVec.extractLsb'_append_extractLsb'_eq_extractLsb' (by decide)]

theorem XferF.bits_ofBits (w : BitVec 64) : (XferF.ofBits w).bits = w.extractLsb' 0 56 := by
  simp only [XferF.ofBits, XferF.bits]
  repeat rw [BitVec.extractLsb'_append_extractLsb'_eq_extractLsb' (by decide)]

theorem HdlF.bits_ofBits (w : BitVec 64) : (HdlF.ofBits w).bits = w.extractLsb' 0 56 := by
  simp only [HdlF.ofBits, HdlF.bits]
  repeat rw [BitVec.extractLsb'_append_extractLsb'_eq_extractLsb' (by decide)]

/-! ### Whole words -/

theorem decodeTile_ctl (o : CtlOp) (f : CtlF) : decodeTile (o.code ++ f.bits) = some (.ctl o f) := by
  simp only [decodeTile, extractLsb'_opcode, find?_ctlOps_code, CtlF.ofBits_bits]

theorem decodeTile_vec (o : VecOp) (f : VecF) : decodeTile (o.code ++ f.bits) = some (.vec o f) := by
  simp only [decodeTile, extractLsb'_opcode, find?_ctlOps_vec, find?_vecOps_code, VecF.ofBits_bits]

theorem decodeTile_mat (o : MatOp) (f : MatF) : decodeTile (o.code ++ f.bits) = some (.mat o f) := by
  simp only [decodeTile, extractLsb'_opcode, MatF.ofBits_bits]
  cases o <;> rfl

theorem decodeTile_xfer (o : XferOp) (f : XferF) : decodeTile (o.code ++ f.bits) = some (.xfer o f) := by
  simp only [decodeTile, extractLsb'_opcode, XferF.ofBits_bits]
  cases o <;> rfl

theorem decodeTile_hdl (o : HdlOp) (f : HdlF) : decodeTile (o.code ++ f.bits) = some (.hdl o f) := by
  simp only [decodeTile, extractLsb'_opcode, HdlF.ofBits_bits]
  cases o <;> rfl

/-- A word that decodes is the code of its opcode followed by the bits of its fields. -/
theorem encodeTile_of_decodeTile {b : BitVec 64} {w : TileWord} (h : decodeTile b = some w) : encodeTile w = b := by
  have code_of_find {α : Type} {code : α → BitVec 8} {l : List α} {o : α}
      (h : l.find? (fun p => code p == b.extractLsb' 56 8) = some o) : code o = b.extractLsb' 56 8 := by
    simpa using List.find?_some h
  simp only [decodeTile] at h
  split at h
  case h_1 o _ ho =>
    cases h
    rw [encodeTile, CtlF.bits_ofBits, code_of_find ho, opcode_append_rest]
  case h_2 o _ ho =>
    cases h
    rw [encodeTile, VecF.bits_ofBits, code_of_find ho, opcode_append_rest]
  case h_3 =>
    have word {c : BitVec 8} (hc : b.extractLsb' 56 8 = c) : c ++ b.extractLsb' 0 56 = b := by
      rw [← hc, opcode_append_rest]
    split_ifs at h with h1 h2 h3 h4 h5 h6 h7 h8 <;> cases h
    · rw [encodeTile, MatF.bits_ofBits]; exact word h1
    · rw [encodeTile, MatF.bits_ofBits]; exact word h2
    · rw [encodeTile, MatF.bits_ofBits]; exact word h3
    · rw [encodeTile, XferF.bits_ofBits]; exact word h4
    · rw [encodeTile, XferF.bits_ofBits]; exact word h5
    · rw [encodeTile, XferF.bits_ofBits]; exact word h6
    · rw [encodeTile, HdlF.bits_ofBits]; exact word h7
    · rw [encodeTile, HdlF.bits_ofBits]; exact word h8

/-- Settles O2: each layout's word decodes to its opcode and its fields. -/
theorem tileWordsRoundTrip : Obligations.TileWordsRoundTrip := by
  unfold Obligations.TileWordsRoundTrip
  intro w
  cases w with
  | ctl o f => exact decodeTile_ctl o f
  | mat o f => exact decodeTile_mat o f
  | xfer o f => exact decodeTile_xfer o f
  | hdl o f => exact decodeTile_hdl o f
  | vec o f => exact decodeTile_vec o f

/-- Settles O3: what decoding reads are the opcode's code and all bits of the fields. -/
theorem tileWordsHaveOneMeaning : Obligations.TileWordsHaveOneMeaning := by
  unfold Obligations.TileWordsHaveOneMeaning
  exact fun _ _ h => encodeTile_of_decodeTile h

end Sys2Proof
end

section
/-! SUPPORT. Integer formats as codes of `w` bits: the value of a code, what wrapping and saturation store, and the bitwise
operations on one element (R71). -/

namespace Sys2Proof.Machine

theorem Fmt.one_le_bits (k : Fmt) : 1 ≤ k.bits := by cases k <;> decide

/-- Twice the signed range is the range of codes. -/
theorem Fmt.two_mul_half (k : Fmt) : (2 : Int) * 2 ^ (k.bits - 1) = 2 ^ k.bits := by cases k <;> rfl

theorem decodeInt_of_lt {k : Fmt} {c : Nat} (hc : c < 2 ^ k.bits) :
    decodeInt k c = if k.isSignedInt = true ∧ 2 ^ (k.bits - 1) ≤ c then (c : Int) - 2 ^ k.bits else c := by
  simp [decodeInt, Nat.mod_eq_of_lt hc]

theorem encodeInt_cast (k : Fmt) (i : Int) : (encodeInt k i : Int) = i % 2 ^ k.bits :=
  Int.toNat_of_nonneg (Int.emod_nonneg _ (by positivity))

theorem encodeInt_lt (k : Fmt) (i : Int) : encodeInt k i < 2 ^ k.bits := by
  have h : (encodeInt k i : Int) < 2 ^ k.bits := by
    rw [encodeInt_cast]; exact Int.emod_lt_of_pos _ (by positivity)
  exact_mod_cast h

/-- A value within the range of its format is read back from its code. -/
theorem decodeInt_encodeInt {k : Fmt} {i : Int} (hl : intLow k ≤ i) (hh : i ≤ intHigh k) :
    decodeInt k (encodeInt k i) = i := by
  have hc := encodeInt_cast k i
  have hlt := encodeInt_lt k i
  have h2 := k.two_mul_half
  have hh2 : ((2 ^ (k.bits - 1) : Nat) : Int) = 2 ^ (k.bits - 1) := by push_cast; rfl
  have hw : ((2 ^ k.bits : Nat) : Int) = 2 ^ k.bits := by push_cast; rfl
  rw [decodeInt_of_lt hlt]
  generalize encodeInt k i = c at *
  simp only [intLow, intHigh] at hl hh
  generalize (2 : Int) ^ (k.bits - 1) = p at *
  generalize (2 : Int) ^ k.bits = q at *
  cases hs : k.isSignedInt
  · simp only [hs, Bool.false_eq_true, if_false, false_and] at *
    rw [hc, Int.emod_eq_of_lt hl (by omega)]
  · simp only [hs, if_true, true_and] at *
    by_cases hi : 0 ≤ i
    · rw [Int.emod_eq_of_lt hi (by omega)] at hc
      rw [if_neg (by omega), hc]
    · rw [← Int.add_emod_right, Int.emod_eq_of_lt (by omega) (by omega)] at hc
      rw [if_pos (by omega), hc]; omega

theorem intLow_le_intHigh (k : Fmt) : intLow k ≤ intHigh k := by cases k <;> decide

/-- What saturation stores, and when it counts (R71). -/
theorem saturate_spec (k : Fmt) (i : Int) : decodeInt k (saturate k i).1 = max (intLow k) (min (intHigh k) i) ∧
    (saturate k i).2 = decide (i < intLow k ∨ intHigh k < i) := by
  have h := intLow_le_intHigh k
  unfold saturate
  split
  case isTrue hi =>
    exact ⟨by rw [decodeInt_encodeInt le_rfl h]; omega, by simp [hi]⟩
  case isFalse hi =>
    split
    case isTrue hj => exact ⟨by rw [decodeInt_encodeInt h le_rfl]; omega, by simp [hj]⟩
    case isFalse hj => exact ⟨by rw [decodeInt_encodeInt (by omega) (by omega)]; omega, by simp [hi, hj]⟩

theorem testBit_notCode {w a : Nat} (ha : a < 2 ^ w) {i : Nat} (hi : i < w) :
    (2 ^ w - 1 - a % 2 ^ w).testBit i = !a.testBit i := by
  rw [Nat.mod_eq_of_lt ha, Nat.sub_sub, Nat.add_comm 1 a, Nat.testBit_two_pow_sub_succ ha]
  simp [hi]

/-- Settles O57: the integer operations through the exact value of a code, what wrapping and saturation store of it, and the
bitwise ones bit by bit. -/
theorem integerElements : Obligations.IntegerElements := by
  unfold Obligations.IntegerElements
  intro f e k w _ ha hb val low high wraps limits bitwise
  have hval {c : Nat} (hc : c < 2 ^ w) : val c = decodeInt k c := (decodeInt_of_lt hc).symm
  have wrap {op : VecOp} {i : Int} (h : elemOut op f e = intOut k false i) : wraps op i := by
    simp only [wraps, h, intOut, Bool.false_eq_true, if_false, true_and]
    exact encodeInt_cast k i
  have limit {op : VecOp} {i : Int} (h : elemOut op f e = intOut k true i) : limits op i := by
    obtain ⟨hv, hs⟩ := saturate_spec k i
    have hlt : (saturate k i).1 < 2 ^ w := by
      unfold saturate
      split_ifs <;> exact encodeInt_lt k _
    simp only [limits, h, intOut, if_true, true_and]
    exact ⟨hs, (hval hlt).trans hv⟩
  rw [hval ha, hval hb]
  refine ⟨wrap rfl, wrap rfl, wrap rfl, wrap rfl, wrap rfl, limit rfl, limit rfl, limit rfl, ?and, ?or, ?xor, ?not⟩
  case and => exact ⟨rfl, rfl, Nat.and_lt_two_pow _ hb, fun i _ => Nat.testBit_and _ _ i⟩
  case or => exact ⟨rfl, rfl, Nat.or_lt_two_pow ha hb, fun i _ => Nat.testBit_or _ _ i⟩
  case xor => exact ⟨rfl, rfl, Nat.xor_lt_two_pow ha hb, fun i _ => Nat.testBit_xor _ _ i⟩
  case not =>
    refine ⟨rfl, rfl, ?_, fun i hi => testBit_notCode ha hi⟩
    have := Nat.two_pow_pos w
    change 2 ^ w - 1 - e.a % 2 ^ w < 2 ^ w
    omega

end Sys2Proof.Machine
end


section
/-! SUPPORT. What no step may lose: the queue, the fused values, the revoked keys and that no enrolled key is one of them, and
the canonical form of clay, ring storage and the host's memory. -/

namespace Sys2Proof.Machine

/-- Nothing that a step must keep of `b` is lost in `s`. -/
structure State.Lasts (b s : State) : Prop where
  pending : s.pending = b.pending
  fuses : s.trust.fuses = b.trust.fuses
  revoked : ∀ k ∈ b.trust.revoked, k ∈ s.trust.revoked
  apart : (∀ k ∈ b.trust.keys, k.keyId ∉ b.trust.revoked) → ∀ k ∈ s.trust.keys, k.keyId ∉ s.trust.revoked
  clay : Memory.wf b.mem.clay = true → Memory.wf s.mem.clay = true
  storage : Memory.wf b.rs.storage = true → Memory.wf s.rs.storage = true
  memory : Memory.wf b.host.memory = true → Memory.wf s.host.memory = true

theorem State.Lasts.refl (s : State) : s.Lasts s :=
  ⟨rfl, rfl, fun _ h => h, fun h => h, fun h => h, fun h => h, fun h => h⟩

variable {b s : State}

/-- Parts of the state replaced: the memories of the new parts are canonical where the old ones are, and the keys stand. -/
theorem State.Lasts.with (h : b.Lasts s) {mem : MemState} {rs : RingState} {host : HostState} {trust : TrustState}
    (hc : Memory.wf s.mem.clay = true → Memory.wf mem.clay = true)
    (hs : Memory.wf s.rs.storage = true → Memory.wf rs.storage = true)
    (hm : Memory.wf s.host.memory = true → Memory.wf host.memory = true)
    (hf : trust.fuses = s.trust.fuses) (hk : trust.keys = s.trust.keys) (hr : trust.revoked = s.trust.revoked)
    {free fc sc scFc tiles job tilth num fab pow units board cnt} :
    b.Lasts ⟨s.pending, free, fc, sc, scFc, tiles, mem, rs, job, tilth, num, fab, host, pow, units, trust, board, cnt⟩ where
  pending := h.pending
  fuses := hf.trans h.fuses
  revoked := by simpa only [hr] using h.revoked
  apart := by simpa only [hr, hk] using h.apart
  clay := fun hb => hc (h.clay hb)
  storage := fun hb => hs (h.storage hb)
  memory := fun hb => hm (h.memory hb)

theorem State.Lasts.foldl {α : Type} {f : State → α → State} (h : b.Lasts s) (hf : ∀ s x, b.Lasts s → b.Lasts (f s x))
    (l : List α) : b.Lasts (l.foldl f s) := by
  induction l generalizing s with
  | nil => exact h
  | cons x l ih => exact ih (hf _ _ h)

theorem State.Lasts.elim {α : Type} {f : α → State} (h : b.Lasts s) (o : Option α) (hf : ∀ x, b.Lasts (f x)) :
    b.Lasts (o.elim s f) := by
  cases o with
  | none => exact h
  | some x => exact hf x

theorem State.Lasts.getD {o : Option State} (h : b.Lasts s) (ho : ∀ v, o = some v → b.Lasts v) : b.Lasts (o.getD s) := by
  cases o with
  | none => exact h
  | some v => exact ho v rfl

theorem State.Lasts.sent (h : b.Lasts s) {v : State} (hv : s.sentFrom v) : b.Lasts v := by
  obtain ⟨f, c, rfl⟩ := hv
  exact ⟨h.pending, h.fuses, h.revoked, h.apart, h.clay, h.storage, h.memory⟩

/-- A loop over more than the state. -/
theorem State.Lasts.foldl_of {α β : Type} (get : β → State) {f : β → α → β}
    (hf : ∀ x a, b.Lasts (get x) → b.Lasts (get (f x a))) (l : List α) {x : β} (h : b.Lasts (get x)) :
    b.Lasts (get (l.foldl f x)) := by
  induction l generalizing x with
  | nil => exact h
  | cons a l ih => exact ih (hf _ _ h)

theorem MemState.tagSpec_clay (m : MemState) (page : Nat) (spec : Bool) : (m.tagSpec page spec).clay = m.clay := by
  unfold MemState.tagSpec; split <;> rfl

theorem MemState.restoreCopies_clay (m : MemState) : m.restoreCopies.clay = m.clay := rfl

theorem MemState.holdWrite_clay (m : MemState) (page off : Nat) (head : Frame) (bs : List Byte) :
    (m.holdWrite page off head bs).clay = m.clay := rfl

end Sys2Proof.Machine
end


section
/-! SUPPORT. What must last, over the state's own operations: clocks, counters, notices, replies and answers, the ports. -/

namespace Sys2Proof.Machine

variable {b s : State}

theorem State.Lasts.passFc (hb : b.Lasts s) (n : Nat) : b.Lasts (s.passFc n) := by
  grind [State.passFc, State.Lasts.with]

theorem State.Lasts.toFc (hb : b.Lasts s) (h : Nat) : b.Lasts (s.toFc h) := by
  grind [State.toFc, State.Lasts.passFc]

theorem State.Lasts.toSc (hb : b.Lasts s) (t : Nat) : b.Lasts (s.toSc t) := by
  grind [State.toSc, State.Lasts.with]

theorem State.Lasts.setTile (hb : b.Lasts s) (t : TileId) (v : Tile) : b.Lasts (s.setTile t v) := by
  grind [State.setTile, State.Lasts.with]

theorem State.Lasts.modTile (hb : b.Lasts s) (t : TileId) (f : Tile → Tile) : b.Lasts (s.modTile t f) := by
  grind [State.modTile, State.Lasts.setTile]

theorem State.Lasts.count (hb : b.Lasts s) (n k : Nat) (spec : Bool) : b.Lasts (s.count n k spec) := by
  grind [State.count, State.Lasts.with]

theorem State.Lasts.countSource (hb : b.Lasts s) (scope die tile source qual k : Nat) (spec : Bool) : b.Lasts
    (s.countSource scope die tile source qual k spec) := by
  grind [State.countSource, State.Lasts.with]

theorem State.Lasts.countPath (hb : b.Lasts s) (spec : Bool) (a b_ n : Nat) : b.Lasts (s.countPath spec a b_ n) := by
  grind [State.countPath, State.Lasts.countSource, State.Lasts.foldl]

theorem State.Lasts.raiseVector (hb : b.Lasts s) (v : Nat) : b.Lasts (s.raiseVector v) := by
  grind [State.raiseVector, State.Lasts.with]

theorem State.Lasts.setCause (hb : b.Lasts s) (bit : Nat) : b.Lasts (s.setCause bit) := by
  grind [State.setCause, State.Lasts.raiseVector, State.Lasts.with]

theorem State.Lasts.setRing (hb : b.Lasts s) (r : Nat) (v : Ring) : b.Lasts (s.setRing r v) := by
  grind [State.setRing, State.Lasts.with]

theorem State.Lasts.setAux (hb : b.Lasts s) (r : Nat) (v : RingAux) : b.Lasts (s.setAux r v) := by
  grind [State.setAux, State.Lasts.with]

theorem State.Lasts.writeReply (h : b.Lasts s) (r : Nat) (bytes : List Byte) : b.Lasts (s.writeReply r bytes) :=
  ⟨h.pending, h.fuses, h.revoked, h.apart, h.clay, fun hb => State.writeReply_wf (h.storage hb) r bytes, h.memory⟩

theorem State.Lasts.passCommand (hb : b.Lasts s) (p : Passing) : b.Lasts (s.passCommand p) := by
  grind [State.passCommand, State.Lasts.setRing, State.Lasts.setAux, State.Lasts.with]

theorem State.Lasts.postReply (h : b.Lasts s) (r : Nat) (x : HeldReply) : b.Lasts (s.postReply r x) := by
  cases hx : x.pass <;> grind [State.postReply, State.Lasts.setAux, State.Lasts.writeReply, State.Lasts.passCommand,
    State.Lasts.raiseVector, Option.elim]

theorem State.Lasts.notice (hb : b.Lasts s) (code : Nat) (results : List Word) : b.Lasts (s.notice code results) := by
  grind [State.notice, State.Lasts.writeReply, State.Lasts.raiseVector, State.Lasts.with]

theorem State.Lasts.drainNotices (h : b.Lasts s) (n : Nat) : b.Lasts (s.drainNotices n) := by
  induction n generalizing s with
  | zero => exact h
  | succ n ih => grind [State.drainNotices, State.Lasts.writeReply, State.Lasts.raiseVector, State.Lasts.with]

theorem State.Lasts.setPstat (hb : b.Lasts s) (b_ : Nat) : b.Lasts (s.setPstat b_) := by
  grind [State.setPstat, State.Lasts.with]

theorem State.Lasts.powerNotice (h : b.Lasts s) (code : Nat) (bit : Option Nat) (results : List Word) :
    b.Lasts (s.powerNotice code bit results) := by
  cases bit <;> grind [State.powerNotice, State.Lasts.notice, State.Lasts.setCause, State.Lasts.setPstat]

theorem State.Lasts.appendEntry (hb : b.Lasts s) (e : AuditEntry) : b.Lasts (s.appendEntry e) := by
  grind [State.appendEntry, State.Lasts.notice, State.Lasts.with, State.Lasts.foldl]

theorem State.Lasts.appendAudit (hb : b.Lasts s) (e : AuditEntry) : b.Lasts (s.appendAudit e) := by
  grind [State.appendAudit, State.Lasts.appendEntry, State.Lasts.with, State.Lasts.foldl]

theorem State.Lasts.audit (hb : b.Lasts s) (kind object : Nat) (old new : List Byte) : b.Lasts (s.audit kind object old
    new) := by
  grind [State.audit, State.Lasts.appendAudit]

theorem State.Lasts.auditWork (hb : b.Lasts s) (spec : Bool) (kind object : Nat) (old new : List Byte) : b.Lasts
    (s.auditWork spec kind object old new) := by
  grind [State.auditWork, State.Lasts.audit, State.Lasts.with]

theorem State.Lasts.faultNotice (hb : b.Lasts s) (code : Nat) (results : List Word) : b.Lasts (s.faultNotice code
    results) := by
  grind [State.faultNotice, State.Lasts.notice, State.Lasts.audit]

theorem State.Lasts.pinRoutes (hb : b.Lasts s) : b.Lasts (s.pinRoutes) := by
  grind [State.pinRoutes, State.Lasts.with]

theorem State.Lasts.freeRoutes (hb : b.Lasts s) : b.Lasts (s.freeRoutes) := by
  grind [State.freeRoutes, State.Lasts.with]

theorem State.Lasts.sendNotice (hb : b.Lasts s) (n : Notice) : b.Lasts (s.sendNotice n) := by
  grind [State.sendNotice, State.Lasts.with]

theorem State.Lasts.toAll (hb : b.Lasts s) (n : Notice) : b.Lasts (s.toAll n) := by
  grind [State.toAll, State.Lasts.sendNotice, State.Lasts.with, State.Lasts.foldl]

theorem State.Lasts.toLeader (hb : b.Lasts s) (n : Notice) : b.Lasts (s.toLeader n) := by
  grind [State.toLeader, State.Lasts.sendNotice, State.Lasts.with]

theorem State.Lasts.stepAbort (hb : b.Lasts s) (cause : Nat) : b.Lasts (s.stepAbort cause) := by
  grind [State.stepAbort, State.Lasts.toLeader, State.Lasts.with]

theorem State.Lasts.setTask (hb : b.Lasts s) (n : Nat) (v : Task) : b.Lasts (s.setTask n v) := by
  grind [State.setTask, State.Lasts.with]

theorem State.Lasts.specCause (hb : b.Lasts s) (cause : Nat) : b.Lasts (s.specCause cause) := by
  grind [State.specCause, State.Lasts.toLeader, State.Lasts.with]

theorem State.Lasts.tellAbort (hb : b.Lasts s) (n : Nat) (t : Task) : b.Lasts (s.tellAbort n t) := by
  grind [State.tellAbort, State.Lasts.sendNotice, State.Lasts.with, State.Lasts.foldl]

theorem State.Lasts.taskAborts (hb : b.Lasts s) (n at_ : Nat) (r : AbortRecord) (tell : Bool) : b.Lasts (s.taskAborts n
    at_ r tell) := by
  grind [State.taskAborts, State.Lasts.setTask, State.Lasts.count, State.Lasts.tellAbort, State.Lasts.stepAbort,
    State.Lasts.specCause, State.Lasts.with]

theorem State.Lasts.taskCauseAt (hb : b.Lasts s) (n at_ : Nat) (r : AbortRecord) : b.Lasts (s.taskCauseAt n at_ r) := by
  grind [State.taskCauseAt, State.Lasts.taskAborts, State.Lasts.with]

theorem State.Lasts.taskCause (hb : b.Lasts s) (n : Nat) (r : AbortRecord) : b.Lasts (s.taskCause n r) := by
  grind [State.taskCause, State.Lasts.taskCauseAt]

theorem State.Lasts.setCtx (hb : b.Lasts s) (n : Nat) (c : Ctx) : b.Lasts (s.setCtx n c) := by
  grind [State.setCtx, State.Lasts.with]

theorem State.Lasts.ctxStart (hb : b.Lasts s) (n now : Nat) : b.Lasts (s.ctxStart n now) := by
  grind [State.ctxStart, State.Lasts.setCtx, State.Lasts.with]

theorem State.Lasts.ctxMoved (hb : b.Lasts s) (n units : Nat) (done : Bool) : b.Lasts (s.ctxMoved n units done) := by
  grind [State.ctxMoved, State.Lasts.setCtx, State.Lasts.with]

theorem State.Lasts.postHandle (h : b.Lasts s) (r : Nat) (w : Word) (at_ poster : Nat) :
    b.Lasts (s.postHandle r w at_ poster).1 := by
  grind [State.postHandle, State.Lasts.setRing, State.Lasts.with]

theorem State.Lasts.takeHandle (hb : b.Lasts s) (r : Nat) : b.Lasts (s.takeHandle r) := by
  grind [State.takeHandle, State.Lasts.setRing, State.Lasts.with]

theorem State.Lasts.accept (h : b.Lasts s) (c : Cmd) : b.Lasts (s.accept c).1 := by
  grind [State.accept, State.Lasts.with]

theorem State.Lasts.reply (hb : b.Lasts s) (a : Ask) (cls code : Nat) (results : List Word) : b.Lasts (s.reply a cls
    code results) := by
  grind [State.reply, State.Lasts.postReply]

theorem State.Lasts.answerOnly (hb : b.Lasts s) (a : Ask) (cls code : Nat) (results : List Word) : b.Lasts (s.answerOnly
    a cls code results) := by
  grind [State.answerOnly, State.Lasts.setAux, State.Lasts.postReply, State.Lasts.countSource, State.Lasts.with]

theorem State.Lasts.freeCancel (hb : b.Lasts s) (ring seq : Nat) : b.Lasts (s.freeCancel ring seq) := by
  grind [State.freeCancel, State.Lasts.answerOnly, State.Lasts.setAux, State.Lasts.with, State.Lasts.foldl]

theorem State.Lasts.settle (h : b.Lasts s) (n : Nat) : b.Lasts (s.settle n) := by
  induction n generalizing s with
  | zero => exact h
  | succ n ih =>
    have hacc := fun c => h.accept c
    grind [State.settle, State.Lasts.answerOnly]

theorem State.Lasts.settled (hb : b.Lasts s) : b.Lasts (s.settled) := by
  grind [State.settled, State.Lasts.settle]

theorem State.Lasts.answer (hb : b.Lasts s) (a : Ask) (cls code : Nat) (results : List Word) : b.Lasts (s.answer a cls
    code results) := by
  grind [State.answer, State.Lasts.answerOnly, State.Lasts.freeCancel, State.Lasts.settled]

theorem State.Lasts.done (hb : b.Lasts s) (a : Ask) (results : List Word) : b.Lasts (s.done a results) := by
  grind [State.done, State.Lasts.answer]

theorem State.Lasts.refuse (hb : b.Lasts s) (a : Ask) (code : Nat) : b.Lasts (s.refuse a code) := by
  grind [State.refuse, State.Lasts.answer]

theorem State.Lasts.final (hb : b.Lasts s) (a : Ask) (cls code : Nat) (results : List Word) : b.Lasts (s.final a cls
    code results) := by
  grind [State.final, State.Lasts.reply, State.Lasts.freeCancel, State.Lasts.settled, State.Lasts.with]

theorem State.Lasts.defer_ (hb : b.Lasts s) (c : Cmd) (kind value : Nat) : b.Lasts (s.defer_ c kind value) := by
  grind [State.defer_, State.Lasts.answer, State.Lasts.with]

theorem State.Lasts.served (hb : b.Lasts s) (r c : Nat) : b.Lasts (s.served r c) := by
  grind [State.served, State.Lasts.with]

/-- A command row whose act keeps what must last keeps it. -/
theorem State.Lasts.command (h : b.Lasts s) (op ring : Nat) {act : Cmd → State → State}
    (ha : ∀ c s, b.Lasts s → b.Lasts (act c s)) : b.Lasts (s.command op ring act) := by
  have hacc (core : Nat) (c : Cmd) := (h.served ring core).accept c
  unfold State.command
  split
  · exact h
  · split
    · exact h
    · next c _ _ core _ =>
      split
      · exact h
      · have := hacc core c
        split
        · next e => rw [e] at this; exact this.answer _ _ _ _
        · next e =>
          rw [e] at this
          split
          · exact this.answer _ _ _ _
          · exact ha _ _ this

theorem State.Lasts.paramOr (h : b.Lasts s) (c : Cmd) (used : List (Nat × Nat)) (object good : Bool)
    {act : State → State} (ha : ∀ s, b.Lasts s → b.Lasts (act s)) :
    b.Lasts (Machine.paramOr c used object good act s) := by
  unfold Machine.paramOr
  split
  · exact ha s h
  · exact h.refuse _ _

theorem State.Lasts.auditFor (hb : b.Lasts s) (a : Ask) (kind object : Nat) (old new : List Byte) : b.Lasts (s.auditFor
    a kind object old new) := by
  grind [State.auditFor, State.Lasts.appendAudit, State.Lasts.with]

theorem State.Lasts.hostWrite (h : b.Lasts s) (addr : Nat) (bs : List Byte) : b.Lasts (s.hostWrite addr bs) :=
  ⟨h.pending, h.fuses, h.revoked, h.apart, h.clay, h.storage, fun hb => State.hostWrite_wf (h.memory hb) addr bs⟩

end Sys2Proof.Machine
end


section
/-! SUPPORT. What must last, over a tile's fc, its transfers and what is delivered to it. -/

namespace Sys2Proof.Machine

variable {b s : State}

theorem State.Lasts.answerRecord (hb : b.Lasts s) (c : Cmd) (bs : List Byte) (results : List Word) : b.Lasts
    (s.answerRecord c bs results) := by
  grind [State.answerRecord, State.Lasts.refuse, State.Lasts.hostWrite, State.Lasts.done]

theorem State.Lasts.countClay (h : b.Lasts s) (source who : Nat) (spec : Bool) (pa n : Nat) : b.Lasts (s.countClay
    source who spec pa n) :=
  h.sent (s.countClay_sent source who spec pa n)

theorem State.Lasts.countWaits (h : b.Lasts s) (p : Nat) : b.Lasts (s.countWaits p) :=
  h.sent (s.countWaits_sent p)

theorem State.Lasts.portSends (h : b.Lasts s) (p : Nat) : b.Lasts (s.portSends p) :=
  h.sent (s.portSends_sent p)

theorem State.Lasts.portsSend (h : b.Lasts s)  : b.Lasts (s.portsSend) :=
  h.sent (s.portsSend_sent)

theorem State.Lasts.sendFrame (h : b.Lasts s) (p : Nat) (f : Frame) : b.Lasts (s.sendFrame p f) :=
  h.sent (s.sendFrame_sent p f)

theorem State.Lasts.sendStream (h : b.Lasts s) (x : Frame) (data : List Byte) : b.Lasts (s.sendStream x data) :=
  h.sent (s.sendStream_sent x data)

theorem State.Lasts.sendHeader (h : b.Lasts s) (x : Frame) : b.Lasts (s.sendHeader x) :=
  h.sent (s.sendHeader_sent x)

theorem State.Lasts.sendReads (h : b.Lasts s) (x : Frame) (la n to_ : Nat) : b.Lasts (s.sendReads x la n to_) :=
  h.sent (s.sendReads_sent x la n to_)

theorem State.Lasts.requestAway (h : b.Lasts s) (w : Work) (la n : Nat) : b.Lasts (s.requestAway w la n) :=
  h.sent (s.requestAway_sent w la n)

theorem State.Lasts.releaseWrites (h : b.Lasts s) : b.Lasts s.releaseWrites :=
  State.Lasts.foldl (by grind [State.Lasts.with]) (fun _ _ h => h.sendStream _ _) _

theorem State.Lasts.writeRange (h : b.Lasts s) (w : Work) (la : Nat) (bs : List Byte) :
    b.Lasts (s.writeRange w la bs).1 := by
  unfold State.writeRange
  refine State.Lasts.foldl_of Prod.fst (fun x c hx => ?_) _ h
  grind [State.Lasts.countClay, State.Lasts.countPath, State.Lasts.sendStream, State.Lasts.with, MemState.tagSpec_clay,
    MemState.holdWrite_clay, MemState.write_wf]

theorem State.Lasts.countRead (h : b.Lasts s) (w : Work) (la n : Nat) : b.Lasts (s.countRead w la n) :=
  h.sent (s.countRead_sent w la n)

theorem State.Lasts.poisonFound (hb : b.Lasts s) (la : Nat) : b.Lasts (s.poisonFound la) := by
  grind [State.poisonFound, State.Lasts.faultNotice, State.Lasts.with]

theorem State.Lasts.poisonNotice (hb : b.Lasts s) (f : MemFault) : b.Lasts (s.poisonNotice f) := by
  grind [State.poisonNotice, State.Lasts.poisonFound]

theorem State.Lasts.poison (hb : b.Lasts s) (e la : Nat) : b.Lasts (s.poison e la) := by
  grind [State.poison, State.Lasts.with]

theorem State.Lasts.queueInlet (hb : b.Lasts s) (i tag : Nat) (r : BucketRecord) : b.Lasts (s.queueInlet i tag r) := by
  grind [State.queueInlet, State.Lasts.with]

theorem State.Lasts.intoInlet (h : b.Lasts s) (i : Nat) (w : Work) (la : Nat) (bs : List Byte) :
    b.Lasts (s.intoInlet i w la bs).1 := by
  grind [State.intoInlet, State.Lasts.queueInlet]

theorem State.Lasts.taint (hb : b.Lasts s) (n : Nat) (yes : Bool) : b.Lasts (s.taint n yes) := by
  grind [State.taint, State.Lasts.setTask, State.Lasts.with]

theorem State.Lasts.xferStart (hb : b.Lasts s) (id : TileId) (now : Nat) (q : Queued) (op : XferOp) (f : XferF) (r :
    XferRec) (a : Nat) : b.Lasts (s.xferStart id now q op f r a) := by
  grind [State.xferStart, State.Lasts.done, State.Lasts.setTile, State.Lasts.ctxStart, State.Lasts.sendReads,
    State.Lasts.taint, State.Lasts.requestAway, State.Lasts.with]

theorem State.Lasts.postFor (hb : b.Lasts s) (n r : Nat) (h : Word) (at_ poster die : Nat) : b.Lasts (s.postFor n r h
    at_ poster die) := by
  grind [State.postFor, State.Lasts.postHandle, State.Lasts.taskCauseAt, State.Lasts.with]

theorem State.Lasts.postStream (hb : b.Lasts s) (f : Frame) (at_ : Nat) : b.Lasts (s.postStream f at_) := by
  grind [State.postStream, State.Lasts.postFor, State.Lasts.taskCauseAt, State.Lasts.with]

theorem State.Lasts.frameLanded (hb : b.Lasts s) (f : Frame) (at_ : Nat) : b.Lasts (s.frameLanded f at_) := by
  grind [State.frameLanded, State.Lasts.ctxStart, State.Lasts.ctxMoved, State.Lasts.postStream, State.Lasts.with]

theorem State.Lasts.xtileLanded (hb : b.Lasts s) (id : TileId) (at_ : Nat) : b.Lasts (s.xtileLanded id at_) := by
  grind [State.xtileLanded, State.Lasts.setTile, State.Lasts.postHandle, State.Lasts.modTile, State.Lasts.with]

theorem State.Lasts.rowLanded (h : b.Lasts s) (n : RowNote) (at_ : Nat) : b.Lasts (s.rowLanded n at_) := by
  cases n <;> grind [State.rowLanded, State.Lasts.xtileLanded, State.Lasts.postFor, State.Lasts.frameLanded]

theorem State.Lasts.deliver (hb : b.Lasts s) (id : TileId) (at_ addr : Nat) (bs : List Byte) (note : Option RowNote) :
    b.Lasts (s.deliver id at_ addr bs note) := by
  grind [State.deliver, State.Lasts.modTile, State.Lasts.rowLanded, State.Lasts.with]

theorem State.Lasts.deliverRows (hb : b.Lasts s) (id : TileId) (first addr : Nat) (bs : List Byte) (note : Option
    RowNote) : b.Lasts (s.deliverRows id first addr bs note) := by
  grind [State.deliverRows, State.Lasts.deliver, State.Lasts.foldl]

theorem State.Lasts.dropReplies (hb : b.Lasts s) (ctx : Nat) : b.Lasts (s.dropReplies ctx) := by
  grind [State.dropReplies, State.Lasts.with]

theorem State.Lasts.ctxFault (hb : b.Lasts s) (ctx code : Nat) : b.Lasts (s.ctxFault ctx code) := by
  grind [State.ctxFault, State.Lasts.setCtx, State.Lasts.with]

theorem State.Lasts.xferDone (hb : b.Lasts s) (id : TileId) (run : XferRun) (last : Nat) : b.Lasts (s.xferDone id run
    last) := by
  grind [State.xferDone, State.Lasts.setTile, State.Lasts.ctxMoved, State.Lasts.dropReplies, State.Lasts.postHandle,
    State.Lasts.modTile, State.Lasts.with]

theorem State.Lasts.xferFault (h : b.Lasts s) (run : XferRun) (e : MemFault) : b.Lasts (s.xferFault run e).1 :=
  (h.ctxFault _ _).poisonNotice _

theorem State.Lasts.xgetRows (h : b.Lasts s) (id : TileId) (now : Nat) (run : XferRun) :
    b.Lasts (s.xgetRows id now run).1 := by
  grind [State.xgetRows, State.Lasts.countRead, State.Lasts.modTile, State.Lasts.ctxMoved, State.Lasts.xferFault,
    State.Lasts.xferDone]

theorem State.Lasts.putRows (h : b.Lasts s) (die task : Nat) (run : XferRun) (first : Nat) (bs : List Byte) :
    b.Lasts (s.putRows die task run first bs).1 := by
  grind [State.putRows, State.Lasts.intoInlet, State.Lasts.writeRange]

theorem State.Lasts.xputRows (h : b.Lasts s) (id : TileId) (now : Nat) (run : XferRun) :
    b.Lasts (s.xputRows id now run).1 := by
  grind [State.xputRows, State.Lasts.putRows, State.Lasts.modTile, State.Lasts.xferFault, State.Lasts.xferDone]

theorem State.Lasts.moveXfer (h : b.Lasts s) (id : TileId) (now : Nat) : b.Lasts (s.moveXfer id now).1 := by
  grind [State.moveXfer, State.Lasts.xgetRows, State.Lasts.xputRows, State.Lasts.xferDone]

theorem State.Lasts.sendRows (hb : b.Lasts s) (die task : Nat) (run : XferRun) (whole : Bool) : b.Lasts (s.sendRows die
    task run whole) := by
  grind [State.sendRows, State.Lasts.countPath, State.Lasts.sendStream, State.Lasts.with]

theorem State.Lasts.readXfer (h : b.Lasts s) (id : TileId) (now : Nat) : b.Lasts (s.readXfer id now) := by
  unfold State.readXfer
  extract_lets t
  split
  · exact h
  · split
    · exact h
    · extract_lets row lands s1 keep run' s2 last
      have h2 : b.Lasts s2 := (h.ctxMoved _ _ _).setTile _ _
      clear_value s2
      grind [State.Lasts.sendRows, State.Lasts.countPath, State.Lasts.deliver]

theorem State.Lasts.drawBelow (h : b.Lasts s) (n : Nat) : b.Lasts (s.drawBelow n).2 := by
  grind [State.drawBelow, State.Lasts.with]

theorem State.Lasts.cutXfer (hb : b.Lasts s) (die task : Nat) (run : XferRun) : b.Lasts (s.cutXfer die task run) := by
  grind [State.cutXfer, State.Lasts.done, State.Lasts.sendRows, State.Lasts.putRows]

theorem State.Lasts.haltTile (hb : b.Lasts s) (id : TileId) (cause : Nat) : b.Lasts (s.haltTile id cause) := by
  grind [State.haltTile, State.Lasts.cutXfer, State.Lasts.modTile]

theorem State.Lasts.stopTile (hb : b.Lasts s) (id : TileId) (now : Nat) (r : AbortRecord) : b.Lasts (s.stopTile id now
    r) := by
  grind [State.stopTile, State.Lasts.haltTile, State.Lasts.taskCauseAt, State.Lasts.with]

theorem State.Lasts.tileCount (hb : b.Lasts s) (id : TileId) (t : Tile) (source k : Nat) (c : Bool) : b.Lasts
    (s.tileCount id t source k c) := by
  grind [State.tileCount, State.Lasts.countSource]

theorem State.Lasts.countTile (hb : b.Lasts s) (id : TileId) (now : Nat) (t : Tile) : b.Lasts (s.countTile id now t) :=
    by
  grind [State.countTile, State.Lasts.done, State.Lasts.tileCount]

theorem State.Lasts.refusedStream (hb : b.Lasts s) (t : Tile) (c : AbortRecord) : b.Lasts (s.refusedStream t c) := by
  grind [State.refusedStream, State.Lasts.setCtx, State.Lasts.with]

theorem State.Lasts.tileBegin (hb : b.Lasts s) (id : TileId) : b.Lasts (s.tileBegin id) := by
  grind [State.tileBegin, State.Lasts.setTile, State.Lasts.moveXfer, State.Lasts.xferStart, State.Lasts.refusedStream,
    State.Lasts.countTile, State.Lasts.tileCount, State.Lasts.with]

theorem State.Lasts.tileEnd (h : b.Lasts s) (id : TileId) : b.Lasts (s.tileEnd id) := by
  unfold State.tileEnd
  extract_lets t now a s1 s2 notes s3 s4 s5
  have h1 : b.Lasts s1 := by grind [State.Lasts.tileCount]
  have h4 : b.Lasts s4 := (((h1.setTile _ _).readXfer _ _).modTile _ _).modTile _ _
  have h5 : b.Lasts s5 := h4.foldl (fun _ _ hx => hx.rowLanded _ _) _
  clear_value s5
  grind [State.Lasts.stopTile]

theorem State.Lasts.tileFc (hb : b.Lasts s) (id : TileId) : b.Lasts (s.tileFc id) := by
  grind [State.tileFc, State.Lasts.tileBegin, State.Lasts.tileEnd]

theorem State.Lasts.tileTo (h : b.Lasts s) (id : TileId) (to_ n : Nat) : b.Lasts (s.tileTo id to_ n) := by
  induction n generalizing s with
  | zero => exact h
  | succ n ih => grind [State.tileTo, State.Lasts.countSource, State.Lasts.setTile, State.Lasts.tileFc]

theorem State.Lasts.runTo (hb : b.Lasts s) (id : TileId) (h : Nat) : b.Lasts (s.runTo id h) := by
  grind [State.runTo, State.Lasts.tileTo]

theorem State.Lasts.tileUntil (h : b.Lasts s) {id : TileId} {p : Tile → Bool} {n : Nat} {s' : State}
    (e : s.tileUntil id p n = some s') : b.Lasts s' := by
  induction n generalizing s with
  | zero => cases e
  | succ n ih => grind [State.tileUntil, State.Lasts.tileFc]

theorem State.Lasts.tileWhen (h : b.Lasts s) {id : TileId} {p : Tile → Bool} {n : Nat} {s' : State}
    (e : s.tileWhen id p n = some s') : b.Lasts s' := by
  induction n generalizing s with
  | zero => cases e
  | succ n ih => grind [State.tileWhen, State.Lasts.tileBegin, State.Lasts.tileEnd]

theorem State.Lasts.catchUp (hb : b.Lasts s) (id : TileId) : b.Lasts (s.catchUp id) := by
  grind [State.catchUp, State.Lasts.toFc]

theorem State.Lasts.countsNow (hb : b.Lasts s) : b.Lasts (s.countsNow) := by
  grind [State.countsNow, State.Lasts.runTo, State.Lasts.countWaits, State.Lasts.foldl]

theorem State.Lasts.stopAtEnd (hb : b.Lasts s) (id : TileId) (r : AbortRecord) : b.Lasts (s.stopAtEnd id r) := by
  grind [State.stopAtEnd, State.Lasts.tileBegin, State.Lasts.modTile, State.Lasts.tileEnd, State.Lasts.catchUp,
    State.Lasts.with]

theorem State.Lasts.dispatch (h : b.Lasts s) (id : TileId) (w : TileWord) {act : State → State}
    (ha : ∀ s, b.Lasts s → b.Lasts (act s)) : b.Lasts (s.dispatch id w act) := by
  unfold State.dispatch
  split
  · split
    · next e =>
      refine State.Lasts.catchUp ?_ id
      split
      · exact ha _ (h.tileWhen e)
      · exact h.tileWhen e
    · exact h
  · split
    · refine State.Lasts.catchUp ?_ id
      cases e : s.tileUntil id (fun t => !t.atNone) (s.fuelOf id) with
      | none => exact h
      | some v => exact h.tileUntil e
    · exact h

theorem State.Lasts.stopNow (hb : b.Lasts s) (id : TileId) (cause code : Nat) : b.Lasts (s.stopNow id cause code) := by
  grind [State.stopNow, State.Lasts.modTile, State.Lasts.tileEnd, State.Lasts.with]

theorem State.Lasts.control (hb : b.Lasts s) (id : TileId) (op : CtlOp) (f : CtlF) (act : Tile → Tile) : b.Lasts
    (s.control id op f act) := by
  grind [State.control, State.Lasts.dispatch, State.Lasts.modTile]

theorem State.Lasts.arith (hb : b.Lasts s) (id : TileId) (op : CtlOp) (f : CtlF) (g : Word → Word → Word) : b.Lasts
    (s.arith id op f g) := by
  grind [State.arith, State.Lasts.control]

theorem State.Lasts.branchIf (hb : b.Lasts s) (id : TileId) (op : CtlOp) (f : CtlF) (c : Tile → Bool) : b.Lasts
    (s.branchIf id op f c) := by
  grind [State.branchIf, State.Lasts.control]

theorem State.Lasts.readsQ (hb : b.Lasts s) (id : TileId) (op : CtlOp) (f : CtlF) (act : Tile → Tile) : b.Lasts
    (s.readsQ id op f act) := by
  grind [State.readsQ, State.Lasts.dispatch, State.Lasts.stopNow, State.Lasts.modTile]

theorem State.Lasts.pullRing (hb : b.Lasts s) (r h : Nat) : b.Lasts (s.pullRing r h) := by
  grind [State.pullRing, State.Lasts.runTo, State.Lasts.foldl]

theorem State.Lasts.eventAt (hb : b.Lasts s) (id : TileId) (when_ : Tile → Option Nat) : b.Lasts (s.eventAt id when_) :=
    by
  grind [State.eventAt, State.Lasts.tileUntil, State.Lasts.modTile, State.Lasts.catchUp]

theorem State.Lasts.through (hb : b.Lasts s) (id : TileId) (h : Nat) : b.Lasts (s.through id h) := by
  grind [State.through, State.Lasts.runTo, State.Lasts.catchUp]

theorem State.Lasts.doorbellError (hb : b.Lasts s) (cq : Bool) (ring : BitVec 18) : b.Lasts (s.doorbellError cq ring) :=
    by
  grind [State.doorbellError, State.Lasts.setCause, State.Lasts.with]

end Sys2Proof.Machine
end


section
/-! SUPPORT. What must last, over pages, tasks, streams, the job and its steps. -/

namespace Sys2Proof.Machine

variable {b s : State}

theorem State.Lasts.setHeld (hb : b.Lasts s) (r : Nat) (held : List HeldReply) : b.Lasts (s.setHeld r held) := by
  grind [State.setHeld, State.Lasts.setAux, State.Lasts.with]

theorem State.Lasts.flushHeld (h : b.Lasts s) (r n : Nat) : b.Lasts (s.flushHeld r n) := by
  induction n generalizing s with
  | zero => exact h
  | succ n ih => grind [State.flushHeld, State.Lasts.setHeld, State.Lasts.postReply]

theorem State.Lasts.freeRetired (hb : b.Lasts s) : b.Lasts (s.freeRetired) := by
  grind [State.freeRetired, State.Lasts.with]

theorem State.Lasts.mapPage (hb : b.Lasts s) (c : Cmd) (n : Nat) (frames : List Nat) : b.Lasts (s.mapPage c n frames) :=
    by
  grind [State.mapPage, State.Lasts.drawBelow, State.Lasts.with, MemState.setPage_clay]

theorem State.Lasts.auditPages (h : b.Lasts s) (a : Option Ask) (first count old : Nat) :
    b.Lasts (s.auditPages a first count old) := by
  cases a <;> grind [State.auditPages, State.Lasts.auditFor, State.Lasts.audit]

theorem State.Lasts.mapPages (h : b.Lasts s) (c : Cmd) (frames : List Nat) : b.Lasts (s.mapPages c frames) := by
  unfold State.mapPages
  extract_lets old r
  have hr : b.Lasts r.1 := State.Lasts.foldl_of (β := State × List Nat) Prod.fst (fun _ _ hx => hx.mapPage _ _ _) _ h
  exact hr.auditPages _ _ _ _

theorem State.Lasts.clearFrames (h : b.Lasts s) (fs : List Nat) : b.Lasts (s.clearFrames fs) :=
  h.foldl (fun _ _ hx => by grind [State.Lasts.countClay, State.Lasts.with, MemState.clearFrame_wf]) _

theorem MemState.change_clay (m : MemState) (op n : Nat) : (m.change op n).clay = m.clay := by
  unfold MemState.change
  extract_lets p
  split <;> rfl

theorem MemState.foldl_change_clay (op : Nat) (l : List Nat) (m : MemState) :
    (l.foldl (fun m n => m.change op n) m).clay = m.clay := by
  induction l generalizing m with
  | nil => rfl
  | cons n l ih => rw [List.foldl_cons, ih, MemState.change_clay]

theorem State.Lasts.pageChange (h : b.Lasts s) (c : Cmd) : b.Lasts (s.pageChange c).1 := by
  unfold State.pageChange
  split
  · have hc := MemState.foldl_change_clay c.ask.opcode c.pages s.mem
    dsimp only
    exact State.Lasts.auditPages (by grind [State.Lasts.with]) _ _ _ _
  · exact h

theorem State.Lasts.lenderAnswer (h : b.Lasts s) (banked : Bool) : b.Lasts (s.lenderAnswer banked).2 := h.drawBelow _

theorem State.Lasts.mapStart (hb : b.Lasts s) (c : Cmd) : b.Lasts (s.mapStart c) := by
  grind [State.mapStart, State.Lasts.freeRetired, State.Lasts.refuse, State.Lasts.lenderAnswer, State.Lasts.count,
    State.Lasts.setAux, State.Lasts.clearFrames, State.Lasts.mapPages, State.Lasts.done, State.Lasts.with]

theorem State.Lasts.mapDue (hb : b.Lasts s) (c : Cmd) : b.Lasts (s.mapDue c) := by
  grind [State.mapDue, State.Lasts.mapPages, State.Lasts.final, State.Lasts.with]

theorem State.Lasts.pageStart (hb : b.Lasts s) (c : Cmd) : b.Lasts (s.pageStart c) := by
  grind [State.pageStart, State.Lasts.defer_, State.Lasts.pageChange, State.Lasts.done, State.Lasts.refuse]

theorem State.Lasts.pageDue (hb : b.Lasts s) (c : Cmd) : b.Lasts (s.pageDue c) := by
  grind [State.pageDue, State.Lasts.mapDue, State.Lasts.pageChange, State.Lasts.final]

theorem State.Lasts.migrateAnswer (hb : b.Lasts s) (m : Migration) (cls code : Nat) (results : List Word) : b.Lasts
    (s.migrateAnswer m cls code results) := by
  grind [State.migrateAnswer, State.Lasts.answer, State.Lasts.final]

theorem State.Lasts.sendMoved (hb : b.Lasts s) (m : Migration) : b.Lasts (s.sendMoved m) := by
  grind [State.sendMoved, State.Lasts.countClay, State.Lasts.countClay, State.Lasts.sendStream]

theorem State.Lasts.moveStart (h : b.Lasts s) {o : Migration} {v : State} (e : s.moveStart o = some v) : b.Lasts v := by
  grind [State.moveStart, State.Lasts.freeRetired, State.Lasts.drawBelow, State.Lasts.with, State.Lasts.setCtx,
    State.Lasts.sendReads, State.Lasts.sendMoved, MemState.setPage_clay]

theorem State.Lasts.migrateStart (h : b.Lasts s) (c : Cmd) : b.Lasts (s.migrateStart c) := by
  have hm {v : State} (hv : b.Lasts v) {o : Migration} {w : State} (e : v.moveStart o = some w) : b.Lasts w :=
    hv.moveStart e
  have ha := h.lenderAnswer false
  unfold State.migrateStart
  grind [State.Lasts.refuse, State.Lasts.done, State.Lasts.answer, State.Lasts.setAux]

theorem State.Lasts.movesStart (h : b.Lasts s) (e : Nat) : b.Lasts (s.movesStart e) := by
  have hm {v : State} (hv : b.Lasts v) (o : Migration) : b.Lasts ((v.moveStart o).getD v) := hv.getD fun _ e => hv.moveStart e
  refine State.Lasts.foldl (by grind [State.Lasts.with]) (fun v d hv => ?_) _
  grind

theorem State.Lasts.movesFree (hb : b.Lasts s) : b.Lasts (s.movesFree) := by
  grind [State.movesFree, State.Lasts.sendMoved, State.Lasts.with, State.Lasts.foldl]

theorem State.Lasts.unmapsDue (hb : b.Lasts s) : b.Lasts (s.unmapsDue) := by
  grind [State.unmapsDue, State.Lasts.pageDue, State.Lasts.with, State.Lasts.foldl]

theorem State.Lasts.migrationEnd (hb : b.Lasts s) (m : Migration) (p : Page) : b.Lasts (s.migrationEnd m p) := by
  grind [State.migrationEnd, State.Lasts.setCtx, State.Lasts.with, MemState.setPage_clay]

theorem State.Lasts.moveSwitch (hb : b.Lasts s) (m : Migration) (bs : List Byte) : b.Lasts (s.moveSwitch m bs) := by
  grind [State.moveSwitch, State.Lasts.countClay, State.Lasts.countClay, State.Lasts.migrationEnd,
    State.Lasts.auditPages, State.Lasts.unmapsDue, State.Lasts.with, MemState.write_wf, MemState.clearFrame_wf]

theorem State.Lasts.migrationCancel (hb : b.Lasts s) (m : Migration) : b.Lasts (s.migrationCancel m) := by
  grind [State.migrationCancel, State.Lasts.migrationEnd, State.Lasts.migrateAnswer, State.Lasts.unmapsDue]

theorem State.Lasts.enqueueFor (hb : b.Lasts s) (id : TileId) (w : TileWord) : b.Lasts (s.enqueueFor id w) := by
  grind [State.enqueueFor, State.Lasts.dispatch, State.Lasts.modTile]

theorem State.Lasts.xferIssued (h : b.Lasts s) (id : TileId) : b.Lasts (s.xferIssued id) := by
  unfold State.xferIssued
  extract_lets t
  split
  · exact h
  · exact h.getD fun _ e => h.tileUntil e

theorem State.Lasts.endXfer (h : b.Lasts s) (id : TileId) (seq n : Nat) : b.Lasts (s.endXfer id seq n) :=
  h.getD fun _ e => h.tileUntil e

theorem State.Lasts.emptyRings (hb : b.Lasts s) (n : Nat) : b.Lasts (s.emptyRings n) := by
  grind [State.emptyRings, State.Lasts.setRing, State.Lasts.with, State.Lasts.foldl]

theorem State.Lasts.dropTask (hb : b.Lasts s) (n : Nat) : b.Lasts (s.dropTask n) := by
  grind [State.dropTask, State.Lasts.runTo, State.Lasts.stopAtEnd, State.Lasts.setCtx, State.Lasts.emptyRings,
    State.Lasts.setTask, State.Lasts.with, State.Lasts.foldl]

theorem State.Lasts.writeSample (hb : b.Lasts s) (d : TaskDecl) (e a : Nat) : b.Lasts (s.writeSample d e a) := by
  grind [State.writeSample, State.Lasts.modTile, State.Lasts.with, State.Lasts.foldl]

theorem State.Lasts.startTask (hb : b.Lasts s) (d : TaskDecl) (t : Task) : b.Lasts (s.startTask d t) := by
  grind [State.startTask, State.Lasts.setCtx, State.Lasts.writeSample, State.Lasts.setTask, State.Lasts.with,
    State.Lasts.foldl]

theorem State.Lasts.countNan (hb : b.Lasts s) : b.Lasts (s.countNan) := by
  grind [State.countNan, State.Lasts.with]

theorem State.Lasts.nanSeen (hb : b.Lasts s) (spec : Bool) : b.Lasts (s.nanSeen spec) := by
  grind [State.nanSeen, State.Lasts.specCause, State.Lasts.countNan, State.Lasts.stepAbort, State.Lasts.with]

theorem State.Lasts.tileEnds (hb : b.Lasts s) (t : TileId) : b.Lasts (s.tileEnds t) := by
  grind [State.tileEnds, State.Lasts.setTile, State.Lasts.setTask, State.Lasts.nanSeen, State.Lasts.with]

theorem State.Lasts.taskReply (hb : b.Lasts s) (k : Task) (cls code : Nat) (results : List Word) : b.Lasts (s.taskReply
    k cls code results) := by
  grind [State.taskReply, State.Lasts.answer, State.Lasts.with]

theorem State.Lasts.postHeld (hb : b.Lasts s) : b.Lasts (s.postHeld) := by
  grind [State.postHeld, State.Lasts.answer, State.Lasts.with, State.Lasts.foldl]

theorem State.Lasts.markRow (hb : b.Lasts s) (id : TileId) (addr : Nat) : b.Lasts (s.markRow id addr) := by
  grind [State.markRow, State.Lasts.modTile, State.Lasts.with]

theorem State.Lasts.retireChannel (hb : b.Lasts s) (stack channel : Nat) : b.Lasts (s.retireChannel stack channel) := by
  grind [State.retireChannel, State.Lasts.with]

theorem State.Lasts.eccSeen (hb : b.Lasts s) (w : Nat) : b.Lasts (s.eccSeen w) := by
  grind [State.eccSeen, State.Lasts.retireChannel, State.Lasts.with]

theorem State.Lasts.wordFixed (hb : b.Lasts s) (pa : Nat) : b.Lasts (s.wordFixed pa) := by
  grind [State.wordFixed, State.Lasts.count, State.Lasts.retireChannel, State.Lasts.with]

theorem State.Lasts.noteEcc (hb : b.Lasts s) (task : Nat) (r : AbortRecord) : b.Lasts (s.noteEcc task r) := by
  grind [State.noteEcc, State.Lasts.poison, State.Lasts.poisonFound, State.Lasts.eccSeen]

theorem State.Lasts.weakRow (hb : b.Lasts s) (id : TileId) (addr : Nat) : b.Lasts (s.weakRow id addr) := by
  grind [State.weakRow, State.Lasts.modTile, State.Lasts.with]

theorem State.Lasts.settleAbort (hb : b.Lasts s) (n : Nat) : b.Lasts (s.settleAbort n) := by
  grind [State.settleAbort, State.Lasts.emptyRings]

theorem State.Lasts.streamFail (hb : b.Lasts s) (n code addr pkg : Nat) : b.Lasts (s.streamFail n code addr pkg) := by
  grind [State.streamFail, State.Lasts.xferFault, State.Lasts.stopAtEnd, State.Lasts.ctxFault, State.Lasts.taskCause,
    State.Lasts.with]

theorem State.Lasts.streamHandle (hb : b.Lasts s) (c : Ctx) : b.Lasts (s.streamHandle c) := by
  grind [State.streamHandle, State.Lasts.drawBelow, State.Lasts.postFor]

theorem State.Lasts.streamMoves (hb : b.Lasts s) (n units : Nat) : b.Lasts (s.streamMoves n units) := by
  grind [State.streamMoves, State.Lasts.ctxStart, State.Lasts.ctxMoved]

theorem State.Lasts.fillTile (h : b.Lasts s) (f : FurrowDecl) (t : TileId) : b.Lasts (s.fillTile f t) := by
  unfold State.fillTile
  extract_lets mine c w
  split
  · exact h
  · extract_lets base size la x s1
    have h1 : b.Lasts s1 := (h.countRead _ _ _).streamMoves _ _
    clear_value s1
    split
    · exact h.taskCause _ _
    · split
      · exact (h.streamMoves _ _).requestAway _ _ _
      · split
        · exact ((h1.deliverRows _ _ _ _ _).streamFail _ _ _ _).poisonNotice _
        · refine State.Lasts.deliverRows ?_ _ _ _ _ _
          exact h1.drawBelow 512

theorem State.Lasts.writePrograms (hb : b.Lasts s) (im : Image) : b.Lasts (s.writePrograms im) := by
  grind [State.writePrograms, State.Lasts.modTile, State.Lasts.with, State.Lasts.foldl]

theorem State.Lasts.freePool (hb : b.Lasts s) : b.Lasts (s.freePool) := by
  grind [State.freePool, State.Lasts.with]

theorem State.Lasts.allocPool (hb : b.Lasts s) (im : Image) : b.Lasts (s.allocPool im) := by
  grind [State.allocPool, State.Lasts.setRing, State.Lasts.setCtx, State.Lasts.with, State.Lasts.foldl]

theorem State.Lasts.layerSettings (hb : b.Lasts s) (im : Image) : b.Lasts (s.layerSettings im) := by
  grind [State.layerSettings, State.Lasts.with, State.Lasts.foldl]

theorem State.Lasts.setUnit (hb : b.Lasts s) (u : UnitId) (p : UnitPower) : b.Lasts (s.setUnit u p) := by
  grind [State.setUnit, State.Lasts.with]

theorem State.Lasts.wakeNow (hb : b.Lasts s) (us : List UnitId) : b.Lasts (s.wakeNow us) := by
  grind [State.wakeNow, State.Lasts.setUnit, State.Lasts.passFc, State.Lasts.foldl]

theorem State.Lasts.wakeImage (hb : b.Lasts s) : b.Lasts (s.wakeImage) := by
  grind [State.wakeImage, State.Lasts.setUnit, State.Lasts.foldl]

theorem State.Lasts.climb (hb : b.Lasts s) : b.Lasts (s.climb) := by
  grind [State.climb, State.Lasts.toSc, State.Lasts.with]

theorem State.Lasts.toFloor (hb : b.Lasts s) : b.Lasts (s.toFloor) := by
  grind [State.toFloor, State.Lasts.climb, State.Lasts.with, State.Lasts.foldl]

theorem State.Lasts.startJob (h : b.Lasts s) (im : Image) (digest : List Byte) : b.Lasts (s.startJob im digest) := by
  unfold State.startJob
  extract_lets _ _ _ s1 s2
  have h1 : b.Lasts s1 := by grind [State.Lasts.with]
  have h2 : b.Lasts s2 := ((h1.writePrograms _).allocPool _).layerSettings _
  exact (h2.wakeNow _).toFloor

theorem State.Lasts.takeStandby (h : b.Lasts s) : b.Lasts s.takeStandby := by
  unfold State.takeStandby
  extract_lets _
  split
  · exact h
  · extract_lets s1 s2
    have h1 : b.Lasts s1 := by grind [State.Lasts.with]
    have h2 : b.Lasts s2 := (h1.freePool.writePrograms _).allocPool _
    exact (h2.wakeNow _).toFloor

theorem State.Lasts.loadImage (h : b.Lasts s) (c : Cmd) (image : Option Image) (digest : List Byte)
    {resume : State → State} (hr : ∀ s, b.Lasts s → b.Lasts (resume s)) : b.Lasts (s.loadImage c image digest resume) := by
  unfold State.loadImage
  extract_lets standby old
  split
  · exact h.refuse _ _
  · split
    · exact h.answer _ _ _ _
    · extract_lets signed s1 _ s2 s3 _ s4
      have h1 : b.Lasts s1 := h.auditFor _ _ _ _ _
      have h2 : b.Lasts s2 := by clear_value s1; grind [State.Lasts.with]
      have h3 : b.Lasts s3 := h2.takeStandby
      have h4 : b.Lasts s4 := by clear_value s3; grind [State.Lasts.with]
      clear_value s1 s2 s4
      split
      · exact h.answer _ _ _ _
      · split
        · exact h.refuse _ _
        · split
          · exact h.refuse _ _
          · split
            · exact (h1.startJob _ _).done _ _
            · split
              · exact (hr _ h4).done _ _
              · exact h2.done _ _

theorem State.Lasts.refuseDeferred (hb : b.Lasts s) : b.Lasts (s.refuseDeferred) := by
  grind [State.refuseDeferred, State.Lasts.final, State.Lasts.with, State.Lasts.foldl]

theorem State.Lasts.endJob (h : b.Lasts s) : b.Lasts s.endJob := by
  unfold State.endJob
  extract_lets live asks s1 s2 _ _ _ _ _ s3
  have h2 : b.Lasts s2 := (h.foldl (fun _ _ hx => hx.dropTask _) _).freePool
  have h3 : b.Lasts s3 := by grind [State.Lasts.with]
  exact ((h3.foldl (fun _ _ hx => hx.answer _ _ _ _) _).movesFree).portsSend

theorem State.Lasts.layerDue (hb : b.Lasts s) (c : Cmd) : b.Lasts (s.layerDue c) := by
  grind [State.layerDue, State.Lasts.final, State.Lasts.auditFor, State.Lasts.with]

theorem State.Lasts.setRecord (hb : b.Lasts s) (l hi lo v : Nat) : b.Lasts (s.setRecord l hi lo v) := by
  grind [State.setRecord, State.Lasts.with]

theorem State.Lasts.setNumerics (hb : b.Lasts s) (c : Cmd) : b.Lasts (s.setNumerics c) := by
  grind [State.setNumerics, State.Lasts.setRecord]

theorem State.Lasts.numericsDue (hb : b.Lasts s) (c : Cmd) : b.Lasts (s.numericsDue c) := by
  grind [State.numericsDue, State.Lasts.final, State.Lasts.setNumerics, State.Lasts.auditFor]

theorem State.Lasts.counterSet (hb : b.Lasts s) (c : Cmd) : b.Lasts (s.counterSet c) := by
  grind [State.counterSet, State.Lasts.countsNow, State.Lasts.with, State.Lasts.foldl]

theorem State.Lasts.changeDue (hb : b.Lasts s) (d : Deferred) : b.Lasts (s.changeDue d) := by
  grind [State.changeDue, State.Lasts.pageDue, State.Lasts.layerDue, State.Lasts.numericsDue, State.Lasts.counterSet,
    State.Lasts.final]

theorem State.Lasts.pointReached (hb : b.Lasts s) (kind value : Nat) : b.Lasts (s.pointReached kind value) := by
  grind [State.pointReached, State.Lasts.changeDue, State.Lasts.with, State.Lasts.foldl]

/-- A notice whose act keeps what must last. -/
theorem State.Lasts.withNotice (h : b.Lasts s) (code src : Nat) {act : Notice → List Byte → State → State}
    (ha : ∀ n bs s, b.Lasts s → b.Lasts (act n bs s)) : b.Lasts (s.withNotice code src act) := by
  grind [State.withNotice, State.Lasts.with, State.Lasts.count]

theorem State.Lasts.sendContent (hb : b.Lasts s) (n : Notice) (bs : List Byte) : b.Lasts (s.sendContent n bs) := by
  grind [State.sendContent, State.Lasts.sendStream, State.Lasts.sendNotice, State.Lasts.with]

theorem State.Lasts.descend (hb : b.Lasts s) (e : Nat) (spec : Bool) : b.Lasts (s.descend e spec) := by
  grind [State.descend, State.Lasts.auditWork, State.Lasts.setRecord, State.Lasts.with, State.Lasts.foldl]

theorem State.Lasts.epochStarts (hb : b.Lasts s) (e : Nat) (spec : Bool) : b.Lasts (s.epochStarts e spec) := by
  grind [State.epochStarts, State.Lasts.setNumerics, State.Lasts.descend, State.Lasts.pointReached, State.Lasts.with,
    State.Lasts.foldl]

theorem State.Lasts.specUndone (hb : b.Lasts s) : b.Lasts (s.specUndone) := by
  grind [State.specUndone, State.Lasts.with, State.Lasts.foldl]

theorem State.Lasts.startAttempt (hb : b.Lasts s) (a : Nat) (keep : Bool) : b.Lasts (s.startAttempt a keep) := by
  grind [State.startAttempt, State.Lasts.nanSeen, State.Lasts.startTask, State.Lasts.movesStart, State.Lasts.stepAbort,
    State.Lasts.pinRoutes, State.Lasts.with, State.Lasts.foldl]

theorem State.Lasts.dropSpec (hb : b.Lasts s) : b.Lasts (s.dropSpec) := by
  grind [State.dropSpec, State.Lasts.specUndone, State.Lasts.dropTask, State.Lasts.done, State.Lasts.with,
    State.Lasts.foldl]

theorem State.Lasts.applyNextAbort (hb : b.Lasts s) (cause : Nat) : b.Lasts (s.applyNextAbort cause) := by
  grind [State.applyNextAbort, State.Lasts.dropSpec, State.Lasts.audit, State.Lasts.with]

theorem State.Lasts.clearTags (hb : b.Lasts s) : b.Lasts (s.clearTags) := by
  grind [State.clearTags, State.Lasts.releaseWrites, State.Lasts.appendAudit, State.Lasts.with, State.Lasts.foldl]

theorem State.Lasts.cleanStep (hb : b.Lasts s) (l : Nat) : b.Lasts (s.cleanStep l) := by
  grind [State.cleanStep, State.Lasts.setRecord, State.Lasts.with]

theorem State.Lasts.writeBack (hb : b.Lasts s) (e : Nat) : b.Lasts (s.writeBack e) := by
  grind [State.writeBack, State.Lasts.writeRange, State.Lasts.with, State.Lasts.foldl]

theorem State.Lasts.meterStep (hb : b.Lasts s) (E : Nat) : b.Lasts (s.meterStep E) := by
  grind [State.meterStep, State.Lasts.with]

theorem State.Lasts.sendPage (hb : b.Lasts s) (p : Page) (e off : Nat) (bs : List Byte) : b.Lasts (s.sendPage p e off
    bs) := by
  grind [State.sendPage, State.Lasts.sendStream, State.Lasts.with]

theorem State.Lasts.writeFrame (hb : b.Lasts s) (n e off : Nat) (bs : List Byte) : b.Lasts (s.writeFrame n e off bs) :=
    by
  grind [State.writeFrame, State.Lasts.countClay, State.Lasts.countClay, State.Lasts.with, MemState.setPage_clay,
    MemState.write_wf]

theorem State.Lasts.writeFrames (h : b.Lasts s) (e : Nat) (both : Bool) (la : Nat) (bs : List Byte) :
    b.Lasts (s.writeFrames e both la bs).1 := by
  unfold State.writeFrames
  refine State.Lasts.foldl_of Prod.fst (fun x c hx => ?_) _ h
  grind [State.Lasts.sendPage, State.Lasts.writeFrame]

theorem State.Lasts.writeCurrent (h : b.Lasts s) (la : Nat) (bs : List Byte) : b.Lasts (s.writeCurrent la bs).1 :=
  h.writeFrames _ _ _ _

theorem State.Lasts.landDigest (h : b.Lasts s) (la : Nat) (bs : List Byte) : b.Lasts (s.landDigest la bs).2 := by
  grind [State.landDigest, State.Lasts.with]

theorem State.Lasts.permuteLands (h : b.Lasts s) (la : Nat) (bs : List Byte) : b.Lasts (s.permuteLands la bs).1 :=
  (h.landDigest la bs).writeCurrent _ _

theorem State.Lasts.startPermutation (h : b.Lasts s) : b.Lasts s.startPermutation := by
  unfold State.startPermutation
  refine State.Lasts.foldl (by grind [State.Lasts.with]) (fun v c hv => hv.foldl (fun v p hv => ?_) _) _
  grind [State.Lasts.permuteLands, State.Lasts.sendStream]

theorem State.Lasts.sendHold (hb : b.Lasts s) (why : Nat) : b.Lasts (s.sendHold why) := by
  grind [State.sendHold, State.Lasts.toAll, State.Lasts.with]

theorem State.Lasts.nextCauseNow (hb : b.Lasts s) : b.Lasts (s.nextCauseNow) := by
  grind [State.nextCauseNow, State.Lasts.nanSeen, State.Lasts.stepAbort, State.Lasts.with]

theorem State.Lasts.applyCommit (h : b.Lasts s) : b.Lasts s.applyCommit := by
  unfold State.applyCommit
  extract_lets E st hold s1 s2 nans numeric tasks s3 s4 lenders s5 aborts _ job _ _ _ _ s6 s7 s8 s9 s10 next s11 _ a s12
  have h2 : b.Lasts s2 := ((h.foldl (fun _ _ hx => hx.cleanStep _) _).meterStep _).writeBack _
  have h3 : b.Lasts s3 := by grind [State.Lasts.dropSpec]
  have h5 : b.Lasts s5 := h3.clearTags.foldl (fun _ _ hx => hx.sendNotice _) _
  have h6 : b.Lasts s6 := by clear_value s5; grind [State.Lasts.with]
  have h8 : b.Lasts s8 := (((h6.foldl (fun _ _ hx => hx.refuse _ _) _).pointReached _ _).pointReached _ _).postHeld
  have h10 : b.Lasts s10 := by
    have h9 : b.Lasts s9 := h8.toLeader _
    clear_value s9
    grind [State.Lasts.sendHold]
  have h11 : b.Lasts s11 := by clear_value s10; grind [State.Lasts.startPermutation]
  have h12 : b.Lasts s12 := by clear_value s10; grind [State.Lasts.epochStarts]
  clear_value s10 s11 s12
  split
  · split
    · exact State.Lasts.foldl (by grind [State.Lasts.with]) (fun _ _ hx => hx.setUnit _ _) _
    · exact h11
  · split
    · exact (h12.startAttempt _ _).nextCauseNow
    · exact h10.dropSpec

theorem State.Lasts.postCommitted (hb : b.Lasts s) : b.Lasts (s.postCommitted) := by
  grind [State.postCommitted, State.Lasts.reply, State.Lasts.with]

theorem State.Lasts.tryCommit (hb : b.Lasts s) : b.Lasts (s.tryCommit) := by
  grind [State.tryCommit, State.Lasts.toAll, State.Lasts.with]

theorem State.Lasts.stopSweeps (hb : b.Lasts s) : b.Lasts (s.stopSweeps) := by
  grind [State.stopSweeps, State.Lasts.answer, State.Lasts.with, State.Lasts.foldl]

theorem State.Lasts.stopJob (h : b.Lasts s) (cause : Nat) : b.Lasts (s.stopJob cause) := by
  unfold State.stopJob
  extract_lets rec_ asks commits s1 run reshard _ _ _ _ s2 s3 s4 s5 s6
  have h1 : b.Lasts s1 := h.audit _ _ _ _
  have h2 : b.Lasts s2 := by clear_value s1; grind [State.Lasts.with]
  have h3 : b.Lasts s3 := by clear_value s2; grind [State.Lasts.answer]
  have h4 : b.Lasts s4 := by clear_value s3; grind [State.Lasts.final]
  have h5 : b.Lasts s5 := h4.foldl (fun _ _ hx => hx.final _ _ _ _) _
  exact h5.stopSweeps.postHeld.foldl (fun _ _ hx => hx.done _ _) _

theorem State.Lasts.stopAs (hb : b.Lasts s) (cause arg : Nat) : b.Lasts (s.stopAs cause arg) := by
  grind [State.stopAs, State.Lasts.audit, State.Lasts.stopJob, State.Lasts.with]

theorem State.Lasts.tellStop (hb : b.Lasts s) (cause arg : Nat) : b.Lasts (s.tellStop cause arg) := by
  grind [State.tellStop, State.Lasts.sendNotice, State.Lasts.with, State.Lasts.foldl]

theorem State.Lasts.trySettle (hb : b.Lasts s) : b.Lasts (s.trySettle) := by
  grind [State.trySettle, State.Lasts.final, State.Lasts.tellStop, State.Lasts.stopAs, State.Lasts.toAll,
    State.Lasts.with]

theorem State.Lasts.tryAcked (hb : b.Lasts s) : b.Lasts (s.tryAcked) := by
  grind [State.tryAcked, State.Lasts.postCommitted, State.Lasts.final, State.Lasts.trySettle, State.Lasts.with,
    State.Lasts.foldl]

theorem State.Lasts.tryReplay (hb : b.Lasts s) : b.Lasts (s.tryReplay) := by
  grind [State.tryReplay, State.Lasts.tellStop, State.Lasts.stopAs, State.Lasts.sendContent, State.Lasts.with,
    State.Lasts.foldl]

theorem State.Lasts.sendStopped (hb : b.Lasts s) : b.Lasts (s.sendStopped) := by
  grind [State.sendStopped, State.Lasts.sendContent, State.Lasts.with]

theorem State.Lasts.askShard (h : b.Lasts s) (x : ShardDecl) (src : Option (Nat × Nat)) (e : Nat) :
    b.Lasts (s.askShard x src e) := by
  unfold State.askShard
  extract_lets c hd
  split
  · exact h.sendReads _ _ _ _
  · exact h.foldl (fun _ _ hx => hx.sendReads _ _ _ _) _

theorem State.Lasts.loseShard (hb : b.Lasts s) (h : ShardDecl) : b.Lasts (s.loseShard h) := by
  grind [State.loseShard, State.Lasts.faultNotice, State.Lasts.toLeader, State.Lasts.stepAbort, State.Lasts.with]

theorem State.Lasts.rehome (h : b.Lasts s) (x : ShardDecl) : b.Lasts (s.rehome x) := by
  have one (l : List Nat) (f : MemState → Nat → MemState) (hf : ∀ m n, (f m n).clay = m.clay) (m : MemState) :
      (l.foldl f m).clay = m.clay := by
    induction l generalizing m with
    | nil => rfl
    | cons n l ih => rw [List.foldl_cons, ih, hf]
  unfold State.rehome
  extract_lets f
  have hf := one ((chunksOf x.addr (shardLen x)).map Prod.fst) f (fun m n => by grind [MemState.setPage_clay]) s.mem
  grind [State.Lasts.with]

theorem State.Lasts.repairedFrom (hb : b.Lasts s) (h : ShardDecl) (src : Nat) : b.Lasts (s.repairedFrom h src) := by
  grind [State.repairedFrom, State.Lasts.faultNotice]

theorem State.Lasts.tryRepair (h : b.Lasts s) (l n k : Nat) : b.Lasts (s.tryRepair l n k) := by
  unfold State.tryRepair
  extract_lets _ s1
  have h1 : b.Lasts s1 := by grind [State.Lasts.with]
  clear_value s1
  split
  · exact h1
  · extract_lets gone s2 k'
    have h2 : b.Lasts s2 := by grind [State.Lasts.rehome]
    clear_value s2
    split
    · exact h2.repairedFrom _ _
    · split
      · exact State.Lasts.askShard (by grind [State.Lasts.with]) _ _ _
      · exact h2.loseShard _

theorem State.Lasts.repairsBegin (h : b.Lasts s) : b.Lasts s.repairsBegin :=
  State.Lasts.foldl (by grind [State.Lasts.with, MemState.restoreCopies_clay]) (fun _ _ hx => hx.tryRepair _ _ _) _

theorem State.Lasts.tryStopped (hb : b.Lasts s) : b.Lasts (s.tryStopped) := by
  grind [State.tryStopped, State.Lasts.sendStopped, State.Lasts.with]

theorem State.Lasts.applyAbort (hb : b.Lasts s) (cause : Nat) : b.Lasts (s.applyAbort cause) := by
  grind [State.applyAbort, State.Lasts.countNan, State.Lasts.dropSpec, State.Lasts.dropTask, State.Lasts.audit,
    State.Lasts.tryStopped, State.Lasts.repairsBegin, State.Lasts.with, State.Lasts.foldl]

theorem State.Lasts.poke (hb : b.Lasts s) (la : Nat) (bs : List Byte) : b.Lasts (s.poke la bs) := by
  grind [State.poke, State.Lasts.writeRange]

theorem State.Lasts.raiseSigma (hb : b.Lasts s) (t : TensorDecl) : b.Lasts (s.raiseSigma t) := by
  grind [State.raiseSigma, State.Lasts.poke, State.Lasts.count]

theorem State.Lasts.raiseBlock (hb : b.Lasts s) (t : TensorDecl) (block : Nat) : b.Lasts (s.raiseBlock t block) := by
  grind [State.raiseBlock, State.Lasts.poke, State.Lasts.count, State.Lasts.raiseSigma]

theorem State.Lasts.raiseTensor (hb : b.Lasts s) (t : TensorDecl) : b.Lasts (s.raiseTensor t) := by
  grind [State.raiseTensor, State.Lasts.raiseBlock, State.Lasts.raiseSigma, State.Lasts.foldl]

theorem State.Lasts.lowerLayer (hb : b.Lasts s) (d : LayerDecl) : b.Lasts (s.lowerLayer d) := by
  grind [State.lowerLayer, State.Lasts.poke, State.Lasts.count, State.Lasts.foldl]

theorem State.Lasts.applyLayer (h : b.Lasts s) (l : Nat) (p : OvfEntry → Bool) : b.Lasts (s.applyLayer l p) := by
  unfold State.applyLayer
  extract_lets pick es lost s'
  have h' : b.Lasts s' := by
    simp only [s']
    split
    · exact h
    · split
      · refine State.Lasts.foldl (h.foldl (fun v k hv => ?_) _) (fun v x hv => ?_) _
        · grind [State.Lasts.raiseBlock, State.Lasts.raiseSigma]
        · grind [State.Lasts.raiseTensor]
      · exact h
  clear_value s'
  grind [State.Lasts.with]

theorem State.Lasts.applyAtSeal (hb : b.Lasts s) (l : Nat) : b.Lasts (s.applyAtSeal l) := by
  grind [State.applyAtSeal, State.Lasts.applyLayer, State.Lasts.lowerLayer, State.Lasts.with]

theorem State.Lasts.applyAtAbort (hb : b.Lasts s) : b.Lasts (s.applyAtAbort) := by
  grind [State.applyAtAbort, State.Lasts.applyLayer, State.Lasts.foldl]

theorem State.Lasts.riseLayer (hb : b.Lasts s) (cause l : Nat) : b.Lasts (s.riseLayer cause l) := by
  grind [State.riseLayer, State.Lasts.setRecord, State.Lasts.audit]

theorem State.Lasts.enterOvf (hb : b.Lasts s) (e : OvfEntry) : b.Lasts (s.enterOvf e) := by
  grind [State.enterOvf, State.Lasts.count, State.Lasts.with]

theorem State.Lasts.ovfPolicy (hb : b.Lasts s) (e : OvfEntry) : b.Lasts (s.ovfPolicy e) := by
  grind [State.ovfPolicy, State.Lasts.auditWork, State.Lasts.count, State.Lasts.passFc, State.Lasts.specCause,
    State.Lasts.stepAbort, State.Lasts.with]

theorem State.Lasts.takeLimited (h : b.Lasts s) {o : OvfIn} {v : State} (e : s.takeLimited o = some v) : b.Lasts v := by
  grind [State.takeLimited, State.Lasts.with, State.Lasts.runTo, State.Lasts.modTile]

theorem State.Lasts.dropHandles (hb : b.Lasts s) (r : Nat) (a b_ : HandleIn) : b.Lasts (s.dropHandles r a b_) := by
  grind [State.dropHandles, State.Lasts.setRing, State.Lasts.with]

theorem State.Lasts.compared (hb : b.Lasts s) (r : Nat) (a b_ : HandleIn) : b.Lasts (s.compared r a b_) := by
  grind [State.compared, State.Lasts.dropHandles, State.Lasts.toFc, State.Lasts.with]

theorem State.Lasts.pairPasses (hb : b.Lasts s) (l : Nat) (spec : Bool) : b.Lasts (s.pairPasses l spec) := by
  grind [State.pairPasses, State.Lasts.passFc, State.Lasts.with]

theorem State.Lasts.pairFailed (hb : b.Lasts s) (l output : Nat) (N W : Val) (spec : Bool) : b.Lasts (s.pairFailed l
    output N W spec) := by
  grind [State.pairFailed, State.Lasts.countSource, State.Lasts.auditWork, State.Lasts.passFc, State.Lasts.specCause,
    State.Lasts.setRecord, State.Lasts.stepAbort, State.Lasts.with]

theorem State.Lasts.rescaleTensor (h : b.Lasts s) (f : Fmt) (t : TensorDecl) : b.Lasts (s.rescaleTensor f t).1 := by
  unfold State.rescaleTensor
  extract_lets src bs vs sig s1
  have h1 : b.Lasts s1 := by grind [State.Lasts.poke]
  clear_value s1
  split
  · exact h1
  · exact State.Lasts.foldl_of (β := State × Nat) Prod.fst (fun _ _ hx => hx.poke _ _) _ h1

end Sys2Proof.Machine
end


section
/-! SUPPORT. What must last, over boundaries, the update units, the hops of a gradient and the arrival of frames. -/

namespace Sys2Proof.Machine

variable {b s : State}

theorem State.Lasts.cancelReshard (hb : b.Lasts s) : b.Lasts (s.cancelReshard) := by
  grind [State.cancelReshard, State.Lasts.answer, State.Lasts.final, State.Lasts.with]

theorem State.Lasts.settleJob (hb : b.Lasts s) : b.Lasts (s.settleJob) := by
  grind [State.settleJob, State.Lasts.changeDue, State.Lasts.refuseDeferred, State.Lasts.cancelReshard,
    State.Lasts.with, State.Lasts.foldl]

theorem State.Lasts.finishJob (hb : b.Lasts s) (c : Cmd) : b.Lasts (s.finishJob c) := by
  grind [State.finishJob, State.Lasts.settleJob, State.Lasts.auditFor, State.Lasts.endJob, State.Lasts.done]

theorem State.Lasts.boundaryDone (hb : b.Lasts s) : b.Lasts (s.boundaryDone) := by
  grind [State.boundaryDone, State.Lasts.toLeader, State.Lasts.with]

theorem State.Lasts.pauseEnds (hb : b.Lasts s) : b.Lasts (s.pauseEnds) := by
  grind [State.pauseEnds, State.Lasts.tryStopped, State.Lasts.boundaryDone]

theorem State.Lasts.keep (hb : b.Lasts s) (a : Ask) : b.Lasts (s.keep a) := by
  grind [State.keep, State.Lasts.setAux, State.Lasts.with]

theorem State.Lasts.taskHold (hb : b.Lasts s) : b.Lasts (s.taskHold) := by
  grind [State.taskHold, State.Lasts.toSc]

theorem State.Lasts.runStart (hb : b.Lasts s) (c : Cmd) : b.Lasts (s.runStart c) := by
  grind [State.runStart, State.Lasts.auditFor, State.Lasts.setRecord, State.Lasts.epochStarts, State.Lasts.startAttempt,
    State.Lasts.keep, State.Lasts.with, State.Lasts.foldl]

theorem State.Lasts.holdSentFor (hb : b.Lasts s) (E : Nat) : b.Lasts (s.holdSentFor E) := by
  grind [State.holdSentFor, State.Lasts.with]

theorem State.Lasts.holdEnds (h : b.Lasts s) : b.Lasts s.holdEnds := by
  unfold State.holdEnds
  extract_lets d mean s1
  have h1 : b.Lasts s1 := h.foldl (fun v u hv => by grind [State.Lasts.setUnit]) _
  split
  · exact h1.with id id id rfl rfl rfl
  · exact h

theorem State.Lasts.reshardEnds (hb : b.Lasts s) : b.Lasts (s.reshardEnds) := by
  grind [State.reshardEnds, State.Lasts.takeStandby, State.Lasts.audit, State.Lasts.with]

theorem State.Lasts.applySettled (h : b.Lasts s) (n : Notice) : b.Lasts (s.applySettled n) := by
  unfold State.applySettled
  extract_lets _ s1 s2 s3 s4
  have h1 : b.Lasts s1 := h.with id id id rfl rfl rfl
  have h3 : b.Lasts s3 := by
    have h2 : b.Lasts s2 := h1.holdEnds.reshardEnds
    clear_value s2
    grind [State.Lasts.postCommitted]
  have h4 : b.Lasts s4 := h3.audit _ _ _ _
  clear_value s3 s4
  split
  · exact h3
  · split
    · exact State.Lasts.done (h4.with id id id rfl rfl rfl) _ _
    · split
      · exact (h3.epochStarts _ _).startAttempt _ _
      · exact h3

theorem State.Lasts.applyReplay (h : b.Lasts s) (bs : List Byte) : b.Lasts (s.applyReplay bs) := by
  unfold State.applyReplay
  extract_lets c x s1 s2 s3 num tasks s4 s5 _ _ s6
  have h3 : b.Lasts s3 := (h.applyAtAbort.foldl (fun _ _ hx => hx.riseLayer _ _) _).foldl (fun _ _ hx => hx.riseLayer _ _) _
  have h4 : b.Lasts s4 := by clear_value s3; grind [State.Lasts.countSource]
  have h5 : b.Lasts s5 := by clear_value s4; grind [State.Lasts.reply]
  exact State.Lasts.startAttempt (h5.with id id id rfl rfl rfl) _ _

theorem State.Lasts.tryPermuted (hb : b.Lasts s) : b.Lasts (s.tryPermuted) := by
  grind [State.tryPermuted, State.Lasts.trySettle, State.Lasts.toAll, State.Lasts.answer, State.Lasts.with]

theorem State.Lasts.startSpec (hb : b.Lasts s) (d : TaskDecl) : b.Lasts (s.startSpec d) := by
  grind [State.startSpec, State.Lasts.epochStarts, State.Lasts.startTask, State.Lasts.with]

theorem State.Lasts.setPort (hb : b.Lasts s) (n : Nat) (p : Port) : b.Lasts (s.setPort n p) := by
  grind [State.setPort, State.Lasts.with]

theorem State.Lasts.remapLane (hb : b.Lasts s) (n lane spare : Nat) : b.Lasts (s.remapLane n lane spare) := by
  grind [State.remapLane, State.Lasts.setPort, State.Lasts.with]

theorem State.Lasts.narrowLanes (hb : b.Lasts s) (n : Nat) : b.Lasts (s.narrowLanes n) := by
  grind [State.narrowLanes, State.Lasts.setPort, State.Lasts.with]

theorem State.Lasts.enterDegraded (hb : b.Lasts s) : b.Lasts (s.enterDegraded) := by
  grind [State.enterDegraded, State.Lasts.with]

theorem State.Lasts.classChanged (hb : b.Lasts s) : b.Lasts (s.classChanged) := by
  grind [State.classChanged, State.Lasts.reply, State.Lasts.with]

theorem State.Lasts.linkNarrowed (hb : b.Lasts s) (what : Nat) : b.Lasts (s.linkNarrowed what) := by
  grind [State.linkNarrowed, State.Lasts.faultNotice]

theorem State.Lasts.pushBoundary (hb : b.Lasts s) (b_ : BoundaryItem) : b.Lasts (s.pushBoundary b_) := by
  grind [State.pushBoundary, State.Lasts.with]

theorem State.Lasts.narrowPort (hb : b.Lasts s) (n : Nat) : b.Lasts (s.narrowPort n) := by
  grind [State.narrowPort, State.Lasts.narrowLanes, State.Lasts.enterDegraded, State.Lasts.linkNarrowed,
    State.Lasts.classChanged]

theorem State.Lasts.portNarrowed (hb : b.Lasts s) (n : Nat) : b.Lasts (s.portNarrowed n) := by
  grind [State.portNarrowed, State.Lasts.narrowLanes, State.Lasts.pushBoundary, State.Lasts.narrowPort]

theorem State.Lasts.narrowLink (hb : b.Lasts s) (a b_ : Nat) : b.Lasts (s.narrowLink a b_) := by
  grind [State.narrowLink, State.Lasts.enterDegraded, State.Lasts.linkNarrowed, State.Lasts.classChanged,
    State.Lasts.with]

theorem State.Lasts.stopAtNext (hb : b.Lasts s) : b.Lasts (s.stopAtNext) := by
  grind [State.stopAtNext, State.Lasts.pushBoundary, State.Lasts.with]

theorem State.Lasts.loseUnit (hb : b.Lasts s) (kind shown die num : Nat) : b.Lasts (s.loseUnit kind shown die num) := by
  grind [State.loseUnit, State.Lasts.setUnit, State.Lasts.faultNotice, State.Lasts.stopAtNext, State.Lasts.with]

theorem State.Lasts.backfillTile (hb : b.Lasts s) (id : TileId) : b.Lasts (s.backfillTile id) := by
  grind [State.backfillTile, State.Lasts.modTile, State.Lasts.faultNotice, State.Lasts.loseUnit, State.Lasts.with]

theorem State.Lasts.backfillTilth (hb : b.Lasts s) (die unit : Nat) : b.Lasts (s.backfillTilth die unit) := by
  grind [State.backfillTilth, State.Lasts.faultNotice, State.Lasts.loseUnit, State.Lasts.with]

theorem State.Lasts.backfillCore (hb : b.Lasts s) (core : Nat) : b.Lasts (s.backfillCore core) := by
  grind [State.backfillCore, State.Lasts.with]

theorem State.Lasts.drawBytes (h : b.Lasts s) (n : Nat) : b.Lasts (s.drawBytes n).2 :=
  h.with id id id rfl rfl rfl

theorem State.Lasts.remapRow (h : b.Lasts s) (id : TileId) (row : Nat) : b.Lasts (s.remapRow id row) := by
  unfold State.remapRow
  extract_lets used
  split
  · exact (h.drawBytes 64).modTile _ _
  · exact h.backfillTile _

theorem State.Lasts.remapPort (hb : b.Lasts s) (die lane : Nat) : b.Lasts (s.remapPort die lane) := by
  grind [State.remapPort, State.Lasts.remapLane, State.Lasts.with]

theorem State.Lasts.switchChannel (hb : b.Lasts s) (stack channel : Nat) : b.Lasts (s.switchChannel stack channel) := by
  grind [State.switchChannel, State.Lasts.faultNotice, State.Lasts.with]

theorem State.Lasts.doBoundary (h : b.Lasts s) (x : BoundaryItem) : b.Lasts (s.doBoundary x) := by
  cases x <;> grind [State.doBoundary, State.Lasts.remapPort, State.Lasts.with, State.Lasts.narrowPort, State.Lasts.narrowLink,
    State.Lasts.switchChannel, State.Lasts.remapRow, State.Lasts.backfillTile, State.Lasts.backfillTilth,
    State.Lasts.backfillCore]

theorem State.Lasts.doItems (hb : b.Lasts s) (p : BoundaryItem → Bool) : b.Lasts (s.doItems p) := by
  grind [State.doItems, State.Lasts.keep, State.Lasts.doBoundary, State.Lasts.passFc, State.Lasts.with,
    State.Lasts.foldl]

theorem State.Lasts.doBoundaries (hb : b.Lasts s) : b.Lasts (s.doBoundaries) := by
  grind [State.doBoundaries, State.Lasts.doItems]

theorem State.Lasts.unitReads (h : b.Lasts s) (die e task : Nat) (rs : List (Nat × Nat)) : b.Lasts (s.unitReads die e
    task rs) :=
  h.foldl (fun _ _ hx => by grind [State.Lasts.sendReads, State.Lasts.countClay]) _

theorem State.Lasts.storeNext (h : b.Lasts s) {die e task la : Nat} {bs : List Byte} {v : State}
    (ev : s.storeNext die e task la bs = .ok v) : b.Lasts v := by
  have hw := fun w => h.writeRange w la bs
  grind [State.storeNext]

theorem State.Lasts.drewGrit (hb : b.Lasts s) : b.Lasts (s.drewGrit) := by
  grind [State.drewGrit, State.Lasts.with]

/-- A computation that may stop and did not. -/
theorem Except.ok_of_bind {ε α β : Type} {x : Except ε α} {f : α → Except ε β} {o : β} (e : x >>= f = .ok o) :
    ∃ a, x = .ok a ∧ f a = .ok o := by
  cases x with
  | error _ => cases e
  | ok a => exact ⟨a, rfl, e⟩

theorem State.Lasts.foldRecord (h : b.Lasts s) {k : TilthWork} {x : SliceDecl} {r : BucketRecord} {st : SliceState} {o :
    TilthOut}
    (e : s.foldRecord k x r st = .ok o) : b.Lasts o.state := by
  unfold State.foldRecord at e
  obtain ⟨mask, -, e⟩ := Except.ok_of_bind e
  obtain ⟨ms, -, e⟩ := Except.ok_of_bind e
  obtain ⟨ws, -, e⟩ := Except.ok_of_bind e
  extract_lets s1 once s2 rest at e
  have hr : ∀ stats, rest stats = .ok o → b.Lasts o.state := by
    intro stats e
    simp only [rest] at e
    split at e
    · cases e
    · obtain ⟨v, hv, e⟩ := Except.ok_of_bind e
      cases e
      exact ((h.drewGrit.countSource _ _ _ _ _ _ _).unitReads _ _ _ _).storeNext hv
  clear_value rest
  split at e
  · obtain ⟨stats, -, e⟩ := Except.ok_of_bind e
    exact hr _ e
  · exact hr _ e

theorem State.Lasts.closeSlice (h : b.Lasts s) {k : TilthWork} {x : SliceDecl} {st : SliceState} {o : TilthOut}
    (e : s.closeSlice k x st = .ok o) : b.Lasts o.state := by
  unfold State.closeSlice at e
  split at e
  · cases e; exact h
  · obtain ⟨mask, -, e⟩ := Except.ok_of_bind e
    obtain ⟨bs, -, e⟩ := Except.ok_of_bind e
    dsimp only at e
    split at e
    · obtain ⟨v, hv, e⟩ := Except.ok_of_bind e
      cases e
      exact h.drewGrit.storeNext hv
    · cases e

theorem State.Lasts.sweepSlice (h : b.Lasts s) {k : TilthWork} {x : SliceDecl} {st : SliceState} {o : TilthOut}
    (e : s.sweepSlice k x st = .ok o) : b.Lasts o.state := by
  unfold State.sweepSlice at e
  obtain ⟨mask, -, e⟩ := Except.ok_of_bind e
  obtain ⟨ws, -, e⟩ := Except.ok_of_bind e
  obtain ⟨ms, -, e⟩ := Except.ok_of_bind e
  dsimp only at e
  split at e
  · cases e
  · obtain ⟨v, hv, e⟩ := Except.ok_of_bind e
    cases e
    refine State.Lasts.storeNext (((State.Lasts.countSource ?_ _ _ _ _ _ _ _).unitReads _ _ _ _).unitReads _ _ _ _) hv
    exact h.with id id id rfl rfl rfl

theorem State.Lasts.tilthStops (h : b.Lasts s) (l die unit : Nat) (e : TilthStop) : b.Lasts (s.tilthStops l die unit e)
    := by
  cases e <;> grind [State.tilthStops, State.Lasts.taskCause, State.Lasts.poisonNotice]

theorem State.Lasts.noteLimited (hb : b.Lasts s) (l : Nat) (m : Map Nat) : b.Lasts (s.noteLimited l m) := by
  grind [State.noteLimited, State.Lasts.with]

theorem State.Lasts.takeOut {o : TilthOut} (h : b.Lasts o.state) (i : Nat) (x : SliceDecl) : b.Lasts (State.takeOut i x
    o) :=
  h.with id id id rfl rfl rfl

theorem State.Lasts.unitAct (h : b.Lasts s) (i : Nat) (x : SliceDecl) {r : Except TilthStop TilthOut}
    (hr : ∀ o, r = .ok o → b.Lasts o.state) : b.Lasts (s.unitAct i x r) := by
  cases r with
  | ok o => exact ((hr o rfl).takeOut i x).noteLimited _ _
  | error e => exact h.tilthStops _ _ _ e

theorem State.Lasts.openLent (hb : b.Lasts s) (src : Nat) : b.Lasts (s.openLent src) := by
  grind [State.openLent, State.Lasts.with]

theorem State.Lasts.seeOwner (hb : b.Lasts s) (src e : Nat) : b.Lasts (s.seeOwner src e) := by
  grind [State.seeOwner, State.Lasts.openLent, State.Lasts.with]

theorem State.Lasts.lentBegins (hb : b.Lasts s) (src tag : Nat) : b.Lasts (s.lentBegins src tag) := by
  grind [State.lentBegins, State.Lasts.openLent, State.Lasts.with]

theorem State.Lasts.ownerJob (hb : b.Lasts s) (src job : Nat) : b.Lasts (s.ownerJob src job) := by
  grind [State.ownerJob, State.Lasts.with]

theorem State.Lasts.lentFold (h : b.Lasts s) (src e : Nat) (l : LentLayer) (r : BucketRecord) : b.Lasts (s.lentFold src
    e l r) := by
  unfold State.lentFold
  dsimp only
  split
  · exact h
  · split
    · next o => exact (h.foldRecord o).takeOut _ _
    · exact h

theorem State.Lasts.lentSlice (h : b.Lasts s) {k : TilthWork} {key : Nat} {x : SliceDecl} {o : TilthOut}
    (e : s.lentSlice k key x = .ok o) : b.Lasts o.state := by
  unfold State.lentSlice at e
  extract_lets rest at e
  have hr : ∀ inv, rest inv = .ok o → b.Lasts o.state := by
    intro inv e
    obtain ⟨c, hc, e⟩ := Except.ok_of_bind e
    obtain ⟨v, hv, e⟩ := Except.ok_of_bind e
    cases e
    exact (h.closeSlice hc).sweepSlice (o := v) hv
  clear_value rest
  split at e
  · obtain ⟨inv, -, e⟩ := Except.ok_of_bind e
    exact hr _ e
  · exact hr _ e

theorem MemState.foldl_clay {f : MemState → Nat → MemState} (hf : ∀ m n, (f m n).clay = m.clay) (l : List Nat) (m :
    MemState) :
    (l.foldl f m).clay = m.clay := by
  induction l generalizing m with
  | nil => rfl
  | cons n l ih => rw [List.foldl_cons, ih, hf]

theorem State.Lasts.sealRanges (h : b.Lasts s) (rs : List (Nat × Nat)) : b.Lasts (s.sealRanges rs) := by
  unfold State.sealRanges
  extract_lets pages sealOne
  have hc := MemState.foldl_clay (f := sealOne) (fun m n => by grind [MemState.setPage_clay]) pages s.mem
  exact h.with (by rw [hc]; exact id) id id rfl rfl rfl

theorem State.Lasts.lentSweep (h : b.Lasts s) (src e job : Nat) (l : LentLayer) : b.Lasts (s.lentSweep src e job l) :=
    by
  unfold State.lentSweep
  extract_lets k tag s1 s2 bytes
  have h1 : b.Lasts s1 := by
    refine h.foldl (fun v p hv => ?_) _
    dsimp only
    split
    · next o => exact (hv.lentSlice o).takeOut _ _
    · exact hv
  split
  · exact (h1.sealRanges _).foldl (fun _ _ hx => hx.sendStream _ _) _
  · exact h1

theorem State.Lasts.rowUpdate (h : b.Lasts s) {k : TilthWork} {t : SparseDecl} {row : Nat} {r : BucketRecord} {o : State
    × FlagByte}
    (e : s.rowUpdate k t row r = .ok o) : b.Lasts o.1 := by
  unfold State.rowUpdate at e
  obtain ⟨slot, -, e⟩ := Except.ok_of_bind e
  obtain ⟨⟨w, m, q⟩, -, e⟩ := Except.ok_of_bind e
  dsimp only at e
  split at e
  · split at e
    · cases e
    · obtain ⟨v, hv, e⟩ := Except.ok_of_bind e
      cases e
      have h1 := State.Lasts.storeNext (State.Lasts.unitReads (h.with id id id rfl rfl rfl) _ _ _ _) hv
      exact State.Lasts.noteLimited (h1.with id id id rfl rfl rfl) _ _
  · cases e
  · cases e

theorem State.Lasts.setBucketSum (hb : b.Lasts s) (spec : Bool) (i : Nat) (b_ : BucketSum) : b.Lasts (s.setBucketSum
    spec i b_) := by
  grind [State.setBucketSum, State.Lasts.with]

theorem State.Lasts.overCount (hb : b.Lasts s) (spec : Bool) : b.Lasts (s.overCount spec) := by
  grind [State.overCount, State.Lasts.specCause, State.Lasts.stepAbort]

theorem State.Lasts.hopStops (hb : b.Lasts s) (l : Nat) (f : MemFault) : b.Lasts (s.hopStops l f) := by
  grind [State.hopStops, State.Lasts.taskCause, State.Lasts.poisonNotice, State.Lasts.with]

theorem State.Lasts.noteHop (hb : b.Lasts s) (o : HopOut) (spec : Bool) : b.Lasts (s.noteHop o spec) := by
  grind [State.noteHop, State.Lasts.nanSeen, State.Lasts.with]

theorem State.Lasts.setInlet (hb : b.Lasts s) (i : Nat) (l : List BucketRecord) : b.Lasts (s.setInlet i l) := by
  grind [State.setInlet, State.Lasts.with]

theorem State.Lasts.setArrivals (hb : b.Lasts s) (i : Nat) (l : List BucketRecord) : b.Lasts (s.setArrivals i l) := by
  grind [State.setArrivals, State.Lasts.with]

theorem State.Lasts.of_fst {α : Type} {p : State × α} {v : State} {a : α} (h : b.Lasts p.1) (e : p = (v, a)) : b.Lasts v
    := by
  subst e
  exact h

theorem State.Lasts.hopInto (h : b.Lasts s) (i : Nat) (d : BucketDecl) (spec : Bool) (first : BucketRecord)
    (rest : List BucketRecord) : b.Lasts (s.hopInto i d spec first rest) := by
  have h1 : b.Lasts (State.countSource 2 4 0 0x0301 d.engine 1 spec (s.drawBelow 256).2) :=
    (h.drawBelow 256).countSource _ _ _ _ _ _ _
  have hw := fun w bs => h1.writeRange w d.buffer bs
  unfold State.hopInto
  dsimp only
  split
  · exact h1.overCount _
  · split
    · exact (h1.setBucketSum _ _ _).noteHop _ _
    · split
      · next e =>
        exact ((hw _ _).of_fst e).hopStops _ _
      · next e =>
        exact (((hw _ _).of_fst e).setBucketSum _ _ _).noteHop _ _

theorem State.Lasts.localHop (hb : b.Lasts s) (i : Nat) (d : BucketDecl) (n tag : Nat) (spec : Bool) : b.Lasts
    (s.localHop i d n tag spec) := by
  grind [State.localHop, State.Lasts.setInlet, State.Lasts.overCount, State.Lasts.hopInto, State.Lasts.hopStops,
    State.Lasts.with]

theorem State.Lasts.deliverFinal (hb : b.Lasts s) (d : BucketDecl) (r : BucketRecord) : b.Lasts (s.deliverFinal d r) :=
    by
  grind [State.deliverFinal, State.Lasts.sendStream, State.Lasts.count, State.Lasts.tilthStops, State.Lasts.stepAbort,
    State.Lasts.with]

theorem State.Lasts.sendRecord (hb : b.Lasts s) (c : CollDecl) (dst : Nat) (r : BucketRecord) : b.Lasts (s.sendRecord c
    dst r) := by
  grind [State.sendRecord, State.Lasts.sendStream, State.Lasts.with]

theorem State.Lasts.advanceBucket (h : b.Lasts s) (i : Nat) (d : BucketDecl) : b.Lasts (s.advanceBucket i d) := by
  unfold State.advanceBucket
  extract_lets x c s1 all
  have h1 : b.Lasts s1 := h.setBucketSum _ _ _
  clear_value s1
  split
  · dsimp only
    split
    · exact h
    · split
      · exact h1.sendRecord _ _ _
      · have h2 := fun r (c : Option CollDecl) => h1.elim c
          (f := fun c : CollDecl => List.foldl (fun (s : State) p => s.sendRecord c p r) s1 (c.members.filter (· != s1.fab.coord)))
          (fun _ => h1.foldl (fun _ _ hx => hx.sendRecord _ _ _) _)
        split
        · exact h2 _ _
        · split
          · exact h2 _ _
          · exact (h2 _ _).deliverFinal _ _
  · exact h

theorem State.Lasts.reduceHop (hb : b.Lasts s) (i : Nat) (d : BucketDecl) (n tag : Nat) : b.Lasts (s.reduceHop i d n
    tag) := by
  grind [State.reduceHop, State.Lasts.setArrivals, State.Lasts.setBucketSum, State.Lasts.overCount,
    State.Lasts.drawBelow, State.Lasts.countSource, State.Lasts.noteHop, State.Lasts.with]

theorem State.Lasts.setRowSum (hb : b.Lasts s) (l row : Nat) (spec : Bool) (r : Option BucketRecord) : b.Lasts
    (s.setRowSum l row spec r) := by
  grind [State.setRowSum, State.Lasts.with]

theorem State.Lasts.rowHop (h : b.Lasts s) (t : SparseDecl) (spec : Bool) (rs : List BucketRecord) : b.Lasts (s.rowHop t
    spec rs) := by
  cases rs with
  | nil => exact h
  | cons r rest => exact ((h.drawBelow 256).setRowSum _ _ _ _).noteHop _ _

theorem State.Lasts.passRows (hb : b.Lasts s) (t : SparseDecl) : b.Lasts (s.passRows t) := by
  grind [State.passRows, State.Lasts.setRowSum, State.Lasts.sendRecord, State.Lasts.foldl]

theorem State.Lasts.gatherHop (hb : b.Lasts s) (i : Nat) (t : SparseDecl) (n : Nat) : b.Lasts (s.gatherHop i t n) := by
  grind [State.gatherHop, State.Lasts.setInlet, State.Lasts.setArrivals, State.Lasts.rowHop, State.Lasts.foldl]

theorem State.Lasts.noteComplete (hb : b.Lasts s) (l : Nat) : b.Lasts (s.noteComplete l) := by
  grind [State.noteComplete, State.Lasts.with]

theorem State.Lasts.foldBegins (hb : b.Lasts s) : b.Lasts (s.foldBegins) := by
  grind [State.foldBegins, State.Lasts.pointReached, State.Lasts.foldl]

theorem State.Lasts.sweepRows (h : b.Lasts s) (layer : Nat) : b.Lasts (s.sweepRows layer) := by
  unfold State.sweepRows
  refine h.foldl (fun v t hv => hv.foldl (fun v x hv => ?_) _) _
  split
  · next v' f e =>
    have hv' : b.Lasts v' := hv.rowUpdate e
    exact State.Lasts.with (hv'.setRowSum _ _ _ _) id id id rfl rfl rfl
  · exact hv.tilthStops _ _ _ _

theorem State.Lasts.sweepEnds (hb : b.Lasts s) (layer : Nat) : b.Lasts (s.sweepEnds layer) := by
  grind [State.sweepEnds, State.Lasts.tilthStops, State.Lasts.with, State.Lasts.foldl]

theorem State.Lasts.noteSealed (hb : b.Lasts s) (l : Nat) : b.Lasts (s.noteSealed l) := by
  grind [State.noteSealed, State.Lasts.with]

theorem State.Lasts.gatherShard (hb : b.Lasts s) (h : ShardDecl) : b.Lasts (s.gatherShard h) := by
  grind [State.gatherShard, State.Lasts.sendStream, State.Lasts.with, State.Lasts.foldl]

theorem State.Lasts.sweepAnswered (hb : b.Lasts s) (l : Nat) : b.Lasts (s.sweepAnswered l) := by
  grind [State.sweepAnswered, State.Lasts.done, State.Lasts.with, State.Lasts.foldl]

theorem State.Lasts.shardArrived (hb : b.Lasts s) (h : ShardDecl) (d : BitVec 64) : b.Lasts (s.shardArrived h d) := by
  grind [State.shardArrived, State.Lasts.sealRanges, State.Lasts.noteSealed, State.Lasts.with]

theorem State.Lasts.shardMismatch (hb : b.Lasts s) (h : ShardDecl) : b.Lasts (s.shardMismatch h) := by
  grind [State.shardMismatch, State.Lasts.taskCause, State.Lasts.askShard, State.Lasts.with]

theorem State.Lasts.repairCheck (hb : b.Lasts s) (h : ShardDecl) (k : Nat) : b.Lasts (s.repairCheck h k) := by
  grind [State.repairCheck, State.Lasts.repairedFrom, State.Lasts.tryStopped, State.Lasts.tryRepair, State.Lasts.with]

theorem State.Lasts.takeFlits (hb : b.Lasts s) (port : Nat) (f : Frame) : b.Lasts (s.takeFlits port f) := by
  grind [State.takeFlits, State.Lasts.setPort, State.Lasts.countSource, State.Lasts.with]

theorem State.Lasts.errorReply (hb : b.Lasts s) (f : Frame) (code : Nat) : b.Lasts (s.errorReply f code) := by
  grind [State.errorReply, State.Lasts.sendHeader, State.Lasts.with]

theorem State.Lasts.refuseFrame (hb : b.Lasts s) (f : Frame) : b.Lasts (s.refuseFrame f) := by
  grind [State.refuseFrame, State.Lasts.count, State.Lasts.errorReply]

theorem State.Lasts.answers (hb : b.Lasts s) (src : Nat) : b.Lasts (s.answers src) := by
  grind [State.answers, State.Lasts.with]

/-- A frame's arrival whose act keeps what must last. -/
theorem State.Lasts.arrive (h : b.Lasts s) (port kind : Nat) (f : Frame) {act : Work → Bool → State → State}
    (ha : ∀ w l s, b.Lasts s → b.Lasts (act w l s)) : b.Lasts (s.arrive port kind f act) := by
  have h1 : b.Lasts ((s.takeFlits port f).answers f.src) := (h.takeFlits _ _).answers _
  unfold State.arrive
  dsimp only
  split
  · exact h
  · split
    · exact h1.sendFrame _ _
    · exact h1.count _ _ _
    · exact h1.refuseFrame _
    · exact ha _ _ _ h1

theorem State.Lasts.gatherStream (h : b.Lasts s) (key : Nat) (f : Frame) : b.Lasts (s.gatherStream key f).2 := by
  unfold State.gatherStream
  dsimp only
  split <;> exact h.with id id id rfl rfl rfl

theorem State.Lasts.stalePieces (hb : b.Lasts s) : b.Lasts (s.stalePieces) := by
  grind [State.stalePieces, State.Lasts.with]

theorem State.Lasts.lentPage (h : b.Lasts s) {src page : Nat} {theirs : Option Nat} {v : State}
    (e : s.lentPage src page theirs = some v) : b.Lasts v := by
  unfold State.lentPage at e
  dsimp only at e
  split at e
  · split at e
    · cases e
      refine h.with ?_ id id rfl rfl rfl
      cases theirs <;> exact id
    · cases e
  · split at e
    · cases e
      refine (h.drawBelow (2 ^ 27)).with (fun hm => ?_) id id rfl rfl rfl
      rw [MemState.setPage_clay]
      exact MemState.clearFrame_wf hm _
    · cases e

/-- A loop that may stop and did not. -/
theorem State.Lasts.foldl_bind {α : Type} {f : α → State → Option State} (hf : ∀ a s v, b.Lasts s → f a s = some v →
    b.Lasts v)
    (l : List α) {o : Option State} (ho : ∀ v, o = some v → b.Lasts v) {v : State}
    (e : l.foldl (fun o a => o.bind (f a)) o = some v) : b.Lasts v := by
  induction l generalizing o with
  | nil => exact ho v e
  | cons a l ih =>
    refine ih (fun w hw => ?_) e
    obtain ⟨u, hu, hw⟩ := Option.bind_eq_some_iff.mp hw
    exact hf a u w (ho u hu) hw

theorem State.Lasts.lentRange (h : b.Lasts s) {src la n : Nat} {to_ : Option Nat} {v : State}
    (e : s.lentRange src la n to_ = some v) : b.Lasts v :=
  State.Lasts.foldl_bind (fun _ _ _ hx e => hx.lentPage e) _ (fun _ e => Option.some.inj e ▸ h) e

theorem State.Lasts.bankPage (h : b.Lasts s) {src e page : Nat} {theirs : Option Nat} {v : State}
    (ev : s.bankPage src e page theirs = some v) : b.Lasts v := by
  obtain ⟨u, hu, ev⟩ := Option.bind_eq_some_iff.mp ev
  have h1 : b.Lasts u := h.lentPage hu
  dsimp only at ev
  split at ev
  · cases ev; exact h1
  · split at ev
    · cases ev
      refine h1.with (fun hm => ?_) id id rfl rfl rfl
      rw [MemState.setPage_clay]
      exact MemState.clearFrame_wf hm _
    · cases ev

theorem State.Lasts.bankSlice (h : b.Lasts s) {src e : Nat} {prog : TilthProgram} {x : LentSlice} {v : State}
    (ev : s.bankSlice src e prog x = some v) : b.Lasts v :=
  State.Lasts.foldl_bind (fun _ _ _ hx e => hx.bankPage e) _ (fun _ e => Option.some.inj e ▸ h) ev

theorem State.Lasts.landWrite (h : b.Lasts s) (w : Work) (f : Frame) : b.Lasts (s.landWrite w f).1 := by
  have h1 := h.landDigest f.laddr f.data
  unfold State.landWrite
  dsimp only
  split
  · split
    · exact h1
    · exact h1.writeFrames _ _ _ _
  · exact h1.writeRange _ _ _

end Sys2Proof.Machine
end


section
/-! SUPPORT. What must last, over lent work, ports, long commands, faults, background slots, power, trust, resets and boot. -/

namespace Sys2Proof.Machine

variable {b s : State}

theorem State.Lasts.ownerWork (hb : b.Lasts s) (src job e tag : Nat) : b.Lasts (s.ownerWork src job e tag) := by
  grind [State.ownerWork, State.Lasts.ownerJob, State.Lasts.lentBegins]

theorem State.Lasts.lentWrite (h : b.Lasts s) (w : Work) (f : Frame) : b.Lasts (s.lentWrite w f) := by
  unfold State.lentWrite
  split
  · exact h.refuseFrame _
  · next v e =>
    have hv : b.Lasts v := (h.ownerWork _ _ _ _).lentRange e
    have hw := hv.writeFrames (w.epoch + 1) false f.laddr f.data
    split
    · exact hv.errorReply _ _
    · split
      · next e => exact (hw.of_fst e).errorReply _ _
      · next e => exact (hw.of_fst e).frameLanded _ _

theorem State.Lasts.replyData (hb : b.Lasts s) (w : Work) (f : Frame) (bs : List Byte) : b.Lasts (s.replyData w f bs) :=
    by
  grind [State.replyData, State.Lasts.sendStream, State.Lasts.with]

theorem State.Lasts.lentRead (h : b.Lasts s) (w : Work) (f : Frame) : b.Lasts (s.lentRead w f) := by
  unfold State.lentRead
  extract_lets n
  split
  · exact h.refuseFrame _
  · next v e =>
    have hv : b.Lasts v := (h.ownerWork _ _ _ _).lentRange e
    dsimp only
    split
    · exact hv.errorReply _ _
    · split
      · exact hv.errorReply _ _
      · exact hv.replyData _ _ _

theorem State.Lasts.collFault (hb : b.Lasts s) (c : CollDecl) (f : MemFault) : b.Lasts (s.collFault c f) := by
  grind [State.collFault, State.Lasts.taskCause, State.Lasts.poisonNotice, State.Lasts.with]

theorem State.Lasts.arriveRecord (hb : b.Lasts s) (c : CollDecl) (tag : Nat) (r : BucketRecord) : b.Lasts
    (s.arriveRecord c tag r) := by
  grind [State.arriveRecord, State.Lasts.setArrivals, State.Lasts.collFault, State.Lasts.with]

theorem State.Lasts.arriveColl (hb : b.Lasts s) (c : CollDecl) (w : Work) (f : Frame) : b.Lasts (s.arriveColl c w f) :=
    by
  grind [State.arriveColl, State.Lasts.stalePieces, State.Lasts.gatherStream, State.Lasts.streamMoves,
    State.Lasts.collFault, State.Lasts.arriveRecord, State.Lasts.permuteLands, State.Lasts.landWrite, State.Lasts.foldl]

theorem State.Lasts.arriveNotice (hb : b.Lasts s) (n : Notice) : b.Lasts (s.arriveNotice n) := by
  grind [State.arriveNotice, State.Lasts.answers, State.Lasts.count, State.Lasts.with]

theorem State.Lasts.followMap (hb : b.Lasts s) (port : Nat) (c : ControlFlit) : b.Lasts (s.followMap port c) := by
  grind [State.followMap, State.Lasts.setPort, State.Lasts.portNarrowed, State.Lasts.with]

theorem State.Lasts.retried (hb : b.Lasts s) (port k ctx : Nat) : b.Lasts (s.retried port k ctx) := by
  grind [State.retried, State.Lasts.streamFail, State.Lasts.with]

theorem State.Lasts.portDown (hb : b.Lasts s) (port : Nat) : b.Lasts (s.portDown port) := by
  grind [State.portDown, State.Lasts.setPort, State.Lasts.faultNotice, State.Lasts.stopAtNext, State.Lasts.with]

theorem State.Lasts.enablePort (hb : b.Lasts s) (on : Bool) (n : Nat) : b.Lasts (s.enablePort on n) := by
  grind [State.enablePort, State.Lasts.setPort, State.Lasts.with]

theorem State.Lasts.topology (hb : b.Lasts s) (c : Cmd) : b.Lasts (Cmd.topology c s) := by
  grind [Cmd.topology, State.Lasts.setPort, State.Lasts.enablePort, State.Lasts.with, State.Lasts.foldl]

theorem State.Lasts.freeStream (hb : b.Lasts s) (ctx : Nat) : b.Lasts (s.freeStream ctx) := by
  grind [State.freeStream, State.Lasts.setCtx, State.Lasts.with]

theorem State.Lasts.endWork (hb : b.Lasts s) (ring : Nat) (a : Ask) : b.Lasts (s.endWork ring a) := by
  grind [State.endWork, State.Lasts.freeStream, State.Lasts.migrationEnd, State.Lasts.with]

theorem State.Lasts.finish (hb : b.Lasts s) (ring : Nat) (a : Ask) (cls code : Nat) (res : List Word) : b.Lasts
    (s.finish ring a cls code res) := by
  grind [State.finish, State.Lasts.endWork, State.Lasts.answer, State.Lasts.unmapsDue]

theorem State.Lasts.sliceOver (hb : b.Lasts s) (ring : Nat) (a : Ask) : b.Lasts (s.sliceOver ring a) := by
  grind [State.sliceOver, State.Lasts.finish, State.Lasts.reply, State.Lasts.setAux, State.Lasts.with]

theorem State.Lasts.askItem (hb : b.Lasts s) (x : ShardItem) (ctx : Nat) : b.Lasts (s.askItem x ctx) := by
  grind [State.askItem, State.Lasts.requestAway, State.Lasts.ctxStart, State.Lasts.foldl]

theorem State.Lasts.setWork (hb : b.Lasts s) (ring : Nat) (w : LongWork) : b.Lasts (s.setWork ring w) := by
  grind [State.setWork, State.Lasts.setAux, State.Lasts.with]

theorem State.Lasts.clearReplies (hb : b.Lasts s) (ctx : Nat) : b.Lasts (s.clearReplies ctx) := by
  grind [State.clearReplies, State.Lasts.setCtx, State.Lasts.with]

theorem State.Lasts.exportEnds (hb : b.Lasts s) (ring : Nat) (a : Ask) (cursor records used : Nat) : b.Lasts
    (s.exportEnds ring a cursor records used) := by
  grind [State.exportEnds, State.Lasts.finish]

theorem State.Lasts.exportStep (h : b.Lasts s) (ring : Nat) (c : Cmd) (l k n done epoch used records ctx : Nat) :
    b.Lasts (s.exportStep ring c l k n done epoch used records ctx) := by
  unfold State.exportStep
  extract_lets a E same xs moved wrong s1 done1
  have h1 : b.Lasts s1 := by
    simp only [s1]
    split
    · exact h.clearReplies _
    · exact h
  clear_value s1
  split
  · exact h.exportEnds _ _ _ _ _
  · next x _ =>
    extract_lets hold s2 last
    have hh {v : State} (hv : b.Lasts v) : b.Lasts (hold v) := (hv.setWork _ _).sliceOver _ _
    clear_value hold
    split
    · exact h1.finish _ _ _ _ _
    · split
      · exact h1.exportEnds _ _ _ _ _
      · split
        · exact hh h1
        · split
          · exact hh (h1.askItem _ _)
          · split
            · exact ((h1.poisonNotice _).drawBelow 256).finish _ _ _ _ _
            · extract_lets _ s3 now s4 s5
              have h2 : b.Lasts s2 := h1.foldl (fun _ _ hx => hx.countRead _ _ _) _
              have h3 : b.Lasts s3 := by
                simp only [s3]
                split
                · exact h2.hostWrite _ _
                · exact h2
              have h4 : b.Lasts s4 := h3.hostWrite _ _
              have h5 : b.Lasts s5 := h4.clearReplies _
              clear_value s4 s5
              split
              · exact hh ((h1.clearReplies _).tryRepair _ _ _)
              · split
                · exact (h4.setWork _ _).sliceOver _ _
                · split
                  · exact h5.exportEnds _ _ _ _ _
                  · exact (h5.setWork _ _).sliceOver _ _

theorem State.Lasts.importRows (hb : b.Lasts s) (t : SparseDecl) (first n : Nat) (data : List Byte) : b.Lasts
    (s.importRows t first n data) := by
  grind [State.importRows, State.Lasts.writeCurrent, State.Lasts.with, State.Lasts.foldl]

theorem State.Lasts.importData (h : b.Lasts s) (x : ShardItem) (T : Nat) (data : List Byte) : b.Lasts (s.importData x T
    data) := by
  unfold State.importData
  split
  · exact h.importRows _ _ _ _
  · extract_lets r s1 key d
    have h1 : b.Lasts s1 :=
      State.Lasts.foldl_of (β := State × List Byte) Prod.fst (fun _ _ hx => hx.writeFrames _ _ _ _) _ h
    clear_value s1
    split
    · exact h1
    · split <;> exact h1.with id id id rfl rfl rfl

theorem State.Lasts.importEnds (hb : b.Lasts s) (ring : Nat) (c : Cmd) : b.Lasts (s.importEnds ring c) := by
  grind [State.importEnds, State.Lasts.auditFor, State.Lasts.finish, State.Lasts.with, State.Lasts.foldl]

theorem State.Lasts.importStep (hb : b.Lasts s) (ring : Nat) (c : Cmd) (used ctx : Nat) : b.Lasts (s.importStep ring c
    used ctx) := by
  grind [State.importStep, State.Lasts.importEnds, State.Lasts.setWork, State.Lasts.sliceOver, State.Lasts.finish,
    State.Lasts.importData]

theorem State.Lasts.scrubWords (hb : b.Lasts s) (p : Nat → Bool) : b.Lasts (s.scrubWords p) := by
  grind [State.scrubWords, State.Lasts.poison, State.Lasts.poisonFound, State.Lasts.foldl]

theorem State.Lasts.unitsStep (h : b.Lasts s) (ring : Nat) (a : Ask) (left : List Nat) : b.Lasts (s.unitsStep ring a
    left) := by
  cases left with
  | nil => exact h.finish _ _ _ _ _
  | cons u rest =>
    unfold State.unitsStep
    dsimp only
    have h1 : b.Lasts (if a.opcode = 0xE2 then (s.scrubWords fun pa => stackOf pa == u).repairsBegin
        else s.wakeNow (allUnits.filter fun x => x.die == u)) := by
      split
      · exact (h.scrubWords _).repairsBegin
      · exact h.wakeNow _
    split
    · exact h1.finish _ _ _ _ _
    · exact (h1.setWork _ _).sliceOver _ _

theorem State.Lasts.withSlot (h : b.Lasts s) (a : Bool) (v : FwSlot) : b.Lasts { s with trust := s.trust.setSlot a v }
    := by
  refine h.with id id id ?_ ?_ ?_ <;> unfold TrustState.setSlot <;> split <;> rfl

theorem State.Lasts.updateEnds (h : b.Lasts s) (ring : Nat) (c : Cmd) (image old : List Byte) :
    b.Lasts (s.updateEnds ring c image old) := by
  unfold State.updateEnds
  split
  · exact ((h.withSlot _ _).auditFor _ _ _ _ _).finish _ _ _ _ _
  · exact h.refuse _ _

theorem State.Lasts.goFatal (hb : b.Lasts s) (u : Word) : b.Lasts (s.goFatal u) := by
  grind [State.goFatal, State.Lasts.faultNotice, State.Lasts.setCause, State.Lasts.dropTask, State.Lasts.with,
    State.Lasts.foldl]

theorem State.Lasts.atOnce (hb : b.Lasts s) : b.Lasts (s.atOnce) := by
  grind [State.atOnce, State.Lasts.doBoundaries]

theorem State.Lasts.laneNotice (hb : b.Lasts s) (die lane what : Nat) : b.Lasts (s.laneNotice die lane what) := by
  grind [State.laneNotice, State.Lasts.faultNotice]

theorem State.Lasts.portLaneFails (hb : b.Lasts s) (n die lane : Nat) : b.Lasts (s.portLaneFails n die lane) := by
  grind [State.portLaneFails, State.Lasts.pushBoundary, State.Lasts.laneNotice, State.Lasts.narrowPort,
    State.Lasts.portDown, State.Lasts.with]

theorem State.Lasts.linkLaneFails (hb : b.Lasts s) (from_ to_ lane : Nat) : b.Lasts (s.linkLaneFails from_ to_ lane) :=
    by
  grind [State.linkLaneFails, State.Lasts.laneNotice, State.Lasts.goFatal, State.Lasts.narrowLink,
    State.Lasts.pushBoundary, State.Lasts.with]

theorem State.Lasts.fabricLaneFails (hb : b.Lasts s) (die lane : Nat) : b.Lasts (s.fabricLaneFails die lane) := by
  grind [State.fabricLaneFails, State.Lasts.portLaneFails, State.Lasts.atOnce, State.Lasts.with]

theorem State.Lasts.laneFails (hb : b.Lasts s) (at_ : LaneAt) (lane : Nat) : b.Lasts (s.laneFails at_ lane) := by
  grind [State.laneFails, State.Lasts.fabricLaneFails, State.Lasts.linkLaneFails, State.Lasts.atOnce, State.Lasts.with]

theorem State.Lasts.attributed (hb : b.Lasts s) (at_ : LaneAt) (lane : Nat) : b.Lasts (s.attributed at_ lane) := by
  grind [State.attributed, State.Lasts.laneFails, State.Lasts.with]

theorem State.Lasts.codewordsLost (hb : b.Lasts s) (die lane n : Nat) : b.Lasts (s.codewordsLost die lane n) := by
  grind [State.codewordsLost, State.Lasts.laneFails, State.Lasts.with]

theorem State.Lasts.quietFault (h : b.Lasts s) (q : QuietFault) : b.Lasts (s.quietFault q) := by
  cases q with
  | linkRetry at_ lane => exact (h.count _ _ _).elim lane (fun l => (h.count _ _ _).attributed _ _)
  | replay => exact h.count _ _ _
  | flagged at_ lane => exact h.attributed _ _
  | corrected pa => exact h.wordFixed _
  | fec die lane n => exact h.countSource _ _ _ _ _ _ _
  | fecLost die lane n => exact h.codewordsLost _ _ _

theorem State.Lasts.tileFails (hb : b.Lasts s) (id : TileId) : b.Lasts (s.tileFails id) := by
  grind [State.tileFails, State.Lasts.runTo, State.Lasts.stopAtEnd, State.Lasts.pushBoundary, State.Lasts.atOnce,
    State.Lasts.loseUnit, State.Lasts.with]

theorem State.Lasts.tilthFails (hb : b.Lasts s) (die unit : Nat) : b.Lasts (s.tilthFails die unit) := by
  grind [State.tilthFails, State.Lasts.taskCause, State.Lasts.pushBoundary, State.Lasts.atOnce, State.Lasts.loseUnit,
    State.Lasts.with, State.Lasts.foldl]

theorem State.Lasts.hubUnitFails (hb : b.Lasts s) (kind num : Nat) : b.Lasts (s.hubUnitFails kind num) := by
  grind [State.hubUnitFails, State.Lasts.taskCause, State.Lasts.loseUnit, State.Lasts.with, State.Lasts.foldl]

theorem State.Lasts.faultItem (hb : b.Lasts s) (ring core : Nat) : b.Lasts (s.faultItem ring core) := by
  grind [State.faultItem, State.Lasts.drawBelow, State.Lasts.finish]

theorem State.Lasts.coreStops (hb : b.Lasts s) (core : Nat) : b.Lasts (s.coreStops core) := by
  grind [State.coreStops, State.Lasts.served, State.Lasts.drawBelow, State.Lasts.faultItem]

theorem State.Lasts.loseCore (hb : b.Lasts s) (core : Nat) : b.Lasts (s.loseCore core) := by
  grind [State.loseCore, State.Lasts.faultNotice, State.Lasts.goFatal, State.Lasts.with]

theorem State.Lasts.coreDown (hb : b.Lasts s) (core : Nat) : b.Lasts (s.coreDown core) := by
  grind [State.coreDown, State.Lasts.with]

theorem State.Lasts.setBg (hb : b.Lasts s) (kind die unit : Nat) (b_ : Background) : b.Lasts (s.setBg kind die unit b_)
    := by
  grind [State.setBg, State.Lasts.with]

theorem State.Lasts.scrubShard (hb : b.Lasts s) (h : ShardDecl) : b.Lasts (s.scrubShard h) := by
  grind [State.scrubShard, State.Lasts.taskCause, State.Lasts.setTask, State.Lasts.stepAbort, State.Lasts.tryRepair,
    State.Lasts.with]

theorem State.Lasts.scrubSlot (h : b.Lasts s) (stack channel : Nat) : b.Lasts (s.scrubSlot stack channel) := by
  have h1 := h.drawBelow channelBursts
  have h2 (p : Nat → Bool) (l : List Nat) := (h1.scrubWords p).foldl (fun _ w hx => hx.eccSeen w) l
  have h3 (p : Nat → Bool) (l : List Nat) := (h2 p l).repairsBegin
  unfold State.scrubSlot
  dsimp only
  split <;> split <;> split <;>
    grind [State.Lasts.drawBelow, State.Lasts.retireChannel, State.Lasts.scrubShard]

theorem State.Lasts.bgDone (hb : b.Lasts s) (kind die unit : Nat) : b.Lasts (s.bgDone kind die unit) := by
  grind [State.bgDone, State.Lasts.setBg, State.Lasts.with]

theorem State.Lasts.spareFaulty (hb : b.Lasts s) (die : Nat) : b.Lasts (s.spareFaulty die) := by
  grind [State.spareFaulty, State.Lasts.drawBelow, State.Lasts.with]

theorem State.Lasts.periodicSlot (hb : b.Lasts s) (kind die unit : Nat) : b.Lasts (s.periodicSlot kind die unit) := by
  grind [State.periodicSlot, State.Lasts.setBg, State.Lasts.scrubSlot, State.Lasts.bgDone, State.Lasts.drawBelow,
    State.Lasts.spareFaulty, State.Lasts.with]

theorem State.Lasts.moveSlot (hb : b.Lasts s) (ctx key : Nat) : b.Lasts (s.moveSlot ctx key) := by
  grind [State.moveSlot, State.Lasts.sendMoved, State.Lasts.with]

theorem State.Lasts.clearSlot (hb : b.Lasts s) (ring key : Nat) : b.Lasts (s.clearSlot ring key) := by
  grind [State.clearSlot, State.Lasts.with]

theorem State.Lasts.useSlot (hb : b.Lasts s) (die unit : Nat) (w : BgWant) : b.Lasts (s.useSlot die unit w) := by
  grind [State.useSlot, State.Lasts.periodicSlot, State.Lasts.moveSlot, State.Lasts.clearSlot, State.Lasts.setBg,
    State.Lasts.with]

theorem State.Lasts.bgMissed (hb : b.Lasts s) (kind die unit : Nat) : b.Lasts (s.bgMissed kind die unit) := by
  grind [State.bgMissed, State.Lasts.count, State.Lasts.notice]

theorem State.Lasts.periodicMiss (h : b.Lasts s) (kind die unit : Nat) : b.Lasts (s.periodicMiss kind die unit) := by
  have e := Eq.refl @State.periodicMiss
  conv at e => rhs; delta State.periodicMiss
  rw [e]
  beta_reduce
  extract_lets x
  generalize s.scSince x.from_ = o
  split
  · exact h
  · extract_lets s1
    have h1 : b.Lasts s1 := ((h.toSc _).setBg _ _ _ _).bgMissed _ _ _
    clear_value s1
    split
    · exact h
    · split
      · exact h1.with id id id rfl rfl rfl
      · exact h1

theorem State.Lasts.withMigrations (h : b.Lasts s) (ms : List Migration) :
    b.Lasts { s with mem := { s.mem with migrations := ms } } := by
  refine h.with ?_ ?_ ?_ ?_ ?_ ?_
  exacts [id, id, id, rfl, rfl, rfl]

theorem State.Lasts.moveMiss (h : b.Lasts s) (die unit : Nat) : b.Lasts (s.moveMiss die unit) := by
  have e := Eq.refl @State.moveMiss
  conv at e => rhs; delta State.moveMiss
  rw [e]
  beta_reduce
  split
  · exact h
  · next m _ =>
    generalize (s.scSince m.since).getD 0 = d
    exact ((h.toSc _).withMigrations _).bgMissed _ _ _

theorem State.Lasts.setBudget (h : b.Lasts s) (watts : Nat) (sideband : Bool) (a : Option Ask) :
    b.Lasts (s.setBudget watts sideband a) := by
  unfold State.setBudget
  extract_lets w old w' gone _ s1 s2
  have h1 : b.Lasts s1 := h.with id id id rfl rfl rfl
  clear_value s1
  have h2 : b.Lasts s2 := by
    cases a with
    | some a => exact h1.auditFor _ _ _ _ _
    | none => exact h1.audit _ _ _ _
  clear_value s2 gone
  cases gone with
  | some d => exact h2.final _ _ _ _
  | none => exact h2

theorem State.Lasts.delayBudget (hb : b.Lasts s) (c : Cmd) : b.Lasts (s.delayBudget c) := by
  grind [State.delayBudget, State.Lasts.final, State.Lasts.answer, State.Lasts.with]

theorem State.Lasts.setWarn (hb : b.Lasts s) (w : Nat) : b.Lasts (s.setWarn w) := by
  grind [State.setWarn, State.Lasts.audit, State.Lasts.with]

theorem State.Lasts.darkenGroup (hb : b.Lasts s) (die g : Nat) : b.Lasts (s.darkenGroup die g) := by
  grind [State.darkenGroup, State.Lasts.modTile, State.Lasts.with, State.Lasts.foldl]

theorem State.Lasts.darken (hb : b.Lasts s) (u : UnitId) : b.Lasts (s.darken u) := by
  grind [State.darken, State.Lasts.darkenGroup, State.Lasts.setUnit, State.Lasts.foldl]

theorem State.Lasts.beginShut (hb : b.Lasts s) (u : UnitId) (to_ : Nat) (asks : List Ask) : b.Lasts (s.beginShut u to_
    asks) := by
  grind [State.beginShut, State.Lasts.setUnit]

theorem State.Lasts.disable (hb : b.Lasts s) (u : UnitId) (st : Nat) (a : Ask) : b.Lasts (s.disable u st a) := by
  grind [State.disable, State.Lasts.beginShut, State.Lasts.keep, State.Lasts.done, State.Lasts.setUnit]

theorem State.Lasts.enableIn (hb : b.Lasts s) (a : Ask) (n : Nat) : b.Lasts (s.enableIn a n) := by
  grind [State.enableIn, State.Lasts.answer]

theorem State.Lasts.enable (hb : b.Lasts s) (u : UnitId) (a : Ask) : b.Lasts (s.enable u a) := by
  grind [State.enable, State.Lasts.done, State.Lasts.setUnit, State.Lasts.enableIn]

theorem State.Lasts.answerAll (hb : b.Lasts s) (asks : List Ask) : b.Lasts (s.answerAll asks) := by
  grind [State.answerAll, State.Lasts.done, State.Lasts.foldl]

theorem State.Lasts.gateUnits (hb : b.Lasts s) : b.Lasts (s.gateUnits) := by
  grind [State.gateUnits, State.Lasts.setUnit, State.Lasts.wakeImage, State.Lasts.foldl]

theorem State.Lasts.movePoint (hb : b.Lasts s) (p : Nat) : b.Lasts (s.movePoint p) := by
  grind [State.movePoint, State.Lasts.with]

theorem State.Lasts.pointDone (hb : b.Lasts s) : b.Lasts (s.pointDone) := by
  grind [State.pointDone, State.Lasts.with]

theorem State.Lasts.thermalPeriod (hb : b.Lasts s) (tj die : Nat) : b.Lasts (s.thermalPeriod tj die) := by
  grind [State.thermalPeriod, State.Lasts.powerNotice, State.Lasts.with]

theorem State.Lasts.checkBudget (hb : b.Lasts s) (predicted : List Nat) : b.Lasts (s.checkBudget predicted) := by
  grind [State.checkBudget, State.Lasts.powerNotice, State.Lasts.with]

theorem State.Lasts.stretchBy (hb : b.Lasts s) (n : Nat) : b.Lasts (s.stretchBy n) := by
  grind [State.stretchBy, State.Lasts.count, State.Lasts.with]

theorem State.Lasts.recordDenied (hb : b.Lasts s) : b.Lasts (s.recordDenied) := by
  grind [State.recordDenied, State.Lasts.audit, State.Lasts.with]

theorem State.Lasts.addEnergy (hb : b.Lasts s) (uj : List Nat) : b.Lasts (s.addEnergy uj) := by
  grind [State.addEnergy, State.Lasts.with]

theorem State.Lasts.holdAbsolute (hb : b.Lasts s) : b.Lasts (s.holdAbsolute) := by
  grind [State.holdAbsolute, State.Lasts.drawBelow, State.Lasts.stretchBy]

/-- A key that is revoked leaves the enrolled ones. -/
theorem State.Lasts.revoke (h : b.Lasts s) (a : Ask) (k : Key) : b.Lasts (s.revoke a k) := by
  refine State.Lasts.auditFor ?_ _ _ _ _ _
  refine ⟨h.pending, h.fuses, fun x hx => List.mem_append_left _ (h.revoked x hx), fun hb x hx => ?_, h.clay,
    h.storage, h.memory⟩
  obtain ⟨hx, hk⟩ := List.mem_filter.mp hx
  have := h.apart hb x hx
  simp_all

theorem State.Lasts.newInstall (h : b.Lasts s) (a : Ask) : b.Lasts (s.newInstall a) := by
  refine State.Lasts.with (h.foldl (fun _ k hx => hx.revoke a k) _) ?_ ?_ ?_ ?_ ?_ ?_
  exacts [id, id, id, rfl, rfl, rfl]

theorem State.Lasts.markRead (hb : b.Lasts s) (a b_ : Nat) : b.Lasts (s.markRead a b_) := by
  grind [State.markRead, State.Lasts.with]

theorem State.Lasts.unmask (hb : b.Lasts s) (v : Nat) : b.Lasts (s.unmask v) := by
  grind [State.unmask, State.Lasts.with]

theorem State.Lasts.msixWrite (h : b.Lasts s) (entry word : Nat) (v : Word) : b.Lasts (s.msixWrite entry word v) := by
  unfold State.msixWrite
  extract_lets e _ put
  have hp (x : MsixEntry) : b.Lasts (put x) := by
    refine h.with ?_ ?_ ?_ ?_ ?_ ?_
    exacts [id, id, id, rfl, rfl, rfl]
  clear_value put
  split
  · exact hp _
  · exact hp _
  · exact hp _
  · split
    · exact hp _
    · exact h.unmask _

theorem State.Lasts.regWrite (h : b.Lasts s) (offset : Nat) (v : Word) : b.Lasts (s.regWrite offset v) := by
  unfold State.regWrite
  dsimp only
  split
  case h_6 => exact h
  all_goals
    refine h.with ?_ ?_ ?_ ?_ ?_ ?_
    exacts [id, id, id, rfl, rfl, rfl]

theorem State.Lasts.poisonedTlp (hb : b.Lasts s) : b.Lasts (s.poisonedTlp) := by
  grind [State.poisonedTlp, State.Lasts.with]

theorem State.Lasts.seenBytes (h : b.Lasts s) (xs : List (Nat × Nat × Seen)) : b.Lasts (s.seenBytes xs).2 := by
  unfold State.seenBytes
  refine State.Lasts.foldl_of (β := List Byte × State) Prod.snd (fun x c hx => ?_) _ h
  split
  · exact hx
  · exact hx
  · exact hx.drawBytes _

theorem State.Lasts.apertureEvent (hb : b.Lasts s) (bit page : Nat) : b.Lasts (s.apertureEvent bit page) := by
  grind [State.apertureEvent, State.Lasts.setCause, State.Lasts.with]

theorem State.Lasts.outsideWrite (h : b.Lasts s) (la : Nat) (bs : List Byte) : b.Lasts (s.outsideWrite la bs).1 := by
  unfold State.outsideWrite
  refine State.Lasts.foldl_of (β := State × List Nat × List Byte) Prod.fst (fun x c hx => ?_) _ h
  dsimp only
  split
  · exact hx.writeFrames _ _ _ _
  · exact hx

theorem State.Lasts.denyGuest (hb : b.Lasts s) (a kind : Nat) : b.Lasts (s.denyGuest a kind) := by
  grind [State.denyGuest, State.Lasts.count, State.Lasts.with]

theorem State.Lasts.firstRings (hb : b.Lasts s) : b.Lasts (s.firstRings) := by
  grind [State.firstRings, State.Lasts.setRing, State.Lasts.command, State.Lasts.setAux, State.Lasts.with]

theorem State.Lasts.resetStep (hb : b.Lasts s) : b.Lasts (s.resetStep) := by
  grind [State.resetStep, State.Lasts.applyCommit, State.Lasts.toLeader, State.Lasts.applyAbort, State.Lasts.audit,
    State.Lasts.with]

theorem State.Lasts.ringsReset (h : b.Lasts s) : b.Lasts s.ringsReset := by
  unfold State.ringsReset
  extract_lets s1
  have h1 : b.Lasts s1 := h.foldl (fun _ _ hx => hx.migrationEnd _ _) _
  clear_value s1
  refine State.Lasts.firstRings (h1.with ?_ ?_ ?_ ?_ ?_ ?_)
  exacts [id, fun _ => rfl, id, rfl, rfl, rfl]

theorem State.Lasts.wipe (h : b.Lasts s) : b.Lasts s.wipe := by
  refine h.with ?_ ?_ ?_ ?_ ?_ ?_
  exacts [fun _ => rfl, fun _ => rfl, id, rfl, rfl, rfl]

theorem State.Lasts.repin (hb : b.Lasts s) : b.Lasts (s.repin) := by
  grind [State.repin, State.Lasts.with]

theorem State.Lasts.railsDown (hb : b.Lasts s) : b.Lasts (s.railsDown) := by
  grind [State.railsDown, State.Lasts.wipe, State.Lasts.repin, State.Lasts.with]

theorem State.Lasts.ramp (hb : b.Lasts s) : b.Lasts (s.ramp) := by
  grind [State.ramp, State.Lasts.repin, State.Lasts.with]

theorem State.Lasts.latchCause (hb : b.Lasts s) (cause kind value : Nat) : b.Lasts (s.latchCause cause kind value) := by
  grind [State.latchCause, State.Lasts.railsDown, State.Lasts.with]

theorem State.Lasts.bootFails (hb : b.Lasts s) : b.Lasts (s.bootFails) := by
  grind [State.bootFails, State.Lasts.setCause, State.Lasts.with]

theorem State.Lasts.bootCore (hb : b.Lasts s) (core : Nat) : b.Lasts (s.bootCore core) := by
  grind [State.bootCore, State.Lasts.faultNotice, State.Lasts.coreDown, State.Lasts.loseCore, State.Lasts.with]

theorem State.Lasts.bootLane (hb : b.Lasts s) (x : Nat × Nat × Nat) : b.Lasts (s.bootLane x) := by
  grind [State.bootLane, State.Lasts.linkLaneFails, State.Lasts.doBoundaries]

theorem State.Lasts.bootUnit (hb : b.Lasts s) (u : UnitId) : b.Lasts (s.bootUnit u) := by
  grind [State.bootUnit, State.Lasts.backfillTile, State.Lasts.backfillTilth, State.Lasts.loseUnit]

theorem State.Lasts.bootChannels (h : b.Lasts s) {us : List UnitId} {v : State} (e : s.bootChannels us = some v) :
    b.Lasts v := by
  refine State.Lasts.foldl_bind (fun u s v hx e => ?_) _ (fun _ e => Option.some.inj e ▸ h) e
  dsimp only at e
  split at e
  · cases e
  · cases e
    exact hx.with id id id rfl rfl rfl

theorem State.Lasts.becomeReady (h : b.Lasts s) : b.Lasts s.becomeReady := by
  unfold State.becomeReady
  extract_lets fw _ s1 s2 trips s3 tripped s4 _ _ _ s5
  have h1 : b.Lasts s1 := by
    refine h.with ?_ ?_ ?_ ?_ ?_ ?_
    exacts [id, id, id, rfl, rfl, rfl]
  have h3 : b.Lasts s3 := (h1.audit _ _ _ _).foldl (fun _ _ hx => hx.audit _ _ _ _) _
  have h4 : b.Lasts s4 := by
    simp only [s4]
    split
    · exact h3.setPstat _
    · exact h3
  have h5 : b.Lasts s5 := by
    refine h4.with ?_ ?_ ?_ ?_ ?_ ?_
    exacts [id, id, id, rfl, rfl, rfl]
  exact (h5.firstRings.setCause _).drainNotices _

theorem State.Lasts.stageEnds (h : b.Lasts s) {r : BootIn} {v : State} (e : s.stageEnds r = some v) : b.Lasts v := by
  unfold State.stageEnds at e
  dsimp only at e
  split at e
  · split at e
    · cases e
      refine h.with ?_ ?_ ?_ ?_ ?_ ?_
      exacts [id, id, id, rfl, rfl, rfl]
    · cases e
  · split at e
    · cases e
      refine h.with ?_ ?_ ?_ ?_ ?_ ?_
      exacts [id, id, id, rfl, rfl, rfl]
    · cases e
  · split at e
    · cases e
      refine h.with ?_ ?_ ?_ ?_ ?_ ?_
      exacts [id, id, id, rfl, rfl, rfl]
    · cases e
  · split at e
    · cases e; exact h.foldl (fun _ _ hx => hx.bootCore _) _
    · cases e
  · split at e
    · cases e
      refine State.Lasts.foldl (h.with ?_ ?_ ?_ ?_ ?_ ?_) (fun _ _ hx => hx.bootLane _) _
      exacts [id, id, id, rfl, rfl, rfl]
    · cases e
  · split at e
    · exact h.bootChannels e
    · cases e
  · cases e
    exact (h.foldl (fun _ _ hx => hx.bootUnit _) _).foldl (fun _ _ hx => hx.remapRow _ _) _
  · split at e
    · cases e; exact h.becomeReady
    · cases e
  · cases e; exact h

theorem State.Lasts.setDynamic (hb : b.Lasts s) (a : Option Nat) : b.Lasts (s.setDynamic a) := by
  grind [State.setDynamic, State.Lasts.with]

theorem State.Lasts.respond (hb : b.Lasts s) (bs : List Byte) : b.Lasts (s.respond bs) := by
  grind [State.respond, State.Lasts.with]

theorem State.Lasts.addressed (h : b.Lasts s) {act : State → State} (ha : ∀ s, b.Lasts s → b.Lasts (act s)) :
    b.Lasts (s.addressed act) := by
  unfold State.addressed
  split
  · exact ha _ h
  · exact h

theorem State.Lasts.tapTo (hb : b.Lasts s) (code : BitVec 8) (shift : List Bool) : b.Lasts (s.tapTo code shift) := by
  grind [State.tapTo, State.Lasts.repin, State.Lasts.with]

end Sys2Proof.Machine
end


section
/-! SUPPORT. What must last, over every row of the instruction table. -/

namespace Sys2Proof.Machine

variable {b s : State}

/-- What an instruction leaves, if it leaves a state, has lost nothing of `b`. -/
def State.LastsNext (b : State) (o : Host.Outcome State Fault Refusal) : Prop := ∀ v, o = .next v → b.Lasts v

theorem State.LastsNext.ok (h : b.Lasts s) : b.LastsNext (ok s) := fun _ e => Host.Outcome.next.inj e ▸ h

theorem State.Lasts.execNop (hb : b.Lasts s) (t : TileId) (f : CtlF) : b.LastsNext (execNop t f s) :=
  .ok (hb.control _ _ _ _)

theorem State.Lasts.execLi (hb : b.Lasts s) (t : TileId) (f : CtlF) : b.LastsNext (execLi t f s) :=
  .ok (hb.control _ _ _ _)

theorem State.Lasts.execAdd (hb : b.Lasts s) (t : TileId) (f : CtlF) : b.LastsNext (execAdd t f s) :=
  .ok (hb.arith _ _ _ _)

theorem State.Lasts.execSub (hb : b.Lasts s) (t : TileId) (f : CtlF) : b.LastsNext (execSub t f s) :=
  .ok (hb.arith _ _ _ _)

theorem State.Lasts.execMul (hb : b.Lasts s) (t : TileId) (f : CtlF) : b.LastsNext (execMul t f s) :=
  .ok (hb.arith _ _ _ _)

theorem State.Lasts.execAnd (hb : b.Lasts s) (t : TileId) (f : CtlF) : b.LastsNext (execAnd t f s) :=
  .ok (hb.arith _ _ _ _)

theorem State.Lasts.execOr (hb : b.Lasts s) (t : TileId) (f : CtlF) : b.LastsNext (execOr t f s) :=
  .ok (hb.arith _ _ _ _)

theorem State.Lasts.execXor (hb : b.Lasts s) (t : TileId) (f : CtlF) : b.LastsNext (execXor t f s) :=
  .ok (hb.arith _ _ _ _)

theorem State.Lasts.execShl (hb : b.Lasts s) (t : TileId) (f : CtlF) : b.LastsNext (execShl t f s) :=
  .ok (hb.arith _ _ _ _)

theorem State.Lasts.execShr (hb : b.Lasts s) (t : TileId) (f : CtlF) : b.LastsNext (execShr t f s) :=
  .ok (hb.arith _ _ _ _)

theorem State.Lasts.execSra (hb : b.Lasts s) (t : TileId) (f : CtlF) : b.LastsNext (execSra t f s) :=
  .ok (hb.arith _ _ _ _)

theorem State.Lasts.execSlt (hb : b.Lasts s) (t : TileId) (f : CtlF) : b.LastsNext (execSlt t f s) := by
  grind [execSlt, State.LastsNext.ok, State.Lasts.arith]

theorem State.Lasts.execSltu (hb : b.Lasts s) (t : TileId) (f : CtlF) : b.LastsNext (execSltu t f s) := by
  grind [execSltu, State.LastsNext.ok, State.Lasts.arith]

theorem State.Lasts.execB (hb : b.Lasts s) (t : TileId) (f : CtlF) : b.LastsNext (execB t f s) :=
  .ok (hb.branchIf _ _ _ _)

theorem State.Lasts.execBeq (hb : b.Lasts s) (t : TileId) (f : CtlF) : b.LastsNext (execBeq t f s) :=
  .ok (hb.branchIf _ _ _ _)

theorem State.Lasts.execBne (hb : b.Lasts s) (t : TileId) (f : CtlF) : b.LastsNext (execBne t f s) :=
  .ok (hb.branchIf _ _ _ _)

theorem State.Lasts.execBlt (hb : b.Lasts s) (t : TileId) (f : CtlF) : b.LastsNext (execBlt t f s) :=
  .ok (hb.branchIf _ _ _ _)

theorem State.Lasts.execBge (hb : b.Lasts s) (t : TileId) (f : CtlF) : b.LastsNext (execBge t f s) :=
  .ok (hb.branchIf _ _ _ _)

theorem State.Lasts.execBq (hb : b.Lasts s) (t : TileId) (f : CtlF) : b.LastsNext (execBq t f s) := by
  grind [execBq, State.LastsNext.ok, State.Lasts.readsQ]

theorem State.Lasts.execBqz (hb : b.Lasts s) (t : TileId) (f : CtlF) : b.LastsNext (execBqz t f s) := by
  grind [execBqz, State.LastsNext.ok, State.Lasts.readsQ]

theorem State.Lasts.execLoop (hb : b.Lasts s) (t : TileId) (f : CtlF) : b.LastsNext (execLoop t f s) := by
  grind [execLoop, State.LastsNext.ok, State.Lasts.control]

theorem State.Lasts.execQmov (hb : b.Lasts s) (t : TileId) (f : CtlF) : b.LastsNext (execQmov t f s) := by
  grind [execQmov, State.LastsNext.ok, State.Lasts.readsQ]

theorem State.Lasts.execCsig (hb : b.Lasts s) (t : TileId) (f : CtlF) : b.LastsNext (execCsig t f s) := by
  refine .ok (hb.dispatch _ _ fun s hb => ?_)
  dsimp only
  grind [State.Lasts.stopNow, State.Lasts.modTile, State.Lasts.with]

theorem State.Lasts.execCrd (hb : b.Lasts s) (t : TileId) (f : CtlF) : b.LastsNext (execCrd t f s) :=
  .ok (hb.control _ _ _ _)

theorem State.Lasts.execCwr (hb : b.Lasts s) (t : TileId) (f : CtlF) : b.LastsNext (execCwr t f s) := by
  grind [execCwr, State.LastsNext.ok, State.Lasts.control, State.Lasts.with]

theorem State.Lasts.execSync (hb : b.Lasts s) (t : TileId) (f : CtlF) : b.LastsNext (execSync t f s) := by
  refine .ok (hb.dispatch _ _ fun s hb => ?_)
  grind [State.Lasts.modTile, State.Lasts.tileEnd, State.Lasts.with]

theorem State.Lasts.execEnd (hb : b.Lasts s) (t : TileId) (f : CtlF) : b.LastsNext (execEnd t f s) := by
  grind [execEnd, State.LastsNext.ok, State.Lasts.control, State.Lasts.with]

theorem State.Lasts.execAbort (hb : b.Lasts s) (t : TileId) (f : CtlF) : b.LastsNext (execAbort t f s) := by
  refine .ok (hb.dispatch _ _ fun s hb => ?_)
  grind [State.Lasts.stopNow]

theorem State.Lasts.execHget (hb : b.Lasts s) (t : TileId) (f : HdlF) : b.LastsNext (execHget t f s) := by
  refine .ok (hb.dispatch _ _ fun s hb => ?_)
  dsimp only
  grind [State.Lasts.pullRing, State.Lasts.stopNow, State.Lasts.takeHandle, State.Lasts.taint, State.Lasts.modTile,
    State.Lasts.with]

theorem State.Lasts.execHput (hb : b.Lasts s) (t : TileId) (f : HdlF) : b.LastsNext (execHput t f s) := by
  refine .ok (hb.dispatch _ _ fun s hb => ?_)
  dsimp only
  grind [State.Lasts.stopNow, State.Lasts.postHandle, State.Lasts.modTile]

theorem State.Lasts.execSyncSatisfied (hb : b.Lasts s) (t : TileId) : b.LastsNext (execSyncSatisfied t s) := by
  grind [execSyncSatisfied, State.LastsNext.ok, State.Lasts.tileUntil, State.Lasts.catchUp]

theorem State.Lasts.execPcRange (hb : b.Lasts s) (t : TileId) : b.LastsNext (execPcRange t s) := by
  grind [execPcRange, State.LastsNext.ok, State.Lasts.tileUntil, State.Lasts.catchUp]

theorem State.Lasts.execHgetHandle (hb : b.Lasts s) (t : TileId) : b.LastsNext (execHgetHandle t s) := by
  refine .ok ?_
  split
  · extract_lets s1
    have h1 : b.Lasts s1 := hb.pullRing _ _
    split
    · extract_lets a s2
      have h2 : b.Lasts s2 := h1.runTo _ _
      clear_value s1 s2
      split
      · refine State.Lasts.catchUp ?_ _
        split
        · exact ((h2.takeHandle _).taint _ _).modTile _ _
        · exact h2
      · exact h1
    · exact h1
  · exact hb

theorem State.Lasts.execHandleTimeout (hb : b.Lasts s) (t : TileId) : b.LastsNext (execHandleTimeout t s) := by
  grind [execHandleTimeout, State.LastsNext.ok, State.Lasts.pullRing, State.Lasts.through]

theorem State.Lasts.execNopCommand (hb : b.Lasts s) (ring : Nat) : b.LastsNext (execNopCommand ring s) := by
  refine .ok (hb.command _ _ fun c s hb => ?_)
  refine State.Lasts.paramOr hb _ _ _ _ fun s hb => ?_
  grind [State.Lasts.done]

theorem State.Lasts.execHostTime (hb : b.Lasts s) (ring : Nat) : b.LastsNext (execHostTime ring s) := by
  refine .ok (hb.command _ _ fun c s hb => ?_)
  refine State.Lasts.paramOr hb _ _ _ _ fun s hb => ?_
  grind [State.Lasts.done, State.Lasts.with]

theorem State.Lasts.execRingAlloc (hb : b.Lasts s) (ring : Nat) : b.LastsNext (execRingAlloc ring s) := by
  refine .ok (hb.command _ _ fun c s hb => State.Lasts.paramOr hb _ _ _ _ fun s hb => ?_)
  split
  · exact hb.refuse _ _
  · dsimp only
    split
    · split
      · exact hb.refuse _ _
      · refine State.Lasts.done (State.Lasts.setAux (State.Lasts.setRing ?_ _ _) _ _) _ _
        refine hb.with ?_ ?_ ?_ ?_ ?_ ?_
        exacts [id, fun hs => mapWf_mapClearRange hs _ _, id, rfl, rfl, rfl]
    · exact hb.refuse _ _

theorem State.Lasts.execRingFree (hb : b.Lasts s) (ring : Nat) : b.LastsNext (execRingFree ring s) := by
  refine .ok (hb.command _ _ fun c s hb => ?_)
  dsimp only
  refine State.Lasts.paramOr hb _ _ _ _ fun s hb => ?_
  grind [State.Lasts.refuse, State.Lasts.served, State.Lasts.setRing, State.Lasts.setAux, State.Lasts.done,
    State.Lasts.with]

theorem State.Lasts.execRingQuery (hb : b.Lasts s) (ring : Nat) : b.LastsNext (execRingQuery ring s) := by
  refine .ok (hb.command _ _ fun c s hb => ?_)
  dsimp only
  refine State.Lasts.paramOr hb _ _ _ _ fun s hb => ?_
  grind [State.Lasts.answerRecord]

theorem State.Lasts.execContextQuery (hb : b.Lasts s) (ring : Nat) : b.LastsNext (execContextQuery ring s) := by
  refine .ok (hb.command _ _ fun c s hb => ?_)
  dsimp only
  refine State.Lasts.paramOr hb _ _ _ _ fun s hb => ?_
  grind [State.Lasts.answerRecord]

theorem State.Lasts.execAbortRead (hb : b.Lasts s) (ring : Nat) : b.LastsNext (execAbortRead ring s) := by
  refine .ok (hb.command _ _ fun c s hb => ?_)
  refine State.Lasts.paramOr hb _ _ _ _ fun s hb => ?_
  grind [State.Lasts.done]

theorem State.Lasts.execFence (hb : b.Lasts s) (ring : Nat) : b.LastsNext (execFence ring s) := by
  refine .ok (hb.command _ _ fun c s hb => ?_)
  dsimp only
  refine State.Lasts.paramOr hb _ _ _ _ fun s hb => ?_
  grind [State.Lasts.final, State.Lasts.done, State.Lasts.refuse, State.Lasts.setAux, State.Lasts.with]

theorem State.Lasts.execFenceTimeout (hb : b.Lasts s) (ring : Nat) : b.LastsNext (execFenceTimeout ring s) := by
  grind [execFenceTimeout, State.LastsNext.ok, State.Lasts.toSc, State.Lasts.answer]

theorem State.Lasts.execCommandDoorbell (hb : b.Lasts s) (ring : BitVec 18) (v : BitVec 32) : b.LastsNext
    (execCommandDoorbell ring v s) := by
  grind [execCommandDoorbell, State.LastsNext.ok, State.Lasts.setRing, State.Lasts.setAux, State.Lasts.settled,
    State.Lasts.doorbellError, State.Lasts.with]

theorem State.Lasts.execCompletionDoorbell (hb : b.Lasts s) (ring : BitVec 18) (v : BitVec 32) : b.LastsNext
    (execCompletionDoorbell ring v s) := by
  grind [execCompletionDoorbell, State.LastsNext.ok, State.Lasts.setRing, State.Lasts.flushHeld,
    State.Lasts.drainNotices, State.Lasts.settled, State.Lasts.doorbellError, State.Lasts.with]

theorem State.Lasts.execPageQuery (hb : b.Lasts s) (ring : Nat) : b.LastsNext (execPageQuery ring s) := by
  refine .ok (hb.command _ _ fun c s hb => ?_)
  dsimp only
  refine State.Lasts.paramOr hb _ _ _ _ fun s hb => ?_
  grind [State.Lasts.refuse, State.Lasts.done]

theorem State.Lasts.execPageMap (hb : b.Lasts s) (ring : Nat) : b.LastsNext (execPageMap ring s) := by
  refine .ok (hb.command _ _ fun c s hb => ?_)
  dsimp only
  refine State.Lasts.paramOr hb _ _ _ _ fun s hb => ?_
  grind [State.Lasts.mapStart]

theorem State.Lasts.execMapClearComplete (hb : b.Lasts s) (ring : Nat) : b.LastsNext (execMapClearComplete ring s) := by
  grind [execMapClearComplete, State.LastsNext.ok, State.Lasts.clearFrames, State.Lasts.defer_, State.Lasts.mapPages,
    State.Lasts.done, State.Lasts.refuse, State.Lasts.with]

theorem State.Lasts.execPageUnmap (hb : b.Lasts s) (ring : Nat) : b.LastsNext (execPageUnmap ring s) := by
  refine .ok (hb.command _ _ fun c s hb => ?_)
  refine State.Lasts.paramOr hb _ _ _ _ fun s hb => ?_
  grind [State.Lasts.pageStart]

theorem State.Lasts.execPageSeal (hb : b.Lasts s) (ring : Nat) : b.LastsNext (execPageSeal ring s) := by
  refine .ok (hb.command _ _ fun c s hb => ?_)
  refine State.Lasts.paramOr hb _ _ _ _ fun s hb => ?_
  grind [State.Lasts.pageStart]

theorem State.Lasts.execPageOpen (hb : b.Lasts s) (ring : Nat) : b.LastsNext (execPageOpen ring s) := by
  refine .ok (hb.command _ _ fun c s hb => ?_)
  refine State.Lasts.paramOr hb _ _ _ _ fun s hb => ?_
  grind [State.Lasts.pageStart]

theorem State.Lasts.execPageMigrate (hb : b.Lasts s) (ring : Nat) : b.LastsNext (execPageMigrate ring s) := by
  refine .ok (hb.command _ _ fun c s hb => ?_)
  dsimp only
  refine State.Lasts.paramOr hb _ _ _ _ fun s hb => ?_
  grind [State.Lasts.migrateStart]

theorem State.Lasts.execMigrationSwitch (hb : b.Lasts s) (page : Nat) (copied : Bool) : b.LastsNext (execMigrationSwitch
    page copied s) := by
  refine .ok ?_
  split
  · exact hb
  · dsimp only
    split
    · exact ((hb.migrationEnd _ _).migrateAnswer _ _ _ _).unmapsDue
    · split
      · exact hb
      · split
        · exact hb
        · next bs _ =>
          have h1 := hb.moveSwitch ‹Migration› bs
          split
          · exact h1.migrateAnswer _ _ _ _
          · split
            · exact h1.migrateAnswer _ _ _ _
            · split
              · next e => exact h1.moveStart e
              · exact h1.migrateAnswer _ _ _ _

theorem State.Lasts.execLendSet (hb : b.Lasts s) (ring : Nat) : b.LastsNext (execLendSet ring s) := by
  refine .ok (hb.command _ _ fun c s hb => ?_)
  dsimp only
  refine State.Lasts.paramOr hb _ _ _ _ fun s hb => ?_
  grind [State.Lasts.refuse, State.Lasts.auditFor, State.Lasts.portsSend, State.Lasts.done, State.Lasts.with]

theorem State.Lasts.execLendQuery (hb : b.Lasts s) (ring : Nat) : b.LastsNext (execLendQuery ring s) := by
  refine .ok (hb.command _ _ fun c s hb => ?_)
  refine State.Lasts.paramOr hb _ _ _ _ fun s hb => ?_
  grind [State.Lasts.answerRecord]

theorem State.Lasts.execMpass (hb : b.Lasts s) (t : TileId) (f : MatF) : b.LastsNext (execMpass t f s) :=
  .ok (hb.enqueueFor _ _)

theorem State.Lasts.execMload (hb : b.Lasts s) (t : TileId) (f : MatF) : b.LastsNext (execMload t f s) :=
  .ok (hb.enqueueFor _ _)

theorem State.Lasts.execMdesc (hb : b.Lasts s) (t : TileId) (f : MatF) : b.LastsNext (execMdesc t f s) :=
  .ok (hb.enqueueFor _ _)

theorem State.Lasts.execStationaryLoadComplete (hb : b.Lasts s) (t : TileId) : b.LastsNext (execStationaryLoadComplete t
    s) :=
  .ok (hb.eventAt _ _)

theorem State.Lasts.execDescriptorValid (hb : b.Lasts s) (t : TileId) (vector : Bool) (slot : BitVec 2) : b.LastsNext
    (execDescriptorValid t vector slot s) := by
  grind [execDescriptorValid, State.LastsNext.ok, State.Lasts.eventAt]

theorem State.Lasts.execEntryEnqueue (hb : b.Lasts s) (t : TileId) : b.LastsNext (execEntryEnqueue t s) :=
  .ok (hb.eventAt _ _)

theorem State.Lasts.execEntryVisible (hb : b.Lasts s) (t : TileId) : b.LastsNext (execEntryVisible t s) :=
  .ok (hb.eventAt _ _)

theorem State.Lasts.execEntryRelease (hb : b.Lasts s) (t : TileId) : b.LastsNext (execEntryRelease t s) :=
  .ok (hb.eventAt _ _)

theorem State.Lasts.execHandoffTimeout (hb : b.Lasts s) (t : TileId) : b.LastsNext (execHandoffTimeout t s) := by
  grind [execHandoffTimeout, State.LastsNext.ok, State.Lasts.through]

theorem State.Lasts.execStationaryTimeout (hb : b.Lasts s) (t : TileId) : b.LastsNext (execStationaryTimeout t s) := by
  grind [execStationaryTimeout, State.LastsNext.ok, State.Lasts.through]

theorem State.Lasts.execAccumulatorSetFree (hb : b.Lasts s) (t : TileId) (set : Bool) : b.LastsNext
    (execAccumulatorSetFree t set s) := by
  grind [execAccumulatorSetFree, State.LastsNext.ok, State.Lasts.eventAt]

theorem State.Lasts.execVadd (hb : b.Lasts s) (t : TileId) (f : VecF) : b.LastsNext (execVadd t f s) :=
  .ok (hb.enqueueFor _ _)

theorem State.Lasts.execVsub (hb : b.Lasts s) (t : TileId) (f : VecF) : b.LastsNext (execVsub t f s) :=
  .ok (hb.enqueueFor _ _)

theorem State.Lasts.execVmul (hb : b.Lasts s) (t : TileId) (f : VecF) : b.LastsNext (execVmul t f s) :=
  .ok (hb.enqueueFor _ _)

theorem State.Lasts.execVmin (hb : b.Lasts s) (t : TileId) (f : VecF) : b.LastsNext (execVmin t f s) :=
  .ok (hb.enqueueFor _ _)

theorem State.Lasts.execVmax (hb : b.Lasts s) (t : TileId) (f : VecF) : b.LastsNext (execVmax t f s) :=
  .ok (hb.enqueueFor _ _)

theorem State.Lasts.execVfma (hb : b.Lasts s) (t : TileId) (f : VecF) : b.LastsNext (execVfma t f s) :=
  .ok (hb.enqueueFor _ _)

theorem State.Lasts.execVabs (hb : b.Lasts s) (t : TileId) (f : VecF) : b.LastsNext (execVabs t f s) :=
  .ok (hb.enqueueFor _ _)

theorem State.Lasts.execVneg (hb : b.Lasts s) (t : TileId) (f : VecF) : b.LastsNext (execVneg t f s) :=
  .ok (hb.enqueueFor _ _)

theorem State.Lasts.execVcmp (hb : b.Lasts s) (t : TileId) (f : VecF) : b.LastsNext (execVcmp t f s) :=
  .ok (hb.enqueueFor _ _)

theorem State.Lasts.execVsel (hb : b.Lasts s) (t : TileId) (f : VecF) : b.LastsNext (execVsel t f s) :=
  .ok (hb.enqueueFor _ _)

theorem State.Lasts.execViadd (hb : b.Lasts s) (t : TileId) (f : VecF) : b.LastsNext (execViadd t f s) :=
  .ok (hb.enqueueFor _ _)

theorem State.Lasts.execViadds (hb : b.Lasts s) (t : TileId) (f : VecF) : b.LastsNext (execViadds t f s) :=
  .ok (hb.enqueueFor _ _)

theorem State.Lasts.execVisub (hb : b.Lasts s) (t : TileId) (f : VecF) : b.LastsNext (execVisub t f s) :=
  .ok (hb.enqueueFor _ _)

theorem State.Lasts.execVisubs (hb : b.Lasts s) (t : TileId) (f : VecF) : b.LastsNext (execVisubs t f s) :=
  .ok (hb.enqueueFor _ _)

theorem State.Lasts.execVimul (hb : b.Lasts s) (t : TileId) (f : VecF) : b.LastsNext (execVimul t f s) :=
  .ok (hb.enqueueFor _ _)

theorem State.Lasts.execVimuls (hb : b.Lasts s) (t : TileId) (f : VecF) : b.LastsNext (execVimuls t f s) :=
  .ok (hb.enqueueFor _ _)

theorem State.Lasts.execVimin (hb : b.Lasts s) (t : TileId) (f : VecF) : b.LastsNext (execVimin t f s) :=
  .ok (hb.enqueueFor _ _)

theorem State.Lasts.execVimax (hb : b.Lasts s) (t : TileId) (f : VecF) : b.LastsNext (execVimax t f s) :=
  .ok (hb.enqueueFor _ _)

theorem State.Lasts.execVand (hb : b.Lasts s) (t : TileId) (f : VecF) : b.LastsNext (execVand t f s) :=
  .ok (hb.enqueueFor _ _)

theorem State.Lasts.execVor (hb : b.Lasts s) (t : TileId) (f : VecF) : b.LastsNext (execVor t f s) :=
  .ok (hb.enqueueFor _ _)

theorem State.Lasts.execVxor (hb : b.Lasts s) (t : TileId) (f : VecF) : b.LastsNext (execVxor t f s) :=
  .ok (hb.enqueueFor _ _)

theorem State.Lasts.execVnot (hb : b.Lasts s) (t : TileId) (f : VecF) : b.LastsNext (execVnot t f s) :=
  .ok (hb.enqueueFor _ _)

theorem State.Lasts.execVshl (hb : b.Lasts s) (t : TileId) (f : VecF) : b.LastsNext (execVshl t f s) :=
  .ok (hb.enqueueFor _ _)

theorem State.Lasts.execVshr (hb : b.Lasts s) (t : TileId) (f : VecF) : b.LastsNext (execVshr t f s) :=
  .ok (hb.enqueueFor _ _)

theorem State.Lasts.execVsra (hb : b.Lasts s) (t : TileId) (f : VecF) : b.LastsNext (execVsra t f s) :=
  .ok (hb.enqueueFor _ _)

theorem State.Lasts.execVcvt (hb : b.Lasts s) (t : TileId) (f : VecF) : b.LastsNext (execVcvt t f s) :=
  .ok (hb.enqueueFor _ _)

theorem State.Lasts.execVrcp (hb : b.Lasts s) (t : TileId) (f : VecF) : b.LastsNext (execVrcp t f s) :=
  .ok (hb.enqueueFor _ _)

theorem State.Lasts.execVsqrt (hb : b.Lasts s) (t : TileId) (f : VecF) : b.LastsNext (execVsqrt t f s) :=
  .ok (hb.enqueueFor _ _)

theorem State.Lasts.execVrsq (hb : b.Lasts s) (t : TileId) (f : VecF) : b.LastsNext (execVrsq t f s) :=
  .ok (hb.enqueueFor _ _)

theorem State.Lasts.execVexp2 (hb : b.Lasts s) (t : TileId) (f : VecF) : b.LastsNext (execVexp2 t f s) :=
  .ok (hb.enqueueFor _ _)

theorem State.Lasts.execVlog2 (hb : b.Lasts s) (t : TileId) (f : VecF) : b.LastsNext (execVlog2 t f s) :=
  .ok (hb.enqueueFor _ _)

theorem State.Lasts.execVrsum (hb : b.Lasts s) (t : TileId) (f : VecF) : b.LastsNext (execVrsum t f s) :=
  .ok (hb.enqueueFor _ _)

theorem State.Lasts.execVrmax (hb : b.Lasts s) (t : TileId) (f : VecF) : b.LastsNext (execVrmax t f s) :=
  .ok (hb.enqueueFor _ _)

theorem State.Lasts.execVrmin (hb : b.Lasts s) (t : TileId) (f : VecF) : b.LastsNext (execVrmin t f s) :=
  .ok (hb.enqueueFor _ _)

theorem State.Lasts.execVrnz (hb : b.Lasts s) (t : TileId) (f : VecF) : b.LastsNext (execVrnz t f s) :=
  .ok (hb.enqueueFor _ _)

theorem State.Lasts.execVrnan (hb : b.Lasts s) (t : TileId) (f : VecF) : b.LastsNext (execVrnan t f s) :=
  .ok (hb.enqueueFor _ _)

theorem State.Lasts.execVdesc (hb : b.Lasts s) (t : TileId) (f : VecF) : b.LastsNext (execVdesc t f s) :=
  .ok (hb.enqueueFor _ _)

theorem State.Lasts.execVectorLastResult (hb : b.Lasts s) (t : TileId) : b.LastsNext (execVectorLastResult t s) := by
  grind [execVectorLastResult, State.LastsNext.ok, State.Lasts.tileUntil, State.Lasts.catchUp]

theorem State.Lasts.execSummaryValid (hb : b.Lasts s) (t : TileId) (q : BitVec 3) : b.LastsNext (execSummaryValid t q s)
    :=
  .ok (hb.eventAt _ _)

theorem State.Lasts.execXget (hb : b.Lasts s) (t : TileId) (f : XferF) : b.LastsNext (execXget t f s) :=
  .ok (hb.enqueueFor _ _)

theorem State.Lasts.execXput (hb : b.Lasts s) (t : TileId) (f : XferF) : b.LastsNext (execXput t f s) :=
  .ok (hb.enqueueFor _ _)

theorem State.Lasts.execXtile (hb : b.Lasts s) (t : TileId) (f : XferF) : b.LastsNext (execXtile t f s) :=
  .ok (hb.enqueueFor _ _)

theorem State.Lasts.execTransferComplete (hb : b.Lasts s) (t : TileId) (path : PathIn) : b.LastsNext
    (execTransferComplete t path s) := by
  have h0 := (hb.xferIssued t).catchUp t
  refine .ok ?_
  generalize (s.xferIssued t).catchUp t = s0 at h0 ⊢
  split
  · exact h0
  · extract_lets extra s1 n s2 s3 s4
    have h2 : b.Lasts s2 := (h0.count _ _ _).modTile _ _
    clear_value s2
    have h3 : b.Lasts s3 := h2.getD fun _ e => h2.tileUntil e
    clear_value s3
    have h4 : b.Lasts s4 := by
      simp only [s4]
      split
      · split
        · exact (h3.modTile _ _).getD fun _ e => (h3.modTile _ _).tileUntil e
        · exact h2
      · exact h2
    clear_value s4
    split
    · exact h0
    · split
      · exact (h0.ctxFault _ _).stopAtEnd _ _
      · exact (h4.endXfer _ _ _).catchUp _

theorem State.Lasts.execTaskAssign (hb : b.Lasts s) (t : TileId) (task : Nat) : b.LastsNext (execTaskAssign t task s) :=
    by
  grind [execTaskAssign, State.LastsNext.ok, State.Lasts.runTo, State.Lasts.modTile, State.Lasts.setTask,
    State.Lasts.with]

theorem State.Lasts.execEndComplete (hb : b.Lasts s) (t : TileId) : b.LastsNext (execEndComplete t s) := by
  grind [execEndComplete, State.LastsNext.ok, State.Lasts.tileUntil, State.Lasts.tileEnds, State.Lasts.catchUp]

theorem State.Lasts.execTaskEnd (hb : b.Lasts s) (task : Nat) : b.LastsNext (execTaskEnd task s) := by
  grind [execTaskEnd, State.LastsNext.ok, State.Lasts.setTask, State.Lasts.taskReply, State.Lasts.with]

theorem State.Lasts.execTaskAbort (hb : b.Lasts s) (task : Nat) (r : AbortRecord) : b.LastsNext (execTaskAbort task r s)
    := by
  grind [execTaskAbort, State.LastsNext.ok, State.Lasts.runTo, State.Lasts.weakRow, State.Lasts.markRow,
    State.Lasts.stopAtEnd, State.Lasts.noteEcc, State.Lasts.taskCause, State.Lasts.with]

theorem State.Lasts.execPeerAbort (hb : b.Lasts s) (part : AbortPart) : b.LastsNext (execPeerAbort part s) := by
  cases part <;> grind [Machine.execPeerAbort, State.LastsNext.ok, State.Lasts.runTo, State.Lasts.stopAtEnd,
    State.Lasts.settleAbort, State.Lasts.setCtx]

theorem State.Lasts.execTaskAbortReply (hb : b.Lasts s) (task : Nat) : b.LastsNext (execTaskAbortReply task s) := by
  grind [execTaskAbortReply, State.LastsNext.ok, State.Lasts.emptyRings, State.Lasts.setTask, State.Lasts.taskReply,
    State.Lasts.with]

theorem State.Lasts.execStreamComplete (hb : b.Lasts s) (e : StreamEnd) : b.LastsNext (execStreamComplete e s) := by
  grind [execStreamComplete, State.LastsNext.ok, State.Lasts.streamFail, State.Lasts.count, State.Lasts.setCtx,
    State.Lasts.streamHandle, State.Lasts.with]

theorem State.Lasts.execStreamLate (hb : b.Lasts s) (ctx : Nat) : b.LastsNext (execStreamLate ctx s) := by
  grind [execStreamLate, State.LastsNext.ok, State.Lasts.runTo, State.Lasts.toFc, State.Lasts.streamFail]

theorem State.Lasts.execDelivery (hb : b.Lasts s) (t : TileId) (d : Delivery) : b.LastsNext (execDelivery t d s) := by
  cases d <;> grind [Machine.execDelivery, State.LastsNext.ok, State.Lasts.fillTile, State.Lasts.streamMoves,
    State.Lasts.deliverRows]

theorem State.Lasts.execLenderUnreachable (hb : b.Lasts s) (lender : Nat) (ctx : Nat) : b.LastsNext
    (execLenderUnreachable lender ctx s) := by
  grind [execLenderUnreachable, State.LastsNext.ok, State.Lasts.streamFail, State.Lasts.with]

theorem State.Lasts.execTilthProgram (hb : b.Lasts s) (ring : Nat) : b.LastsNext (execTilthProgram ring s) := by
  refine .ok (hb.command _ _ fun c s hb => ?_)
  dsimp only
  refine State.Lasts.paramOr hb _ _ _ _ fun s hb => ?_
  grind [State.Lasts.refuse, State.Lasts.auditFor, State.Lasts.done, State.Lasts.with]

theorem State.Lasts.execTilthLayer (hb : b.Lasts s) (ring : Nat) : b.LastsNext (execTilthLayer ring s) := by
  refine .ok (hb.command _ _ fun c s hb => ?_)
  dsimp only
  refine State.Lasts.paramOr hb _ _ _ _ fun s hb => ?_
  grind [State.Lasts.refuse, State.Lasts.defer_]

theorem State.Lasts.execLayerNumerics (hb : b.Lasts s) (ring : Nat) : b.LastsNext (execLayerNumerics ring s) := by
  refine .ok (hb.command _ _ fun c s hb => ?_)
  dsimp only
  refine State.Lasts.paramOr hb _ _ _ _ fun s hb => ?_
  grind [State.Lasts.refuse, State.Lasts.defer_]

theorem State.Lasts.execSieveSet (hb : b.Lasts s) (ring : Nat) : b.LastsNext (execSieveSet ring s) := by
  refine .ok (hb.command _ _ fun c s hb => ?_)
  dsimp only
  refine State.Lasts.paramOr hb _ _ _ _ fun s hb => ?_
  grind [State.Lasts.refuse, State.Lasts.done, State.Lasts.with]

theorem State.Lasts.execNumericsRead (hb : b.Lasts s) (ring : Nat) : b.LastsNext (execNumericsRead ring s) := by
  refine .ok (hb.command _ _ fun c s hb => ?_)
  refine State.Lasts.paramOr hb _ _ _ _ fun s hb => ?_
  grind [State.Lasts.answerRecord]

theorem State.Lasts.execOverflowRead (hb : b.Lasts s) (ring : Nat) : b.LastsNext (execOverflowRead ring s) := by
  refine .ok (hb.command _ _ fun c s hb => ?_)
  dsimp only
  refine State.Lasts.paramOr hb _ _ _ _ fun s hb => ?_
  grind [State.Lasts.hostWrite, State.Lasts.done]

theorem State.Lasts.execCounterSelect (hb : b.Lasts s) (ring : Nat) : b.LastsNext (execCounterSelect ring s) := by
  refine .ok (hb.command _ _ fun c s hb => ?_)
  dsimp only
  refine State.Lasts.paramOr hb _ _ _ _ fun s hb => ?_
  grind [State.Lasts.refuse, State.Lasts.defer_, State.Lasts.counterSet, State.Lasts.done]

theorem State.Lasts.execOverflowEntry (hb : b.Lasts s) (o : OvfIn) : b.LastsNext (execOverflowEntry o s) := by
  refine .ok ?_
  split
  · split
    · exact hb
    · next e => exact ((hb.takeLimited e).enterOvf _).ovfPolicy _
  · exact hb

theorem State.Lasts.execSievePairResult (hb : b.Lasts s) (layer : Nat) (output : Nat) (narrow : Nat) (wide : Nat) (next
    : Bool) : b.LastsNext (execSievePairResult layer output narrow wide next s) := by
  refine .ok ?_
  split
  · exact hb
  · split
    · exact hb
    · split
      · exact hb
      · have h1 (r x y l) := (hb.compared r x y).countSource 2 4 0 0x0303 l 1 next
        extract_lets s1 _ _ _ _ s2
        have h2 : b.Lasts s2 := h1 _ _ _ _
        clear_value s1 s2
        split
        · exact h2.pairFailed _ _ _ _ _
        · exact h2.pairPasses _ _

theorem State.Lasts.execRescale (hb : b.Lasts s) (layer : Nat) : b.LastsNext (execRescale layer s) := by
  refine .ok ?_
  split
  · exact hb
  · extract_lets r s1 _ s2
    have h1 : b.Lasts r.1 :=
      State.Lasts.foldl_of (β := State × Nat) Prod.fst (fun x t hx => by exact hx.rescaleTensor _ _) _ hb
    change b.Lasts s1 at h1
    clear_value s1 r
    have h2 : b.Lasts s2 := h1.with id id id rfl rfl rfl
    split
    · exact hb
    · exact h2.audit _ _ _ _

theorem State.Lasts.execJobEnd (hb : b.Lasts s) (ring : Nat) : b.LastsNext (execJobEnd ring s) := by
  refine .ok (hb.command _ _ fun c s hb => ?_)
  refine State.Lasts.paramOr hb _ _ _ _ fun s hb => ?_
  grind [State.Lasts.refuse, State.Lasts.finishJob]

theorem State.Lasts.execImageLoad (hb : b.Lasts s) (ring : Nat) (image : Option Image) : b.LastsNext (execImageLoad ring
    image s) := by
  refine .ok (hb.command _ _ fun c s hb => ?_)
  dsimp only
  refine State.Lasts.paramOr hb _ _ _ _ fun s hb => ?_
  grind [State.Lasts.refuse, State.Lasts.setAux, State.Lasts.with]

theorem State.Lasts.execStepStatus (hb : b.Lasts s) (ring : Nat) : b.LastsNext (execStepStatus ring s) := by
  refine .ok (hb.command _ _ fun c s hb => ?_)
  refine State.Lasts.paramOr hb _ _ _ _ fun s hb => ?_
  grind [State.Lasts.answerRecord]

theorem State.Lasts.execTaskRun (hb : b.Lasts s) (ring : Nat) : b.LastsNext (execTaskRun ring s) := by
  refine .ok (hb.command _ _ fun c s hb => ?_)
  dsimp only
  refine State.Lasts.paramOr hb _ _ _ _ fun s hb => ?_
  grind [State.Lasts.refuse, State.Lasts.startTask, State.Lasts.taskHold, State.Lasts.keep, State.Lasts.with]

theorem State.Lasts.execStepRun (hb : b.Lasts s) (ring : Nat) (agree : Bool) : b.LastsNext (execStepRun ring agree s) :=
    by
  refine .ok (hb.command _ _ fun c s hb => ?_)
  dsimp only
  refine State.Lasts.paramOr hb _ _ _ _ fun s hb => ?_
  grind [State.Lasts.refuse, State.Lasts.runStart]

theorem State.Lasts.execStepCommit (hb : b.Lasts s) (ring : Nat) : b.LastsNext (execStepCommit ring s) := by
  refine .ok (hb.command _ _ fun c s hb => ?_)
  dsimp only
  refine State.Lasts.paramOr hb _ _ _ _ fun s hb => ?_
  grind [State.Lasts.refuse, State.Lasts.answer, State.Lasts.tryCommit, State.Lasts.with]

theorem State.Lasts.execStepAbort (hb : b.Lasts s) (ring : Nat) : b.LastsNext (execStepAbort ring s) := by
  refine .ok (hb.command _ _ fun c s hb => ?_)
  dsimp only
  refine State.Lasts.paramOr hb _ _ _ _ fun s hb => ?_
  grind [State.Lasts.refuse, State.Lasts.keep, State.Lasts.toLeader, State.Lasts.with]

theorem State.Lasts.execStepReady (hb : b.Lasts s) : b.LastsNext (execStepReady s) := by
  refine .ok ?_
  extract_lets E a _ _ _ s1 s2 _ s3 n
  have h1 : b.Lasts s1 := hb.with id id id rfl rfl rfl
  have h2 : b.Lasts s2 := h1.toLeader _
  clear_value s2
  have h3 : b.Lasts s3 := by
    simp only [s3]
    split
    · exact h2
    · exact State.Lasts.toLeader (h2.with id id id rfl rfl rfl) _
  split
  · split
    · exact h3
    · exact ((h3.setPstat _).holdSentFor _).toLeader _
  · exact hb

theorem State.Lasts.execStepReadyNotice (hb : b.Lasts s) (src : Nat) : b.LastsNext (execStepReadyNotice src s) := by
  refine .ok (hb.withNotice _ _ fun n bs s hb => ?_)
  grind [State.Lasts.tryCommit, State.Lasts.with]

theorem State.Lasts.execCommitNotice (hb : b.Lasts s) (src : Nat) : b.LastsNext (execCommitNotice src s) := by
  refine .ok (hb.withNotice _ _ fun n bs s hb => ?_)
  grind [State.Lasts.applyCommit]

theorem State.Lasts.execCommitAckNotice (hb : b.Lasts s) (src : Nat) : b.LastsNext (execCommitAckNotice src s) := by
  refine .ok (hb.withNotice _ _ fun n bs s hb => ?_)
  grind [State.Lasts.tryAcked, State.Lasts.with]

theorem State.Lasts.execStepSettledNotice (hb : b.Lasts s) (src : Nat) : b.LastsNext (execStepSettledNotice src s) := by
  refine .ok (hb.withNotice _ _ fun n bs s hb => ?_)
  grind [State.Lasts.applySettled]

theorem State.Lasts.execStepAbortNotice (hb : b.Lasts s) (src : Nat) : b.LastsNext (execStepAbortNotice src s) := by
  refine .ok (hb.withNotice _ _ fun n bs s hb => ?_)
  dsimp only
  grind [State.Lasts.toAll, State.Lasts.countNan, State.Lasts.with]

theorem State.Lasts.execAbortNotice (hb : b.Lasts s) (src : Nat) : b.LastsNext (execAbortNotice src s) := by
  refine .ok (hb.withNotice _ _ fun n bs s hb => ?_)
  grind [State.Lasts.stopAs, State.Lasts.applyNextAbort, State.Lasts.applyAbort]

theorem State.Lasts.execStoppedNotice (hb : b.Lasts s) (src : Nat) : b.LastsNext (execStoppedNotice src s) := by
  refine .ok (hb.withNotice _ _ fun n bs s hb => ?_)
  dsimp only
  grind [State.Lasts.tryReplay, State.Lasts.with, State.Lasts.foldl]

theorem State.Lasts.execStepReplayNotice (hb : b.Lasts s) (src : Nat) : b.LastsNext (execStepReplayNotice src s) := by
  refine .ok (hb.withNotice _ _ fun n bs s hb => ?_)
  grind [State.Lasts.applyReplay]

theorem State.Lasts.execTaskAbortNotice (hb : b.Lasts s) (src : Nat) : b.LastsNext (execTaskAbortNotice src s) := by
  refine .ok (hb.withNotice _ _ fun n bs s hb => ?_)
  grind [State.Lasts.taskAborts, State.Lasts.with]

theorem State.Lasts.execSpecHoldNotice (hb : b.Lasts s) (src : Nat) : b.LastsNext (execSpecHoldNotice src s) := by
  refine .ok (hb.withNotice _ _ fun n bs s hb => ?_)
  dsimp only
  grind [State.Lasts.startPermutation, State.Lasts.with]

theorem State.Lasts.execPowerHoldNotice (hb : b.Lasts s) (src : Nat) : b.LastsNext (execPowerHoldNotice src s) := by
  refine .ok (hb.withNotice _ _ fun n bs s hb => ?_)
  dsimp only
  grind [State.Lasts.sendHold, State.Lasts.with]

theorem State.Lasts.execBoundaryWorkNotice (hb : b.Lasts s) (src : Nat) : b.LastsNext (execBoundaryWorkNotice src s) :=
    by
  refine .ok (hb.withNotice _ _ fun n bs s hb => ?_)
  dsimp only
  grind [State.Lasts.sendHold, State.Lasts.with, State.Lasts.foldl]

theorem State.Lasts.execBoundaryDoneNotice (hb : b.Lasts s) (src : Nat) : b.LastsNext (execBoundaryDoneNotice src s) :=
    by
  refine .ok (hb.withNotice _ _ fun n bs s hb => ?_)
  grind [State.Lasts.boundaryDone, State.Lasts.trySettle, State.Lasts.with]

theorem State.Lasts.execPermuteDoneNotice (hb : b.Lasts s) (src : Nat) : b.LastsNext (execPermuteDoneNotice src s) := by
  refine .ok (hb.withNotice _ _ fun n bs s hb => ?_)
  grind [State.Lasts.tryPermuted, State.Lasts.with]

theorem State.Lasts.execSpeculativeStart (hb : b.Lasts s) (task : Nat) : b.LastsNext (execSpeculativeStart task s) := by
  grind [execSpeculativeStart, State.LastsNext.ok, State.Lasts.startSpec]

theorem State.Lasts.execStageEntryStart (hb : b.Lasts s) (die : Nat) : b.LastsNext (execStageEntryStart die s) := by
  grind [execStageEntryStart, State.LastsNext.ok, State.Lasts.startTask, State.Lasts.startSpec, State.Lasts.with]

theorem State.Lasts.execHoldExpiry (hb : b.Lasts s) : b.LastsNext (execHoldExpiry s) := by
  grind [execHoldExpiry, State.LastsNext.ok, State.Lasts.toSc, State.Lasts.trySettle, State.Lasts.with,
    State.Lasts.foldl]

theorem State.Lasts.execHoldWake (hb : b.Lasts s) : b.LastsNext (execHoldWake s) := by
  grind [execHoldWake, State.LastsNext.ok, State.Lasts.setUnit, State.Lasts.foldl]

theorem State.Lasts.execLenderDeclaredLost (hb : b.Lasts s) (lender : Nat) : b.LastsNext (execLenderDeclaredLost lender
    s) := by
  grind [execLenderDeclaredLost, State.LastsNext.ok, State.Lasts.audit, State.Lasts.faultNotice, State.Lasts.stepAbort,
    State.Lasts.tryRepair, State.Lasts.with, State.Lasts.foldl]

theorem State.Lasts.execReshard (hb : b.Lasts s) (ring : Nat) (agree : Bool) : b.LastsNext (execReshard ring agree s) :=
    by
  refine .ok (hb.command _ _ fun c s hb => ?_)
  dsimp only
  refine State.Lasts.paramOr hb _ _ _ _ fun s hb => ?_
  grind [State.Lasts.refuse, State.Lasts.answer, State.Lasts.sendHold, State.Lasts.keep, State.Lasts.with]

theorem State.Lasts.execPermutationComplete (hb : b.Lasts s) : b.LastsNext (execPermutationComplete s) := by
  refine .ok ?_
  extract_lets open_ pages _ s1 round
  have hc := MemState.foldl_clay (f := open_) (fun m n => by grind [MemState.setPage_clay]) pages s.mem
  have h1 : b.Lasts s1 := by
    refine hb.with ?_ ?_ ?_ ?_ ?_ ?_
    exacts [by rw [hc]; exact id, id, id, rfl, rfl, rfl]
  split
  · exact h1.toLeader _
  · exact hb

theorem State.Lasts.execBoundaryWorkComplete (hb : b.Lasts s) : b.LastsNext (execBoundaryWorkComplete s) := by
  grind [execBoundaryWorkComplete, State.LastsNext.ok, State.Lasts.doItems, State.Lasts.classChanged,
    State.Lasts.boundaryDone, State.Lasts.doBoundaries, State.Lasts.tryStopped, State.Lasts.with]

theorem State.Lasts.execReductionHop (hb : b.Lasts s) (bucket : Nat) (inputs : Nat) : b.LastsNext (execReductionHop
    bucket inputs s) := by
  grind [execReductionHop, State.LastsNext.ok, State.Lasts.localHop, State.Lasts.advanceBucket,
    State.Lasts.noteComplete, State.Lasts.reduceHop, State.Lasts.gatherHop, State.Lasts.passRows]

theorem State.Lasts.execTilthFold (hb : b.Lasts s) (slice : Nat) : b.LastsNext (execTilthFold slice s) := by
  refine .ok ?_
  split
  · exact hb
  · extract_lets unit s1 _
    have h1 : b.Lasts s1 := hb.foldBegins.toFc _
    clear_value s1
    split
    · exact hb
    · extract_lets s2
      have h2 : b.Lasts s2 := h1.with id id id rfl rfl rfl
      clear_value s2
      split
      · exact hb
      · exact (h2.unitAct _ _ fun o e => h2.foldRecord e).noteComplete _

theorem State.Lasts.execInversionPhase (hb : b.Lasts s) (slice : Nat) : b.LastsNext (execInversionPhase slice s) := by
  grind [execInversionPhase, State.LastsNext.ok, State.Lasts.tilthStops, State.Lasts.with]

theorem State.Lasts.execSweepStart (hb : b.Lasts s) (layer : Nat) : b.LastsNext (execSweepStart layer s) := by
  grind [execSweepStart, State.LastsNext.ok, State.Lasts.noteComplete, State.Lasts.foldBegins, State.Lasts.sendNotice,
    State.Lasts.unitAct, State.Lasts.closeSlice, State.Lasts.with, State.Lasts.foldl]

theorem State.Lasts.execSweepComplete (hb : b.Lasts s) (layer : Nat) : b.LastsNext (execSweepComplete layer s) := by
  grind [execSweepComplete, State.LastsNext.ok, State.Lasts.unitAct, State.Lasts.sweepSlice, State.Lasts.sweepRows,
    State.Lasts.sweepEnds, State.Lasts.foldl]

theorem State.Lasts.execLayerSeal (hb : b.Lasts s) (layer : Nat) : b.LastsNext (execLayerSeal layer s) := by
  refine .ok ?_
  split
  · extract_lets s1 k s2 s3 home s4 pend _ _ _ s5 s6 _ s7
    have h4 : b.Lasts s4 := (((hb.toFc _).applyAtSeal _).sealRanges _).sealRanges _
    clear_value s4
    have h5 : b.Lasts s5 := h4.with id id id rfl rfl rfl
    have h6 : b.Lasts s6 := h5.noteSealed _
    clear_value s6
    have h7 : b.Lasts s7 := by
      simp only [s7]
      split
      · exact h6
      · exact h6.with id id id rfl rfl rfl
    split
    · exact hb
    · exact (h7.foldl (fun _ _ hx => hx.gatherShard _) _).sweepAnswered _
  · exact hb

theorem State.Lasts.execTilthSweep (hb : b.Lasts s) (ring : Nat) : b.LastsNext (execTilthSweep ring s) := by
  refine .ok (hb.command _ _ fun c s hb => ?_)
  dsimp only
  refine State.Lasts.paramOr hb _ _ _ _ fun s hb => ?_
  grind [State.Lasts.refuse, State.Lasts.auditFor, State.Lasts.setAux, State.Lasts.with]

theorem State.Lasts.execShardDigestCheck (hb : b.Lasts s) (layer : Nat) (shard : Nat) (digest : BitVec 64) : b.LastsNext
    (execShardDigestCheck layer shard digest s) := by
  grind [execShardDigestCheck, State.LastsNext.ok, State.Lasts.repairCheck, State.Lasts.tryRepair,
    State.Lasts.shardArrived, State.Lasts.shardMismatch, State.Lasts.with]

theorem State.Lasts.execGatherLookup (hb : b.Lasts s) (layer : Nat) (row : Nat) (next : Bool) : b.LastsNext
    (execGatherLookup layer row next s) := by
  grind [execGatherLookup, State.LastsNext.ok, State.Lasts.countSource, State.Lasts.poisonNotice, State.Lasts.with]

theorem State.Lasts.execLayerCompleteNotice (hb : b.Lasts s) (src : Nat) (lent : LentLayer) : b.LastsNext
    (execLayerCompleteNotice src lent s) := by
  refine .ok (hb.withNotice _ _ fun n bs s hb => ?_)
  grind [State.Lasts.ownerJob, State.Lasts.seeOwner, State.Lasts.lentSweep]

theorem State.Lasts.execOwnerCommitNotice (hb : b.Lasts s) (src : Nat) : b.LastsNext (execOwnerCommitNotice src s) := by
  refine .ok (hb.withNotice _ _ fun n bs s hb => ?_)
  grind [State.Lasts.ownerJob, State.Lasts.seeOwner]

theorem State.Lasts.execWrite (hb : b.Lasts s) (port : Nat) (f : Frame) : b.LastsNext (execWrite port f s) := by
  refine .ok (hb.arrive _ _ _ fun w lent s hb => ?_)
  grind [State.Lasts.lentWrite, State.Lasts.landWrite, State.Lasts.errorReply, State.Lasts.frameLanded]

theorem State.Lasts.execTileWrite (hb : b.Lasts s) (port : Nat) (f : Frame) : b.LastsNext (execTileWrite port f s) := by
  refine .ok (hb.arrive _ _ _ fun w lent s hb => ?_)
  dsimp only
  grind [State.Lasts.frameLanded, State.Lasts.deliverRows, State.Lasts.with]

theorem State.Lasts.execReadReq (hb : b.Lasts s) (port : Nat) (f : Frame) : b.LastsNext (execReadReq port f s) := by
  refine .ok (hb.arrive _ _ _ fun w lent s hb => ?_)
  dsimp only
  grind [State.Lasts.lentRead, State.Lasts.errorReply, State.Lasts.poisonNotice, State.Lasts.countRead,
    State.Lasts.replyData]

theorem State.Lasts.execReadReply (hb : b.Lasts s) (port : Nat) (f : Frame) : b.LastsNext (execReadReply port f s) := by
  refine .ok (hb.arrive _ _ _ fun w lent s hb => ?_)
  dsimp only
  grind [State.Lasts.writeCurrent, State.Lasts.landWrite, State.Lasts.streamFail, State.Lasts.streamMoves,
    State.Lasts.ctxMoved, State.Lasts.with]

theorem State.Lasts.execErrorReply (hb : b.Lasts s) (port : Nat) (f : Frame) : b.LastsNext (execErrorReply port f s) :=
    by
  refine .ok (hb.arrive _ _ _ fun w lent s hb => ?_)
  dsimp only
  grind [State.Lasts.tryRepair, State.Lasts.tryStopped, State.Lasts.setCtx, State.Lasts.streamFail, State.Lasts.with]

theorem State.Lasts.execCollective (hb : b.Lasts s) (port : Nat) (f : Frame) : b.LastsNext (execCollective port f s) :=
    by
  refine .ok (hb.arrive _ _ _ fun w lent s hb => ?_)
  grind [State.Lasts.arriveColl]

theorem State.Lasts.execGradForward (hb : b.Lasts s) (port : Nat) (f : Frame) (lent : LentLayer) : b.LastsNext
    (execGradForward port f lent s) := by
  refine .ok (hb.arrive _ _ _ fun w _ s hb => ?_)
  have h1 : b.Lasts (((s.ownerJob f.src f.job).seeOwner f.src w.epoch).lentBegins f.src f.stag) :=
    ((hb.ownerJob _ _).seeOwner _ _).lentBegins _ _
  have h2 := h1.gatherStream (2 ^ 64 + f.src * 2 ^ 32 + f.stag) f
  split
  · exact hb
  · extract_lets s1 r
    change b.Lasts r.2 at h2
    clear_value s1 r
    split
    · exact h2
    · split
      · exact h2
      · next e =>
        refine State.Lasts.foldl
          (State.Lasts.foldl_bind (fun _ _ _ hx e => hx.bankSlice e) _ (fun _ e => Option.some.inj e ▸ h2) e)
          (fun v x hv => ?_) _
        dsimp only
        split
        · exact hv.lentFold _ _ _ _
        · exact hv

theorem State.Lasts.execNoticeData (hb : b.Lasts s) (port : Nat) (f : Frame) : b.LastsNext (execNoticeData port f s) :=
    by
  refine .ok (hb.arrive _ _ _ fun w lent s hb => ?_)
  grind [State.Lasts.with]

theorem State.Lasts.execControlFlit (hb : b.Lasts s) (port : Nat) (c : ControlFlit) : b.LastsNext (execControlFlit port
    c s) := by
  refine .ok ?_
  extract_lets left replay add q s1 s2 s3
  have h1 : b.Lasts s1 := hb.setPort _ _
  clear_value s1
  have h2 : b.Lasts s2 := by
    simp only [s2]
    split
    · exact State.Lasts.foldl (h1.foldl (fun _ _ hx => hx.countSource _ _ _ _ _ _ _) _) (fun _ _ hx => hx.retried _ _ _) _
    · exact h1
  have h3 : b.Lasts s3 := (h2.followMap _ _).portSends _
  clear_value s3
  split
  · exact hb
  · split
    · split
      · exact (hb.setPort _ _).notice _ _
      · exact hb
    · split
      · exact h3.elim _ fun n => h3.arriveNotice n
      · exact hb

theorem State.Lasts.execFlitDiscarded (hb : b.Lasts s) (port : Nat) : b.LastsNext (execFlitDiscarded port s) := by
  grind [execFlitDiscarded, State.LastsNext.ok, State.Lasts.setPort, State.Lasts.count, State.Lasts.with]

theorem State.Lasts.execPortTrained (hb : b.Lasts s) (port : Nat) (r : TrainIn) : b.LastsNext (execPortTrained port r s)
    := by
  grind [execPortTrained, State.LastsNext.ok, State.Lasts.setPort, State.Lasts.notice, State.Lasts.portDown,
    State.Lasts.portNarrowed, State.Lasts.with]

theorem State.Lasts.execTopologySet (hb : b.Lasts s) (ring : Nat) : b.LastsNext (execTopologySet ring s) := by
  refine .ok (hb.command _ _ fun c s hb => State.Lasts.paramOr hb _ _ _ _ fun s hb => ?_)
  grind [State.Lasts.refuse, State.Lasts.auditFor, State.Lasts.done, State.Lasts.topology]

theorem State.Lasts.execPortQuery (hb : b.Lasts s) (ring : Nat) : b.LastsNext (execPortQuery ring s) := by
  refine .ok (hb.command _ _ fun c s hb => ?_)
  refine State.Lasts.paramOr hb _ _ _ _ fun s hb => ?_
  grind [State.Lasts.done]

theorem State.Lasts.execPortEnable (hb : b.Lasts s) (ring : Nat) : b.LastsNext (execPortEnable ring s) := by
  refine .ok (hb.command _ _ fun c s hb => ?_)
  dsimp only
  refine State.Lasts.paramOr hb _ _ _ _ fun s hb => ?_
  grind [State.Lasts.refuse, State.Lasts.enablePort, State.Lasts.auditFor, State.Lasts.done, State.Lasts.foldl]

theorem State.Lasts.execCancel (hb : b.Lasts s) (ring : Nat) : b.LastsNext (execCancel ring s) := by
  refine .ok (hb.command _ _ fun c s hb => ?_)
  dsimp only
  refine State.Lasts.paramOr hb _ _ _ _ fun s hb => ?_
  grind [State.Lasts.migrationCancel, State.Lasts.done, State.Lasts.keep, State.Lasts.setAux, State.Lasts.refuse,
    State.Lasts.with]

theorem State.Lasts.execExport (hb : b.Lasts s) (ring : Nat) : b.LastsNext (execExport ring s) := by
  refine .ok (hb.command _ _ fun c s hb => ?_)
  dsimp only
  refine State.Lasts.paramOr hb _ _ _ _ fun s hb => ?_
  grind [State.Lasts.refuse, State.Lasts.setCtx, State.Lasts.setAux, State.Lasts.with]

theorem State.Lasts.execImport (hb : b.Lasts s) (ring : Nat) : b.LastsNext (execImport ring s) := by
  refine .ok (hb.command _ _ fun c s hb => ?_)
  dsimp only
  refine State.Lasts.paramOr hb _ _ _ _ fun s hb => ?_
  grind [State.Lasts.refuse, State.Lasts.setCtx, State.Lasts.setAux, State.Lasts.with]

theorem State.Lasts.execScrubFull (hb : b.Lasts s) (ring : Nat) : b.LastsNext (execScrubFull ring s) := by
  refine .ok (hb.command _ _ fun c s hb => ?_)
  dsimp only
  refine State.Lasts.paramOr hb _ _ _ _ fun s hb => ?_
  grind [State.Lasts.refuse, State.Lasts.setAux, State.Lasts.with]

theorem State.Lasts.execSelfTest (hb : b.Lasts s) (ring : Nat) : b.LastsNext (execSelfTest ring s) := by
  refine .ok (hb.command _ _ fun c s hb => ?_)
  dsimp only
  refine State.Lasts.paramOr hb _ _ _ _ fun s hb => ?_
  grind [State.Lasts.refuse, State.Lasts.setAux, State.Lasts.with]

theorem State.Lasts.execFwUpdate (hb : b.Lasts s) (ring : Nat) : b.LastsNext (execFwUpdate ring s) := by
  refine .ok (hb.command _ _ fun c s hb => State.Lasts.paramOr hb _ _ _ _ fun s hb => ?_)
  exact State.Lasts.setAux (hb.withSlot _ _) _ _

theorem State.Lasts.execSliceEnd (hb : b.Lasts s) (ring : Nat) : b.LastsNext (execSliceEnd ring s) := by
  grind [execSliceEnd, State.LastsNext.ok, State.Lasts.served, State.Lasts.done, State.Lasts.exportStep,
    State.Lasts.importStep, State.Lasts.unitsStep, State.Lasts.finish, State.Lasts.drawBelow, State.Lasts.sliceOver,
    State.Lasts.loadImage, State.Lasts.pauseEnds, State.Lasts.updateEnds]

theorem State.Lasts.execCompletionTimeout (hb : b.Lasts s) (ring : Nat) : b.LastsNext (execCompletionTimeout ring s) :=
    by
  grind [execCompletionTimeout, State.LastsNext.ok, State.Lasts.drawBelow, State.Lasts.finish, State.Lasts.with]

theorem State.Lasts.execFatal (hb : b.Lasts s) (u : UnitId) : b.LastsNext (execFatal u s) :=
  .ok (hb.goFatal _)

theorem State.Lasts.execLaneFailure (hb : b.Lasts s) (at_ : LaneAt) (lane : Nat) : b.LastsNext (execLaneFailure at_ lane
    s) :=
  .ok (hb.laneFails _ _)

theorem State.Lasts.execUnitFault (hb : b.Lasts s) (u : UnitId) : b.LastsNext (execUnitFault u s) := by
  grind [execUnitFault, State.LastsNext.ok, State.Lasts.tileFails, State.Lasts.tilthFails, State.Lasts.hubUnitFails]

theorem State.Lasts.execCoreFault (hb : b.Lasts s) (core : Nat) : b.LastsNext (execCoreFault core s) := by
  grind [execCoreFault, State.LastsNext.ok, State.Lasts.faultNotice, State.Lasts.coreStops, State.Lasts.coreDown,
    State.Lasts.pushBoundary, State.Lasts.atOnce, State.Lasts.loseCore]

theorem State.Lasts.execFallowSlotGrant (hb : b.Lasts s) (die : Nat) (unit : Nat) : b.LastsNext (execFallowSlotGrant die
    unit s) := by
  grind [execFallowSlotGrant, State.LastsNext.ok, State.Lasts.drawBelow, State.Lasts.useSlot]

theorem State.Lasts.execFallowDeadline (hb : b.Lasts s) (kind : Nat) (die : Nat) (unit : Nat) : b.LastsNext
    (execFallowDeadline kind die unit s) := by
  grind [execFallowDeadline, State.LastsNext.ok, State.Lasts.moveMiss, State.Lasts.periodicMiss]

theorem State.Lasts.execChannelCopyComplete (hb : b.Lasts s) (stack : Nat) (channel : Nat) : b.LastsNext
    (execChannelCopyComplete stack channel s) := by
  grind [execChannelCopyComplete, State.LastsNext.ok, State.Lasts.setBg, State.Lasts.pushBoundary, State.Lasts.atOnce,
    State.Lasts.with]

theorem State.Lasts.execPowerLimit (hb : b.Lasts s) (ring : Nat) : b.LastsNext (execPowerLimit ring s) := by
  refine .ok (hb.command _ _ fun c s hb => ?_)
  dsimp only
  refine State.Lasts.paramOr hb _ _ _ _ fun s hb => ?_
  grind [State.Lasts.auditFor, State.Lasts.done, State.Lasts.with]

theorem State.Lasts.execBudgetStep (hb : b.Lasts s) (ring : Nat) : b.LastsNext (execBudgetStep ring s) := by
  refine .ok (hb.command _ _ fun c s hb => ?_)
  refine State.Lasts.paramOr hb _ _ _ _ fun s hb => ?_
  grind [State.Lasts.setBudget, State.Lasts.done, State.Lasts.delayBudget]

theorem State.Lasts.execBudgetStepDelayEnd (hb : b.Lasts s) : b.LastsNext (execBudgetStepDelayEnd s) := by
  grind [execBudgetStepDelayEnd, State.LastsNext.ok, State.Lasts.toSc, State.Lasts.setBudget, State.Lasts.final,
    State.Lasts.with]

theorem State.Lasts.execBudgetLend (hb : b.Lasts s) (ring : Nat) : b.LastsNext (execBudgetLend ring s) := by
  refine .ok (hb.command _ _ fun c s hb => ?_)
  dsimp only
  refine State.Lasts.paramOr hb _ _ _ _ fun s hb => ?_
  grind [State.Lasts.auditFor, State.Lasts.done, State.Lasts.with]

theorem State.Lasts.execLendExpired (hb : b.Lasts s) : b.LastsNext (execLendExpired s) := by
  grind [execLendExpired, State.LastsNext.ok, State.Lasts.toSc, State.Lasts.audit, State.Lasts.powerNotice,
    State.Lasts.with]

theorem State.Lasts.execSupplyWarn (hb : b.Lasts s) : b.LastsNext (execSupplyWarn s) := by
  grind [execSupplyWarn, State.LastsNext.ok, State.Lasts.powerNotice, State.Lasts.with]

theorem State.Lasts.execSupplyWarnRise (hb : b.Lasts s) : b.LastsNext (execSupplyWarnRise s) := by
  grind [execSupplyWarnRise, State.LastsNext.ok, State.Lasts.with]

theorem State.Lasts.execSbBudgetWrite (hb : b.Lasts s) (v : BitVec 32) : b.LastsNext (execSbBudgetWrite v s) := by
  grind [execSbBudgetWrite, State.LastsNext.ok, State.Lasts.setBudget]

theorem State.Lasts.execSbWarnWrite (hb : b.Lasts s) (v : BitVec 32) : b.LastsNext (execSbWarnWrite v s) := by
  grind [execSbWarnWrite, State.LastsNext.ok, State.Lasts.setWarn]

theorem State.Lasts.execSbRegisterWrite (hb : b.Lasts s) (offset : Nat) (v : BitVec 32) : b.LastsNext
    (execSbRegisterWrite offset v s) := by
  grind [execSbRegisterWrite, State.LastsNext.ok, State.Lasts.setBudget, State.Lasts.setWarn, State.Lasts.with]

theorem State.Lasts.execPowerQuery (hb : b.Lasts s) (ring : Nat) : b.LastsNext (execPowerQuery ring s) := by
  refine .ok (hb.command _ _ fun c s hb => ?_)
  refine State.Lasts.paramOr hb _ _ _ _ fun s hb => ?_
  grind [State.Lasts.answerRecord]

theorem State.Lasts.execUnitDisable (hb : b.Lasts s) (ring : Nat) : b.LastsNext (execUnitDisable ring s) := by
  refine .ok (hb.command _ _ fun c s hb => ?_)
  dsimp only
  refine State.Lasts.paramOr hb _ _ _ _ fun s hb => ?_
  grind [State.Lasts.refuse, State.Lasts.disable]

theorem State.Lasts.execUnitEnable (hb : b.Lasts s) (ring : Nat) : b.LastsNext (execUnitEnable ring s) := by
  refine .ok (hb.command _ _ fun c s hb => ?_)
  dsimp only
  refine State.Lasts.paramOr hb _ _ _ _ fun s hb => ?_
  grind [State.Lasts.enable]

theorem State.Lasts.execUnitQuiesced (hb : b.Lasts s) (u : UnitId) : b.LastsNext (execUnitQuiesced u s) := by
  grind [execUnitQuiesced, State.LastsNext.ok, State.Lasts.toFc, State.Lasts.setUnit, State.Lasts.darken,
    State.Lasts.answerAll]

theorem State.Lasts.execUnitPowerDownComplete (hb : b.Lasts s) (u : UnitId) : b.LastsNext (execUnitPowerDownComplete u
    s) := by
  grind [execUnitPowerDownComplete, State.LastsNext.ok, State.Lasts.toFc, State.Lasts.darken, State.Lasts.setUnit]

theorem State.Lasts.execUnitWakeComplete (hb : b.Lasts s) (u : UnitId) : b.LastsNext (execUnitWakeComplete u s) := by
  grind [execUnitWakeComplete, State.LastsNext.ok, State.Lasts.toFc, State.Lasts.setUnit, State.Lasts.beginShut,
    State.Lasts.final, State.Lasts.foldl]

theorem State.Lasts.execPowerPeriod (hb : b.Lasts s) (r : PeriodIn) : b.LastsNext (execPowerPeriod r s) := by
  refine .ok ?_
  extract_lets s1 _ s2 s3 s4 s5 _
  have h1 : b.Lasts s1 := ((hb.toSc _).pointDone).thermalPeriod _ _
  clear_value s1
  have h2 : b.Lasts s2 := h1.with id id id rfl rfl rfl
  have h3 : b.Lasts s3 := (h2.stretchBy _).checkBudget _
  clear_value s3
  have h4 : b.Lasts s4 := by
    simp only [s4]
    split
    · exact h3.powerNotice _ _ _
    · exact h3
  have h5 : b.Lasts s5 := ((h4.movePoint _).gateUnits).recordDenied
  clear_value s5
  split
  · exact hb
  · exact h5.with id id id rfl rfl rfl

theorem State.Lasts.execOperatingPointReached (hb : b.Lasts s) : b.LastsNext (execOperatingPointReached s) := by
  grind [execOperatingPointReached, State.LastsNext.ok, State.Lasts.toSc, State.Lasts.pointDone]

theorem State.Lasts.execEnergySample (hb : b.Lasts s) (r : SampleIn) : b.LastsNext (execEnergySample r s) := by
  grind [execEnergySample, State.LastsNext.ok, State.Lasts.toSc, State.Lasts.addEnergy, State.Lasts.holdAbsolute,
    State.Lasts.quietFault, State.Lasts.with, State.Lasts.foldl]

theorem State.Lasts.execDroopDetected (hb : b.Lasts s) (cycles : Nat) : b.LastsNext (execDroopDetected cycles s) := by
  grind [execDroopDetected, State.LastsNext.ok, State.Lasts.stretchBy]

theorem State.Lasts.execIdentify (hb : b.Lasts s) (ring : Nat) : b.LastsNext (execIdentify ring s) := by
  refine .ok (hb.command _ _ fun c s hb => ?_)
  refine State.Lasts.paramOr hb _ _ _ _ fun s hb => ?_
  grind [State.Lasts.answerRecord]

theorem State.Lasts.execKeyEnrol (hb : b.Lasts s) (ring : Nat) : b.LastsNext (execKeyEnrol ring s) := by
  refine .ok (hb.command _ _ fun c s hb => State.Lasts.paramOr hb _ _ _ _ fun s hb => ?_)
  dsimp only
  split
  · exact hb.refuse _ _
  · next hnew =>
    split
    · exact hb.refuse _ _
    · refine State.Lasts.done (State.Lasts.auditFor ?_ _ _ _ _ _) _ _
      refine ⟨hb.pending, hb.fuses, hb.revoked, fun h k hk => ?_, hb.clay, hb.storage, hb.memory⟩
      rcases List.mem_append.mp hk with hk | hk
      · exact hb.apart h k hk
      · cases List.mem_singleton.mp hk
        simp only [Bool.or_eq_true, not_or] at hnew
        simpa using hnew.2

theorem State.Lasts.execKeyRevoke (hb : b.Lasts s) (ring : Nat) : b.LastsNext (execKeyRevoke ring s) := by
  refine .ok (hb.command _ _ fun c s hb => ?_)
  dsimp only
  refine State.Lasts.paramOr hb _ _ _ _ fun s hb => ?_
  grind [State.Lasts.revoke, State.Lasts.done, State.Lasts.refuse]

theorem State.Lasts.execSeatBind (hb : b.Lasts s) (ring : Nat) : b.LastsNext (execSeatBind ring s) := by
  refine .ok (hb.command _ _ fun c s hb => ?_)
  dsimp only
  refine State.Lasts.paramOr hb _ _ _ _ fun s hb => ?_
  grind [State.Lasts.refuse, State.Lasts.newInstall, State.Lasts.auditFor, State.Lasts.done, State.Lasts.with]

theorem State.Lasts.execGuestWindow (hb : b.Lasts s) (ring : Nat) : b.LastsNext (execGuestWindow ring s) := by
  refine .ok (hb.command _ _ fun c s hb => ?_)
  dsimp only
  refine State.Lasts.paramOr hb _ _ _ _ fun s hb => ?_
  grind [State.Lasts.refuse, State.Lasts.auditFor, State.Lasts.done, State.Lasts.with]

theorem State.Lasts.execAttest (hb : b.Lasts s) (ring : Nat) : b.LastsNext (execAttest ring s) := by
  refine .ok (hb.command _ _ fun c s hb => ?_)
  refine State.Lasts.paramOr hb _ _ _ _ fun s hb => ?_
  grind [State.Lasts.answerRecord]

theorem State.Lasts.execAuditRead (hb : b.Lasts s) (ring : Nat) : b.LastsNext (execAuditRead ring s) := by
  refine .ok (hb.command _ _ fun c s hb => ?_)
  dsimp only
  refine State.Lasts.paramOr hb _ _ _ _ fun s hb => ?_
  grind [State.Lasts.audit, State.Lasts.hostWrite, State.Lasts.markRead, State.Lasts.done]

theorem State.Lasts.execVectorUnmask (hb : b.Lasts s) (vector : BitVec 11) : b.LastsNext (execVectorUnmask vector s) :=
  .ok (hb.unmask _)

theorem State.Lasts.execRegisterWrite (hb : b.Lasts s) (offset : Nat) (size : Nat) (v : BitVec 64) : b.LastsNext
    (execRegisterWrite offset size v s) := by
  grind [execRegisterWrite, State.LastsNext.ok, State.Lasts.regWrite, State.Lasts.msixWrite, State.Lasts.with]

theorem State.Lasts.execEpochLoRead (hb : b.Lasts s) : b.LastsNext (execEpochLoRead s) := by
  grind [execEpochLoRead, State.LastsNext.ok, State.Lasts.with]

theorem State.Lasts.execDbErrRead (hb : b.Lasts s) : b.LastsNext (execDbErrRead s) := by
  grind [execDbErrRead, State.LastsNext.ok, State.Lasts.with]

theorem State.Lasts.execRingWindowWrite (hb : b.Lasts s) (offset : BitVec 25) (data : HostData) : b.LastsNext
    (execRingWindowWrite offset data s) := by
  refine .ok ?_
  split
  · exact hb.poisonedTlp
  · refine hb.with ?_ ?_ ?_ ?_ ?_ ?_
    exacts [id, foldl_put_wf _ _ _ _, id, rfl, rfl, rfl]

theorem State.Lasts.execApertureRead (hb : b.Lasts s) (offset : Nat) (len : Nat) : b.LastsNext (execApertureRead offset
    len s) := by
  grind [execApertureRead, State.LastsNext.ok, State.Lasts.seenBytes, State.Lasts.apertureEvent, State.Lasts.with,
    State.Lasts.foldl]

theorem State.Lasts.execApertureWrite (hb : b.Lasts s) (offset : Nat) (data : HostData) : b.LastsNext (execApertureWrite
    offset data s) := by
  grind [execApertureWrite, State.LastsNext.ok, State.Lasts.poisonedTlp, State.Lasts.outsideWrite,
    State.Lasts.apertureEvent, State.Lasts.foldl]

theorem State.Lasts.execGuestRead (hb : b.Lasts s) (addr : Nat) (len : Nat) : b.LastsNext (execGuestRead addr len s) :=
    by
  grind [execGuestRead, State.LastsNext.ok, State.Lasts.seenBytes, State.Lasts.denyGuest, State.Lasts.with]

theorem State.Lasts.execGuestWrite (hb : b.Lasts s) (addr : Nat) (bytes : List Byte) : b.LastsNext (execGuestWrite addr
    bytes s) := by
  grind [execGuestWrite, State.LastsNext.ok, State.Lasts.outsideWrite, State.Lasts.denyGuest, State.Lasts.with]

theorem State.Lasts.execD3hotEntry (hb : b.Lasts s) : b.LastsNext (execD3hotEntry s) := by
  grind [execD3hotEntry, State.LastsNext.ok, State.Lasts.with]

theorem State.Lasts.execD0Return (hb : b.Lasts s) : b.LastsNext (execD0Return s) := by
  grind [execD0Return, State.LastsNext.ok, State.Lasts.with, State.Lasts.foldl]

theorem State.Lasts.execUnsupportedRequest (hb : b.Lasts s) : b.LastsNext (execUnsupportedRequest s) := by
  grind [execUnsupportedRequest, State.LastsNext.ok, State.Lasts.with]

theorem State.Lasts.execFunctionLevelReset (hb : b.Lasts s) : b.LastsNext (execFunctionLevelReset s) := by
  refine .ok ?_
  extract_lets phase s1 s2 s3 _ s4
  have h1 : b.Lasts s1 := hb.resetStep
  have h3 : b.Lasts s3 := by
    refine State.Lasts.ringsReset ?_
    clear_value s1
    simp only [s2]
    split
    · exact (h1.settleJob.audit _ _ _ _).endJob
    · exact h1
  clear_value s3
  have h4 : b.Lasts s4 := by
    refine h3.with ?_ ?_ ?_ ?_ ?_ ?_
    exacts [id, id, id, rfl, rfl, rfl]
  split
  · refine hb.with ?_ ?_ ?_ ?_ ?_ ?_
    exacts [id, id, id, rfl, rfl, rfl]
  · exact h4.audit _ _ _ _

theorem State.Lasts.execFunctionLevelResetReady (hb : b.Lasts s) : b.LastsNext (execFunctionLevelResetReady s) := by
  grind [execFunctionLevelResetReady, State.LastsNext.ok, State.Lasts.setCause, State.Lasts.drainNotices,
    State.Lasts.with]

theorem State.Lasts.execPowerUp (hb : b.Lasts s) (straps : BitVec 3) : b.LastsNext (execPowerUp straps s) := by
  grind [execPowerUp, State.LastsNext.ok, State.Lasts.wipe, State.Lasts.ramp, State.Lasts.with]

theorem State.Lasts.execVin42Removed (hb : b.Lasts s) : b.LastsNext (execVin42Removed s) := by
  grind [execVin42Removed, State.LastsNext.ok, State.Lasts.railsDown, State.Lasts.with]

theorem State.Lasts.execInputRange (hb : b.Lasts s) : b.LastsNext (execInputRange s) := by
  grind [execInputRange, State.LastsNext.ok, State.Lasts.latchCause]

theorem State.Lasts.execThermalTrip (hb : b.Lasts s) (tj : Nat) : b.LastsNext (execThermalTrip tj s) := by
  grind [execThermalTrip, State.LastsNext.ok, State.Lasts.latchCause, State.Lasts.with]

theorem State.Lasts.execPwrgdInRise (hb : b.Lasts s) : b.LastsNext (execPwrgdInRise s) := by
  grind [execPwrgdInRise, State.LastsNext.ok, State.Lasts.ramp, State.Lasts.with]

theorem State.Lasts.execPwrgdInFall (hb : b.Lasts s) : b.LastsNext (execPwrgdInFall s) := by
  grind [execPwrgdInFall, State.LastsNext.ok, State.Lasts.railsDown, State.Lasts.with]

theorem State.Lasts.execBootStageComplete (hb : b.Lasts s) (r : BootIn) : b.LastsNext (execBootStageComplete r s) := by
  grind [execBootStageComplete, State.LastsNext.ok, State.Lasts.stageEnds, State.Lasts.bootFails, State.Lasts.with]

theorem State.Lasts.execBootStageTimeout (hb : b.Lasts s) : b.LastsNext (execBootStageTimeout s) := by
  grind [execBootStageTimeout, State.LastsNext.ok, State.Lasts.bootFails]

theorem State.Lasts.execPcieRefclkLoss (hb : b.Lasts s) : b.LastsNext (execPcieRefclkLoss s) := by
  grind [execPcieRefclkLoss, State.LastsNext.ok, State.Lasts.goFatal, State.Lasts.bootFails, State.Lasts.with]

theorem State.Lasts.execPerstNRise (hb : b.Lasts s) : b.LastsNext (execPerstNRise s) := by
  grind [execPerstNRise, State.LastsNext.ok, State.Lasts.repin, State.Lasts.with]

theorem State.Lasts.execConventionalReset (hb : b.Lasts s) : b.LastsNext (execConventionalReset s) := by
  grind [execConventionalReset, State.LastsNext.ok, State.Lasts.repin, State.Lasts.wipe, State.Lasts.with]

theorem State.Lasts.execEntdaa (hb : b.Lasts s) (addr : BitVec 7) : b.LastsNext (execEntdaa addr s) := by
  grind [execEntdaa, State.LastsNext.ok, State.Lasts.respond, State.Lasts.setDynamic]

theorem State.Lasts.execSetdasa (hb : b.Lasts s) (addr : BitVec 7) : b.LastsNext (execSetdasa addr s) := by
  grind [execSetdasa, State.LastsNext.ok, State.Lasts.setDynamic]

theorem State.Lasts.execSetnewda (hb : b.Lasts s) (addr : BitVec 7) : b.LastsNext (execSetnewda addr s) := by
  refine .ok (hb.addressed  fun s hb => ?_)
  grind [State.Lasts.setDynamic]

theorem State.Lasts.execRstdaa (hb : b.Lasts s) : b.LastsNext (execRstdaa s) := by
  grind [execRstdaa, State.LastsNext.ok, State.Lasts.setDynamic]

theorem State.Lasts.execGetpid (hb : b.Lasts s) : b.LastsNext (execGetpid s) := by
  refine .ok (hb.addressed  fun s hb => ?_)
  grind [State.Lasts.respond]

theorem State.Lasts.execGetbcr (hb : b.Lasts s) : b.LastsNext (execGetbcr s) := by
  refine .ok (hb.addressed  fun s hb => ?_)
  grind [State.Lasts.respond]

theorem State.Lasts.execGetdcr (hb : b.Lasts s) : b.LastsNext (execGetdcr s) := by
  refine .ok (hb.addressed  fun s hb => ?_)
  grind [State.Lasts.respond]

theorem State.Lasts.execGetstatus (hb : b.Lasts s) : b.LastsNext (execGetstatus s) := by
  refine .ok (hb.addressed  fun s hb => ?_)
  grind [State.Lasts.respond]

theorem State.Lasts.execEnec (hb : b.Lasts s) : b.LastsNext (execEnec s) := by
  grind [execEnec, State.LastsNext.ok]

theorem State.Lasts.execDisec (hb : b.Lasts s) : b.LastsNext (execDisec s) := by
  grind [execDisec, State.LastsNext.ok]

theorem State.Lasts.execIdcode (hb : b.Lasts s) : b.LastsNext (execIdcode s) :=
  .ok (hb.tapTo _ _)

theorem State.Lasts.execSamplePreload (hb : b.Lasts s) (bits : List Bool) : b.LastsNext (execSamplePreload bits s) := by
  grind [execSamplePreload, State.LastsNext.ok, State.Lasts.tapTo, State.Lasts.with]

theorem State.Lasts.execExtest (hb : b.Lasts s) : b.LastsNext (execExtest s) :=
  .ok (hb.tapTo _ _)

theorem State.Lasts.execClamp (hb : b.Lasts s) : b.LastsNext (execClamp s) :=
  .ok (hb.tapTo _ _)

theorem State.Lasts.execHighz (hb : b.Lasts s) : b.LastsNext (execHighz s) :=
  .ok (hb.tapTo _ _)

theorem State.Lasts.execBypass (hb : b.Lasts s) : b.LastsNext (execBypass s) :=
  .ok (hb.tapTo _ _)

theorem State.Lasts.execCounterRead (hb : b.Lasts s) (ring : Nat) : b.LastsNext (execCounterRead ring s) := by
  refine .ok (hb.command _ _ fun c s hb => ?_)
  dsimp only
  refine State.Lasts.paramOr hb _ _ _ _ fun s hb => ?_
  grind [State.Lasts.countsNow, State.Lasts.answerRecord]

/-- No instruction loses what must last. -/
theorem State.Lasts.exec (hb : b.Lasts s) (i : Instr) : b.LastsNext (exec i s) :=
  match i with
  | .nop t f => hb.execNop t f
  | .li t f => hb.execLi t f
  | .add t f => hb.execAdd t f
  | .sub t f => hb.execSub t f
  | .mul t f => hb.execMul t f
  | .and t f => hb.execAnd t f
  | .or t f => hb.execOr t f
  | .xor t f => hb.execXor t f
  | .shl t f => hb.execShl t f
  | .shr t f => hb.execShr t f
  | .sra t f => hb.execSra t f
  | .slt t f => hb.execSlt t f
  | .sltu t f => hb.execSltu t f
  | .b t f => hb.execB t f
  | .beq t f => hb.execBeq t f
  | .bne t f => hb.execBne t f
  | .blt t f => hb.execBlt t f
  | .bge t f => hb.execBge t f
  | .bq t f => hb.execBq t f
  | .bqz t f => hb.execBqz t f
  | .loop t f => hb.execLoop t f
  | .qmov t f => hb.execQmov t f
  | .csig t f => hb.execCsig t f
  | .crd t f => hb.execCrd t f
  | .cwr t f => hb.execCwr t f
  | .sync t f => hb.execSync t f
  | .syncSatisfied t => hb.execSyncSatisfied t
  | .end_ t f => hb.execEnd t f
  | .endComplete t => hb.execEndComplete t
  | .abort t f => hb.execAbort t f
  | .pcRange t => hb.execPcRange t
  | .mpass t f => hb.execMpass t f
  | .mload t f => hb.execMload t f
  | .mdesc t f => hb.execMdesc t f
  | .stationaryLoadComplete t => hb.execStationaryLoadComplete t
  | .descriptorValid t vector slot => hb.execDescriptorValid t vector slot
  | .entryEnqueue t => hb.execEntryEnqueue t
  | .entryVisible t => hb.execEntryVisible t
  | .entryRelease t => hb.execEntryRelease t
  | .handoffTimeout t => hb.execHandoffTimeout t
  | .stationaryTimeout t => hb.execStationaryTimeout t
  | .vadd t f => hb.execVadd t f
  | .vsub t f => hb.execVsub t f
  | .vmul t f => hb.execVmul t f
  | .vmin t f => hb.execVmin t f
  | .vmax t f => hb.execVmax t f
  | .vfma t f => hb.execVfma t f
  | .vabs t f => hb.execVabs t f
  | .vneg t f => hb.execVneg t f
  | .vcmp t f => hb.execVcmp t f
  | .vsel t f => hb.execVsel t f
  | .viadd t f => hb.execViadd t f
  | .viadds t f => hb.execViadds t f
  | .visub t f => hb.execVisub t f
  | .visubs t f => hb.execVisubs t f
  | .vimul t f => hb.execVimul t f
  | .vimuls t f => hb.execVimuls t f
  | .vimin t f => hb.execVimin t f
  | .vimax t f => hb.execVimax t f
  | .vand t f => hb.execVand t f
  | .vor t f => hb.execVor t f
  | .vxor t f => hb.execVxor t f
  | .vnot t f => hb.execVnot t f
  | .vshl t f => hb.execVshl t f
  | .vshr t f => hb.execVshr t f
  | .vsra t f => hb.execVsra t f
  | .vcvt t f => hb.execVcvt t f
  | .vrcp t f => hb.execVrcp t f
  | .vsqrt t f => hb.execVsqrt t f
  | .vrsq t f => hb.execVrsq t f
  | .vexp2 t f => hb.execVexp2 t f
  | .vlog2 t f => hb.execVlog2 t f
  | .vrsum t f => hb.execVrsum t f
  | .vrmax t f => hb.execVrmax t f
  | .vrmin t f => hb.execVrmin t f
  | .vrnz t f => hb.execVrnz t f
  | .vrnan t f => hb.execVrnan t f
  | .vdesc t f => hb.execVdesc t f
  | .vectorLastResult t => hb.execVectorLastResult t
  | .summaryValid t q => hb.execSummaryValid t q
  | .xget t f => hb.execXget t f
  | .xput t f => hb.execXput t f
  | .xtile t f => hb.execXtile t f
  | .transferComplete t path => hb.execTransferComplete t path
  | .delivery t d => hb.execDelivery t d
  | .hget t f => hb.execHget t f
  | .hgetHandle t => hb.execHgetHandle t
  | .handleTimeout t => hb.execHandleTimeout t
  | .hput t f => hb.execHput t f
  | .taskAssign t task => hb.execTaskAssign t task
  | .taskEnd task => hb.execTaskEnd task
  | .taskAbort task r => hb.execTaskAbort task r
  | .peerAbort part => hb.execPeerAbort part
  | .taskAbortReply task => hb.execTaskAbortReply task
  | .streamComplete e => hb.execStreamComplete e
  | .streamLate ctx => hb.execStreamLate ctx
  | .stageEntryStart die => hb.execStageEntryStart die
  | .nopCommand ring => hb.execNopCommand ring
  | .identify ring => hb.execIdentify ring
  | .hostTime ring => hb.execHostTime ring
  | .ringAlloc ring => hb.execRingAlloc ring
  | .ringFree ring => hb.execRingFree ring
  | .ringQuery ring => hb.execRingQuery ring
  | .fence ring => hb.execFence ring
  | .fenceTimeout ring => hb.execFenceTimeout ring
  | .cancel ring => hb.execCancel ring
  | .pageMap ring => hb.execPageMap ring
  | .mapClearComplete ring => hb.execMapClearComplete ring
  | .pageUnmap ring => hb.execPageUnmap ring
  | .pageSeal ring => hb.execPageSeal ring
  | .pageOpen ring => hb.execPageOpen ring
  | .pageMigrate ring => hb.execPageMigrate ring
  | .migrationSwitch page copied => hb.execMigrationSwitch page copied
  | .pageQuery ring => hb.execPageQuery ring
  | .lendSet ring => hb.execLendSet ring
  | .lendQuery ring => hb.execLendQuery ring
  | .lenderDeclaredLost lender => hb.execLenderDeclaredLost lender
  | .imageLoad ring image => hb.execImageLoad ring image
  | .jobEnd ring => hb.execJobEnd ring
  | .stepRun ring agree => hb.execStepRun ring agree
  | .stepCommit ring => hb.execStepCommit ring
  | .stepAbort ring => hb.execStepAbort ring
  | .stepStatus ring => hb.execStepStatus ring
  | .taskRun ring => hb.execTaskRun ring
  | .tilthProgram ring => hb.execTilthProgram ring
  | .tilthLayer ring => hb.execTilthLayer ring
  | .tilthSweep ring => hb.execTilthSweep ring
  | .layerNumerics ring => hb.execLayerNumerics ring
  | .sieveSet ring => hb.execSieveSet ring
  | .reshard ring agree => hb.execReshard ring agree
  | .permutationComplete => hb.execPermutationComplete
  | .topologySet ring => hb.execTopologySet ring
  | .portQuery ring => hb.execPortQuery ring
  | .portEnable ring => hb.execPortEnable ring
  | .export_ ring => hb.execExport ring
  | .import_ ring => hb.execImport ring
  | .powerLimit ring => hb.execPowerLimit ring
  | .budgetStep ring => hb.execBudgetStep ring
  | .budgetStepDelayEnd => hb.execBudgetStepDelayEnd
  | .budgetLend ring => hb.execBudgetLend ring
  | .lendExpired => hb.execLendExpired
  | .powerQuery ring => hb.execPowerQuery ring
  | .unitDisable ring => hb.execUnitDisable ring
  | .unitEnable ring => hb.execUnitEnable ring
  | .unitQuiesced u => hb.execUnitQuiesced u
  | .unitWakeComplete u => hb.execUnitWakeComplete u
  | .keyEnrol ring => hb.execKeyEnrol ring
  | .keyRevoke ring => hb.execKeyRevoke ring
  | .seatBind ring => hb.execSeatBind ring
  | .attest ring => hb.execAttest ring
  | .auditRead ring => hb.execAuditRead ring
  | .guestWindow ring => hb.execGuestWindow ring
  | .fwUpdate ring => hb.execFwUpdate ring
  | .counterSelect ring => hb.execCounterSelect ring
  | .counterRead ring => hb.execCounterRead ring
  | .scrubFull ring => hb.execScrubFull ring
  | .selfTest ring => hb.execSelfTest ring
  | .contextQuery ring => hb.execContextQuery ring
  | .abortRead ring => hb.execAbortRead ring
  | .numericsRead ring => hb.execNumericsRead ring
  | .overflowRead ring => hb.execOverflowRead ring
  | .sliceEnd ring => hb.execSliceEnd ring
  | .commandDoorbell ring v => hb.execCommandDoorbell ring v
  | .completionDoorbell ring v => hb.execCompletionDoorbell ring v
  | .registerWrite offset size v => hb.execRegisterWrite offset size v
  | .epochLoRead => hb.execEpochLoRead
  | .dbErrRead => hb.execDbErrRead
  | .ringWindowWrite offset bytes => hb.execRingWindowWrite offset bytes
  | .apertureRead offset len => hb.execApertureRead offset len
  | .apertureWrite offset bytes => hb.execApertureWrite offset bytes
  | .functionLevelReset => hb.execFunctionLevelReset
  | .d3hotEntry => hb.execD3hotEntry
  | .d0Return => hb.execD0Return
  | .completionTimeout ring => hb.execCompletionTimeout ring
  | .write port f => hb.execWrite port f
  | .tileWrite port f => hb.execTileWrite port f
  | .readReq port f => hb.execReadReq port f
  | .readReply port f => hb.execReadReply port f
  | .errorReply port f => hb.execErrorReply port f
  | .collective port f => hb.execCollective port f
  | .gradForward port f lent => hb.execGradForward port f lent
  | .noticeData port f => hb.execNoticeData port f
  | .controlFlit port c => hb.execControlFlit port c
  | .portTrained port r => hb.execPortTrained port r
  | .laneFailure at_ lane => hb.execLaneFailure at_ lane
  | .stepReady => hb.execStepReady
  | .stepReadyNotice src => hb.execStepReadyNotice src
  | .commitNotice src => hb.execCommitNotice src
  | .commitAckNotice src => hb.execCommitAckNotice src
  | .stepSettledNotice src => hb.execStepSettledNotice src
  | .stepAbortNotice src => hb.execStepAbortNotice src
  | .abortNotice src => hb.execAbortNotice src
  | .stoppedNotice src => hb.execStoppedNotice src
  | .stepReplayNotice src => hb.execStepReplayNotice src
  | .taskAbortNotice src => hb.execTaskAbortNotice src
  | .layerCompleteNotice src lent => hb.execLayerCompleteNotice src lent
  | .ownerCommitNotice src => hb.execOwnerCommitNotice src
  | .specHoldNotice src => hb.execSpecHoldNotice src
  | .permuteDoneNotice src => hb.execPermuteDoneNotice src
  | .powerHoldNotice src => hb.execPowerHoldNotice src
  | .boundaryWorkNotice src => hb.execBoundaryWorkNotice src
  | .boundaryDoneNotice src => hb.execBoundaryDoneNotice src
  | .boundaryWorkComplete => hb.execBoundaryWorkComplete
  | .speculativeStart task => hb.execSpeculativeStart task
  | .reductionHop bucket inputs => hb.execReductionHop bucket inputs
  | .tilthFold slice => hb.execTilthFold slice
  | .inversionPhase slice => hb.execInversionPhase slice
  | .sweepStart layer => hb.execSweepStart layer
  | .sweepComplete layer => hb.execSweepComplete layer
  | .layerSeal layer => hb.execLayerSeal layer
  | .gatherLookup layer row next => hb.execGatherLookup layer row next
  | .shardDigestCheck layer shard digest => hb.execShardDigestCheck layer shard digest
  | .overflowEntry e => hb.execOverflowEntry e
  | .sievePairResult layer output narrow wide next => hb.execSievePairResult layer output narrow wide next
  | .rescale layer => hb.execRescale layer
  | .powerPeriod r => hb.execPowerPeriod r
  | .operatingPointReached => hb.execOperatingPointReached
  | .energySample r => hb.execEnergySample r
  | .droopDetected cycles => hb.execDroopDetected cycles
  | .holdWake => hb.execHoldWake
  | .holdExpiry => hb.execHoldExpiry
  | .thermalTrip tj => hb.execThermalTrip tj
  | .supplyWarn => hb.execSupplyWarn
  | .supplyWarnRise => hb.execSupplyWarnRise
  | .sbBudgetWrite v => hb.execSbBudgetWrite v
  | .sbWarnWrite v => hb.execSbWarnWrite v
  | .sbRegisterWrite offset v => hb.execSbRegisterWrite offset v
  | .entdaa addr => hb.execEntdaa addr
  | .setdasa addr => hb.execSetdasa addr
  | .setnewda addr => hb.execSetnewda addr
  | .rstdaa => hb.execRstdaa
  | .getpid => hb.execGetpid
  | .getbcr => hb.execGetbcr
  | .getdcr => hb.execGetdcr
  | .getstatus => hb.execGetstatus
  | .enec => hb.execEnec
  | .disec => hb.execDisec
  | .idcode => hb.execIdcode
  | .samplePreload bits => hb.execSamplePreload bits
  | .extest => hb.execExtest
  | .clamp => hb.execClamp
  | .highz => hb.execHighz
  | .bypass => hb.execBypass
  | .powerUp straps => hb.execPowerUp straps
  | .vin42Removed => hb.execVin42Removed
  | .inputRange => hb.execInputRange
  | .pwrgdInRise => hb.execPwrgdInRise
  | .pwrgdInFall => hb.execPwrgdInFall
  | .perstNRise => hb.execPerstNRise
  | .conventionalReset => hb.execConventionalReset
  | .pcieRefclkLoss => hb.execPcieRefclkLoss
  | .bootStageComplete r => hb.execBootStageComplete r
  | .bootStageTimeout => hb.execBootStageTimeout
  | .fallowSlotGrant die unit => hb.execFallowSlotGrant die unit
  | .fallowDeadline kind die unit => hb.execFallowDeadline kind die unit
  | .channelCopyComplete stack channel => hb.execChannelCopyComplete stack channel
  | .unitFault u => hb.execUnitFault u
  | .coreFault core => hb.execCoreFault core
  | .fatal u => hb.execFatal u
  | .guestRead addr len => hb.execGuestRead addr len
  | .guestWrite addr bytes => hb.execGuestWrite addr bytes
  | .lenderUnreachable lender ctx => hb.execLenderUnreachable lender ctx
  | .accumulatorSetFree t set => hb.execAccumulatorSetFree t set
  | .unitPowerDownComplete u => hb.execUnitPowerDownComplete u
  | .flitDiscarded port => hb.execFlitDiscarded port
  | .functionLevelResetReady => hb.execFunctionLevelResetReady
  | .unsupportedRequest => hb.execUnsupportedRequest
  | .vectorUnmask vector => hb.execVectorUnmask vector

/-- Every step loses nothing of the state with its first command taken. -/
theorem State.lasts_step {s s' : State} (e : step s = .next s') : State.Lasts { s with pending := s.pending.tail } s' :=
    by
  unfold step at e
  split at e
  · next c rest h =>
    have hb : State.Lasts { s with pending := s.pending.tail } { s with pending := rest } := by
      rw [h]
      exact State.Lasts.refl _
    exact hb.exec c s' e
  · next h =>
    cases e
    have hb : State.Lasts { s with pending := s.pending.tail } s :=
      ⟨by rw [h]; rfl, rfl, fun _ h => h, fun h => h, fun h => h, fun h => h, fun h => h⟩
    exact hb.passFc 1

/-- Settles O59: a step loses no revoked key and enrols none. -/
theorem revokedKeysStayOut : Obligations.RevokedKeysStayOut := by
  intro s s' e hs
  have h := State.lasts_step e
  exact ⟨h.pending, h.fuses, h.revoked, h.apart hs⟩

theorem State.memoriesWf_iff (s : State) : s.memoriesWf = true ↔
    Memory.wf s.mem.clay = true ∧ Memory.wf s.rs.storage = true ∧ Memory.wf s.host.memory = true := by
  simp [State.memoriesWf, and_assoc]

/-- Settles O60: a step keeps the canonical form of each memory. -/
theorem memoriesStayCanonical : Obligations.MemoriesStayCanonical := by
  intro s s' e hs
  have h := State.lasts_step e
  obtain ⟨hc, hr, hm⟩ := s.memoriesWf_iff.mp hs
  exact s'.memoriesWf_iff.mpr ⟨h.clay hc, h.storage hr, h.memory hm⟩

end Sys2Proof.Machine
end


section
/-! SUPPORT. Scalar instructions: what the beginning of a fc leaves of the control core, and the instructions of Table 4.11. -/

namespace Sys2Proof.Machine

/-- Settles O1: one equation for each form of the queue. -/
theorem stepTakesTheFrontCommand : Obligations.StepTakesTheFrontCommand := by
  unfold Obligations.StepTakesTheFrontCommand
  refine ⟨fun s c rest h => by simp only [step, h], fun s h => ⟨s.passFc 1, by simp only [step, h], rfl, rfl, ?_⟩⟩
  change (s.sc + (s.scFc + 1) / fcPerSc s.pow.point) % 2 ^ 48 = _
  split
  · rfl
  · next hlt => rw [Nat.div_eq_of_lt (Nat.lt_of_not_le hlt), Nat.add_zero]

/-! ### What the beginning of a fc leaves of the control core -/

/-- What the control core of a tile holds: its registers, where it stands, its clock and its next dispatch. -/
def Tile.core (u : Tile) : Vector Word 16 × (TilePhase × Nat) × Nat × Nat × Nat :=
  (u.x, (u.phase, u.pc), u.seq, u.clock, u.nextDispatch)

theorem Tile.phase_of_core {u v : Tile} (h : v.core = u.core) : v.phase = u.phase :=
  congrArg (fun p => p.2.1.1) h

@[simp] theorem Tile.due_core (now : Nat) (u : Tile) : (u.due now).core = u.core := by
  simp only [Tile.due, Tile.loadsDue]
  split <;> rfl

@[simp] theorem Tile.issueLoad_core (now : Nat) (u : Tile) : (u.issueLoad now).1.core = u.core := by
  simp only [Tile.issueLoad]
  repeat' split
  all_goals rfl

theorem Tile.passStart_core (p : PassRun) (swap : Bool) (u : Tile) : (u.passStart p swap).core = u.core := by
  simp only [Tile.passStart]
  repeat' split
  all_goals rfl

@[simp] theorem Tile.issuePass_core (now : Nat) (u : Tile) : (u.issuePass now).1.core = u.core := by
  simp only [Tile.issuePass]
  split
  · rfl
  · split
    · split
      · rfl
      · split
        · rfl
        · split
          · rfl
          · split
            · rfl
            · exact Tile.passStart_core ..
    · rfl

@[simp] theorem Tile.issueVec_core (now : Nat) (u : Tile) : (u.issueVec now).1.core = u.core := by
  simp only [Tile.issueVec]
  repeat' split
  all_goals rfl

@[simp] theorem Tile.readPass_core (now : Nat) (u : Tile) : (u.readPass now).1.core = u.core := by
  simp only [Tile.readPass, Tile.setAcc]
  repeat' split
  all_goals rfl

@[simp] theorem Tile.readLoad_core (now : Nat) (u : Tile) : (u.readLoad now).1.core = u.core := by
  simp only [Tile.readLoad]
  repeat' split
  all_goals rfl

@[simp] theorem Tile.readVec_core (gen unit off now : Nat) (u : Tile) : (u.readVec gen unit off now).core = u.core := by
  simp only [Tile.readVec]
  split <;> rfl

/-- The control core of a tile with a program holds in `s'` what it held. -/
structure State.KeepsCore (t : TileId) (s s' : State) : Prop where
  core : (s.tile t).phase ≠ .free → (s'.tile t).core = (s.tile t).core

theorem State.KeepsCore.refl (t : TileId) (s : State) : s.KeepsCore t s := ⟨fun _ => rfl⟩

theorem State.KeepsCore.trans {t : TileId} {s u v : State} (h : s.KeepsCore t u) (h' : u.KeepsCore t v) :
    s.KeepsCore t v where
  core hp := (h'.core (by rwa [Tile.phase_of_core (h.core hp)])).trans (h.core hp)

theorem State.KeepsCore.of_tiles {s s' : State} (h : s'.tiles = s.tiles) (t : TileId) : s.KeepsCore t s' where
  core _ := by rw [State.tile, h, State.tile]

theorem State.KeepsCore.of_beside {s s' : State} (h : s.besideTiles s') (t : TileId) : s.KeepsCore t s' :=
  .of_tiles (State.besideTiles_tiles h) t

theorem State.KeepsCore.setTile {s : State} {t : TileId} {v : Tile} (hv : v.core = (s.tile t).core) :
    s.KeepsCore t (s.setTile t v) where
  core hp := by rw [State.tile_setTile (Tile.ne_idle_of_phase (by rwa [Tile.phase_of_core hv])), if_pos rfl, hv]

theorem State.KeepsCore.modTile {f : Tile → Tile} (hf : ∀ u, (f u).core = u.core) (t : TileId) (s : State) :
    s.KeepsCore t (s.modTile t f) := .setTile (hf _)

theorem State.KeepsCore.ite {t : TileId} {c : Prop} [Decidable c] {s a b : State} (ha : s.KeepsCore t a)
    (hb : s.KeepsCore t b) : s.KeepsCore t (if c then a else b) := by
  split
  · exact ha
  · exact hb

theorem State.xferDone_core (t : TileId) (run : XferRun) (last : Nat) (s : State) : s.KeepsCore t (s.xferDone t run last) := by
  unfold State.xferDone
  extract_lets u s1 s2 p
  have h1 : s.KeepsCore t s1 := .setTile (by rfl)
  have h2 : s.KeepsCore t s2 := h1.trans (.of_beside
    (State.besideTiles_trans (s1.ctxMoved_beside ..) ⟨_, _, _, _, _, rfl⟩) t)
  have hp : s.KeepsCore t p.1 := h2.trans (.of_beside (s2.postHandle_beside ..) t)
  exact .ite (.ite hp (h2.trans (.modTile (fun _ => by rfl) ..))) h2

theorem State.xferFault_core (run : XferRun) (e : MemFault) (s : State) (t : TileId) :
    s.KeepsCore t (s.xferFault run e).1 :=
  .of_tiles (s := s) (State.poisonNotice_tiles e (s.ctxFault run.record.ctx e.code)) t

theorem State.xgetRows_core (t : TileId) (now : Nat) (run : XferRun) (s : State) :
    s.KeepsCore t (s.xgetRows t now run).1 := by
  unfold State.xgetRows
  extract_lets k w la b s1 run' s2
  have h1 : s.KeepsCore t s1 := .ite (.refl t s) (.of_beside (State.besideTiles_of_sent (s.countRead_sent ..)) t)
  have h2 : s.KeepsCore t s2 := h1.trans (.trans (.modTile (fun _ => by rfl) ..) (.of_beside (State.ctxMoved_beside ..) t))
  split
  · exact .refl t s
  · split
    · exact h2.trans (s2.xferFault_core ..)
    · split
      · exact h2.trans (s2.xferDone_core ..)
      · exact h2

theorem State.xputRows_core (t : TileId) (now : Nat) (run : XferRun) (s : State) :
    s.KeepsCore t (s.xputRows t now run).1 := by
  unfold State.xputRows
  extract_lets due1 due run' b
  have hb : s.KeepsCore t b.1 := .trans (.modTile (fun _ => by rfl) ..) (.of_beside (State.putRows_beside ..) t)
  split
  · exact .refl t s
  · split
    · exact hb.trans (.trans (.modTile (fun _ => by rfl) ..) (State.xferFault_core ..))
    · split
      · exact hb.trans (b.1.xferDone_core ..)
      · exact hb

theorem State.moveXfer_core (t : TileId) (now : Nat) (s : State) : s.KeepsCore t (s.moveXfer t now).1 := by
  unfold State.moveXfer
  split
  · exact .refl t s
  · split
    · exact s.xgetRows_core ..
    · split
      · exact .ite (s.xferDone_core ..) (.refl t s)
      · exact .ite (s.xferDone_core ..) (.refl t s)
    · split
      · exact .ite (s.xferDone_core ..) (.refl t s)
      · exact s.xputRows_core ..

theorem State.xferStart_core (t : TileId) (now : Nat) (q : Queued) (op : XferOp) (f : XferF) (r : XferRec) (a : Nat)
    (s : State) : s.KeepsCore t (s.xferStart t now q op f r a) := by
  unfold State.xferStart
  extract_lets u run s1 w
  have h1 : s.KeepsCore t s1 := .trans (.setTile (by rfl)) (.of_beside (State.ctxStart_beside ..) t)
  refine h1.trans (.of_beside ?_ t)
  split
  · split
    · exact State.besideTiles_of_sent (State.sendReads_sent ..)
    · exact State.besideTiles_trans (s1.taint_beside ..) (State.besideTiles_of_sent (State.requestAway_sent ..))
  · exact s1.besideTiles_refl

theorem State.tileBegin_core (t : TileId) (s : State) : s.KeepsCore t (s.tileBegin t) := by
  unfold State.tileBegin
  extract_lets t0 now t1 late x s1 u1 refused tried
  split
  · exact .refl t s
  · have h1 : s.KeepsCore t s1 := .trans (.setTile ((Tile.due_core now t0 :) ▸ rfl)) (State.moveXfer_core ..)
    clear_value tried
    split
    next s2 c0 hm =>
    extract_lets u2 a b c issued p l v s3
    have h2 : s1.KeepsCore t s2 := by
      split at hm
      · obtain ⟨rfl, -⟩ := Prod.mk.inj hm
        exact State.xferStart_core ..
      · obtain ⟨rfl, -⟩ := Prod.mk.inj hm
        exact .refl t s1
      · obtain ⟨rfl, -⟩ := Prod.mk.inj hm
        exact .of_beside (State.refusedStream_beside ..) t
    have hi : issued.1.core = u2.core := by
      unfold issued
      split
      · rfl
      · simp [c, b, a]
    have hv : v.core = u2.core := by simp [v, l, p, hi]
    have h3 : s2.besideTiles s3 := State.besideTiles_trans (State.countTile_beside ..) (State.tileCount_beside ..)
    have hs : v.core = (s3.tile t).core := by rw [hv, State.besideTiles_tile h3]
    clear_value s3 v
    exact h1.trans (h2.trans (.trans (.of_beside h3 t) (.setTile (by exact hs))))

/-- The beginning of a fc leaves the control core as it is, whether a program stands on the tile or none does. -/
theorem State.tileBegin_tile_core (t : TileId) (s : State) : ((s.tileBegin t).tile t).core = (s.tile t).core := by
  by_cases hp : (s.tile t).phase = .free
  · have hb : (s.tile t).busy = false := by simp only [Tile.busy, hp]
    simp only [State.tileBegin, hb, Bool.not_false, Bool.or_true, if_true]
  · exact (State.tileBegin_core t s).core hp

/-! ### A fc that begins without a transfer -/

/-- What a tile that begins its fc with no transfer touches: its own tile and counters. -/
def State.tileAndCounts (t : TileId) (s s' : State) : Prop :=
  s' = { s with tiles := s'.tiles, cnt := s'.cnt } ∧ ∀ v, v ≠ t → s'.tile v = s.tile v

theorem State.countTile_only (id : TileId) (now : Nat) (u : Tile) (s : State) :
    ∃ c, s.countTile id now u = { s with cnt := c } := by
  unfold State.countTile
  split
  · exact ⟨_, rfl⟩
  · extract_lets waits macs s1 s2 s3 s4 s5 s6
    obtain ⟨c1, h1⟩ : ∃ c, s1 = { s with cnt := c } := State.tileCount_only ..
    obtain ⟨c2, h2⟩ : ∃ c, s2 = { s1 with cnt := c } := State.tileCount_only ..
    obtain ⟨c3, h3⟩ : ∃ c, s3 = { s2 with cnt := c } := State.tileCount_only ..
    obtain ⟨c4, h4⟩ : ∃ c, s4 = { s3 with cnt := c } := State.tileCount_only ..
    obtain ⟨c5, h5⟩ : ∃ c, s5 = { s4 with cnt := c } := State.tileCount_only ..
    obtain ⟨c6, h6⟩ : ∃ c, s6 = { s5 with cnt := c } := State.tileCount_only ..
    obtain ⟨c7, h7⟩ := State.tileCount_only id u 0x0109 macs (macs != 0) s6
    exact ⟨c7, by rw [h7, h6, h5, h4, h3, h2, h1]⟩

theorem Tile.due_xfer (now : Nat) (u : Tile) : (u.due now).xfer = u.xfer ∧ (u.due now).xferQ = u.xferQ := by
  simp only [Tile.due, Tile.loadsDue]
  split <;> exact ⟨rfl, rfl⟩

theorem State.moveXfer_none {s : State} {t : TileId} (h : (s.tile t).xfer = none) (now : Nat) :
    s.moveXfer t now = (s, none) := by
  simp only [State.moveXfer, h]

/-- Setting a tile twice, with counters between. -/
theorem State.tileAndCounts_of {s : State} {t : TileId} {a b : Tile} (ha : a ≠ Tile.idle) (hb : b ≠ Tile.idle) {c : CounterState} :
    s.tileAndCounts t ({ s.setTile t a with cnt := c }.setTile t b) := by
  refine ⟨rfl, fun v hv => ?_⟩
  rw [State.tile_setTile hb, if_neg hv]
  exact (State.tile_setTile ha t v s).trans (if_neg hv)

theorem State.tileBegin_noXfer {s : State} {t : TileId} (hx : (s.tile t).xfer = none) (hq : (s.tile t).xferQ = []) :
    s.tileAndCounts t (s.tileBegin t) := by
  unfold State.tileBegin
  extract_lets t0 now t1 late x s1 u1 refused tried
  split
  · exact ⟨rfl, fun _ _ => rfl⟩
  · next hb =>
    have hp : t0.phase ≠ .free := by
      intro hp
      simp [Tile.busy, hp] at hb
    obtain ⟨hx1, hq1⟩ := Tile.due_xfer now t0
    have hd : ({ t1 with later := none } : Tile) ≠ Tile.idle :=
      Tile.ne_idle_of_phase (by rw [show ({ t1 with later := none } : Tile).phase = t0.phase from Tile.due_phase ..]; exact hp)
    have ht : (s.setTile t { t1 with later := none }).tile t = { t1 with later := none } :=
      (State.tile_setTile hd t t s).trans (if_pos rfl)
    have hs1 : s1 = s.setTile t { t1 with later := none } :=
      congrArg Prod.fst (State.moveXfer_none (by rw [ht]; exact hx1.trans hx) now)
    have hu1 : u1 = { t1 with later := none } := by rw [← ht, ← hs1]
    have hq' : u1.xferQ = [] := by rw [hu1]; exact hq1.trans hq
    have hr : refused = false := by simp only [refused, Tile.recordRefused, Tile.recordRow_nil hq', Option.any_none]
    have hc : u1.core = t0.core := by rw [hu1]; exact Tile.due_core now t0
    have htry : tried = .inl .hold := by
      simp only [tried, hr, Bool.false_eq_true, if_false]
      exact State.xferTry_nil hq' ..
    clear_value tried refused
    subst htry
    dsimp -zeta only
    extract_lets a b c issued p l v s3
    have hi : issued.1.core = u1.core := by
      unfold issued
      split
      · rfl
      · simp [c, b, a]
    have hv : v.core = t0.core := by simp [v, l, p, hi, hc]
    have h3 : ∃ k, s3 = { s1 with cnt := k } := by
      obtain ⟨k, hk⟩ := State.countTile_only t now issued.1 s1
      obtain ⟨k', hk'⟩ := State.tileCount_only t v 0x0108 1 (refused && !s1.cnt.select.isEmpty) (s1.countTile t now issued.1)
      exact ⟨k', hk'.trans (by rw [hk])⟩
    clear_value s3 v
    obtain ⟨k, rfl⟩ := h3
    rw [hs1]
    refine State.tileAndCounts_of hd (Tile.ne_idle_of_phase ?_)
    exact fun h => hp ((Tile.phase_of_core hv).symm.trans h)

/-! ### Scalar instructions -/

theorem sltWord_eq (a b : Word) : (if a.slt b then 1 else 0 : Word) = if a.toInt < b.toInt then 1 else 0 := by
  simp only [BitVec.slt_eq_decide, decide_eq_true_eq]

theorem ultWord_eq (a b : Word) : (if a.ult b then 1 else 0 : Word) = if a.toNat < b.toNat then 1 else 0 := by
  simp only [BitVec.ult, decide_eq_true_eq]

theorem mulWord_eq (a b : Word) : a * b = BitVec.ofNat 32 (a.toNat * b.toNat) := BitVec.eq_of_toNat_eq (by simp)

/-- Settles O4: each instruction is one equation of its tile, and the beginning of the fc leaves the control core. -/
theorem scalarArithmetic : Obligations.ScalarArithmetic := by
  unfold Obligations.ScalarArithmetic
  refine ⟨fun s t f => ⟨fun hr => ?nop, fun hr => ?li, fun hr => ?add, fun hr => ?sub, fun hr => ?mul, fun hr => ?and,
    fun hr => ?or, fun hr => ?xor, fun hr => ?slt, fun hr => ?sltu, fun v r => Tile.xGet_xSet _ _ _ _ r.isLt⟩, fun s t => ?_⟩
  case nop => exact State.tileBecomes_control (Tile.next_ne_idle _) hr rfl
  case li => exact State.tileBecomes_control (act := fun u => (u.xSet f.xd.toNat f.imm).next) (Tile.next_ne_idle _) hr rfl
  case mul => exact State.tileBecomes_arith hr rfl (mulWord_eq ..)
  case slt => exact State.tileBecomes_arith hr rfl (sltWord_eq ..)
  case sltu => exact State.tileBecomes_arith hr rfl (ultWord_eq ..)
  case add | sub | and | or | xor => exact State.tileBecomes_arith hr rfl rfl
  · have hc := State.tileBegin_tile_core t s
    simp only [Tile.core, Prod.mk.injEq] at hc
    obtain ⟨hx, ⟨hph, hpc⟩, hseq, hcl, hn⟩ := hc
    exact ⟨hx, hpc, hph, hseq, hcl, hn, fun h hq => State.tileBegin_noXfer h hq⟩

/-- The tile after a branch: at its target 2 fc later where the condition holds, else at the next instruction. -/
def Tile.branched (f : CtlF) (c : Bool) (u : Tile) : Tile := if c then u.branch f.tgt.toNat else u.next

theorem Tile.branched_ne_idle (f : CtlF) (c : Bool) (u : Tile) : u.branched f c ≠ Tile.idle := by
  unfold Tile.branched
  split <;> simp

theorem Tile.branched_go {f : CtlF} {c : Bool} {p : Prop} (hc : c = true ↔ p) (u : Tile) :
    (p → u.branched f c = { u with pc := f.tgt.toNat, seq := u.seq + 1, nextDispatch := u.clock + 2 }) ∧
    (¬ p → u.branched f c = { u with pc := u.pc + 1, seq := u.seq + 1, nextDispatch := u.clock + 1 }) :=
  ⟨fun h => if_pos (hc.mpr h), fun h => if_neg (fun e => h (hc.mp e))⟩

/-- A branch that is ready. -/
theorem State.tileBecomes_branch {s : State} {i : Instr} {t : TileId} {op : CtlOp} {f : CtlF} {c : Tile → Bool} {p : Prop}
    (h : exec i s = ok (s.branchIf t op f c)) (hc : c ((s.tileBegin t).tile t) = true ↔ p)
    (hr : s.ready t (.ctl op f) = true) :
    let u := (s.tileBegin t).tile t
    ∃ u', ((p → u' = { u with pc := f.tgt.toNat, seq := u.seq + 1, nextDispatch := u.clock + 2 }) ∧
      (¬ p → u' = { u with pc := u.pc + 1, seq := u.seq + 1, nextDispatch := u.clock + 1 })) ∧
      s.tileBecomes (s.tileBegin t) i t u' :=
  ⟨_, Tile.branched_go hc _,
    State.tileBecomes_control (act := fun u => u.branched f (c u)) (Tile.branched_ne_idle _ _ _) hr h⟩

theorem Tile.xGet_branched (f : CtlF) (c : Bool) (u : Tile) (r : Nat) : (u.branched f c).xGet r = u.xGet r := by
  unfold Tile.branched
  split <;> rfl

/-- Settles O6: each branch goes where its condition says, and LOOP and LI write a register that the next instruction reads. -/
theorem branchesAndTheirCost : Obligations.BranchesAndTheirCost := by
  unfold Obligations.BranchesAndTheirCost
  intro s t f
  refine ⟨State.tileBecomes_branch rfl (by simp), State.tileBecomes_branch rfl (by simp),
    State.tileBecomes_branch rfl (by simp), State.tileBecomes_branch rfl (by simp [BitVec.slt_eq_decide]),
    State.tileBecomes_branch rfl (by simp [BitVec.slt_eq_decide]), fun hr => ?loop, fun hr => ?li⟩
  case loop =>
    refine ⟨_, Tile.branched_go (by simp) _, ?_, State.tileBecomes_control
      (act := fun u => (u.xSet f.xa.toNat (u.xGet f.xa.toNat - 1)).branched f (u.xGet f.xa.toNat - 1 != 0))
      (Tile.branched_ne_idle _ _ _) hr rfl⟩
    rw [Tile.xGet_branched, Tile.xGet_xSet _ _ _ _ f.xa.isLt, if_pos rfl]
  case li =>
    refine ⟨_, rfl, ?_, State.tileBecomes_control (act := fun u => (u.xSet f.xd.toNat f.imm).next) (Tile.next_ne_idle _) hr rfl⟩
    exact (Tile.xGet_xSet _ _ _ _ f.xd.isLt).trans (if_pos rfl)

/-! ### Summary registers and control registers -/

/-- A tile that stands at an instruction stands at a place that one can be dispatched from. -/
theorem Tile.atNone_of_atWord {u : Tile} {w : TileWord} (h : u.atWord w = true) : u.atNone = false := by
  simp only [Tile.atWord, Bool.and_eq_true, beq_iff_eq, decide_eq_true_eq] at h
  obtain ⟨⟨-, hpc⟩, hw⟩ := h
  rw [Tile.atNone, hw, tileWordsRoundTrip w]
  simp [Nat.ne_of_lt hpc]

/-- A control instruction that is ready and stops its program. -/
theorem State.tileStops_control {s : State} {i : Instr} {t : TileId} {op : CtlOp} {f : CtlF} {act : State → State} {c code : Nat}
    (h : exec i s = ok (s.dispatch t (.ctl op f) act)) (ha : ∀ g, act g = g.stopNow t c code) (hc : c ≠ 0x0C)
    (hr : s.ready t (.ctl op f) = true) (hx : ((s.tileBegin t).tile t).xfer = none) :
    s.tileStops (s.tileBegin t) i t c := by
  have hw := State.ready_atWord hr
  refine State.tileStops_stopNow (code := code) ?_ ?_ (Tile.atNone_of_atWord hw) hx hc
  · rw [h, State.dispatch_ready hr, ha]
  · simp only [Tile.atWord, Bool.and_eq_true, beq_iff_eq] at hw
    exact hw.1.1

/-- An instruction that reads a summary register and is ready. -/
theorem State.tileBecomes_dispatch {s : State} {i : Instr} {t : TileId} {w : TileWord} {act : State → State} {g : Tile → Tile}
    (h : exec i s = ok (s.dispatch t w act)) (ha : ∀ b, act b = b.modTile t g) (hg : ∀ u, g u ≠ Tile.idle)
    (hr : s.ready t w = true) : s.tileBecomes (s.tileBegin t) i t (g ((s.tileBegin t).tile t)) := by
  refine State.tileBecomes_of (hg _) ?_
  rw [h, State.dispatch_ready hr, ha]
  rfl

/-- The tile after a CSIG whose codes name its formats. -/
def Tile.csig (f : CtlF) (u : Tile) : Tile :=
  let fmt := Fmt.ofCode (f.imm.toNat % 16)
  let r := pinSigma (Fmt.ofCode (f.imm.toNat / 16)) (decodeElem fmt ((u.qGet (ctlQk f)).toNat % 2 ^ fmt.bits)).abs
  { (u.xSet f.xa.toNat (BitVec.ofNat 32 r.1)).next with vflags := u.vflags ||| r.2 }

/-- Settles O7: with bit [55] clear each acts on its tile alone, with it set each stops the program. -/
theorem summaryRegisterReads : Obligations.SummaryRegisterReads := by
  unfold Obligations.SummaryRegisterReads
  intro s t f g u q m taken does stops
  have reads {i : Instr} {op : CtlOp} {act : Tile → Tile} (h : exec i s = ok (s.readsQ t op f act))
      (ha : ∀ u, act u ≠ Tile.idle) : does i op (act u) := fun hr hb =>
    State.tileBecomes_dispatch h (fun b => if_neg (by rw [hb]; decide)) ha hr
  have halts {i : Instr} {op : CtlOp} {act : Tile → Tile} (h : exec i s = ok (s.readsQ t op f act))
      (hb : f.xd.getLsbD 3 = true) : stops i op :=
    State.tileStops_control (code := 0) h (fun b => if_pos hb) (by decide)
  have masked : ∀ p : Prop, ∀ c : Bool, (c = true ↔ p) → ∀ [Decidable p],
      (if p then taken else u.next) = u.branched f c := by
    intro p c hc _
    unfold Tile.branched
    simp only [hc]
    rfl
  refine ⟨?bq, ?bqz, ?qmov, ?csig, fun hb => ⟨halts rfl hb, halts rfl hb, halts rfl hb, ?illegal⟩, fun hl => ?format⟩
  case bq =>
    rw [masked _ (ctlQMasked f u != 0) (by simp [ctlQMasked, ctlQk, m, q])]
    exact reads (act := fun u => u.branched f (ctlQMasked f u != 0)) rfl fun u => Tile.branched_ne_idle _ _ u
  case bqz =>
    rw [masked _ (ctlQMasked f u == 0) (by simp [ctlQMasked, ctlQk, m, q])]
    exact reads (act := fun u => u.branched f (ctlQMasked f u == 0)) rfl fun u => Tile.branched_ne_idle _ _ u
  case qmov =>
    exact reads (act := fun u => (u.xSet f.xa.toNat (if f.imm.getLsbD 0 then (u.qGet (ctlQk f) >>> 32).setWidth 32
      else (u.qGet (ctlQk f)).setWidth 32)).next) rfl fun u => Tile.next_ne_idle _
  case csig =>
    intro hl fmt r hr hb
    refine State.tileBecomes_dispatch (g := Tile.csig f) rfl (fun b => ?_) (fun u => ?_) hr
    · rw [if_neg (by rw [hb, hl]; decide)]
      rfl
    · exact Tile.ne_idle_of_seq (by simp [Tile.csig, Tile.next])
  case illegal =>
    exact State.tileStops_control (code := 0) rfl (fun b => if_pos (by rw [hb]; rfl)) (by decide)
  case format =>
    exact State.tileStops_control (code := 0) rfl (fun b => if_pos (by rw [hl]; simp)) (by decide)

theorem Tile.controlReg_other {i : Nat} (h : 6 ≤ i) (t : TileId) (u : Tile) : u.controlReg t i = 0 := by
  simp only [Tile.controlReg]
  rw [if_neg (by omega), if_neg (by omega), if_neg (by omega), if_neg (by omega), if_neg (by omega), if_neg (by omega)]

theorem Tile.controlReg_mode (t : TileId) (u : Tile) : u.controlReg t 5 = if u.spec then 1 else 0 := by
  cases h : u.spec <;> simp [Tile.controlReg, b2n, h]

/-- The tile after a CWR. -/
def Tile.cwr (f : CtlF) (u : Tile) : Tile :=
  (if f.imm.toNat % 256 = 0 then { u with mflags := writeFlagsReg u.mflags (u.xGet f.xa.toNat) }
    else if f.imm.toNat % 256 = 1 then { u with vflags := writeFlagsReg u.vflags (u.xGet f.xa.toNat) } else u).next

theorem Tile.cwr_eq (f : CtlF) (u : Tile) : u.cwr f = { u.next with
    mflags := if f.imm.toNat % 256 = 0 then u.mflags &&& ~~~((u.xGet f.xa.toNat).setWidth 8) &&& 0x3F else u.mflags
    vflags := if f.imm.toNat % 256 = 1 then u.vflags &&& ~~~((u.xGet f.xa.toNat).setWidth 8) &&& 0x3F else u.vflags } := by
  unfold Tile.cwr
  split
  · next h => simp only [h, zero_ne_one, if_false]; rfl
  · split <;> rfl

/-- Settles O8: CRD reads `controlReg`, CWR clears in the flags it names. -/
theorem tileControlRegisters : Obligations.TileControlRegisters := by
  unfold Obligations.TileControlRegisters
  intro s t f g u i v reads
  refine ⟨fun hr => ?crd, fun hr => ?cwr⟩
  case crd =>
    have h : reads (u.controlReg t i) := State.tileBecomes_control
      (act := fun u => (u.xSet f.xd.toNat (u.controlReg t (f.imm.toNat % 256))).next) (Tile.next_ne_idle _) hr rfl
    have at_ {k : Nat} {w : Word} (hw : u.controlReg t k = w) (e : i = k) : reads w := by rw [← hw, ← e]; exact h
    exact ⟨at_ rfl, at_ rfl, at_ rfl, at_ rfl, at_ rfl, at_ (Tile.controlReg_mode t u),
      fun e => at_ (Tile.controlReg_other e t u) rfl⟩
  case cwr =>
    rw [← Tile.cwr_eq f u]
    exact State.tileBecomes_control (act := Tile.cwr f) (Tile.next_ne_idle _) hr rfl

end Sys2Proof.Machine
end


section
/-! SUPPORT. Where no counter is selected, nothing that a tile's fc does selects one. -/

namespace Sys2Proof.Machine

variable {s : State} (h : s.cnt.select = [])

theorem foldl_select {α : Type} {f : State → α → State} (hf : ∀ s x, s.cnt.select = [] → (f s x).cnt.select = [])
    (l : List α) (h : s.cnt.select = []) : (l.foldl f s).cnt.select = [] :=
  List.foldlRecOn l f h fun s hs x _ => hf s x hs

include h

theorem State.countSource_select (scope die tile source qual k : Nat) (spec : Bool) :
    (s.countSource scope die tile source qual k spec).cnt.select = [] := by
  simp only [State.countSource, h, List.map_nil]

theorem State.tileCount_select (id : TileId) (u : Tile) (source k : Nat) (b : Bool) :
    (s.tileCount id u source k b).cnt.select = [] := by
  unfold State.tileCount
  split
  · exact State.countSource_select h ..
  · exact h

theorem State.countTile_select (id : TileId) (now : Nat) (u : Tile) : s.countTile id now u = s := by
  simp only [State.countTile, h, List.isEmpty_nil, if_true]

theorem State.countPath_select (spec : Bool) (a b n : Nat) : (s.countPath spec a b n).cnt.select = [] := by
  refine foldl_select (fun s x hs => ?_) _ h
  split
  · exact State.countSource_select hs ..
  · exact hs

theorem State.countClay_select (source who : Nat) (spec : Bool) (pa n : Nat) : s.countClay source who spec pa n = s := by
  simp only [State.countClay, h, List.isEmpty_nil, if_true]

theorem State.countRead_select (w : Work) (la n : Nat) : s.countRead w la n = s := by
  simp only [State.countRead, h, List.isEmpty_nil, if_true]

theorem State.countWaits_select (p : Nat) : (s.countWaits p).cnt.select = [] :=
  foldl_select (fun _ _ hs => State.countSource_select hs ..) _ h

theorem State.portSendsOne_select {p : Nat} {s' : State} (e : s.portSendsOne p = some s') : s'.cnt.select = [] := by
  unfold State.portSendsOne at e
  extract_lets d room can at e
  split at e
  · cases e
  · obtain ⟨o, -, rfl⟩ := Option.map_eq_some_iff.mp e
    exact State.countSource_select (by exact h) ..

theorem State.portSendsAll_select (p n : Nat) : (s.portSendsAll p n).cnt.select = [] := by
  induction n generalizing s with
  | zero => exact h
  | succ n ih =>
    rw [State.portSendsAll]
    split
    · next e => exact ih (State.portSendsOne_select h e)
    · exact h

theorem State.portSends_select (p : Nat) : (s.portSends p).cnt.select = [] := by
  unfold State.portSends
  extract_lets s1 s2 d waiting waits
  have h1 : s1.cnt.select = [] := by
    unfold s1
    split
    · exact h
    · exact State.countWaits_select h p
  exact State.portSendsAll_select h1 ..

theorem State.sendFrame_select (p : Nat) (f : Frame) : (s.sendFrame p f).cnt.select = [] :=
  State.portSends_select (by exact h) p

theorem State.sendStream_select (x : Frame) (data : List Byte) : (s.sendStream x data).cnt.select = [] := by
  refine foldl_select (fun s p hs => ?_) _ h
  dsimp only
  split
  · exact State.sendFrame_select hs ..
  · exact hs

theorem State.sendHeader_select (x : Frame) : (s.sendHeader x).cnt.select = [] := by
  unfold State.sendHeader
  extract_lets y
  split
  · exact State.sendFrame_select h ..
  · exact h

theorem State.sendReads_select (x : Frame) (la n to_ : Nat) : (s.sendReads x la n to_).cnt.select = [] :=
  foldl_select (fun _ _ hs => State.sendHeader_select hs _) _ h

theorem State.requestAway_select (w : Work) (la n : Nat) : (s.requestAway w la n).cnt.select = [] := by
  refine foldl_select (fun s c hs => ?_) _ h
  split
  · exact State.sendReads_select hs ..
  · exact hs

theorem State.writeRange_select (w : Work) (la : Nat) (bs : List Byte) : (s.writeRange w la bs).1.cnt.select = [] := by
  unfold State.writeRange
  refine List.foldlRecOn (motive := fun acc : State × Option MemFault × List Byte => acc.1.cnt.select = []) _ _ h
    fun acc hv c _ => ?_
  obtain ⟨v, fault, rest⟩ := acc
  cases fault with
  | some e => exact hv
  | none =>
    dsimp only
    split
    · exact hv
    · rw [State.countClay_select (by exact hv)]
      exact hv
    · have hp := State.countPath_select (s := v) hv w.spec w.die 4 (rest.take c.2.2).length
      split
      · exact hp
      · exact State.sendStream_select hp ..

theorem State.putRows_select (die task : Nat) (run : XferRun) (first : Nat) (bs : List Byte) :
    (s.putRows die task run first bs).1.cnt.select = [] := by
  simp only [State.putRows, State.intoInlet]
  split
  · split
    · split <;> exact h
    · exact h
  · exact State.writeRange_select h ..

theorem State.ctxMoved_select (n units : Nat) (done : Bool) : (s.ctxMoved n units done).cnt.select = [] := by
  simp only [State.ctxMoved]
  split <;> exact h

omit h in
theorem State.faultNotice_cnt (code : Nat) (ws : List Word) (s : State) : (s.faultNotice code ws).cnt = s.cnt := by
  obtain ⟨q, r, hn⟩ := s.notice_only code ws
  obtain ⟨t, q', r', ha, -⟩ := (s.notice code ws).appendAudit_only
    ((s.notice code ws).entry (0x500 + (code - 0x800)) 0 0 0 0 [] (ws.flatMap fun (w : Word) => leBytes 4 w.toNat))
  have hv : (s.notice code ws).cnt = s.cnt := by rw [hn]
  exact (congrArg State.cnt ha).trans hv

theorem State.poisonNotice_select (e : MemFault) : (s.poisonNotice e).cnt.select = [] := by
  simp only [State.poisonNotice, State.poisonFound]
  split
  · split <;> rw [State.faultNotice_cnt] <;> exact h
  · exact h

theorem State.xferFault_select (run : XferRun) (e : MemFault) : (s.xferFault run e).1.cnt.select = [] :=
  State.poisonNotice_select (s := s.ctxFault run.record.ctx e.code) h e

theorem State.postHandle_select (r : Nat) (w : Word) (at_ poster : Nat) : (s.postHandle r w at_ poster).1.cnt.select = [] := by
  simp only [State.postHandle]
  repeat' split
  all_goals exact h

theorem State.xferDone_select (id : TileId) (run : XferRun) (last : Nat) : (s.xferDone id run last).cnt.select = [] := by
  unfold State.xferDone
  extract_lets u s1 s2 p
  have h2 : s2.cnt.select = [] := State.ctxMoved_select (s := s1) h ..
  have hp : p.1.cnt.select = [] := State.postHandle_select h2 ..
  split
  · split
    · exact hp
    · exact h2
  · exact h2

theorem State.xgetRows_select (id : TileId) (now : Nat) (run : XferRun) : (s.xgetRows id now run).1.cnt.select = [] := by
  unfold State.xgetRows
  extract_lets k w la b s1 run' s2
  have h1 : s1.cnt.select = [] := by
    unfold s1
    split
    · exact h
    · rw [State.countRead_select h]; exact h
  have h2 : s2.cnt.select = [] := State.ctxMoved_select (by exact h1) ..
  split
  · exact h
  · split
    · exact State.xferFault_select h2 ..
    · split
      · exact State.xferDone_select h2 ..
      · exact h2

theorem State.xputRows_select (id : TileId) (now : Nat) (run : XferRun) : (s.xputRows id now run).1.cnt.select = [] := by
  unfold State.xputRows
  extract_lets due1 due run' b
  have hb : b.1.cnt.select = [] := State.putRows_select (by exact h) ..
  split
  · exact h
  · split
    · exact State.xferFault_select (by exact hb) ..
    · split
      · exact State.xferDone_select hb ..
      · exact hb

theorem State.moveXfer_select (id : TileId) (now : Nat) : (s.moveXfer id now).1.cnt.select = [] := by
  have done (c : Bool) (run : XferRun) (last : Nat) : (if c = true then s.xferDone id run last else s).cnt.select = [] := by
    split
    · exact State.xferDone_select h ..
    · exact h
  unfold State.moveXfer
  split
  · exact h
  · split
    · exact State.xgetRows_select h ..
    · split
      · split
        · exact State.xferDone_select h ..
        · exact h
      · exact done ..
    · split
      · exact done ..
      · exact State.xputRows_select h ..

theorem State.xferStart_select (id : TileId) (now : Nat) (q : Queued) (op : XferOp) (f : XferF) (r : XferRec) (a : Nat) :
    (s.xferStart id now q op f r a).cnt.select = [] := by
  unfold State.xferStart
  extract_lets u run s1 w
  have h1 : s1.cnt.select = [] := by
    unfold s1 State.ctxStart
    dsimp only
    split <;> exact h
  clear_value s1
  split
  · split
    · exact State.sendReads_select h1 ..
    · refine State.requestAway_select ?_ ..
      unfold State.taint
      dsimp only
      split <;> exact h1
  · exact h1

theorem State.refusedStream_select (u : Tile) (c : AbortRecord) : (s.refusedStream u c).cnt.select = [] := by
  simp only [State.refusedStream]
  repeat' split
  all_goals exact h

/-- The beginning of a fc selects no counter. -/
theorem State.tileBegin_select (id : TileId) : (s.tileBegin id).cnt.select = [] := by
  unfold State.tileBegin
  extract_lets t0 now t1 late x s1 u1 refused tried
  split
  · exact h
  · have h1 : s1.cnt.select = [] := State.moveXfer_select (by exact h) ..
    clear_value tried
    split
    next s2 c0 hm =>
    extract_lets u2 a b c issued p l v s3
    have h2 : s2.cnt.select = [] := by
      split at hm
      · obtain ⟨rfl, -⟩ := Prod.mk.inj hm
        exact State.xferStart_select h1 ..
      · obtain ⟨rfl, -⟩ := Prod.mk.inj hm
        exact h1
      · obtain ⟨rfl, -⟩ := Prod.mk.inj hm
        exact State.refusedStream_select h1 ..
    have h3 : s3.cnt.select = [] := State.tileCount_select (by rw [State.countTile_select h2]; exact h2) ..
    clear_value s3
    exact h3

omit h

/-! ### SYNC and END -/

theorem Tile.resolve_syncHold {u : Tile} {mask : BitVec 4} {upTo : Nat} (hp : u.phase = .syncHold mask upTo) (now : Nat) :
    u.resolve now = if u.finished mask upTo now then { u with phase := .running, nextDispatch := now + 1 } else u := by
  simp only [Tile.resolve, hp]

theorem Tile.atNone_of_phase {u : Tile} (hp : u.phase ≠ .running) : u.atNone = false := by
  simp [Tile.atNone, hp]

/-- The fc of a tile whose SYNC holds, and that is alone. -/
theorem State.tileEnd_syncHold {s : State} {t : TileId} {mask : BitVec 4} {upTo : Nat} {u : Tile} (hu : s.tile t = u)
    (hp : u.phase = .syncHold mask upTo) (ha : u.alone = true) (hn : s.cnt.select = []) :
    s.tileEnd t = s.setTile t (if u.fcOver.finished mask upTo u.clock then
      { u.fcOver.nextFc with phase := .running, nextDispatch := u.clock + 1 } else u.fcOver.nextFc) := by
  subst hu
  rw [State.tileEnd_alone ha hn (by rw [hp]; simp) (Tile.atNone_of_phase (by rw [hp]; simp)),
    Tile.resolve_syncHold (by rw [Tile.fcOver_phase, hp])]
  split <;> rfl

theorem Tile.syncOver_ne_idle {u : Tile} {mask : BitVec 4} {upTo : Nat} (hp : u.phase = .syncHold mask upTo) (n : Nat) :
    (if u.fcOver.finished mask upTo u.clock then
      { u.fcOver.nextFc with phase := .running, nextDispatch := n } else u.fcOver.nextFc : Tile) ≠ Tile.idle := by
  split
  · exact Tile.ne_idle_of_phase (by simp)
  · exact Tile.nextFc_ne_idle (by rw [Tile.fcOver_phase, hp]; simp)

theorem Tile.arbitrate_core (u : Tile) (now : Nat) (p : Bool) : (u.arbitrate now p).1.core = u.core := by
  have shift (l : List Nat) (g : Nat → Bool) (u : Tile) : (l.foldl (fun u q => u.shift q (g q)) u).core = u.core := by
    induction l generalizing u with
    | nil => rfl
    | cons q l ih => rw [List.foldl_cons, ih]; rfl
  exact shift _ _ u

theorem Tile.fcOver_core (u : Tile) : u.fcOver.core = u.core := by
  have ends (v : Tile) (n : Nat) : (((v.land n).vecsDue n).passesDue n).core = v.core := rfl
  exact (ends _ _).trans (Tile.arbitrate_core ..)

theorem State.fuelOf_two (s : State) (t : TileId) : ∃ n, s.fuelOf t = n + 2 :=
  ⟨s.fuelOf t - 2, by simp only [State.fuelOf, Tile.fuel]; omega⟩

/-- Settles O9: a SYNC's fc ends as that of any tile that is alone, and a hold that is satisfied ends with it. -/
theorem syncHoldsAndResumes : Obligations.SyncHoldsAndResumes := by
  unfold Obligations.SyncHoldsAndResumes
  refine ⟨fun s t f => ⟨fun hr ha hn => ?sync, fun hr => ?end_⟩, fun s t mask upTo hp ha hn hf => ?satisfied⟩
  case end_ =>
    exact State.tileBecomes_control (act := fun u => { u.next with phase := .endHold }) (Tile.ne_idle_of_phase (by simp)) hr rfl
  case sync =>
    set g := s.tileBegin t with hg
    set w : Tile := { (g.tile t).next with phase := .syncHold (f.imm.setWidth 4) (g.tile t).seq } with hw
    have hwi : w ≠ Tile.idle := Tile.ne_idle_of_phase (by simp [hw])
    have hend := State.tileEnd_syncHold (s := g.setTile t w) (t := t) (u := w) ((State.tile_setTile hwi t t g).trans (if_pos rfl)) rfl
      ha (State.tileBegin_select hn t)
    have hnd : w.fcOver.nextDispatch = (g.tile t).clock + 1 := congrArg (fun p => p.2.2.2.2) (Tile.fcOver_core w)
    have hni := Tile.syncOver_ne_idle (u := w) rfl (w.clock + 1)
    have he : (if w.fcOver.finished (f.imm.setWidth 4) (g.tile t).seq w.clock then
        { w.fcOver.nextFc with phase := .running, nextDispatch := w.clock + 1 } else w.fcOver.nextFc) =
        if w.fcOver.finished (f.imm.setWidth 4) (g.tile t).seq (g.tile t).clock then
          { w.fcOver.nextFc with phase := .running } else w.fcOver.nextFc := by
      congr 1
      rw [show w.clock + 1 = w.fcOver.nextFc.nextDispatch from hnd.symm]
    rw [he] at hend hni
    refine State.tileBecomes_of hni ?_
    change ok (s.dispatch t _ _) = _
    rw [State.dispatch_ready hr]
    change ok (((g.setTile t w).tileEnd t).catchUp t) = _
    rw [hend, State.setTile_setTile hwi hni]
    rfl
  case satisfied =>
    have hend := State.tileEnd_syncHold (s := s.tileBegin t) rfl hp ha (State.tileBegin_select hn t)
    have hni := Tile.syncOver_ne_idle hp (((s.tileBegin t).tile t).clock + 1)
    rw [if_pos hf] at hend hni
    refine State.tileBecomes_of hni ?_
    have hs : (s.tile t).phase = .syncHold mask upTo := (Tile.phase_of_core (State.tileBegin_tile_core t s)).symm.trans hp
    obtain ⟨n, hfuel⟩ := s.fuelOf_two t
    have htile : (s.tileFc t).tile t = _ := (congrArg (State.tile · t) hend).trans ((State.tile_setTile hni t t _).trans (if_pos rfl))
    change ok _ = _
    simp only [hs, if_true, hfuel, State.tileUntil, Bool.not_true, Bool.false_eq_true, if_false, htile]
    rw [State.tileFc, hend]
    rfl

end Sys2Proof.Machine
end

section
/-! SUPPORT. The banks of a tile's silt (R83, R81, R86): the order in which the accesses of an fc are served, what is asked
again, and the one shift of a pass of which anything is repeated. -/

namespace Sys2Proof.Machine

/-! ### The order of service -/

/-- `b` stands no later than `a`: by rank, and within the ranks of the tile's own instructions by their order. -/
def BankAsk.ahead (b a : BankAsk) : Prop := b.rank ≤ a.rank ∧ (b.rank = a.rank → a.rank ≤ 4 → b.seq ≤ a.seq)

theorem BankAsk.before_iff {a b : BankAsk} : a.before b = true ↔ a.rank < b.rank ∨ a.rank = b.rank ∧ a.seq ≤ b.seq := by
  simp [BankAsk.before]

theorem BankAsk.before_total {a b : BankAsk} (h : ¬ a.before b = true) : b.before a = true := by
  simp only [BankAsk.before_iff] at *; omega

theorem BankAsk.before_trans {a b c : BankAsk} (h : a.before b = true) (k : b.before c = true) : a.before c = true := by
  simp only [BankAsk.before_iff] at *; omega

theorem BankAsk.ahead_of_before {a b : BankAsk} (h : a.before b = true) : a.ahead b := by
  simp only [BankAsk.before_iff] at h
  exact ⟨by omega, fun _ _ => by omega⟩

theorem mem_insertAsk {a x : BankAsk} {l : List BankAsk} : x ∈ insertAsk a l ↔ x = a ∨ x ∈ l := by
  induction l with
  | nil => simp [insertAsk]
  | cons b l ih =>
    rw [insertAsk]
    split
    · simp only [List.mem_cons, ih]; tauto
    · simp only [List.mem_cons]

/-- An access put in its place leaves the list in order. -/
theorem insertAsk_sorted {a : BankAsk} {l : List BankAsk} (h : l.Pairwise fun x y => x.before y = true) :
    (insertAsk a l).Pairwise fun x y => x.before y = true := by
  induction l with
  | nil => simp [insertAsk]
  | cons b l ih =>
    obtain ⟨hb, hl⟩ := List.pairwise_cons.mp h
    rw [insertAsk]
    split
    · next hba =>
      refine List.pairwise_cons.mpr ⟨fun y hy => ?_, ih hl⟩
      rcases mem_insertAsk.mp hy with rfl | hy
      · exact hba
      · exact hb y hy
    · next hba =>
      have hab := BankAsk.before_total hba
      refine List.pairwise_cons.mpr ⟨fun y hy => ?_, h⟩
      rcases List.mem_cons.mp hy with rfl | hy
      · exact hab
      · exact BankAsk.before_trans hab (hb y hy)

theorem foldl_insertAsk (l acc : List BankAsk) (h : acc.Pairwise fun x y => x.before y = true) :
    ((l.foldl (fun s a => insertAsk a s) acc).Pairwise fun x y => x.before y = true) ∧
    ∀ x, x ∈ l.foldl (fun s a => insertAsk a s) acc ↔ x ∈ l ∨ x ∈ acc := by
  induction l generalizing acc with
  | nil => exact ⟨h, fun x => by simp⟩
  | cons a l ih =>
    obtain ⟨h1, h2⟩ := ih _ (insertAsk_sorted (a := a) h)
    refine ⟨h1, fun x => ?_⟩
    rw [List.foldl_cons, h2, mem_insertAsk, List.mem_cons]
    tauto

theorem sortAsks_sorted (l : List BankAsk) : (sortAsks l).Pairwise fun x y => x.before y = true :=
  (foldl_insertAsk l [] List.Pairwise.nil).1

theorem mem_sortAsks {l : List BankAsk} {x : BankAsk} : x ∈ sortAsks l ↔ x ∈ l :=
  ((foldl_insertAsk l [] List.Pairwise.nil).2 x).trans (by simp)

/-- A write's access joins those that are asked, once. -/
def addWriteAsk (l : List BankAsk) (w : SiltWrite) : List BankAsk :=
  match w.ask with
  | some a => if l.contains a then l else l ++ [a]
  | none => l

theorem Tile.writeAsks_eq (u : Tile) (now : Nat) :
    u.writeAsks now = (u.landing.filter fun w => w.at_ ≤ now).foldl addWriteAsk [] := rfl

theorem mem_writeAsks_fold {x : BankAsk} (ws : List SiltWrite) (acc : List BankAsk) (h : x ∈ ws.foldl addWriteAsk acc) :
    x ∈ acc ∨ ∃ w ∈ ws, w.ask = some x := by
  induction ws generalizing acc with
  | nil => exact .inl h
  | cons w ws ih =>
    rcases ih _ h with h | ⟨v, hv, e⟩
    · cases hw : w.ask with
      | none => simp only [addWriteAsk, hw] at h; exact .inl h
      | some a =>
        simp only [addWriteAsk, hw] at h
        split at h
        · exact .inl h
        · rcases List.mem_append.mp h with h | h
          · exact .inl h
          · exact .inr ⟨w, List.mem_cons_self, by rw [hw, List.mem_singleton.mp h]⟩
    · exact .inr ⟨v, List.mem_cons_of_mem _ hv, e⟩

theorem Tile.rank_of_writeAsks {u : Tile} {now : Nat} {x : BankAsk} (h : x ∈ u.writeAsks now) : x.rank = 4 := by
  rw [Tile.writeAsks_eq] at h
  rcases mem_writeAsks_fold _ _ h with h | ⟨w, -, e⟩
  · cases h
  · obtain ⟨o, -, rfl⟩ := Option.map_eq_some_iff.mp e
    rfl

theorem Tile.rank_of_xferAsks {u : Tile} {now : Nat} {x : BankAsk} (h : x ∈ u.xferAsks now) : x.rank = 5 := by
  unfold Tile.xferAsks at h
  split at h
  · split at h
    · obtain ⟨r, -, rfl⟩ := List.mem_map.mp h
      rfl
    · cases h
  · cases h

/-- The accesses of an fc stand in their order: by rank, the older instruction first, the delivery last. -/
theorem Tile.turns_ordered {u : Tile} {now : Nat} {port : Bool} (h : ∀ a ∈ u.asks, a.rank ≤ 3) :
    (u.turns now port).Pairwise BankAsk.ahead := by
  have own : (sortAsks (u.asks ++ u.writeAsks now ++ u.xferAsks now)).Pairwise BankAsk.ahead :=
    (sortAsks_sorted _).imp BankAsk.ahead_of_before
  have rank : ∀ a ∈ sortAsks (u.asks ++ u.writeAsks now ++ u.xferAsks now), a.rank ≤ 5 := by
    intro a ha
    rw [mem_sortAsks, List.mem_append, List.mem_append] at ha
    rcases ha with (ha | ha) | ha
    · exact (h a ha).trans (by decide)
    · exact (Tile.rank_of_writeAsks ha).le.trans (by decide)
    · exact (Tile.rank_of_xferAsks ha).le
  refine List.pairwise_append.mpr ⟨own, ?_, ?_⟩
  · split
    · split <;> simp
    · simp
  · intro a ha b hb
    have hb5 : b.rank = 5 := by
      split at hb
      · split at hb <;> simp_all
      · cases hb
    exact ⟨by rw [hb5]; exact rank a ha, fun _ h4 => by omega⟩

/-! ### What is served -/

theorem serve_mem (l : List BankAsk) (taken : List Nat) (a : BankAsk) :
    a ∈ l ↔ a ∈ (serve l taken).1 ∨ a ∈ (serve l taken).2 := by
  induction l generalizing taken with
  | nil => simp [serve]
  | cons b l ih =>
    rw [serve]
    split
    · simp only [List.mem_cons, ih taken]; tauto
    · simp only [List.mem_cons, ih (b.bank :: taken)]; tauto

/-- No bank serves twice, and none of those that are taken. -/
theorem serve_banks (l : List BankAsk) (taken : List Nat) :
    ((serve l taken).1.map BankAsk.bank).Nodup ∧ ∀ a ∈ (serve l taken).1, a.bank ∉ taken := by
  induction l generalizing taken with
  | nil => simp [serve]
  | cons b l ih =>
    rw [serve]
    split
    · exact ih taken
    · next hb =>
      obtain ⟨h1, h2⟩ := ih (b.bank :: taken)
      refine ⟨?_, fun a ha => ?_⟩
      · refine List.nodup_cons.mpr ⟨fun hm => ?_, h1⟩
        obtain ⟨a, ha, e⟩ := List.mem_map.mp hm
        exact h2 a ha (e ▸ List.mem_cons_self)
      · rcases List.mem_cons.mp ha with rfl | ha
        · simpa using hb
        · exact fun hm => h2 a ha (List.mem_cons_of_mem _ hm)

/-- What is refused is refused for an access that stands ahead of it at its bank, or for a bank that was taken. -/
theorem serve_refused {R : BankAsk → BankAsk → Prop} (l : List BankAsk) (taken : List Nat) (hR : l.Pairwise R) :
    ∀ a ∈ (serve l taken).2, a.bank ∈ taken ∨ ∃ b ∈ (serve l taken).1, b.bank = a.bank ∧ R b a := by
  induction l generalizing taken with
  | nil => simp [serve]
  | cons b l ih =>
    obtain ⟨hb, hl⟩ := List.pairwise_cons.mp hR
    intro a ha
    rw [serve] at ha ⊢
    split
    · next ht =>
      rw [if_pos ht] at ha
      rcases List.mem_cons.mp ha with rfl | ha
      · exact .inl (by simpa using ht)
      · exact ih taken hl a ha
    · next ht =>
      rw [if_neg ht] at ha
      rcases ih _ hl a ha with h | ⟨c, hc, e, r⟩
      · rcases List.mem_cons.mp h with h | h
        · exact .inr ⟨b, List.mem_cons_self, h.symm, hb a ((serve_mem _ _ _).mpr (.inr ha))⟩
        · exact .inl h
      · exact .inr ⟨c, List.mem_cons_of_mem _ hc, e, r⟩

/-! ### The places of what is asked again -/

theorem mem_setInsert {l : List Nat} {n x : Nat} : x ∈ setInsert l n ↔ x = n ∨ x ∈ l := by
  induction l with
  | nil => simp [setInsert]
  | cons a l ih =>
    rw [setInsert]
    split
    · next h => subst h; simp
    · split
      · simp
      · simp only [List.mem_cons, ih]; tauto

theorem setInsert_sorted {l : List Nat} (h : l.Pairwise (· < ·)) (n : Nat) : (setInsert l n).Pairwise (· < ·) := by
  induction l with
  | nil => simp [setInsert]
  | cons a l ih =>
    obtain ⟨ha, hl⟩ := List.pairwise_cons.mp h
    rw [setInsert]
    split
    · exact h
    · split
      · next hn =>
        refine List.pairwise_cons.mpr ⟨fun y hy => ?_, h⟩
        rcases List.mem_cons.mp hy with rfl | hy
        · exact hn
        · exact hn.trans (ha y hy)
      · refine List.pairwise_cons.mpr ⟨fun y hy => ?_, ih hl⟩
        rcases mem_setInsert.mp hy with rfl | hy
        · omega
        · exact ha y hy

/-- The places of the accesses that are asked again. -/
def placesOf (l : List BankAsk) : List Nat := l.foldl (fun l a => setInsert l a.seq) []

theorem placesOf_fold (l : List BankAsk) (acc : List Nat) (h : acc.Pairwise (· < ·)) :
    (l.foldl (fun l a => setInsert l a.seq) acc).Pairwise (· < ·) ∧
    ∀ q, q ∈ l.foldl (fun l a => setInsert l a.seq) acc ↔ (∃ a ∈ l, a.seq = q) ∨ q ∈ acc := by
  induction l generalizing acc with
  | nil => exact ⟨h, fun q => by simp⟩
  | cons a l ih =>
    obtain ⟨h1, h2⟩ := ih _ (setInsert_sorted h a.seq)
    refine ⟨h1, fun q => ?_⟩
    rw [List.foldl_cons, h2, mem_setInsert, List.exists_mem_cons_iff]
    have : q = a.seq ↔ a.seq = q := ⟨Eq.symm, Eq.symm⟩
    rw [this, or_left_comm, or_assoc]

theorem placesOf_nodup (l : List BankAsk) : (placesOf l).Nodup :=
  (placesOf_fold l [] List.Pairwise.nil).1.imp fun h => Nat.ne_of_lt h

theorem mem_placesOf {l : List BankAsk} {q : Nat} : q ∈ placesOf l ↔ ∃ a ∈ l, a.seq = q :=
  ((placesOf_fold l [] List.Pairwise.nil).2 q).trans (by simp)

/-! ### The shift of a pass -/

/-- A shift of another instruction leaves the one pass, the unit's next issue and the entries of that pass alone. -/
theorem Tile.shift_other {u : Tile} {p : PassRun} {q : Nat} (hp : u.passes = [p]) (hq : q ≠ p.seq) (b : Bool) :
    (u.shift q b).passes = [p] ∧ (u.shift q b).passFree = u.passFree ∧
    ∀ e ∈ u.hq, e.releaseAt = none → e ∈ (u.shift q b).hq := by
  have hn : (u.passes.find? fun p => p.seq == q) = none := by simp [hp, Ne.symm hq]
  refine ⟨?_, ?_, fun e he hr => ?_⟩
  · simp [Tile.shift, hp, Ne.symm hq]
  · simp [Tile.shift, hn]
  · simp only [Tile.shift, hn]
    refine List.mem_map.mpr ⟨e, he, ?_⟩
    simp [hr]

/-- The shift of the one pass. -/
theorem Tile.shift_pass {u : Tile} {p : PassRun} (hp : u.passes = [p]) (b : Bool) :
    (u.shift p.seq b).passes = [{ p with issue := p.issue + 1 }] ∧ (u.shift p.seq b).passFree = u.passFree + 1 ∧
    ∀ e ∈ u.hq, e.seq = p.seq → { e with enqueueAt := e.enqueueAt + 1 } ∈ (u.shift p.seq b).hq := by
  have hs : (u.passes.find? fun x => x.seq == p.seq) = some p := by simp [hp]
  refine ⟨?_, ?_, fun e he hr => ?_⟩
  · simp [Tile.shift, hp]
  · simp [Tile.shift, hs]
  · simp only [Tile.shift, hs]
    exact List.mem_map.mpr ⟨e, he, by simp [hr]⟩

theorem Tile.foldl_shift_other {p : PassRun} (g : Nat → Bool) (l : List Nat) {u : Tile} (hp : u.passes = [p])
    (hl : p.seq ∉ l) :
    (l.foldl (fun u q => u.shift q (g q)) u).passes = [p] ∧
    (l.foldl (fun u q => u.shift q (g q)) u).passFree = u.passFree ∧
    ∀ e ∈ u.hq, e.releaseAt = none → e ∈ (l.foldl (fun u q => u.shift q (g q)) u).hq := by
  induction l generalizing u with
  | nil => exact ⟨hp, rfl, fun e he _ => he⟩
  | cons q l ih =>
    obtain ⟨h1, h2⟩ := not_or.mp (mt List.mem_cons.mpr hl)
    obtain ⟨a, b, c⟩ := Tile.shift_other hp (Ne.symm h1) (g q)
    obtain ⟨x, y, z⟩ := ih a h2
    exact ⟨x, y.trans b, fun e he hr => z e (c e he hr) hr⟩

/-- A pass whose place is among those shifted, each of which is shifted once, shifts by one fc. -/
theorem Tile.foldl_shift_pass {p : PassRun} (g : Nat → Bool) (l : List Nat) {u : Tile} (hp : u.passes = [p])
    (hn : l.Nodup) (hl : p.seq ∈ l) :
    (l.foldl (fun u q => u.shift q (g q)) u).passes = [{ p with issue := p.issue + 1 }] ∧
    (l.foldl (fun u q => u.shift q (g q)) u).passFree = u.passFree + 1 ∧
    ∀ e ∈ u.hq, e.seq = p.seq → e.releaseAt = none →
      { e with enqueueAt := e.enqueueAt + 1 } ∈ (l.foldl (fun u q => u.shift q (g q)) u).hq := by
  induction l generalizing u with
  | nil => cases hl
  | cons q l ih =>
    obtain ⟨h1, h2⟩ := List.nodup_cons.mp hn
    rw [List.foldl_cons]
    by_cases hq : p.seq = q
    · subst hq
      obtain ⟨a, b, c⟩ := Tile.shift_pass hp (g p.seq)
      obtain ⟨x, y, z⟩ := Tile.foldl_shift_other (p := { p with issue := p.issue + 1 }) g l a h1
      exact ⟨x, y.trans b, fun e he es hr => z _ (c e he es) hr⟩
    · obtain ⟨a, b, c⟩ := Tile.shift_other hp (Ne.symm hq) (g q)
      obtain ⟨x, y, z⟩ := ih a h2 ((List.mem_cons.mp hl).resolve_left hq)
      exact ⟨x, y.trans (by rw [b]), fun e he es hr => z e (c e he hr) es hr⟩

/-! ### One fc of the banks -/

/-- What is asked again after an fc: the tile's own accesses that were refused, and the served reads that fail parity. -/
def Tile.askedAgain (now : Nat) (port : Bool) (u : Tile) : List BankAsk :=
  ((serve (u.turns now port) []).2.filter fun a => !(a.rank == 5 && a.plane == 1)) ++
    (serve (u.turns now port) []).1.filter u.failsParity

theorem Tile.arbitrate_asks (u : Tile) (now : Nat) (port : Bool) :
    (u.arbitrate now port).1.asks = (u.askedAgain now port).filter fun a => decide (a.rank ≤ 3) := rfl

theorem Tile.arbitrate_weak (u : Tile) (now : Nat) (port : Bool) :
    (u.arbitrate now port).1.weak = u.weak.filter fun row =>
      !(((serve (u.turns now port) []).1.filter u.failsParity).any fun a => a.row == row) := rfl

/-- The banks' turns shift every instruction of which anything is asked again, each once. -/
theorem Tile.arbitrate_shifts (u : Tile) (now : Nat) (port : Bool) : ∃ g : Nat → Bool,
    let v := (placesOf (u.askedAgain now port)).foldl (fun u q => u.shift q (g q)) u
    (u.arbitrate now port).1.passes = v.passes ∧ (u.arbitrate now port).1.passFree = v.passFree ∧
    (u.arbitrate now port).1.hq = v.hq := ⟨_, rfl, rfl, rfl⟩

/-- Settles O16. -/
theorem banksServeOneAccess : Obligations.BanksServeOneAccess := by
  unfold Obligations.BanksServeOneAccess
  intro u now port hr r v again
  have hv : v = (u.arbitrate now port).1 := rfl
  have ha : again = u.askedAgain now port := rfl
  clear_value v again
  subst hv ha
  refine ⟨(serve_banks _ _).1, fun a => serve_mem _ _ a, fun a h => ?_, fun a => ?_, fun row hrow a h hf e => ?_, ?_⟩
  · rcases serve_refused _ [] (Tile.turns_ordered hr) a h with h | h
    · cases h
    · exact h
  · rw [Tile.arbitrate_asks, List.mem_filter, decide_eq_true_eq]
  · rw [Tile.arbitrate_weak, List.mem_filter] at hrow
    have : (((serve (u.turns now port) []).1.filter u.failsParity).any fun a => a.row == row) = true :=
      List.any_eq_true.mpr ⟨a, List.mem_filter.mpr ⟨h, hf⟩, by simpa using e⟩
    simp [this] at hrow
  · intro p hp
    obtain ⟨g, e1, e2, e3⟩ := u.arbitrate_shifts now port
    rw [e1, e2, e3]
    refine ⟨fun h => ?_, fun h => ?_⟩
    · refine (Tile.foldl_shift_other g _ hp fun hm => ?_).1
      obtain ⟨a, hm, e⟩ := mem_placesOf.mp hm
      exact h a hm e
    · exact Tile.foldl_shift_pass g _ hp (placesOf_nodup _) (mem_placesOf.mpr h)

end Sys2Proof.Machine
end

section
/-! SUPPORT. Every command row of Tables 12.6 to 12.13 has one shape: the checks of R385, then PARAMETER, then its own act. -/

namespace Sys2Proof.Machine

/-- `i` is the row of opcode `op`: its command begins, PARAMETER is checked with the bytes it uses, and then its act is
carried out. -/
def CommandRow (i : Instr) (op ring : Nat) (used : Cmd → List (Nat × Nat)) (object : Bool) : Prop :=
  ∃ (good : Cmd → State → Bool) (act : Cmd → State → State → State), ∀ s : State,
    exec i s = .next (s.command op ring fun c u => paramOr c (used c) object (good c u) (act c u) u)

/-- Each of the command rows has that shape. -/
theorem commandRow_of_packetRow {i : Instr} {op ring : Nat} {used : Cmd → List (Nat × Nat)} {object : Bool}
    (h : packetRow i = some (op, ring, used, object)) : CommandRow i op ring used object := by
  unfold packetRow at h
  split at h
  all_goals cases h
  all_goals exact ⟨_, _, fun _ => rfl⟩

/-- A row whose command has begun, with its reserved bytes zero and its parameters good, carries out its act. -/
theorem State.row_runs {s u : State} {i : Instr} {op ring : Nat} {used : Cmd → List (Nat × Nat)} {object : Bool} {c : Cmd}
    {good : Cmd → State → Bool} {act : Cmd → State → State → State} (hp : packetRow i = some (op, ring, used, object))
    (hx : ∀ s, exec i s = .next (s.command op ring fun c u => paramOr c (used c) object (good c u) (act c u) u))
    (h : s.runsFor i = some (c, u)) (hg : good c u = true) : exec i s = .next (act c u u) := by
  obtain ⟨op', ring', used', object', hp', hb, hc⟩ := State.runsFor_begun h
  cases hp.symm.trans hp'
  rw [hx, State.command_begun hb, paramOr_good hc hg]

/-- A row whose parameters are not good refuses its command with PARAMETER. -/
theorem State.row_parameter {s u : State} {i : Instr} {op ring : Nat} {used : Cmd → List (Nat × Nat)} {object : Bool}
    {c : Cmd} {good : Cmd → State → Bool} {act : Cmd → State → State → State}
    (hp : packetRow i = some (op, ring, used, object))
    (hx : ∀ s, exec i s = .next (s.command op ring fun c u => paramOr c (used c) object (good c u) (act c u) u))
    (h : s.runsFor i = some (c, u)) (hg : good c u = false) : exec i s = .next (u.refuse c.ask 7) := by
  obtain ⟨op', ring', used', object', hp', hb, -⟩ := State.runsFor_begun h
  cases hp.symm.trans hp'
  rw [hx, State.command_begun hb, paramOr_bad hg]
  rfl

theorem paramOr_unclean {c : Cmd} {used : List (Nat × Nat)} {object : Bool} (hc : c.clean used object = false) (good : Bool)
    (act : State → State) (s : State) : paramOr c used object good act s = s.answer c.ask 4 7 [0] := by
  simp [paramOr, hc, State.refuse, refParameter]

/-- What the command at the front of a startable ring comes to, once a management core takes it. -/
theorem State.command_taken {s : State} {op ring core : Nat} {c : Cmd} (hf : s.front ring = some c)
    (hk : s.coreFor ring = some core) (ho : c.ask.opcode = op) (hs : s.startable ring = true) (act : Cmd → State → State) :
    (∀ s' code r0, (s.served ring core).accept c = (s', .inl (code, r0)) →
      s.command op ring act = s'.answer c.ask 4 code [BitVec.ofNat 32 r0]) ∧
    ∀ s' a, (s.served ring core).accept c = (s', .inr a) →
      s.command op ring act = if (s'.aux ring).cancel.any fun k => k.1 == a.seq then s'.answer a 3 0x40 [0, 0, 0, 0]
        else act { c with ask := a } s' := by
  have hn : ¬ ((c.ask.opcode ≠ op) || !s.startable ring) = true := by simp [ho, hs]
  refine ⟨fun s' code r0 h => ?_, fun s' a h => ?_⟩
  · simp only [State.command, hf, hk, if_neg hn, h]
  · simp only [State.command, hf, hk, if_neg hn, h]

/-- Settles O20. -/
theorem packetsAreRefusedByName : Obligations.PacketsAreRefusedByName := by
  unfold Obligations.PacketsAreRefusedByName
  intro s i op ring core used object c hp hf hk ho hs
  obtain ⟨good, act, hx⟩ := commandRow_of_packetRow hp
  obtain ⟨hno, hyes⟩ := State.command_taken hf hk ho hs fun c u => paramOr c (used c) object (good c u) (act c u) u
  refine ⟨fun s' code r0 h => ?_, fun s' a h => ⟨fun hc => ?_, fun hc hd => ?_⟩⟩
  · rw [hx, hno s' code r0 h]
  · rw [hx, hyes s' a h, if_pos hc]
  · rw [hx, hyes s' a h, if_neg (by rw [hc]; exact Bool.false_ne_true), paramOr_unclean hd]

end Sys2Proof.Machine
end

section
/-! SUPPORT. Replies on completion rings (R375, R377 to R379): the bytes of a reply, where it is written, what it passes, and
the replies that wait. -/

namespace Sys2Proof.Machine

/-! ### A reply that waits -/

theorem RingAux.ne_default_of_held {a : RingAux} (h : a.held ≠ []) : a ≠ {} := fun e => h (by rw [e])

/-- A reply that does not find room, or its turn, joins those that wait. -/
theorem State.postReply_waits {s : State} {q : Nat} (hk : (s.ring q).kind = .completion)
    (hf : (s.ring q).full = true ∨ (s.aux q).held ≠ []) (h : HeldReply) :
    s.postReply q h = s.setAux q { s.aux q with held := (s.aux q).held ++ [h] } := by
  have hw : ((s.ring q).full || !(s.aux q).held.isEmpty) = true := by simpa using hf
  simp only [State.postReply, ne_eq, hk, not_true_eq_false, if_false, hw, if_true]

/-- Settles O22. -/
theorem fullRingsHoldReplies : Obligations.FullRingsHoldReplies := by
  unfold Obligations.FullRingsHoldReplies
  intro s q h hk hf s'
  have e : s' = s.setAux q { s.aux q with held := (s.aux q).held ++ [h] } := State.postReply_waits hk hf h
  have ha : s'.aux q = { s.aux q with held := (s.aux q).held ++ [h] } := by
    rw [e, State.aux_setAux (RingAux.ne_default_of_held (by simp)), if_pos rfl]
  refine ⟨by rw [ha], by rw [e]; rfl, by rw [e]; rfl, fun r hr => ?_, by rw [e]; rfl⟩
  have hh : (s'.aux (s'.ring r).pair).held.isEmpty = false := by rw [hr, ha]; simp
  simp [State.startable, hh]

/-! ### The bytes of a reply -/

theorem Ring.ne_default_of_kind {d : Ring} (h : d.kind ≠ .free) : d ≠ {} := fun e => h (by rw [e])

theorem flatMap_words_length (l : List Word) : (l.flatMap fun w => leBytes 4 w.toNat).length = 4 * l.length := by
  induction l with
  | nil => rfl
  | cons w l ih => rw [List.flatMap_cons, List.length_append, ih, leBytes_length, List.length_cons]; omega

/-- The fields of 32 bytes that are put together from parts of 4, 2, 1, 1, 8 and 16. -/
theorem parts_fields {a b r w : List Byte} {x y : Byte} (ha : a.length = 4) (hb : b.length = 2) (hr : r.length = 8)
    (hw : w.length = 16) :
    let l := a ++ b ++ [x, y] ++ r ++ w
    l.length = 32 ∧ l.take 4 = a ∧ (l.drop 4).take 2 = b ∧ (l.drop 6).take 1 = [x] ∧ (l.drop 7).take 1 = [y] ∧
    l.drop 16 = w := by
  match a, ha, b, hb with
  | [a0, a1, a2, a3], _, [b0, b1], _ => simp [hr, hw]

/-- The 16 bytes before a reply's results: those that name its command and class, its flags, and the rest. -/
theorem replyBytes_eq (seq cls code opcode : Nat) (note final irq : Bool) (slices ring : Nat) (results : List Word) :
    ∃ rest, rest.length = 8 ∧ replyBytes seq cls code opcode note final irq slices ring results =
      leBytes 4 seq ++ leBytes 2 (cls * 2 ^ 12 + code) ++
        [BitVec.ofNat 8 opcode, BitVec.ofNat 8 (b2n note * 2 + b2n final * 4 + b2n irq * 8)] ++ rest ++
        ((results ++ [0, 0, 0, 0]).take 4).flatMap fun (w : Word) => leBytes 4 w.toNat := by
  refine ⟨leBytes 4 slices ++ leBytes 4 ring, by simp, ?_⟩
  simp only [replyBytes, Nat.shiftLeft_eq, List.append_assoc]

/-- The bytes of a reply without what only asks for an interrupt. -/
def cutReply (bytes : List Byte) : List Byte := bytes.set 7 (bytes.getD 7 0 &&& 0x07)

/-- The bytes of a reply as a completion ring takes them, with the PHASE of its pass. -/
def phasedReply (phase : Bool) (bytes : List Byte) : List Byte :=
  bytes.set 7 ((bytes.getD 7 0 &&& 0xFE) ||| BitVec.ofNat 8 (b2n phase))

@[simp] theorem cutReply_length (bytes : List Byte) : (cutReply bytes).length = bytes.length := List.length_set

@[simp] theorem phasedReply_length (phase : Bool) (bytes : List Byte) : (phasedReply phase bytes).length = bytes.length :=
  List.length_set

/-- A reply as it is written: its flags byte takes the PHASE of the pass. -/
theorem replyBytes_written (seq cls code opcode : Nat) (final irq : Bool) (slices ring : Nat) (results : List Word)
    (phase : Bool) :
    let b := phasedReply phase (cutReply (replyBytes seq cls code opcode false final irq slices ring results))
    b.length = 32 ∧ leNat (b.take 4) = seq % 2 ^ 32 ∧ leNat ((b.drop 4).take 2) = (cls * 2 ^ 12 + code) % 2 ^ 16 ∧
    leNat ((b.drop 6).take 1) = opcode % 2 ^ 8 ∧ leNat ((b.drop 7).take 1) = b2n phase + b2n final * 4 ∧
    b.drop 16 = ((results ++ [0, 0, 0, 0]).take 4).flatMap fun (w : Word) => leBytes 4 w.toNat := by
  obtain ⟨rest, hr, e⟩ := replyBytes_eq seq cls code opcode false final irq slices ring results
  intro b
  have hb : b = leBytes 4 seq ++ leBytes 2 (cls * 2 ^ 12 + code) ++
      [BitVec.ofNat 8 opcode, BitVec.ofNat 8 (b2n phase + b2n final * 4)] ++ rest ++
      ((results ++ [0, 0, 0, 0]).take 4).flatMap fun (w : Word) => leBytes 4 w.toNat := by
    simp only [b, phasedReply, cutReply, e]
    cases phase <;> cases final <;> cases irq <;> simp [leBytes, b2n]
  have hw : (((results ++ [0, 0, 0, 0]).take 4).flatMap fun (w : Word) => leBytes 4 w.toNat).length = 16 := by
    rw [flatMap_words_length, List.length_take, List.length_append]
    simp
  obtain ⟨h, h0, h4, h6, h7, h16⟩ := parts_fields (x := BitVec.ofNat 8 opcode) (y := BitVec.ofNat 8 (b2n phase + b2n final * 4))
    (leBytes_length 4 seq) (leBytes_length 2 (cls * 2 ^ 12 + code)) hr hw
  rw [← hb] at h h0 h4 h6 h7 h16
  refine ⟨h, by rw [h0, leNat_leBytes]; rfl, by rw [h4, leNat_leBytes]; rfl, by rw [h6]; simp [leNat], ?_, h16⟩
  rw [h7]
  cases phase <;> cases final <;> rfl

/-! ### A reply that finds room -/

theorem State.raiseVector_memory (v : Nat) (s : State) :
    ∃ h, h.memory = s.host.memory ∧ s.raiseVector v = { s with host := h } := by
  unfold State.raiseVector
  extract_lets e
  split
  · exact ⟨_, by rfl, rfl⟩
  · exact ⟨_, by rfl, rfl⟩

/-- A reply that finds room is written, and then its command is passed; the host may be told. -/
theorem State.postReply_posts {s : State} {q : Nat} (hk : (s.ring q).kind = .completion) (hf : (s.ring q).full = false)
    (hh : (s.aux q).held = []) (bytes : List Byte) (p : Passing) :
    let w := (s.writeReply q (cutReply bytes)).passCommand p
    ∃ h, h.memory = s.host.memory ∧ s.postReply q ⟨bytes, some p⟩ = { w with host := h } := by
  intro w
  have e : s.postReply q ⟨bytes, some p⟩ =
      if (bytes.getD 7 0).getLsbD 3 then w.raiseVector (w.ringVector q) else w := by
    simp only [State.postReply, ne_eq, hk, not_true_eq_false, if_false, hf, hh, List.isEmpty_nil, Bool.not_true,
      Bool.or_self, Bool.false_eq_true]
    rfl
  rw [e]
  split
  · exact State.raiseVector_memory _ w
  · exact ⟨s.host, rfl, rfl⟩

/-- What a reply that finds room writes and moves. -/
theorem State.writeReply_reads {s : State} {q : Nat} (hk : (s.ring q).kind = .completion) (hw : mapWf 0 s.rs.storage = true)
    {b : List Byte} (hb : b.length = 32) :
    let e := s.ring q
    let v := s.writeReply q b
    v.ring q = { e with tail := (e.tail + 1) % 2 ^ 17, posted := (e.posted + 1) % 2 ^ 64 } ∧
    (∀ r, r ≠ q → v.ring r = s.ring r) ∧
    memRead v.rs.storage (e.entryAt e.tail) 32 = phasedReply (((s.aux q).replies / 2 ^ e.log2d) % 2 == 0) b := by
  intro e v
  have hn : ({ e with tail := (e.tail + 1) % 2 ^ 17, posted := (e.posted + 1) % 2 ^ 64 } : Ring) ≠ {} :=
    Ring.ne_default_of_kind (by rw [hk]; decide)
  have hr : ∀ r, v.ring r = if r = q then { e with tail := (e.tail + 1) % 2 ^ 17, posted := (e.posted + 1) % 2 ^ 64 }
      else s.ring r := fun r => mapGet_mapSet_listed hn _ _ _
  refine ⟨by rw [hr, if_pos rfl], fun r h => by rw [hr, if_neg h], ?_⟩
  have := memRead_memWrite hw (e.entryAt e.tail) (phasedReply (((s.aux q).replies / 2 ^ e.log2d) % 2 == 0) b)
  rw [phasedReply_length, hb] at this
  exact this

theorem State.aux_setAux_wf {s : State} (h : mapWf {} s.rs.aux = true) (r m : Nat) (v : RingAux) :
    (s.setAux r v).aux m = if m = r then v else s.aux m := mapGet_mapSet h _ _ _

/-- A reply written leaves what the hub keeps for another ring. -/
theorem State.aux_writeReply {s : State} (h : mapWf {} s.rs.aux = true) {q r : Nat} (hr : r ≠ q) (b : List Byte) :
    (s.writeReply q b).aux r = s.aux r ∧ mapWf {} (s.writeReply q b).rs.aux = true :=
  ⟨(mapGet_mapSet h _ _ _).trans (if_neg hr), mapWf_mapSet h _ _⟩

/-- What a command that is passed moves of its ring. -/
theorem State.passCommand_reads {s : State} {p : Passing} (hk : (s.ring p.ring).kind = .command)
    (h : mapWf {} s.rs.aux = true) :
    let v := s.passCommand p
    (v.ring p.ring).head = p.head ∧ (∀ r, r ≠ p.ring → v.ring r = s.ring r) ∧ (v.aux p.ring).nextSeq = p.nextSeq ∧
    (v.aux p.ring).current = (s.aux p.ring).current := by
  intro v
  have hn : ({ s.ring p.ring with head := p.head } : Ring) ≠ {} := Ring.ne_default_of_kind (by rw [hk]; decide)
  have hr : ∀ r, v.ring r = if r = p.ring then { s.ring p.ring with head := p.head } else s.ring r :=
    fun r => mapGet_mapSet_listed hn _ _ _
  have ha : v.aux p.ring = { s.aux p.ring with
      nextSeq := p.nextSeq, bells := pruneBells p.head (s.aux p.ring).bells, skip := p.skip } :=
    (mapGet_mapSet h _ _ _).trans (if_pos rfl)
  refine ⟨by rw [hr, if_pos rfl], fun r hn => by rw [hr, if_neg hn], by rw [ha], by rw [ha]⟩

/-- `s'` is `s` once a reply of bytes `bytes` stands in completion ring `q` and command ring `p.ring` has been passed as `p`
says. -/
structure State.Posted (s s' : State) (q : Nat) (bytes : List Byte) (p : Passing) : Prop where
  tail : (s'.ring q).tail = ((s.ring q).tail + 1) % 2 ^ 17
  same : (s'.ring q).head = (s.ring q).head
  head : (s'.ring p.ring).head = p.head
  seq : (s'.aux p.ring).nextSeq = p.nextSeq
  current : (s'.aux p.ring).current = (s.aux p.ring).current
  written : memRead s'.rs.storage ((s.ring q).entryAt (s.ring q).tail) 32 =
    phasedReply (((s.aux q).replies / 2 ^ (s.ring q).log2d) % 2 == 0) (cutReply bytes)
  rest : s' = { s with rs := s'.rs, host := s'.host }
  memory : s'.host.memory = s.host.memory

/-- A reply that finds room stands in its ring. -/
theorem State.postReply_posted {s : State} {q : Nat} (hk : (s.ring q).kind = .completion) (hf : (s.ring q).full = false)
    (hh : (s.aux q).held = []) (hw : mapWf 0 s.rs.storage = true) (ha : mapWf {} s.rs.aux = true) {bytes : List Byte}
    (hb : bytes.length = 32) {p : Passing} (hp : (s.ring p.ring).kind = .command) :
    s.Posted (s.postReply q ⟨bytes, some p⟩) q bytes p := by
  have hpq : p.ring ≠ q := fun h => by rw [h, hk] at hp; cases hp
  obtain ⟨host, hm, e⟩ := State.postReply_posts hk hf hh bytes p
  obtain ⟨rq, rr, rb⟩ := State.writeReply_reads hk hw ((cutReply_length bytes).trans hb)
  obtain ⟨va, vw⟩ := State.aux_writeReply ha hpq (cutReply bytes)
  have vk : ((s.writeReply q (cutReply bytes)).ring p.ring).kind = .command := by rw [rr _ hpq, hp]
  obtain ⟨ph, pr, pn, pc⟩ := State.passCommand_reads vk vw
  have hq := (pr q (Ne.symm hpq)).trans rq
  obtain ⟨rs', hw'⟩ : ∃ r, (s.writeReply q (cutReply bytes)).passCommand p = { s with rs := r } := ⟨_, rfl⟩
  have hs : ((s.writeReply q (cutReply bytes)).passCommand p).rs.storage = (s.writeReply q (cutReply bytes)).rs.storage := rfl
  rw [← hs] at rb
  rw [va] at pc
  rw [hw'] at ph hq pn pc rb
  have ht := congrArg Ring.tail hq
  have hd := congrArg Ring.head hq
  rw [e, hw']
  exact ⟨ht, hd, ph, pn, pc, rb, rfl, hm⟩

/-! ### An answer -/

/-- What an answer passes: its command and the packets of it that its ring holds. -/
def State.passingOf (s : State) (a : Ask) (cls code : Nat) : Passing where
  ring := a.ring
  head := if 1 + a.next - (s.ring a.ring).used = 0 then a.after else (s.ring a.ring).tail
  nextSeq := if cls = 4 ∧ code = 1 then (s.aux a.ring).nextSeq else ((s.aux a.ring).nextSeq + 1) % 2 ^ 32
  skip := 1 + a.next - (s.ring a.ring).used

/-- The ring of a command with nothing in progress. -/
def State.unburdened (s : State) (r : Nat) : State :=
  s.setAux r { s.aux r with current := none, work := none, fence := none, slices := 0 }

theorem State.aux_unburdened {s : State} (h : mapWf {} s.rs.aux = true) (r m : Nat) : (s.unburdened r).aux m =
    if m = r then { s.aux r with current := none, work := none, fence := none, slices := 0 } else s.aux m :=
  State.aux_setAux_wf h r m _

/-- An answer is a reply from its ring with nothing in progress, and a count of the events that the host selected. -/
theorem State.answerOnly_posts (a : Ask) (cls code : Nat) (results : List Word) (s : State) :
    let v := (s.unburdened a.ring).postReply (s.ring a.ring).pair ⟨s.replyFor a cls code results, some (s.passingOf a cls code)⟩
    ∃ n c, s.answerOnly a cls code results = { v with rs := { v.rs with unfinal := n }, cnt := c } := by
  intro v
  by_cases h : cls = 1
  · exact ⟨v.rs.unfinal ++ [(a.ring, a.seq, a.after)], _, by rw [State.answerOnly]; simp only [if_pos h]; rfl⟩
  · exact ⟨v.rs.unfinal, _, by rw [State.answerOnly]; simp only [if_neg h]; rfl⟩

/-- The bytes of the reply to a command, as they are written. -/
theorem State.replyFor_written (s : State) (a : Ask) (cls code : Nat) (results : List Word) (phase : Bool) :
    let b := phasedReply phase (cutReply (s.replyFor a cls code results))
    (s.replyFor a cls code results).length = 32 ∧ leNat (b.take 4) = a.seq % 2 ^ 32 ∧
    leNat ((b.drop 4).take 2) = (cls * 2 ^ 12 + code) % 2 ^ 16 ∧ leNat ((b.drop 6).take 1) = a.opcode % 2 ^ 8 ∧
    leNat ((b.drop 7).take 1) = b2n phase + (if cls = 1 ∨ cls = 2 then 0 else 4) ∧
    b.drop 16 = ((results ++ [0, 0, 0, 0]).take 4).flatMap fun (w : Word) => leBytes 4 w.toNat := by
  obtain ⟨hl, h0, h4, h6, h7, h16⟩ := replyBytes_written a.seq cls code a.opcode (cls != 1 && cls != 2) a.irq
    (if (s.aux a.ring).current == some a then max 1 (s.aux a.ring).slices else 1) a.ring results phase
  have hfinal : b2n (cls != 1 && cls != 2) * 4 = if cls = 1 ∨ cls = 2 then 0 else 4 := by
    by_cases h1 : cls = 1 <;> by_cases h2 : cls = 2 <;> simp [h1, h2, b2n]
  rw [phasedReply_length, cutReply_length] at hl
  exact ⟨hl, h0, h4, h6, h7.trans (by rw [hfinal]), h16⟩

/-- Settles O21. -/
theorem answersArePosted : Obligations.AnswersArePosted := by
  unfold Obligations.AnswersArePosted
  intro s a cls code results d q e phase hd he hf hh hn hst haux s'
  have hqr : q ≠ a.ring := fun h => by rw [show e = d from congrArg s.ring h, hd] at he; cases he
  have tw : mapWf {} (s.unburdened a.ring).rs.aux = true := mapWf_mapSet haux _ _
  have tq : (s.unburdened a.ring).aux q = s.aux q := by rw [State.aux_unburdened haux, if_neg hqr]
  have ta : ((s.unburdened a.ring).aux a.ring).current = none := by rw [State.aux_unburdened haux, if_pos rfl]
  obtain ⟨hl, h0, h4, h6, h7, h16⟩ :=
    s.replyFor_written a cls code results (((s.aux q).replies / 2 ^ e.log2d) % 2 == 0)
  have hp := State.postReply_posted (s := s.unburdened a.ring) he hf (by rw [tq]; exact hh) hst tw hl
    (p := s.passingOf a cls code) hd
  have hz : 1 + a.next - (s.ring a.ring).used = 0 := by have : 1 + a.next ≤ (s.ring a.ring).used := hn; omega
  obtain ⟨n, c, hs'⟩ := State.answerOnly_posts a cls code results s
  change s' = _ at hs'
  clear_value s'
  subst hs'
  refine ⟨hp.tail, hp.same, hp.head.trans (if_pos hz), hp.seq, hp.current.trans ta, fun b hb => ?_, ?_, hp.memory⟩
  · have hw := hp.written
    rw [tq] at hw
    have : b = _ := hb.symm.trans hw
    subst this
    exact ⟨h0, h4, h6, h7, h16⟩
  · generalize State.postReply _ _ _ = v at hp
    have := hp.rest
    rw [this]; rfl

end Sys2Proof.Machine
end

section
/-! SUPPORT. The checks of a command (R372, R384, R385), what they leave of it, and the commands over pages (R141, R150, R570). -/

namespace Sys2Proof.Machine

/-! ### The checks -/

/-- Settles O19, check by check. -/
theorem checksComeInTheirOrder : Obligations.ChecksComeInTheirOrder := by
  unfold Obligations.ChecksComeInTheirOrder
  intro s c a out
  refine ⟨fun h => ?_, fun hs => ⟨fun ho => ?_, fun need ho => ⟨fun hn => ?_, fun hn => ?_⟩⟩⟩
  · have e : s.accept c = (s, .inl (1, (s.aux a.ring).nextSeq)) := by rw [State.accept]; exact if_pos h
    exact ⟨congrArg Prod.snd e, congrArg Prod.fst e⟩
  · simp [out, State.accept, a, hs, ho]
  · have hd : (s.ring c.ask.ring).depth - 1 < c.ask.next := hn
    simp [out, State.accept, a, hs, ho, hd]
  · have hd : ¬ (s.ring c.ask.ring).depth - 1 < c.ask.next := Nat.not_lt.mpr hn
    intro roles
    refine ⟨fun hf hv => ?_, fun hf hr hk => ?_, fun hf hr h8 => ?_, fun k hf hr hk => ⟨fun hm => ?_, fun hm hu hq => ?_,
      fun hm hu h8 => ?_⟩⟩
    · simp [out, State.accept, a, hs, ho, hd, hf, hv]
    · simp [out, State.accept, a, hs, ho, hd, hf, hk, hr, roles]
    · have h9 : ¬ 8 ≤ c.ask.flags := Nat.not_le.mpr h8
      simp [out, State.accept, a, hs, ho, hd, hf, hr, roles, h9]
    · simp [out, State.accept, a, hs, ho, hd, hf, hk, hr, roles, hm]
    · simp [out, State.accept, a, hs, ho, hd, hf, hk, hr, roles, hm, hu, hq]
    · have h9 : ¬ 8 ≤ c.ask.flags := Nat.not_le.mpr h8
      rcases hu with hu | hu <;> simp [out, State.accept, a, hs, ho, hd, hf, hk, hr, roles, hm, hu, h9]

/-- An accepted command keeps its ring, number, opcode and flags; its checks add the key. -/
theorem State.accept_ask {s v : State} {c : Cmd} {a : Ask} (h : s.accept c = (v, .inr a)) :
    ∃ role key time, a = { c.ask with role := role, keyId := key, time := time } := by
  unfold State.accept at h
  extract_lets b at h
  split at h
  · cases h
  split at h
  · cases h
  split at h
  · cases h
  extract_lets roles fin at h
  have hfin : ∀ u ro k t g, fin u ro k t g = (v, .inr a) → a = { c.ask with role := ro, keyId := k, time := t } := by
    intro u ro k t g e
    simp only [fin] at e
    split at e
    · cases e
    split at e
    · cases e
    split at e
    · cases e
    · cases e; rfl
  split at h
  · split at h
    · cases h
    · exact ⟨_, _, _, hfin _ _ _ _ _ h⟩
  · split at h
    · exact ⟨_, _, _, hfin _ _ _ _ _ h⟩
    · split at h
      · cases h
      · exact ⟨_, _, _, hfin _ _ _ _ _ h⟩

/-- A command that has begun is the one at the front of its ring, of the opcode of its row, under its key. -/
theorem State.begun_front {s u : State} {op ring : Nat} {c : Cmd} (h : s.begun op ring = some (c, u)) :
    ∃ c0 core role key time, s.front ring = some c0 ∧ s.coreFor ring = some core ∧ s.startable ring = true ∧
      (s.served ring core).answeredFrom u ∧ c0.ask.opcode = op ∧
      c = { c0 with ask := { c0.ask with role := role, keyId := key, time := time } } := by
  unfold State.begun at h
  split at h
  · next c0 core hf hk =>
    split at h
    · cases h
    · next hn =>
      simp only [ne_eq, Bool.or_eq_true, decide_eq_true_eq, Bool.not_eq_true', not_or, not_not, Bool.not_eq_false] at hn
      split at h
      · cases h
      · next s' a ha =>
        split at h
        · cases h
        · cases h
          obtain ⟨role, key, time, rfl⟩ := State.accept_ask ha
          have hu := State.accept_from (s.served ring core) c0
          rw [ha] at hu
          exact ⟨c0, core, role, key, time, hf, hk, hn.2, hu, hn.1, rfl⟩
  · cases h

/-- A command at the front of a ring names that ring. -/
theorem State.front_ring {s : State} {ring : Nat} {c : Cmd} (h : s.front ring = some c) : c.ask.ring = ring := by
  unfold State.front at h
  extract_lets d pk f next big ext sig cut at h
  split at h
  · cases h
  · split at h
    · cases h
    · cases h; rfl

/-- A command that runs has the opcode of its row and names its ring. -/
theorem State.runsFor_ask {s u : State} {i : Instr} {c : Cmd} {op ring : Nat} {used : Cmd → List (Nat × Nat)} {object : Bool}
    (hp : packetRow i = some (op, ring, used, object)) (h : s.runsFor i = some (c, u)) :
    c.ask.opcode = op ∧ c.ask.ring = ring := by
  obtain ⟨op', ring', used', object', hp', hb, -⟩ := State.runsFor_begun h
  cases hp.symm.trans hp'
  obtain ⟨c0, core, role, key, time, hf, -, -, -, ho, rfl⟩ := State.begun_front hb
  exact ⟨ho, State.front_ring (c := c0) hf⟩

/-! ### Pages -/

theorem MemState.page_setPage {m : MemState} {p : Page} (hp : p ≠ {}) (n k : Nat) :
    (m.setPage n p).page k = if k = n then p else m.page k := mapGet_mapSet_listed hp _ _ _

theorem MemState.page_setPage_wf {m : MemState} (h : mapWf {} m.pages = true) (n k : Nat) (p : Page) :
    (m.setPage n p).page k = if k = n then p else m.page k := mapGet_mapSet h _ _ _

theorem Cmd.pages_nodup (c : Cmd) : c.pages.Nodup :=
  (List.nodup_range).map fun a b (h : c.first + a = c.first + b) => by omega

theorem mapGet_of_unlisted {α : Type} {d : α} {m : Map α} {i : Nat} (h : ∀ e ∈ m, e.1 ≠ i) : mapGet d m i = d := by
  induction m with
  | nil => rfl
  | cons e m ih =>
    obtain ⟨k, v⟩ := e
    have hk : ¬ i = k := fun hk => h _ List.mem_cons_self hk.symm
    rw [mapGet, if_neg hk]
    split
    · rfl
    · exact ih fun e he => h e (List.mem_cons_of_mem _ he)

/-! ### Frames that are cleared -/

theorem MemState.clearFrame_sub {m : MemState} {f : Nat} {e : Nat × Byte} (h : e ∈ (m.clearFrame f).clay) :
    e ∈ m.clay ∧ ¬ (f * 2 ^ 21 ≤ e.1 ∧ e.1 < (f + 1) * 2 ^ 21) := by
  obtain ⟨h1, h2⟩ := List.mem_filter.mp h
  refine ⟨h1, fun ⟨ha, hb⟩ => ?_⟩
  rcases Bool.or_eq_true_iff.mp h2 with h | h
  · have := of_decide_eq_true h
    simp only [frameBytes] at this
    omega
  · have := of_decide_eq_true h
    simp only [frameBytes] at this
    omega

/-- Frames that are cleared list no byte, no other byte changes its place, and beyond clay only counters move. -/
theorem State.clearFrames_only (fs : List Nat) (s : State) :
    ∃ clay poison c, s.clearFrames fs = { s with mem := { s.mem with clay := clay, poison := poison }, cnt := c } ∧
      ∀ e ∈ clay, e ∈ s.mem.clay ∧ ∀ f ∈ fs, ¬ (f * 2 ^ 21 ≤ e.1 ∧ e.1 < (f + 1) * 2 ^ 21) := by
  induction fs generalizing s with
  | nil => exact ⟨s.mem.clay, s.mem.poison, s.cnt, rfl, fun e he => ⟨he, by simp⟩⟩
  | cons f fs ih =>
    obtain ⟨c0, h0⟩ := State.countClay_only 0x0202 4 false (f * frameBytes) frameBytes { s with mem := s.mem.clearFrame f }
    obtain ⟨clay, poison, c, h1, h2⟩ := ih ({ s with mem := s.mem.clearFrame f, cnt := c0 })
    refine ⟨clay, poison, c, ?_, fun e he => ?_⟩
    · rw [State.clearFrames, List.foldl_cons, h0]
      exact h1
    · obtain ⟨hm, hn⟩ := h2 e he
      obtain ⟨hm, hf⟩ := MemState.clearFrame_sub hm
      refine ⟨hm, fun g hg => ?_⟩
      rcases List.mem_cons.mp hg with rfl | hg
      · exact hf
      · exact hn g hg

/-- A byte of a frame that is cleared reads zero. -/
theorem State.clearFrames_zero (fs : List Nat) (s : State) {f a : Nat} (hf : f ∈ fs) (h1 : f * 2 ^ 21 ≤ a)
    (h2 : a < (f + 1) * 2 ^ 21) : mapGet 0 (s.clearFrames fs).mem.clay a = 0 := by
  obtain ⟨clay, poison, c, e, h⟩ := State.clearFrames_only fs s
  rw [e]
  exact mapGet_of_unlisted fun x hx hxa => (h x hx).2 f hf (by rw [hxa]; exact ⟨h1, h2⟩)

/-! ### PAGE_MAP -/

theorem State.auditPages_only (a : Option Ask) (first count old : Nat) (s : State) :
    ∃ t q h, s.auditPages a first count old = { s with trust := t, rs := q, host := h } := by
  cases a with
  | none => obtain ⟨t, q, h, e, -⟩ := State.appendAudit_only _ s; exact ⟨t, q, h, e⟩
  | some a => obtain ⟨t, q, h, e, -⟩ := State.appendAudit_only _ s; exact ⟨t, q, h, e⟩

/-- A page that PAGE_MAP maps at home. -/
def Cmd.homePage (c : Cmd) (frames : List Nat) : Page :=
  { valid := true, state := if c.sealedFlag then .sealed else .open_, banked := c.banked, frame0 := frames.getD 0 0,
    frame1 := frames.getD 1 0 }

theorem State.mapPage_home {c : Cmd} (h : c.remote = false) (n : Nat) (frames : List Nat) (s : State) :
    s.mapPage c n frames = { s with mem := s.mem.setPage n (c.homePage frames) } := by
  simp only [State.mapPage, h, Bool.false_eq_true, if_false, Bool.false_and]
  rfl

/-- Pages mapped at home: each named page with its frames, no other page, and nothing but the page table. -/
theorem State.foldl_mapPage {c : Cmd} (h : c.remote = false) (l : List Nat) (s : State) (frames : List Nat) :
    ∃ m, (l.foldl (fun (a : State × List Nat) n =>
        (a.1.mapPage c n (a.2.take (a.1.framesFor c n)), a.2.drop (a.1.framesFor c n))) (s, frames)).1 =
        { s with mem := { s.mem with pages := m } } ∧
      (∀ n ∈ l, ∃ fs, mapGet {} m n = c.homePage fs) ∧ ∀ n, n ∉ l → mapGet {} m n = s.mem.page n := by
  induction l generalizing s frames with
  | nil => exact ⟨s.mem.pages, rfl, by simp, fun _ _ => rfl⟩
  | cons k l ih =>
    rw [List.foldl_cons, State.mapPage_home h]
    obtain ⟨m, e, h1, h2⟩ := ih { s with mem := s.mem.setPage k (c.homePage (frames.take (s.framesFor c k))) }
      (frames.drop (s.framesFor c k))
    have hk : c.homePage (frames.take (s.framesFor c k)) ≠ {} := fun e => by simpa [Cmd.homePage] using congrArg Page.valid e
    refine ⟨m, e, fun n hn => ?_, fun n hn => ?_⟩
    · by_cases hl : n ∈ l
      · exact h1 n hl
      · have hnk : n = k := (List.mem_cons.mp hn).resolve_right hl
        exact ⟨_, (h2 n hl).trans ((MemState.page_setPage hk k n).trans (if_pos hnk))⟩
    · obtain ⟨a, b⟩ := not_or.mp (mt List.mem_cons.mpr hn)
      exact (h2 n b).trans ((MemState.page_setPage hk k n).trans (if_neg a))

/-- PAGE_MAP at home: the pages named, and beyond the page table and the audit log nothing. -/
theorem State.mapPages_home {c : Cmd} (h : c.remote = false) (frames : List Nat) (s : State) :
    ∃ m t q x, s.mapPages c frames = { s with mem := { s.mem with pages := m }, trust := t, rs := q, host := x } ∧
      (∀ n ∈ c.pages, ∃ fs, mapGet {} m n = c.homePage fs) ∧ ∀ n, n ∉ c.pages → mapGet {} m n = s.mem.page n := by
  obtain ⟨m, e, h1, h2⟩ := State.foldl_mapPage h c.pages s frames
  unfold State.mapPages
  extract_lets old r
  have hr : r.1 = { s with mem := { s.mem with pages := m } } := e
  obtain ⟨t, q, x, e'⟩ := State.auditPages_only (some c.ask) c.first c.count old r.1
  exact ⟨m, t, q, x, by rw [e', hr], h1, h2⟩

theorem bitOf_eq_false {v k : Nat} (h : v < 2 ^ k) : bitOf v k = false := by
  exact Nat.testBit_lt_two_pow h

/-- With no job no page is in an inlet. -/
theorem State.inletPage_idle {s : State} (h : s.job.image = none) (n : Nat) : s.inletPage n = false := by
  simp [State.inletPage, State.meetsInlet, State.inletBases, State.image, h]

/-- PAGE_MAP at home with no job: refused for a page that is mapped, or for a lack of frames, and otherwise carried out. -/
theorem State.mapStart_home {c : Cmd} {s : State} (hj : s.job.image = none) (hr : c.remote = false) :
    let w := s.freeRetired
    ((∃ n ∈ c.pages, (s.mem.page n).valid = true) → s.mapStart c = w.refuse c.ask 9) ∧
    ((∀ n ∈ c.pages, (s.mem.page n).valid = false) →
      (w.mem.takeFrames (w.framesNeeded c) = none → s.mapStart c = w.refuse c.ask 10) ∧
      ∀ fs, w.mem.takeFrames (w.framesNeeded c) = some fs →
        s.mapStart c = ((w.clearFrames fs).mapPages c fs).done c.ask []) := by
  intro w
  have hw : w.job.image = none := hj
  have hin : c.pages.any w.inletPage = false := List.any_eq_false.mpr fun n _ => by simp [State.inletPage_idle hw]
  have hallow : w.mapAllowed c = c.pages.all fun n => !(s.mem.page n).valid := by
    simp only [State.mapAllowed, State.inletPage_idle hw, Bool.not_false, Bool.and_true, Page.allows]
    rfl
  have hruns : w.jobRuns = false := by rw [State.jobRuns, hw]; rfl
  refine ⟨fun ⟨n, hn, hv⟩ => ?_, fun hv => ?_⟩
  · have : w.mapAllowed c = false := by
      rw [hallow]; exact List.all_eq_false.mpr ⟨n, hn, by simp [hv]⟩
    rw [State.mapStart]
    exact if_pos (by rw [this, hruns]; rfl)
  · have : w.mapAllowed c = true := by
      rw [hallow]; exact List.all_eq_true.mpr fun n hn => by simp [hv n hn]
    have hno : ¬ ((!w.jobRuns && !w.mapAllowed c) || c.pages.any w.inletPage) = true := by rw [this, hin]; simp
    refine ⟨fun hf => ?_, fun fs hf => ?_⟩
    · rw [State.mapStart]
      refine (if_neg hno).trans ?_
      rw [hf]; rfl
    · unfold State.mapStart
      rw [if_neg hno]
      split
      · next h => cases h.symm.trans hf
      · next gs h =>
        cases h.symm.trans hf
        simp [hr, show s.freeRetired.jobRuns = false from hruns, w]

theorem Cmd.flags_home {c : Cmd} (h : c.p 28 1 < 2) : c.remote = false ∧ c.sealedFlag = false := by
  constructor
  · exact bitOf_eq_false (h.trans (by decide))
  · exact bitOf_eq_false h

/-! ### PAGE_UNMAP, PAGE_SEAL and PAGE_OPEN -/

/-- What each of the three commands makes of a page. -/
def Page.changed (op : Nat) (p : Page) : Page :=
  match op with
  | 0x21 => {}
  | 0x22 => { p with state := .sealed }
  | 0x23 => { p with state := .open_, copies := false, frame0 := if p.loc = .remote then 0 else p.frame0,
                     frame1 := if p.loc = .remote then 0 else p.frame1 }
  | _ => p

theorem MemState.change_page {m : MemState} (h : mapWf {} m.pages = true) (op n k : Nat) :
    (m.change op n).page k = (if k = n then (m.page n).changed op else m.page k) ∧ mapWf {} (m.change op n).pages = true ∧
    m.change op n = { m with pages := (m.change op n).pages } := by
  unfold MemState.change Page.changed
  extract_lets p
  split
  · exact ⟨MemState.page_setPage_wf h _ _ _, mapWf_mapSet h _ _, rfl⟩
  · exact ⟨MemState.page_setPage_wf h _ _ _, mapWf_mapSet h _ _, rfl⟩
  · exact ⟨MemState.page_setPage_wf h _ _ _, mapWf_mapSet h _ _, rfl⟩
  · exact ⟨by split <;> simp_all, h, rfl⟩

/-- Distinct pages changed one after the other: each once, and no other page. -/
theorem MemState.foldl_change (op : Nat) (l : List Nat) (hl : l.Nodup) {m : MemState} (h : mapWf {} m.pages = true) :
    let v := l.foldl (fun m n => m.change op n) m
    (∀ n, v.page n = if n ∈ l then (m.page n).changed op else m.page n) ∧ v = { m with pages := v.pages } := by
  induction l generalizing m with
  | nil => exact ⟨fun n => by simp, rfl⟩
  | cons k l ih =>
    obtain ⟨hk, hl⟩ := List.nodup_cons.mp hl
    obtain ⟨-, hw, e⟩ := MemState.change_page h op k k
    obtain ⟨h1, h2⟩ := ih hl hw
    refine ⟨fun n => ?_, ?_⟩
    · rw [List.foldl_cons, h1, (MemState.change_page h op k n).1]
      by_cases hn : n = k
      · subst hn; simp [hk]
      · simp [hn]
    · rw [List.foldl_cons, h2, e]

/-- The three changes of a page: put off while a job runs, refused when a page does not allow it, else made on each. -/
theorem State.pageStart_cases {c : Cmd} {s : State}
    (hm : ∀ n ∈ c.pages, (s.mem.page n).state ≠ .migrating) :
    (s.job.image.isSome = true → s.pageStart c = s.defer_ c 1 s.job.epoch) ∧
    (s.job.image = none → (∃ n ∈ c.pages, (s.mem.page n).allows c.ask.opcode = false) → s.pageStart c = s.refuse c.ask 9) ∧
    (s.job.image = none → (∀ n ∈ c.pages, (s.mem.page n).allows c.ask.opcode = true) →
      s.pageStart c = (({ s with mem := c.pages.foldl (fun m n => m.change c.ask.opcode n) s.mem }).auditPages (some c.ask)
        c.first c.count (s.mem.page c.first).bits).done c.ask []) := by
  have hfind : (c.pages.find? fun n => (s.mem.page n).state == .migrating) = none :=
    List.find?_eq_none.mpr fun n hn => by simpa using hm n hn
  have hno : ¬ (c.ask.opcode = 0x21 ∧ (c.pages.find? fun n => (s.mem.page n).state == .migrating).isSome = true) := by
    rw [hfind]; simp
  have start : s.pageStart c = if s.jobRuns then s.defer_ c 1 s.job.epoch
      else if (s.pageChange c).2 then (s.pageChange c).1.done c.ask [] else s.refuse c.ask refState := by
    rw [State.pageStart]; exact if_neg hno
  refine ⟨fun hj => ?_, fun hj ⟨n, hn, ha⟩ => ?_, fun hj ha => ?_⟩
  · rw [start, if_pos (show s.jobRuns = true from hj)]
  · have : ¬ (c.pages.all fun n => (s.mem.page n).allows c.ask.opcode) = true := fun h => by
      simpa [ha] using List.all_eq_true.mp h n hn
    rw [start, if_neg (by simp [State.jobRuns, hj])]
    simp only [State.pageChange, if_neg this, Bool.false_eq_true, if_false]
    rfl
  · have : (c.pages.all fun n => (s.mem.page n).allows c.ask.opcode) = true := List.all_eq_true.mpr ha
    rw [start, if_neg (by simp [State.jobRuns, hj])]
    simp only [State.pageChange, if_pos this, if_true]

/-- What the three commands have in common. -/
theorem State.pageCommand {s u : State} {i : Instr} {c : Cmd} {op ring : Nat} (next : Page → Page)
    (hp : packetRow i = some (op, ring, fun _ => [(16, 12)], false))
    (hx : ∀ s, exec i s =
      .next (s.command op ring fun c u => paramOr c [(16, 12)] false c.pagesGood (fun s => s.pageStart c) u))
    (hnext : ∀ n ∈ c.pages, (u.mem.page n).changed op = next (u.mem.page n))
    (hr : s.runsFor i = some (c, u)) (hg : c.pagesGood = true) (hm : ∀ n ∈ c.pages, (u.mem.page n).state ≠ .migrating) :
    (u.job.image.isSome = true → exec i s = .next (u.defer_ c 1 u.job.epoch)) ∧
    (u.job.image = none → (∃ n ∈ c.pages, (u.mem.page n).allows op = false) → exec i s = .next (u.refuse c.ask 9)) ∧
    (u.job.image = none → (∀ n ∈ c.pages, (u.mem.page n).allows op = true) → mapWf {} u.mem.pages = true →
      ∃ v : State, exec i s = .next (v.done c.ask []) ∧
        (∀ n, v.mem.page n = if n ∈ c.pages then next (u.mem.page n) else u.mem.page n) ∧
        v.mem.clay = u.mem.clay ∧ v.tiles = u.tiles ∧ v.job = u.job) := by
  obtain ⟨ho, -⟩ := State.runsFor_ask hp hr
  have e : exec i s = .next (u.pageStart c) := State.row_runs (act := fun c _ s => s.pageStart c) hp hx hr hg
  obtain ⟨h1, h2, h3⟩ := State.pageStart_cases hm
  rw [ho] at h2 h3
  rw [e]
  refine ⟨fun hj => by rw [h1 hj], fun hj hn => by rw [h2 hj hn], fun hj ha hw => ⟨_, congrArg _ (h3 hj ha), ?_⟩⟩
  obtain ⟨hc, hv⟩ := MemState.foldl_change op c.pages c.pages_nodup hw
  obtain ⟨t, q, x, ea⟩ := State.auditPages_only (some c.ask) c.first c.count (u.mem.page c.first).bits
    { u with mem := c.pages.foldl (fun m n => m.change op n) u.mem }
  rw [ea]
  refine ⟨fun n => ?_, by rw [hv], rfl, rfl⟩
  rw [hc]
  split
  · next hn => rw [hnext n hn]
  · rfl

/-- Settles O25. -/
theorem pageCommands : Obligations.PageCommands := by
  unfold Obligations.PageCommands
  refine ⟨fun s ring c u hr hg hl hf hj => ?_, fun s ring c u => ⟨?_, ?_, fun hh => ?_⟩⟩
  · obtain ⟨hremote, hseal⟩ := Cmd.flags_home hf
    have hp : packetRow (.pageMap ring) = some (0x20, ring, fun _ => [(16, 13), (32, 3)], false) := rfl
    have e : exec (.pageMap ring) s = .next (u.mapStart c) :=
      State.row_runs (act := fun c _ s => s.mapStart c) hp (fun _ => rfl) hr
        (by simp [hg, (show c.p 32 3 < 1048576 from hl), hf.trans (show 2 < 8 by decide), hseal])
    intro w
    obtain ⟨h1, h2⟩ := State.mapStart_home hj hremote
    rw [e]
    refine ⟨fun hv => by rw [h1 hv], fun hv hfs => by rw [(h2 hv).1 hfs], fun fs hv hfs => ⟨_, congrArg _ ((h2 hv).2 fs hfs), ?_⟩⟩
    obtain ⟨m, t, q, x, em, hin, hout⟩ := State.mapPages_home hremote fs (w.clearFrames fs)
    obtain ⟨clay, poison, k, ec, -⟩ := State.clearFrames_only fs w
    have hz := fun f (hm : f ∈ fs) a => State.clearFrames_zero fs w hm (a := a)
    rw [em]
    refine ⟨fun n hn => ?_, fun n hn => ?_, hz, by rw [ec]; rfl, by rw [ec]; rfl⟩
    · obtain ⟨gs, hg⟩ := hin n hn
      have : (mapGet {} m n : Page) = c.homePage gs := hg
      simp only [MemState.page, this, Cmd.homePage, hseal]
      simp
    · exact (hout n hn).trans (by rw [ec]; rfl)
  · exact State.pageCommand _ rfl (fun _ => rfl) fun _ _ => rfl
  · exact State.pageCommand _ rfl (fun _ => rfl) fun _ _ => rfl
  · have hnext : ∀ n ∈ c.pages, (u.mem.page n).changed 0x23 = { u.mem.page n with state := .open_, copies := false } :=
      fun n hn => by simp [Page.changed, hh n hn]
    exact State.pageCommand (fun p => { p with state := .open_, copies := false }) rfl (fun _ => rfl) hnext

end Sys2Proof.Machine
end

section
/-! SUPPORT. The package's coordinates stand while a tile begins its fc. -/

namespace Sys2Proof.Machine

variable {s : State} {co : Nat} (h : s.fab.coord = co)

theorem foldl_coord {α : Type} {f : State → α → State} (hf : ∀ s x, s.fab.coord = co → (f s x).fab.coord = co)
    (l : List α) (h : s.fab.coord = co) : (l.foldl f s).fab.coord = co :=
  List.foldlRecOn l f h fun s hs x _ => hf s x hs

include h

theorem State.countSource_coord (scope die tile source qual k : Nat) (spec : Bool) :
    (s.countSource scope die tile source qual k spec).fab.coord = co := h

theorem State.tileCount_coord (id : TileId) (u : Tile) (source k : Nat) (b : Bool) :
    (s.tileCount id u source k b).fab.coord = co := by
  obtain ⟨c, e⟩ := s.tileCount_only id u source k b
  rw [e]; exact h

theorem State.countTile_coord (id : TileId) (now : Nat) (u : Tile) : (s.countTile id now u).fab.coord = co := by
  obtain ⟨c, e⟩ := s.countTile_only id now u
  rw [e]; exact h

theorem State.countPath_coord (spec : Bool) (a b n : Nat) : (s.countPath spec a b n).fab.coord = co := by
  obtain ⟨c, e⟩ := s.countPath_only spec a b n
  rw [e]; exact h

theorem State.countClay_coord (source who : Nat) (spec : Bool) (pa n : Nat) :
    (s.countClay source who spec pa n).fab.coord = co := by
  obtain ⟨c, e⟩ := s.countClay_only source who spec pa n
  rw [e]; exact h

theorem State.countRead_coord (w : Work) (la n : Nat) : (s.countRead w la n).fab.coord = co := by
  unfold State.countRead
  split
  · exact h
  · refine foldl_coord (fun s c hs => ?_) _ h
    split
    · exact State.countClay_coord hs ..
    · exact hs

theorem State.countWaits_coord (p : Nat) : (s.countWaits p).fab.coord = co := h

theorem State.portSendsOne_coord {p : Nat} {s' : State} (e : s.portSendsOne p = some s') : s'.fab.coord = co := by
  unfold State.portSendsOne at e
  extract_lets d room can at e
  split at e
  · cases e
  · obtain ⟨o, -, rfl⟩ := Option.map_eq_some_iff.mp e
    exact State.countSource_coord (by exact h) ..

theorem State.portSendsAll_coord (p n : Nat) : (s.portSendsAll p n).fab.coord = co := by
  induction n generalizing s with
  | zero => exact h
  | succ n ih =>
    rw [State.portSendsAll]
    split
    · next e => exact ih (State.portSendsOne_coord h e)
    · exact h

theorem State.portSends_coord (p : Nat) : (s.portSends p).fab.coord = co := by
  unfold State.portSends
  extract_lets s1 s2 d waiting waits
  have h1 : s1.fab.coord = co := by
    unfold s1
    split
    · exact h
    · exact State.countWaits_coord h p
  exact State.portSendsAll_coord h1 ..

theorem State.sendFrame_coord (p : Nat) (f : Frame) : (s.sendFrame p f).fab.coord = co :=
  State.portSends_coord (by exact h) p

theorem State.sendStream_coord (x : Frame) (data : List Byte) : (s.sendStream x data).fab.coord = co := by
  refine foldl_coord (fun s p hs => ?_) _ h
  dsimp only
  split
  · exact State.sendFrame_coord hs ..
  · exact hs

theorem State.sendHeader_coord (x : Frame) : (s.sendHeader x).fab.coord = co := by
  unfold State.sendHeader
  extract_lets y
  split
  · exact State.sendFrame_coord h ..
  · exact h

theorem State.sendReads_coord (x : Frame) (la n to_ : Nat) : (s.sendReads x la n to_).fab.coord = co :=
  foldl_coord (fun _ _ hs => State.sendHeader_coord hs _) _ h

theorem State.requestAway_coord (w : Work) (la n : Nat) : (s.requestAway w la n).fab.coord = co := by
  refine foldl_coord (fun s c hs => ?_) _ h
  split
  · exact State.sendReads_coord hs ..
  · exact hs

theorem State.writeRange_coord (w : Work) (la : Nat) (bs : List Byte) : (s.writeRange w la bs).1.fab.coord = co := by
  unfold State.writeRange
  refine List.foldlRecOn (motive := fun acc : State × Option MemFault × List Byte => acc.1.fab.coord = co) _ _ h
    fun acc hv c _ => ?_
  obtain ⟨v, fault, rest⟩ := acc
  cases fault with
  | some e => exact hv
  | none =>
    dsimp only
    split
    · exact hv
    · exact State.countClay_coord (by exact hv) ..
    · have hp := State.countPath_coord (s := v) hv w.spec w.die 4 (rest.take c.2.2).length
      split
      · exact hp
      · exact State.sendStream_coord hp ..

theorem State.putRows_coord (die task : Nat) (run : XferRun) (first : Nat) (bs : List Byte) :
    (s.putRows die task run first bs).1.fab.coord = co := by
  simp only [State.putRows, State.intoInlet]
  split
  · split
    · split <;> exact h
    · exact h
  · exact State.writeRange_coord h ..

theorem State.ctxMoved_coord (n units : Nat) (done : Bool) : (s.ctxMoved n units done).fab.coord = co := by
  simp only [State.ctxMoved]
  split <;> exact h

theorem State.faultNotice_coord (code : Nat) (ws : List Word) : (s.faultNotice code ws).fab.coord = co := by
  obtain ⟨q, r, hn⟩ := s.notice_only code ws
  obtain ⟨t, q', r', ha, -⟩ := (s.notice code ws).appendAudit_only
    ((s.notice code ws).entry (0x500 + (code - 0x800)) 0 0 0 0 [] (ws.flatMap fun (w : Word) => leBytes 4 w.toNat))
  have hv : (s.notice code ws).fab = s.fab := by rw [hn]
  exact (congrArg (fun v => v.fab.coord) ha).trans ((congrArg FabState.coord hv).trans h)

theorem State.poisonNotice_coord (e : MemFault) : (s.poisonNotice e).fab.coord = co := by
  simp only [State.poisonNotice, State.poisonFound]
  split
  · split <;> exact State.faultNotice_coord (by exact h) ..
  · exact h

theorem State.xferFault_coord (run : XferRun) (e : MemFault) : (s.xferFault run e).1.fab.coord = co :=
  State.poisonNotice_coord (s := s.ctxFault run.record.ctx e.code) h e

theorem State.postHandle_coord (r : Nat) (w : Word) (at_ poster : Nat) : (s.postHandle r w at_ poster).1.fab.coord = co := by
  simp only [State.postHandle]
  repeat' split
  all_goals exact h

theorem State.xferDone_coord (id : TileId) (run : XferRun) (last : Nat) : (s.xferDone id run last).fab.coord = co := by
  unfold State.xferDone
  extract_lets u s1 s2 p
  have h2 : s2.fab.coord = co := State.ctxMoved_coord (s := s1) h ..
  have hp : p.1.fab.coord = co := State.postHandle_coord h2 ..
  split
  · split
    · exact hp
    · exact h2
  · exact h2

theorem State.xgetRows_coord (id : TileId) (now : Nat) (run : XferRun) : (s.xgetRows id now run).1.fab.coord = co := by
  unfold State.xgetRows
  extract_lets k w la b s1 run' s2
  have h1 : s1.fab.coord = co := by
    unfold s1
    split
    · exact h
    · exact State.countRead_coord h ..
  have h2 : s2.fab.coord = co := State.ctxMoved_coord (by exact h1) ..
  split
  · exact h
  · split
    · exact State.xferFault_coord h2 ..
    · split
      · exact State.xferDone_coord h2 ..
      · exact h2

theorem State.xputRows_coord (id : TileId) (now : Nat) (run : XferRun) : (s.xputRows id now run).1.fab.coord = co := by
  unfold State.xputRows
  extract_lets due1 due run' b
  have hb : b.1.fab.coord = co := State.putRows_coord (by exact h) ..
  split
  · exact h
  · split
    · exact State.xferFault_coord (by exact hb) ..
    · split
      · exact State.xferDone_coord hb ..
      · exact hb

theorem State.moveXfer_coord (id : TileId) (now : Nat) : (s.moveXfer id now).1.fab.coord = co := by
  have done (c : Bool) (run : XferRun) (last : Nat) : (if c = true then s.xferDone id run last else s).fab.coord = co := by
    split
    · exact State.xferDone_coord h ..
    · exact h
  unfold State.moveXfer
  split
  · exact h
  · split
    · exact State.xgetRows_coord h ..
    · split
      · split
        · exact State.xferDone_coord h ..
        · exact h
      · exact done ..
    · split
      · exact done ..
      · exact State.xputRows_coord h ..

theorem State.xferStart_coord (id : TileId) (now : Nat) (q : Queued) (op : XferOp) (f : XferF) (r : XferRec) (a : Nat) :
    (s.xferStart id now q op f r a).fab.coord = co := by
  unfold State.xferStart
  extract_lets u run s1 w
  have h1 : s1.fab.coord = co := by
    unfold s1 State.ctxStart
    dsimp only
    split <;> exact h
  clear_value s1
  split
  · split
    · exact State.sendReads_coord h1 ..
    · refine State.requestAway_coord ?_ ..
      unfold State.taint
      dsimp only
      split <;> exact h1
  · exact h1

theorem State.refusedStream_coord (u : Tile) (c : AbortRecord) : (s.refusedStream u c).fab.coord = co := by
  simp only [State.refusedStream]
  repeat' split
  all_goals exact h

theorem State.tileBegin_coord (id : TileId) : (s.tileBegin id).fab.coord = co := by
  unfold State.tileBegin
  extract_lets t0 now t1 late x s1 u1 refused tried
  split
  · exact h
  · have h1 : s1.fab.coord = co := State.moveXfer_coord (by exact h) ..
    clear_value tried
    split
    next s2 c0 hm =>
    extract_lets u2 a b c issued p l v s3
    have h2 : s2.fab.coord = co := by
      split at hm
      · obtain ⟨rfl, -⟩ := Prod.mk.inj hm
        exact State.xferStart_coord h1 ..
      · obtain ⟨rfl, -⟩ := Prod.mk.inj hm
        exact h1
      · obtain ⟨rfl, -⟩ := Prod.mk.inj hm
        exact State.refusedStream_coord h1 ..
    have h3 : s3.fab.coord = co := State.tileCount_coord (State.countTile_coord h2 ..) ..
    clear_value s3
    exact h3

omit h


/-! ### END_COMPLETE -/

/-- What a NaN that is seen touches: the step's abort and the fabric, not the flags. -/
theorem State.nanSeen_only (spec : Bool) (s : State) :
    ∃ j f, s.nanSeen spec = { s with job := j, fab := f } ∧ j.st.flags = s.job.st.flags ∧ j.flagsNext = s.job.flagsNext := by
  have step (s : State) (c : Nat) : ∃ j f, s.stepAbort c = { s with job := j, fab := f } ∧ j.st.flags = s.job.st.flags ∧
      j.flagsNext = s.job.flagsNext := by
    unfold State.stepAbort
    split
    · extract_lets j0 s1
      obtain ⟨f, hf⟩ := State.toLeader_only { code := 2, cause := c, attempt := s1.job.st.attempt, epoch := s1.job.epoch } s1
      exact ⟨_, f, hf, rfl, rfl⟩
    · exact ⟨_, _, rfl, rfl, rfl⟩
  have next (s : State) (c : Nat) : ∃ j f, s.specCause c = { s with job := j, fab := f } ∧ j.st.flags = s.job.st.flags ∧
      j.flagsNext = s.job.flagsNext := by
    unfold State.specCause
    split
    · exact ⟨_, _, rfl, rfl, rfl⟩
    · obtain ⟨f, hf⟩ := State.toLeader_only { code := 2, cause := c, attempt := s.job.nextAttempt, epoch := s.job.epoch + 1 }
        { s with job := { s.job with abortNext := c } }
      exact ⟨_, f, hf, rfl, rfl⟩
  unfold State.nanSeen
  split
  · split
    · exact ⟨_, _, rfl, rfl, rfl⟩
    · obtain ⟨j, f, e, h1, h2⟩ := next { s with job := { s.job with nansNext := min 15 (s.job.nansNext + 1) } } 2
      exact ⟨j, f, e, h1, h2⟩
  · split
    · exact ⟨_, _, rfl, rfl, rfl⟩
    · have hc : ∃ j, s.countNan = { s with job := j } ∧ j.st.flags = s.job.st.flags ∧ j.flagsNext = s.job.flagsNext := by
        unfold State.countNan
        split <;> exact ⟨_, rfl, rfl, rfl⟩
      obtain ⟨j0, e0, h0, h0'⟩ := hc
      obtain ⟨j, f, e, h1, h2⟩ := step { s with job := { j0 with st := { j0.st with nanSeen := true } } } 2
      rw [e0]
      exact ⟨j, f, e, h1.trans h0, h2.trans h0'⟩

theorem setInsert_ne_nil (l : List Nat) (n : Nat) : setInsert l n ≠ [] :=
  List.ne_nil_of_mem (mem_setInsert.mpr (.inl rfl))

/-- The end of a tile's part of its task. -/
theorem State.tileEnds_only (t : TileId) (s : State) :
    let u := s.tile t
    let k := s.task u.task
    ∃ j f, s.tileEnds t = { (s.setTile t { u with phase := .ended }).setTask u.task { k with ended := setInsert k.ended t.key } with
        job := j, fab := f } ∧
      (k.step = true → k.spec = false → k.epoch = s.job.epoch → j.st.flags = s.job.st.flags ||| u.mflags ||| u.vflags) ∧
      (k.step = true → k.spec = true → j.flagsNext = s.job.flagsNext ||| u.mflags ||| u.vflags) := by
  intro u k
  unfold State.tileEnds
  extract_lets s1 s2 now j0 st0 s3 j1 s4 words
  have h3 : ∃ j, s3 = { s2 with job := j } ∧ j.flagsNext = s.job.flagsNext ∧
      (now = true → j.st.flags = s.job.st.flags ||| u.mflags ||| u.vflags) ∧ j.image = s.job.image := by
    unfold s3
    split
    · exact ⟨_, rfl, rfl, fun _ => rfl, rfl⟩
    · next hn => exact ⟨_, rfl, rfl, fun h => absurd h hn, rfl⟩
  obtain ⟨j3, e3, hn3, hf3, -⟩ := h3
  have h4 : ∃ j, s4 = { s2 with job := j } ∧
      (now = true → k.spec = false → j.st.flags = s.job.st.flags ||| u.mflags ||| u.vflags) ∧
      (k.step = true → k.spec = true → j.flagsNext = s.job.flagsNext ||| u.mflags ||| u.vflags) := by
    unfold s4
    split
    · next h =>
      refine ⟨{ j3 with flagsNext := j3.flagsNext ||| u.mflags ||| u.vflags }, by simp only [j1]; rw [e3], fun hn _ => hf3 hn, fun _ _ => ?_⟩
      rw [← hn3]
    · next h =>
      refine ⟨j3, e3, fun hn _ => hf3 hn, fun ha hb => absurd ?_ h⟩
      rw [Bool.and_eq_true]
      exact ⟨ha, hb⟩
  obtain ⟨j4, e4, h4, h4'⟩ := h4
  have hnow : k.step = true → k.spec = false → k.epoch = s.job.epoch → now = true := fun ha hb hc => by
    have : now = (k.step && !k.spec && k.epoch == s.job.epoch) := rfl
    rw [this, ha, hb, hc]; simp
  split
  · obtain ⟨j, f, e, hj, hj'⟩ := State.nanSeen_only (!now) s4
    refine ⟨j, f, by rw [e, e4], fun ha hb hc => ?_, fun ha hb => ?_⟩
    · rw [hj, e4]; exact h4 (hnow ha hb hc) hb
    · rw [hj', e4]; exact h4' ha hb
  · exact ⟨j4, s.fab, e4, fun ha hb hc => h4 (hnow ha hb hc) hb, h4'⟩

/-! ### ABORT -/

theorem Tile.fcOver_task (u : Tile) : u.fcOver.task = u.task := by
  have shift (l : List Nat) (g : Nat → Bool) (u : Tile) : (l.foldl (fun u q => u.shift q (g q)) u).task = u.task := by
    induction l generalizing u with
    | nil => rfl
    | cons q l ih => rw [List.foldl_cons, ih]; rfl
  have ends (v : Tile) (n : Nat) : (((v.land n).vecsDue n).passesDue n).task = v.task := rfl
  exact (ends _ _).trans (shift _ _ u)

theorem Tile.resolve_task (u : Tile) (now : Nat) : (u.resolve now).task = u.task := by
  unfold Tile.resolve
  split
  · split <;> rfl
  · rfl

/-- A stop at an instruction in its place, with no transfer under way and no row on its way in: the record of its task. -/
theorem State.stopNow_record {s : State} {t : TileId} {c : Nat} (hp : (s.tile t).phase = .running)
    (hn : (s.tile t).atNone = false) (hx : (s.tile t).xfer = none) (hc : c ≠ 0x0C) (hb : c ≠ 0x0B) (code : Nat)
    (hl : (s.tile t).landing = []) (hk : (s.task (s.tile t).task).phase = .running) :
    ((s.stopNow t c code).task (s.tile t).task).phase = .aborting ∧
    ((s.stopNow t c code).task (s.tile t).task).record = {
      cause := c, tile := t.tile.val, die := t.die.val, instr := (s.tile t).pc, code := code, pkg := s.fab.coord } := by
  set u := s.tile t with hu
  have ht := State.tile_stopping hp c code
  set g := s.modTile t (Tile.stopping c code) with hg
  have hp' : (g.tile t).phase ≠ .free := by
    rw [ht, ← hu, Tile.stopping, hp]; simp
  have hx' : (g.tile t).xfer = none := by rw [ht]; exact hx
  obtain ⟨n, rows, hrows, hnil⟩ := State.fcLeft_rows hp' hx'
  have hrest : (g.fcLeft t).rs = s.rs ∧ (g.fcLeft t).fab = s.fab := by
    rw [hrows, hnil (by rw [ht]; exact hl)]
    exact ⟨rfl, rfl⟩
  have htile := State.fcLeft_tile hp' hx'
  have htask : ((g.fcLeft t).tile t).task = u.task := by
    rw [htile, ht]
    exact (Tile.resolve_task ..).trans (Tile.fcOver_task _)
  have hxl : ((g.fcLeft t).tile t).xfer = none := by
    rw [htile]; exact (Tile.nextFc_regs hx' _).2.2
  rw [State.stopNow_eq hp hn]
  set w := g.fcLeft t with hw
  obtain ⟨m, hm, -, -⟩ := State.haltTile_only hxl c
  simp only [State.stopTile, if_neg hc, State.taskCauseAt, hb, false_and, if_false, htask]
  rw [hm]
  obtain ⟨k, j, f, x, hk', hrec⟩ := State.taskAborts_only u.task u.clock
    { cause := c, instr := u.pc, code := code, die := t.die.val, tile := t.tile.val, pkg := w.fab.coord } true { w with tiles := m }
  have hrun : (({ w with tiles := m } : State).task u.task).phase = .running := by
    rw [show ({ w with tiles := m } : State).task u.task = s.task u.task from
      congrArg (fun r : RingState => (mapGet {} r.tasks u.task : Task)) hrest.1]
    exact hk
  have hread := congrArg (fun m => mapGet ({} : Task) m u.task) (hrec hrun)
  rw [mapGet_mapSet_listed (fun e => by simpa using congrArg Task.phase e)] at hread
  simp only [if_true] at hread
  rw [hk', ← hrest.2]
  exact ⟨congrArg Task.phase hread, congrArg Task.record hread⟩

/-- Settles O10. -/
theorem endsAndAborts : Obligations.EndsAndAborts := by
  unfold Obligations.EndsAndAborts
  constructor
  · intro s t u k hp hf
    obtain ⟨n, hfuel⟩ := State.fuelOf_two s t
    have e : exec (.endComplete t) s = .next ((s.tileEnds t).catchUp t) := by
      change execEndComplete t s = _
      simp only [execEndComplete]
      have hh : (s.tile t).finished 15#4 (s.tile t).seq ((s.tile t).clock - 1) = true := hf
      have hp' : (s.tile t).phase = .endHold := hp
      rw [if_pos hp, hfuel, State.tileUntil_now (by simp [hh])]
      simp only [if_pos hp']
      rfl
    obtain ⟨j, f, es, hj, hj'⟩ := State.tileEnds_only t s
    have hi : ({ u with phase := .ended } : Tile) ≠ Tile.idle := Tile.ne_idle_of_phase (by simp)
    have hkk : ({ k with ended := setInsert k.ended t.key } : Task) ≠ {} := fun e => setInsert_ne_nil _ _ (congrArg Task.ended e)
    refine ⟨_, e, ?_, fun v hv => ?_, ?_, ?_, ?_, ?_, ?_⟩
    · rw [State.catchUp_tile, es]; exact (State.tile_setTile hi t t s).trans (if_pos rfl)
    · rw [State.catchUp_tile, es]; exact (State.tile_setTile hi t v s).trans (if_neg hv)
    · rw [es]; exact (State.task_setTask hkk u.task u.task (s.setTile t { u with phase := .ended })).trans (if_pos rfl)
    · rw [State.catchUp_job, es]; exact hj
    · rw [State.catchUp_job, es]; exact hj'
    · rw [State.catchUp_mem, es]; rfl
    · rw [State.catchUp_trust, es]; rfl
  · intro s t f g u hr hx
    refine ⟨State.tileStops_control rfl (fun _ => rfl) (by decide) hr hx, fun hl hk => ?_⟩
    have hw := State.ready_atWord hr
    have hrun : (g.tile t).phase = .running := Tile.running_of_atWord hw
    have e : exec (.abort t f) s = .next ((g.stopNow t 0x0A (f.imm.toNat % 65536)).catchUp t) := by
      change execAbort t f s = _
      rw [execAbort, State.dispatch_ready hr]
      rfl
    obtain ⟨h1, h2⟩ := State.stopNow_record hrun (Tile.atNone_of_atWord hw) hx (c := 0x0A) (by decide) (by decide)
      (f.imm.toNat % 65536) hl hk
    refine ⟨_, e, h1, ?_⟩
    rw [show s.fab.coord = g.fab.coord from (State.tileBegin_coord rfl t).symm]
    exact h2

end Sys2Proof.Machine
end

section
/-! SUPPORT. What falls due in a tile's fc: loads, descriptors, accumulator sets, summary registers and hand-off entries. -/

namespace Sys2Proof.Machine

/-! ### The parts of what is due -/

theorem Tile.due_shadow (u : Tile) (now : Nat) : (u.due now).shadow = ((u.entriesDue now).loadsDue now).shadow := rfl

theorem Tile.due_hq (u : Tile) (now : Nat) : (u.due now).hq = (u.entriesDue now).hq := by
  simp only [Tile.due, Tile.qDue, Tile.loadsDue]
  split <;> rfl

theorem Tile.due_vslots (u : Tile) (now : Nat) : (u.due now).vslots = u.vslots.map (Slot.settle now) := by
  simp only [Tile.due, Tile.qDue, Tile.loadsDue]
  split <;> rfl

theorem Tile.due_mslots (u : Tile) (now : Nat) : (u.due now).mslots = u.mslots.map (Slot.settle now) := by
  simp only [Tile.due, Tile.qDue, Tile.loadsDue]
  split <;> rfl

theorem Tile.due_accFree (u : Tile) (now : Nat) :
    (u.due now).accFree0 = freeDue now u.accFree0 ∧ (u.due now).accFree1 = freeDue now u.accFree1 := by
  simp only [Tile.due, Tile.qDue, Tile.loadsDue]
  split <;> exact ⟨rfl, rfl⟩

theorem Tile.due_q (u : Tile) (now : Nat) :
    (u.due now).q = (u.qDue now).q ∧ (u.due now).qPend = (u.qDue now).qPend := by
  simp only [Tile.due, Tile.qDue, Tile.loadsDue]
  split <;> exact ⟨rfl, rfl⟩

theorem Tile.loadsDue_shadow {u : Tile} {now : Nat} {r : LoadRun} (h : u.loads.head? = some r) (hr : r.completeAt ≤ now) :
    (u.loadsDue now).shadow = some r.block := by
  obtain ⟨l, hl⟩ : ∃ l, u.loads = r :: l := ⟨_, List.eq_cons_of_mem_head? h⟩
  simp [Tile.loadsDue, hl, hr]

theorem Slot.settle_due {p : Slot} {k now : Nat} {d : Desc} (h : p.pending = [(k, now, d)]) : (p.settle now).desc = some d := by
  simp [Slot.settle, h]

theorem slots_settle (v : Vector Slot 4) (now : Nat) (slot : BitVec 2) :
    (v.map (Slot.settle now)).getD slot.toNat {} = (v.getD slot.toNat {}).settle now := by
  have h : slot.toNat < 4 := slot.isLt
  simp [Vector.getD, h]

theorem freeDue_now (now : Nat) : freeDue now (some now) = none := by simp [freeDue]

theorem Tile.qDue_one {u : Tile} {p : QPending} (h : u.qPend = [p]) : (u.qDue p.validAt).qGet p.q.toNat = p.value ∧
    (u.qDue p.validAt).qPend = [] := by
  have hq : p.q.toNat < 8 := p.q.isLt
  simp [Tile.qDue, Tile.qGet, h, Vector.getD, hq]

/-! ### Hand-off entries -/

/-- The entries that are kept and marked before the visible ones are shown. -/
def Tile.markedEntries (u : Tile) (now : Nat) : List Entry :=
  (u.hq.filter fun e => match e.releaseAt with
    | some r => now < r
    | none => true).map fun e => if e.enqueueAt ≤ now then { e with enqueued := true } else e

theorem Tile.due_hq_marked (u : Tile) (now : Nat) : (u.due now).hq = showEntries now (u.markedEntries now) := u.due_hq now

/-- Showing entries leaves all of an entry but its visibility. -/
theorem mem_showEntries {now : Nat} {l : List Entry} {x : Entry} (h : x ∈ showEntries now l) :
    ∃ e ∈ l, x.enqueueAt = e.enqueueAt ∧ x.enqueued = e.enqueued ∧ x.releaseAt = e.releaseAt := by
  induction l with
  | nil => cases h
  | cons e l ih =>
    rw [showEntries] at h
    split at h
    · rcases List.mem_cons.mp h with rfl | h
      · exact ⟨e, List.mem_cons_self, rfl, rfl, rfl⟩
      · obtain ⟨y, hy, k⟩ := ih h
        exact ⟨y, List.mem_cons_of_mem _ hy, k⟩
    · exact ⟨x, h, rfl, rfl, rfl⟩

theorem Tile.mem_markedEntries {u : Tile} {now : Nat} {x : Entry} (h : x ∈ u.markedEntries now) :
    (x.enqueueAt ≤ now → x.enqueued = true) ∧ ∃ e ∈ u.hq, x.releaseAt = e.releaseAt ∧ (∀ r, e.releaseAt = some r → now < r) := by
  obtain ⟨e, he, rfl⟩ := List.mem_map.mp h
  obtain ⟨hm, hk⟩ := List.mem_filter.mp he
  have hr : ∀ r, e.releaseAt = some r → now < r := fun r hr => by simpa [hr] using hk
  split
  · exact ⟨fun _ => rfl, e, hm, rfl, hr⟩
  · next hn => exact ⟨fun hq => absurd hq hn, e, hm, rfl, hr⟩

/-- The first entry, enqueued 3 fc ago and kept, is shown. -/
theorem Tile.due_hq_head {u : Tile} {now : Nat} {e : Entry} (h : u.hq.head? = some e) (hr : e.releaseAt = none)
    (hq : e.enqueueAt + 3 ≤ now) : (u.due now).hq.head? = some { e with enqueued := true, visible := true } := by
  obtain ⟨l, hl⟩ : ∃ l, u.hq = e :: l := ⟨_, List.eq_cons_of_mem_head? h⟩
  have hn : e.enqueueAt ≤ now := by omega
  rw [Tile.due_hq_marked, Tile.markedEntries, hl]
  simp [hr, hn, showEntries, hq]

/-! ### The obligation -/

theorem Tile.due_ne_idle {u : Tile} (h : u.phase ≠ .free) (now : Nat) : u.due now ≠ Tile.idle :=
  Tile.ne_idle_of_phase (by rwa [Tile.due_phase])

/-- Settles O14: each event is what is due in the fc that the tile has reached. -/
theorem loadsAndEntriesFallDue : Obligations.LoadsAndEntriesFallDue := by
  unfold Obligations.LoadsAndEntriesFallDue
  constructor
  · intro s t u v hp
    have hi : u.due u.clock ≠ Tile.idle := Tile.due_ne_idle hp u.clock
    refine ⟨fun r hr hc => ⟨?_, ?_⟩, fun k d slot => ⟨fun hd => ⟨?_, ?_⟩, fun hd => ⟨?_, ?_⟩⟩, fun ha => ⟨?_, ?_⟩,
      fun ha => ⟨?_, ?_⟩, fun p hq hv => ⟨?_, ?_⟩⟩
    · exact State.tileBecomes_event (w := fun u => u.loads.head?.map LoadRun.completeAt) hi
        (by rw [hr]; exact congrArg some hc.symm) rfl
    · exact Tile.loadsDue_shadow (u := u.entriesDue u.clock) hr hc.symm.le
    · exact State.tileBecomes_event (w := fun u => (u.vslots.getD slot.toNat {}).pending.head?.map fun p => p.2.1) hi
        (by rw [hd]; rfl) rfl
    · rw [show v.vslots = _ from Tile.due_vslots ..]
      rw [slots_settle]; exact Slot.settle_due hd
    · exact State.tileBecomes_event (w := fun u => (u.mslots.getD slot.toNat {}).pending.head?.map fun p => p.2.1) hi
        (by rw [hd]; rfl) rfl
    · rw [show v.mslots = _ from Tile.due_mslots ..]
      rw [slots_settle]; exact Slot.settle_due hd
    · exact State.tileBecomes_event (w := fun u => u.accFree0) hi ha rfl
    · rw [show v.accFree0 = _ from (Tile.due_accFree ..).1, ha, freeDue_now]
    · exact State.tileBecomes_event (w := fun u => u.accFree1) hi ha rfl
    · rw [show v.accFree1 = _ from (Tile.due_accFree ..).2, ha, freeDue_now]
    · exact State.tileBecomes_event (w := fun u => ((u.qPend.find? fun x => x.q == p.q).map QPending.validAt).or
        ((u.vecs.find? fun r => r.f.q == p.q && r.writesQ).map fun r => r.lastAt + 4)) hi (by rw [hq]; simp [hv, u]) rfl
    · obtain ⟨h1, h2⟩ := Tile.due_q u u.clock
      obtain ⟨h3, h4⟩ := Tile.qDue_one hq
      rw [hv] at h3 h4
      exact ⟨(congrArg (fun q : Vector DWord 8 => q.getD p.q.toNat 0) h1).trans h3, h2.trans h4⟩
  · intro s t e u v hp
    have hi : u.due u.clock ≠ Tile.idle := Tile.due_ne_idle hp u.clock
    have hhq : v.hq = showEntries u.clock (u.markedEntries u.clock) := Tile.due_hq_marked ..
    refine ⟨fun hf hc => ⟨?_, fun x hx hle => ?_⟩, fun hh hv hr hc => ⟨?_, Tile.due_hq_head hh hr hc⟩,
      fun hm hr ho => ⟨?_, fun x hx => ?_⟩⟩
    · exact State.tileBecomes_event (w := fun u => (u.hq.find? fun e => !e.enqueued).map Entry.enqueueAt) hi
        (by rw [hf]; exact congrArg some hc.symm) rfl
    · rw [hhq] at hx
      obtain ⟨y, hy, h1, h2, -⟩ := mem_showEntries hx
      rw [h2]; exact (Tile.mem_markedEntries hy).1 (h1 ▸ hle)
    · obtain ⟨l, hl⟩ : ∃ l, u.hq = e :: l := ⟨_, List.eq_cons_of_mem_head? hh⟩
      refine State.tileBecomes_event (w := fun u => (u.hq.find? fun e => !e.visible).map fun e => max u.clock (e.enqueueAt + 3))
        hi ?_ rfl
      change (u.hq.find? _).map (fun e => max u.clock (e.enqueueAt + 3)) = some u.clock
      rw [hl]
      simp [hv, Nat.max_eq_left hc]
    · have hfind : u.hq.find? (fun e => e.releaseAt.isSome) = some e := by
        cases hf : u.hq.find? (fun e => e.releaseAt.isSome) with
        | none => simpa [hr] using List.find?_eq_none.mp hf e hm
        | some x =>
          rcases ho x (List.mem_of_find?_eq_some hf) with hn | rfl
          · simpa [hn] using List.find?_some hf
          · rfl
      exact State.tileBecomes_event (w := fun u => (u.hq.find? fun e => e.releaseAt.isSome).bind Entry.releaseAt) hi
        (by rw [hfind]; exact hr) rfl
    · rw [hhq] at hx
      obtain ⟨y, hy, -, -, h3⟩ := mem_showEntries hx
      obtain ⟨-, z, hz, h4, h5⟩ := Tile.mem_markedEntries hy
      rw [h3, h4]
      rcases ho z hz with hn | rfl
      · exact hn
      · exact absurd (h5 _ hr) (Nat.lt_irrefl _)

end Sys2Proof.Machine
end

section
/-! SUPPORT. The last result of a vector instruction (R70, R75), where the banks refuse nothing. -/

namespace Sys2Proof.Machine

theorem foldl_or_flags (l : List VecRun) (f : FlagByte) (k : Nat) :
    (l.foldl (fun f r => f ||| r.flags) f).getLsbD k = (f.getLsbD k || l.any fun r => r.flags.getLsbD k) := by
  induction l generalizing f with
  | nil => simp
  | cons a l ih => rw [List.foldl_cons, ih, List.any_cons, BitVec.getLsbD_or, Bool.or_assoc]

/-- The fc in which a vector instruction has its last result, with no access refused: its flags, and what stays under way. -/
theorem Tile.fcOver_vecs {u : Tile} (ha : (u.arbitrate u.clock (u.port && u.begun)).1.vecs = u.vecs) :
    u.fcOver.vecs = (u.vecs.filter fun r => u.clock < r.lastAt) ∧
    ∀ r ∈ u.vecs, r.lastAt = u.clock → ∀ k, r.flags.getLsbD k = true → u.fcOver.vflags.getLsbD k = true := by
  have hv : ∀ v : Tile, (((v.land u.clock).vecsDue u.clock).passesDue u.clock).vecs = (v.vecs.filter fun r => u.clock < r.lastAt) :=
    fun _ => rfl
  have hf : ∀ v : Tile, (((v.land u.clock).vecsDue u.clock).passesDue u.clock).vflags =
      (v.vecs.filter fun r => r.lastAt ≤ u.clock).foldl (fun f r => f ||| r.flags) v.vflags := fun _ => rfl
  refine ⟨(hv _).trans (by rw [ha]), fun r hr hl k hk => ?_⟩
  rw [show u.fcOver.vflags = _ from hf _, foldl_or_flags, ha, Bool.or_eq_true]
  exact .inr (List.any_eq_true.mpr ⟨r, List.mem_filter.mpr ⟨hr, by simp [hl]⟩, hk⟩)

/-- Settles O15. -/
theorem vectorResultsSetFlags : Obligations.VectorResultsSetFlags := by
  unfold Obligations.VectorResultsSetFlags
  intro s t r rest g u hp hn hv hrest hhead halone hsel hclock harb
  obtain ⟨r0, hr0, hseq⟩ := Option.map_eq_some_iff.mp hhead
  have hphase : u.fcOver.phase = .running := u.fcOver_phase.trans hp
  have hres : u.fcOver.resolve u.clock = u.fcOver := by rw [Tile.resolve, hphase]
  have hend : s.tileFc t = g.setTile t u.fcOver.nextFc := by
    have h := State.tileEnd_alone (s := g) (t := t) halone (State.tileBegin_select hsel t) (by rw [hp]; simp) hn
    rw [show u.fcOver.resolve u.clock = u.fcOver from hres] at h
    exact h
  have hni : u.fcOver.nextFc ≠ Tile.idle := Tile.nextFc_ne_idle (by rw [hphase]; simp)
  have htile : (s.tileFc t).tile t = u.fcOver.nextFc := by rw [hend]; exact (State.tile_setTile hni t t g).trans (if_pos rfl)
  obtain ⟨hvecs, hflags⟩ := Tile.fcOver_vecs harb
  have hmem : r ∈ u.vecs := by rw [hv]; exact List.mem_cons_self
  have hnow : ((s.tile t).vecs.any fun v => v.seq == r0.seq) = true :=
    List.any_eq_true.mpr ⟨r0, List.mem_of_mem_head? hr0, by simp⟩
  have hover : (u.fcOver.nextFc.vecs.any fun v => v.seq == r0.seq) = false := by
    refine List.any_eq_false.mpr fun x hx => ?_
    have hx : x ∈ u.fcOver.vecs := hx
    rw [hvecs, hv] at hx
    obtain ⟨hx, hl⟩ := List.mem_filter.mp hx
    rcases List.mem_cons.mp hx with rfl | hx
    · simp [hclock] at hl
    · simpa [hseq] using hrest x hx
  refine ⟨u.fcOver.nextFc, State.tileBecomes_of hni ?_, ?_, ?_, fun k _ hk => ?_, fun x hx => ?_⟩
  · obtain ⟨n, hfuel⟩ := s.fuelOf_two t
    change execVectorLastResult t s = _
    rw [execVectorLastResult, hr0]
    simp only [hfuel, State.tileUntil, hnow, Bool.not_true, Bool.false_eq_true, if_false, htile, hover, Bool.not_false, if_true]
    rw [hend]
    rfl
  · exact congrArg (· + 1) u.fcOver_clock
  · exact congrArg (fun p => p.1) u.fcOver_core
  · exact hflags r hmem hclock.symm k hk
  · have hx : x ∈ u.fcOver.vecs := hx
    rw [hvecs] at hx
    simpa using (List.mem_filter.mp hx).2

end Sys2Proof.Machine
end

section
/-! SUPPORT. Waits that run out: the clock of a tile whose fc ends, and the stop that the fc brings (R132, R134). -/

namespace Sys2Proof.Machine

/-! ### The clock -/

theorem State.fcLeft_clock {s : State} {t : TileId} (hp : (s.tile t).phase ≠ .free) :
    ((s.fcLeft t).tile t).clock = (s.tile t).clock + 1 := by
  unfold State.fcLeft
  extract_lets u now b s1 s2 notes s3 s4
  have h1 : s1.tiles = s.tiles := by
    unfold s1
    split
    · rfl
    · exact State.besideTiles_tiles (State.besideTiles_trans (s.tileCount_beside ..) (State.tileCount_beside ..))
  have hb : b.1.phase ≠ .free := by simpa [b] using hp
  have hb1 : (s1.setTile t b.1).tile t = b.1 := (State.tile_setTile (Tile.ne_idle_of_phase hb) t t s1).trans (if_pos rfl)
  have h2 : (s2.tile t).phase ≠ .free := by
    rw [Tile.phase_of_place ((State.readXfer_place t now (s1.setTile t b.1) t).place (by rwa [hb1])), hb1]
    exact hb
  have h3 : (s3.tile t).phase ≠ .free := by
    have hr : (((((s2.tile t).land now).vecsDue now).passesDue now).resolve now).phase ≠ .free :=
      Tile.resolve_phase_ne (by simpa using h2)
    rw [show s3.tile t = _ from (State.tile_modTile (Tile.ne_idle_of_phase hr)).trans (if_pos rfl)]
    exact hr
  have h4 : s4.tile t = { s3.tile t with clock := now + 1, begun := false, port := false, stop := none } :=
    (State.tile_modTile (Tile.ne_idle_of_phase h3)).trans (if_pos rfl)
  have h5 : s4.KeepsPlace t (notes.foldl (fun (s : State) n => s.rowLanded n now) s4) :=
    List.foldlRecOn (motive := fun v : State => s4.KeepsPlace t v) notes _ (s4.keepsPlace_refl t)
      fun v hv n _ => State.keepsPlace_trans hv (v.rowLanded_place n now t)
  rw [Tile.clock_of_place (h5.place (by rw [h4]; exact h3)), h4]

theorem State.stopTile_clock (t : TileId) (now : Nat) (r : AbortRecord) (s : State) :
    ((s.stopTile t now r).tile t).clock = (s.tile t).clock := by
  have h : ((s.haltTile t r.cause).tile t).clock = (s.tile t).clock := by
    unfold State.haltTile
    extract_lets u v
    rw [State.tile_modTile_halt, show v.tile t = s.tile t from State.besideTiles_tile ?_ t]
    · rfl
    · unfold v
      split
      · exact s.cutXfer_beside ..
      · exact s.besideTiles_refl
  simp only [State.stopTile]
  split
  · exact h
  · rw [State.taskCauseAt_tile]; exact h

theorem State.tileEnd_clock {s : State} {t : TileId} (hp : (s.tile t).phase ≠ .free) :
    ((s.tileEnd t).tile t).clock = (s.tile t).clock + 1 := by
  rw [State.tileEnd_eq]
  split
  · split
    · rw [State.stopTile_clock, State.fcLeft_clock hp]
    · exact State.fcLeft_clock hp
  · exact State.fcLeft_clock hp

/-! ### The stop -/

/-- `r` stops with cause `c` or one of a lower code. -/
def stopsBy (c : Nat) (r : Option AbortRecord) : Prop := ∃ a, r = some a ∧ a.cause ≤ c

theorem stopsBy_first {c : Nat} {a b : Option AbortRecord} (h : stopsBy c a ∨ stopsBy c b) : stopsBy c (firstStop a b) := by
  unfold stopsBy at *
  cases a with
  | none => simpa [firstStop] using h
  | some a =>
    cases b with
    | none => simpa [firstStop] using h
    | some b =>
      simp only [firstStop, Option.some.injEq, exists_eq_left'] at h ⊢
      split
      · exact ⟨b, rfl, by omega⟩
      · exact ⟨a, rfl, by omega⟩

/-- A fc that has begun keeps every stop that was due at its beginning. -/
theorem State.tileBegin_stop {s : State} {t : TileId} {c : Nat} (hb : (s.tile t).busy = true) (hn : (s.tile t).begun = false)
    (h : let u := s.tile t
      stopsBy c ((u.due u.clock).timeouts u.clock) ∨ stopsBy c (s.handleLate (u.due u.clock) u.clock)) :
    stopsBy c ((s.tileBegin t).tile t).stop := by
  unfold State.tileBegin
  extract_lets t0 now t1 late x s1 u1 refused tried
  rw [if_neg (by simp [t0, hb, hn])]
  have hlate : stopsBy c late := stopsBy_first (.inr (stopsBy_first h))
  clear_value tried
  split
  next s2 c0 hm =>
  extract_lets u2 a b c issued p l v s3
  have hi : ({ v with
      begun := true, port := v.port || refused || v.xfer.any fun r => r.issue == now
      stop := firstStop late (firstStop x.2 (firstStop c0 (firstStop issued.2 (firstStop p.2 l.2)))) } : Tile) ≠ Tile.idle :=
    fun e => by simpa [Tile.idle] using congrArg Tile.begun e
  rw [State.tile_setTile hi, if_pos rfl]
  exact stopsBy_first (.inl hlate)

/-- A busy tile whose fc begins with a stop due, or ends with one, stops in it. -/
theorem State.tileFc_stops {s : State} {t : TileId} {c : Nat} (hb : (s.tile t).busy = true)
    (h : stopsBy c ((s.tileBegin t).tile t).stop ∨
      stopsBy c (((s.tileBegin t).tile t).fetchStop ((s.tileBegin t).tile t).clock)) :
    ∃ k, ((s.tileFc t).tile t).phase = .aborted k ∧ k ≤ c ∧ ((s.tileFc t).tile t).clock = (s.tile t).clock + 1 := by
  have hcore := s.tileBegin_tile_core t
  have hphase := Tile.phase_of_core hcore
  have hclock : ((s.tileBegin t).tile t).clock = (s.tile t).clock := congrArg (fun p => p.2.2.2.1) hcore
  have hb' : ((s.tileBegin t).tile t).busy = true := by rw [Tile.busy, hphase]; exact hb
  obtain ⟨r, hr, hc⟩ := stopsBy_first h
  have hfree : ((s.tileBegin t).tile t).phase ≠ .free := fun e => by simp [Tile.busy, e] at hb'
  refine ⟨r.cause, ?_, hc, (State.tileEnd_clock hfree).trans (by rw [hclock])⟩
  rw [State.tileFc, State.tileEnd_eq, if_pos hb', hr]
  exact State.stopTile_phase ..

/-- A wait whose limit is the fc that a busy tile has reached, with a stop due. -/
theorem State.through_stops {s : State} {t : TileId} {c : Nat} (hb : (s.tile t).busy = true)
    (hi : (s.tile t).quiet = false ∨ (s.tile t).idleTo ((s.tile t).clock + 1) ≤ (s.tile t).clock)
    (h : stopsBy c ((s.tileBegin t).tile t).stop) :
    ∃ k, ((s.through t (s.tile t).clock).tile t).phase = .aborted k ∧ k ≤ c := by
  obtain ⟨k, hk, hc, hclock⟩ := State.tileFc_stops hb (.inl h)
  refine ⟨k, ?_, hc⟩
  have hq : ((s.tile t).quiet && decide ((s.tile t).clock < (s.tile t).idleTo ((s.tile t).clock + 1))) = false := by
    rcases hi with hi | hi
    · rw [hi, Bool.false_and]
    · rw [decide_eq_false (Nat.not_lt.mpr hi), Bool.and_false]
  have : s.runTo t ((s.tile t).clock + 1) = s.tileFc t := by
    rw [State.runTo, show (s.tile t).clock + 1 - (s.tile t).clock + 1 = 2 from by omega, State.tileTo]
    simp only [hq, Bool.false_eq_true, if_false, if_neg (show ¬ (s.tile t).clock + 1 ≤ (s.tile t).clock from by omega)]
    rw [State.tileTo]
    simp only [hclock, le_refl, if_true]
  rw [State.through, this, State.catchUp_tile, hk]

theorem Tile.due_held (u : Tile) (now : Nat) : (u.due now).heldEntry = u.heldEntry ∧ (u.due now).heldSwap = u.heldSwap := by
  simp only [Tile.due, Tile.qDue, Tile.loadsDue]
  split <;> exact ⟨rfl, rfl⟩

theorem Tile.timeouts_entry {u : Tile} {h : Nat} (hh : u.heldEntry = some h) : stopsBy 4 (u.timeouts (h + 4096)) :=
  stopsBy_first (.inl ⟨_, if_pos (by simp [hh]), le_rfl⟩)

theorem Tile.timeouts_swap {u : Tile} {h : Nat} (hh : u.heldSwap = some h) : stopsBy 5 (u.timeouts (h + 4096)) :=
  stopsBy_first (.inr ⟨_, if_pos (by simp [hh]), le_rfl⟩)

theorem State.handleLate_limit {s : State} {u : Tile} {f : HdlF} {since : Nat} (hp : u.phase = .handleHold f since)
    (hn : ∀ h ∈ s.handles f.ring.toNat, since + 64 * f.wait.toNat ≤ h.at_) :
    stopsBy 6 (s.handleLate u (since + 64 * f.wait.toNat)) := by
  have hany : ((s.handles f.ring.toNat).any fun h => decide (h.at_ < since + 64 * f.wait.toNat)) = false :=
    List.any_eq_false.mpr fun h hm => by simpa using hn h hm
  refine ⟨stopAt 6 (u.pc - 1), ?_, le_rfl⟩
  rw [State.handleLate, hp]
  simp only [le_refl, decide_true, hany, Bool.not_false, Bool.and_self, if_true]

/-- Settles O17. -/
theorem waitsRunOut : Obligations.WaitsRunOut := by
  unfold Obligations.WaitsRunOut
  intro s t u stops
  refine ⟨fun hb hn hq => ⟨fun h hh hc => ?entry, fun h hh hc => ?swap⟩, fun f since hp => ?handle, fun hp hpc => ?range⟩
  case entry =>
    obtain ⟨k, hk, hle⟩ := State.through_stops hb (.inl hq) (State.tileBegin_stop (c := 4) hb hn (.inl (by
      rw [show (s.tile t).clock = h + 4096 from hc]
      exact Tile.timeouts_entry ((Tile.due_held ..).1.trans hh))))
    refine ⟨s.through t (h + 4096), k, ?_, hc ▸ hk, hle⟩
    change execHandoffTimeout t s = _
    rw [execHandoffTimeout, show (s.tile t).heldEntry = some h from hh]
    rfl
  case swap =>
    obtain ⟨k, hk, hle⟩ := State.through_stops hb (.inl hq) (State.tileBegin_stop (c := 5) hb hn (.inl (by
      rw [show (s.tile t).clock = h + 4096 from hc]
      exact Tile.timeouts_swap ((Tile.due_held ..).2.trans hh))))
    refine ⟨s.through t (h + 4096), k, ?_, hc ▸ hk, hle⟩
    change execStationaryTimeout t s = _
    rw [execStationaryTimeout, show (s.tile t).heldSwap = some h from hh]
    rfl
  case handle =>
    intro limit g v hno hv hc hn
    have hb : (g.tile t).busy = true := by rw [Tile.busy, show (g.tile t).phase = _ from hv]
    have hi : (g.tile t).idleTo ((g.tile t).clock + 1) ≤ (g.tile t).clock := by
      rw [Tile.idleTo, show (g.tile t).phase = _ from hv]
      have : (g.tile t).clock = since + 64 * f.wait.toNat := hc
      simp only [this, le_refl, if_true]
      exact Nat.min_le_right _ _
    obtain ⟨k, hk, hle⟩ := State.through_stops hb (.inr hi) (State.tileBegin_stop (c := 6) hb hn (.inr (by
      rw [show (g.tile t).clock = since + 64 * f.wait.toNat from hc]
      exact State.handleLate_limit ((Tile.due_phase ..).trans hv) hno)))
    refine ⟨g.through t limit, k, ?_, hc ▸ hk, hle⟩
    have hany : ((g.handles f.ring.toNat).any fun h => decide (h.at_ < limit)) = false :=
      List.any_eq_false.mpr fun h hm => by simpa using hno h hm
    change execHandleTimeout t s = _
    rw [execHandleTimeout, show (s.tile t).phase = _ from hp]
    exact congrArg ok (if_neg (by rw [hany]; exact Bool.false_ne_true))
  case range =>
    intro v hd hh
    have hcore := s.tileBegin_tile_core t
    have hvp : v.phase = .running := (Tile.phase_of_core hcore).trans hp
    have hvpc : v.pc = 4096 := (congrArg (fun p => p.2.1.2) hcore).trans hpc
    have hf : stopsBy 9 (v.fetchStop v.clock) :=
      ⟨stopAt 9 4095, by simp [Tile.fetchStop, Tile.atNone, hvp, hvpc, hd, hh], le_rfl⟩
    obtain ⟨k, hk, hle, -⟩ := State.tileFc_stops (c := 9) (Tile.busy_of_running hp) (.inr hf)
    obtain ⟨n, hfuel⟩ := s.fuelOf_two t
    refine ⟨(s.tileFc t).catchUp t, k, ?_, hk, hle⟩
    have hp' : (s.tile t).phase = .running := hp
    have hpc' : (s.tile t).pc = 4096 := hpc
    change execPcRange t s = _
    simp only [execPcRange, hp', hpc', beq_self_eq_true, Bool.and_self, if_true, hfuel, State.tileUntil, hk, Bool.not_true,
      Bool.false_eq_true, if_false]
    rfl

end Sys2Proof.Machine
end

section
/-! SUPPORT. Reset, where accesses to pages land, and the administration commands and queries. -/

namespace Sys2Proof.Machine

/-- Settles O58: reset lists no page, ring, task, key, tile, vector or unit, so each reads as one that is not listed. -/
theorem resetIsTheStateTheSpecGives : Obligations.ResetIsTheStateTheSpecGives := by
  unfold Obligations.ResetIsTheStateTheSpecGives
  exact ⟨rfl, rfl, rfl, rfl, rfl, rfl, rfl, rfl, rfl, rfl, rfl, rfl, rfl, rfl, rfl, rfl, rfl, rfl, rfl, rfl, rfl,
    fun _ => rfl, fun _ => rfl, fun _ => rfl, fun _ => rfl, reset_memoriesWf, reset_tilesWf⟩

/-! ### Where reads and writes land -/

theorem MemState.noAnswer_home {m : MemState} {p : Page} (h : p.loc = .home) : m.noAnswer p = false := by
  simp [MemState.noAnswer, h]

theorem Page.frameOf_single {p : Page} (h : p.banked = false) (e : Nat) : p.frameOf e = p.frame0 := by
  simp [Page.frameOf, h]

theorem Page.frameOf_banked {p : Page} (h : p.banked = true) (e : Nat) :
    p.frameOf e = if e % 2 = 1 then p.frame1 else p.frame0 := by
  simp [Page.frameOf, h]

/-- Settles O26, fault by fault in the order of the checks. -/
theorem banksSeparateReadsFromWrites : Obligations.BanksSeparateReadsFromWrites := by
  unfold Obligations.BanksSeparateReadsFromWrites
  intro m E n p
  refine ⟨fun hv e => ?_, fun hv hl e => ?_, fun hv hl ha e => ?_, fun hv hs ha e => ?_, fun hv ho hh hb e => ?_,
    fun hv ho hh hb => ⟨?_, ?_, fun e he => ⟨?_, ?_⟩⟩⟩
  · exact ⟨by simp [MemState.reachRead, show (m.page n).valid = false from hv],
      by simp [MemState.reachWrite, show (m.page n).valid = false from hv]⟩
  all_goals have hv' : (m.page n).valid = true := hv
  · have hl' : (m.page n).state = .lost := hl
    exact ⟨by simp [MemState.reachRead, hv', hl'], by simp [MemState.reachWrite, hv', hl']⟩
  · have hl' : (m.page n).state ≠ .lost := hl
    have ha' : m.noAnswer (m.page n) = true := ha
    simp [MemState.reachWrite, hv', hl', ha']
  · have hs' : (m.page n).state = .sealed := hs
    have ha' : m.noAnswer (m.page n) = false := ha
    simp [MemState.reachWrite, hv', hs', ha']
  all_goals
    have ho' : (m.page n).state = .open_ := ho
    have hh' : (m.page n).loc = .home := hh
    have ha' : m.noAnswer (m.page n) = false := MemState.noAnswer_home hh'
  · have hb' : (m.page n).banked = false := hb
    exact ⟨by simp [MemState.reachRead, hv', ho', hh', hb', p, Page.frameOf_single hb'],
      by simp [MemState.reachWrite, hv', ho', hh', hb', ha', p, Page.frameOf_single hb']⟩
  all_goals have hb' : (m.page n).banked = true := hb
  · simp [MemState.reachRead, hv', ho', hh', p, Page.frameOf_banked hb']
  · have h2 : (E + 1) % 2 = 1 ↔ ¬ E % 2 = 1 := by omega
    simp only [MemState.reachWrite, hv', ho', hh', p, Page.frameOf_banked hb', h2]
    by_cases h : E % 2 = 1 <;> simp [h, ha']
  · simp [MemState.reachRead, hv', ho', hb', he]
  · simp [MemState.reachWrite, hv', ho', hh', hb', ha', he]

end Sys2Proof.Machine
end

section
/-! SUPPORT. The administration commands (R180, R381, R390, R394, R395, R413, R520). -/

namespace Sys2Proof.Machine

theorem RingAux.ne_default_of_cancel {a : RingAux} (h : a.cancel ≠ []) : a ≠ {} := fun e => h (by rw [e])

/-- RING_ALLOC of a completion ring: the lowest number and the lowest place. -/
theorem State.ringAlloc_completion {s u : State} {ring : Nat} {c : Cmd} (h : s.runsFor (.ringAlloc ring) = some (c, u))
    {lg n base : Nat} (hk : c.p 16 1 = 2) (hl : c.p 17 1 = lg) (h6 : 6 ≤ lg) (h16 : lg ≤ 16) (hp : c.p 20 4 = 0)
    (hc : c.p 24 1 = 0) (hf : c.ask.flags % 2 = 0) (hn : lowestFree u.rs.used 262144 0 = some n) (hlt : n < 262144)
    (hb : u.rs.place (2 ^ lg * 32) = some base) :
    exec (.ringAlloc ring) s = .next
      ((({ u with rs := { u.rs with storage := mapClearRange base (2 ^ lg * 32) u.rs.storage } }).setRing n
        { kind := .completion, base := base / 64, die := 4, log2d := lg }).setAux n {}
        |>.done c.ask [BitVec.ofNat 32 n]) := by
  rw [State.row_runs rfl (fun _ => rfl) h (by simp [hk, hl, h6, h16, hp, hc])]
  have hnot : ¬ 262144 ≤ n := Nat.not_le.mpr hlt
  simp [hk, hl, hn, hb, hnot, hf, hc]

/-- Settles O23. -/
theorem administrationCommands : Obligations.AdministrationCommands := by
  unfold Obligations.AdministrationCommands
  refine ⟨fun s ring c u => ⟨fun h => ?nop, fun h => ?time, fun h hn => ?free,
    fun h lg n base => State.ringAlloc_completion h, fun h hbad => ?bad⟩,
    fun s ring c u => ⟨fun h hm hl hn hp => ?fence, fun f a t hf ha ht => ?timeout, fun h hn hm => ⟨fun hk => ?other,
      fun op hk hop hlong => ?posted⟩⟩⟩
  case nop => exact (State.row_runs rfl (fun _ => rfl) h rfl).trans rfl
  case time => exact (State.row_runs rfl (fun _ => rfl) h rfl).trans rfl
  case free => exact (State.row_runs rfl (fun _ => rfl) h (by simp [hn])).trans rfl
  case bad =>
    refine State.row_parameter rfl (fun _ => rfl) h ?_
    rcases hbad with ⟨h1, h2⟩ | h | h
    · simp [h1, h2]
    · simp [show ¬ 6 ≤ c.p 17 1 from Nat.not_le.mpr h]
    · simp [show ¬ c.p 17 1 ≤ 16 from Nat.not_le.mpr h]
  case fence =>
    intro f
    have hgood : (decide (c.p 16 1 ≤ 1) && decide (c.p 17 1 ≤ 1) && decide (c.p 18 1 ≤ 5) &&
        c.pairs.all fun p => decide (p.1 ≤ 262143)) = true := by
      simp only [hm, hl, hn, Nat.zero_le, decide_true, Bool.true_and, List.all_eq_true, decide_eq_true_eq]
      exact hp
    refine (State.row_runs rfl (fun _ => rfl) h hgood).trans (congrArg _ ?_)
    simp only [hm, hl, show ((0 : Nat) == 1) = false from rfl, Nat.zero_ne_one, if_false, List.isEmpty_iff,
      List.contains_iff_mem]
    rfl
  case timeout =>
    change execFenceTimeout ring s = _
    simp only [execFenceTimeout, hf, ha, ht]
    rfl
  case other =>
    refine (State.row_runs rfl (fun _ => rfl) h (by simp [hn])).trans (congrArg _ ?_)
    have hk' : ((u.ring (c.p 16 4)).kind == .command) = false := by simpa using hk
    simp only [hm, List.find?_nil, hk', Bool.false_and, Bool.false_eq_true, if_false]
    rfl
  case posted =>
    have hbusy : ((u.ring (c.p 16 4)).kind == .command && ((u.postedOp (c.p 16 4) (c.p 20 4) (u.ring (c.p 16 4)).used
        (u.ring (c.p 16 4)).head).map longOpcode).getD false) = true := by simp [hk, hop, hlong]
    let v := u.keep c.ask
    refine ⟨v.setAux (c.p 16 4) { v.aux (c.p 16 4) with cancel := (v.aux (c.p 16 4)).cancel ++ [(c.p 20 4, c.ask)] },
      (State.row_runs rfl (fun _ => rfl) h (by simp [hn])).trans (congrArg _ ?_), ?_, rfl⟩
    · simp only [hm, List.find?_nil, hbusy, if_true]
      rfl
    · rw [State.aux_setAux (RingAux.ne_default_of_cancel (by simp)), if_pos rfl]
      exact List.mem_append_right _ (List.mem_singleton.mpr rfl)

end Sys2Proof.Machine
end

section
/-! SUPPORT. The queries, and the lengths of their records (Tables 14.6, 16.2, 16.7, R311, R557). -/

namespace Sys2Proof.Machine

/-! ### Lengths -/

theorem bytesFor_length {f : Nat → List Byte} {k : Nat} (n : Nat) (h : ∀ i, i < n → (f i).length = k) :
    (bytesFor f n).length = n * k := by
  rw [bytesFor, List.length_flatMap]
  have : (List.range n).map (fun a => (f a).length) = List.replicate n k := by
    rw [List.eq_replicate_iff]
    refine ⟨by simp, fun b hb => ?_⟩
    obtain ⟨i, hi, rfl⟩ := List.mem_map.mp hb
    exact h i (List.mem_range.mp hi)
  rw [this, List.sum_replicate, smul_eq_mul]

@[simp] theorem padTo_length (n : Nat) (bs : List Byte) : (padTo n bs).length = n := by
  simp [padTo]

theorem keccakRounds_length (n : Nat) (r : BitVec 8) (a : List (BitVec 64)) (h : a.length = 25) :
    (keccakRounds n r a).length = 25 := by
  induction n generalizing r a with
  | zero => exact h
  | succ n ih => exact ih _ _ (by simp [keccakChi])

theorem absorb_length (n : Nat) (bs : List Byte) (a : List (BitVec 64)) (h : a.length = 25) : (absorb n bs a).length = 25 := by
  induction n generalizing bs a with
  | zero => exact h
  | succ n ih => exact ih _ _ (keccakRounds_length _ _ _ (by simp))

theorem dwords_length (l : List (BitVec 64)) : (l.map fun w => leBytes 8 w.toNat).flatten.length = 8 * l.length := by
  induction l with
  | nil => rfl
  | cons w l ih => rw [List.map_cons, List.flatten_cons, List.length_append, ih, leBytes_length, List.length_cons]; omega

/-- A SHA3-512 digest is 64 bytes. -/
@[simp] theorem sha3_length (msg : List Byte) : (sha3 msg).length = 64 := by
  unfold sha3
  extract_lets n pad tail a
  have ha : a.length = 25 := absorb_length _ _ _ (by simp)
  rw [dwords_length, List.length_take, ha]
  rfl

@[simp] theorem State.idDigest_length (s : State) : s.idDigest.length = 64 := sha3_length _

@[simp] theorem State.fwDigest_length (s : State) : s.fwDigest.length = 64 := padTo_length _ _

theorem State.headDigest_length {s : State} (h : s.trust.auditHead.length = 64) : s.headDigest.length = 64 := by
  rw [State.headDigest]
  split
  · exact s.idDigest_length
  · exact h

theorem State.dieEntry_length (s : State) (i : Nat) : (s.dieEntry i).length = 16 := by
  unfold State.dieEntry
  split
  · simp
  · simp

theorem State.identityRecord_length {s : State} (h : s.trust.auditHead.length = 64) : s.identityRecord.length = 8064 := by
  have h1 : (bytesFor (fun i => leBytes 1 (s.stepping i)) 32).length = 32 * 1 := bytesFor_length _ fun i _ => leBytes_length _ _
  have h2 : (bytesFor s.dieEntry 32).length = 32 * 16 := bytesFor_length _ fun i _ => s.dieEntry_length i
  unfold State.identityRecord
  simp only [List.length_append, leBytes_length, padTo_length, h1, h2, List.length_replicate]
  rw [State.idDigest_length, State.fwDigest_length, State.headDigest_length h]

theorem State.report_length {s : State} (h : s.trust.auditHead.length = 64) (challenge : List Byte) :
    (s.report challenge).length = 5120 := by
  unfold State.report State.attested
  simp only [List.length_append, leBytes_length, padTo_length, List.length_replicate]
  rw [State.idDigest_length, State.fwDigest_length, State.headDigest_length h]

@[simp] theorem counterBytes_length (value : DWord) (source qual : Nat) (qen shadow : Bool) (die tile : Nat) :
    (counterBytes value source qual qen shadow die tile).length = 16 := by
  simp [counterBytes]

@[simp] theorem State.selectEntry_length (s : State) (scope die tile i label : Nat) :
    (s.selectEntry scope die tile i label).length = 16 := counterBytes_length ..

theorem State.fixedEntry_length (s : State) (n : Nat) : (s.fixedEntry n).length = 16 := by
  unfold State.fixedEntry
  split <;> simp

theorem energies_length (l : List Nat) : (l.flatMap fun e => leBytes 8 e).length = 8 * l.length := by
  induction l with
  | nil => rfl
  | cons w l ih => rw [List.flatMap_cons, List.length_append, ih, leBytes_length, List.length_cons]; omega

theorem State.counterRecord_length (s : State) : s.counterRecord.length = 76992 := by
  have h0 : (bytesFor s.fixedEntry 64).length = 64 * 16 := bytesFor_length _ fun i _ => s.fixedEntry_length i
  have h1 : (bytesFor (fun i => s.selectEntry 2 4 0 i i) 32).length = 32 * 16 := bytesFor_length _ fun i _ => by simp
  have h2 : (bytesFor (fun d => bytesFor (fun i => s.selectEntry 1 d 0 i i) 16) 4).length = 4 * (16 * 16) :=
    bytesFor_length _ fun d _ => bytesFor_length _ fun i _ => by simp
  have h3 : (bytesFor (fun k => if s.diePresent (21 + k) then bytesFor (fun i => s.selectEntry 3 (21 + k) 0 i i) 8
      else List.replicate 128 0) 4).length = 4 * 128 := by
    refine bytesFor_length _ fun k _ => ?_
    split
    · exact bytesFor_length (k := 16) _ fun i _ => by simp
    · simp
  have h4 : (bytesFor (fun d => bytesFor (fun t => bytesFor (fun i => s.selectEntry 0 d t i t) 4) 288) 4).length =
      4 * (288 * (4 * 16)) :=
    bytesFor_length _ fun d _ => bytesFor_length _ fun t _ => bytesFor_length _ fun i _ => by simp
  have h5 : s.energyBlock.length = 128 := by
    simp only [State.energyBlock, List.length_append, leBytes_length, energies_length, Vector.length_toList,
      List.length_replicate]
  simp only [State.counterRecord, List.length_append, leBytes_length, List.length_replicate, h0, h1, h2, h3, h4, h5]

theorem State.powerRecord_length (s : State) : s.powerRecord.length = 32 := by
  unfold State.powerRecord
  rw [leBytes_length]

theorem State.statusRecord_length (s : State) : s.statusRecord.length = 32 := by
  unfold State.statusRecord
  rw [leBytes_length]

/-! ### The queries -/

theorem State.answerRecord_eq (c : Cmd) (bs : List Byte) (s : State) :
    s.answerRecord c bs [] = if c.bufLen < bs.length then s.refuse c.ask 7 else (s.hostWrite c.bufAddr bs).done c.ask [] := rfl


/-- A query whose row answers with a record writes it to its buffer, or is refused with PARAMETER where it is too long. -/
theorem exec_writesRecord {s u : State} {i : Instr} {op ring : Nat} {used : Cmd → List (Nat × Nat)} {object : Bool} {c : Cmd}
    {good : Cmd → State → Bool} (bs : Cmd → State → List Byte) (hp : packetRow i = some (op, ring, used, object))
    (hx : ∀ s, exec i s = .next (s.command op ring fun c u =>
      paramOr c (used c) object (good c u) (fun v => v.answerRecord c (bs c v) []) u))
    (hg : good c u = true) (h : s.runsFor i = some (c, u)) :
    exec i s = .next (if c.bufLen < (bs c u).length then u.refuse c.ask 7
      else (u.hostWrite c.bufAddr (bs c u)).done c.ask []) :=
  (State.row_runs (act := fun c _ s => s.answerRecord c (bs c s) []) hp hx h hg).trans
    (congrArg _ (State.answerRecord_eq ..))

theorem exec_counterRead {s u : State} {c : Cmd} {ring : Nat} (h : s.runsFor (.counterRead ring) = some (c, u)) :
    exec (.counterRead ring) s = .next (if c.bufLen < 76992 then u.countsNow.refuse c.ask 7
      else (u.countsNow.hostWrite c.bufAddr u.countsNow.counterRecord).done c.ask []) := by
  refine (State.row_runs rfl (fun _ => rfl) h rfl).trans (congrArg _ ?_)
  rw [State.answerRecord_eq, State.counterRecord_length]

theorem exec_pageQuery {s u : State} {c : Cmd} {ring : Nat} (h : s.runsFor (.pageQuery ring) = some (c, u))
    (hn : c.p 16 8 < 2 ^ 27) :
    exec (.pageQuery ring) s = .next (
      if (u.mem.page (c.p 16 8)).valid = true ∧ (u.mem.page (c.p 16 8)).state = .lost then u.refuse c.ask 9
      else u.done c.ask (wordsOf 4 (u.mem.page (c.p 16 8)).bits)) := by
  refine (State.row_runs rfl (fun _ => rfl) h (decide_eq_true hn)).trans (congrArg _ ?_)
  simp only [Bool.and_eq_true, beq_iff_eq]
  rfl

theorem exec_abortRead {s u : State} {c : Cmd} {ring : Nat} (h : s.runsFor (.abortRead ring) = some (c, u))
    (hn : c.object < 65536) :
    exec (.abortRead ring) s = .next (u.done c.ask (wordsOf 4 (AbortRecord.bits (u.task c.object).record))) :=
  (State.row_runs rfl (fun _ => rfl) h (decide_eq_true hn)).trans rfl

theorem exec_portQuery {s u : State} {c : Cmd} {ring : Nat} (h : s.runsFor (.portQuery ring) = some (c, u))
    (hn : c.p 16 1 < 16) : exec (.portQuery ring) s = .next (u.done c.ask (wordsOf 4 (u.portBits (c.p 16 1)))) :=
  (State.row_runs rfl (fun _ => rfl) h (decide_eq_true hn)).trans rfl

theorem exec_overflowRead {s u : State} {c : Cmd} {ring : Nat} (h : s.runsFor (.overflowRead ring) = some (c, u)) :
    let es := ((u.num.overflow.filter fun e => !e.1.spec).drop (c.p 16 4)).take (c.bufLen / 16)
    exec (.overflowRead ring) s = .next
      ((u.hostWrite c.bufAddr (es.flatMap fun e => ovfBytes e.1)).done c.ask [BitVec.ofNat 32 es.length]) :=
  (State.row_runs rfl (fun _ => rfl) h rfl).trans rfl

theorem exec_auditRead {s u : State} {c : Cmd} {ring : Nat} (h : s.runsFor (.auditRead ring) = some (c, u)) :
    let start := max (c.p 16 8) u.trust.auditFirst
    let es := (u.trust.audit.drop (start - u.trust.auditFirst)).take (c.bufLen / 256)
    exec (.auditRead ring) s = .next (((u.hostWrite c.bufAddr es.flatten).markRead start (start + es.length)).done c.ask
      (BitVec.ofNat 32 es.length :: wordsOf 2 start)) :=
  (State.row_runs rfl (fun _ => rfl) h rfl).trans rfl

/-- The entries that fit into a buffer leave it its length. -/
theorem sixteen_mul_take_le {α : Type} (n : Nat) (l : List α) : 16 * (l.take (n / 16)).length ≤ n := by
  have := List.length_take_le (n / 16) l
  omega

/-- Settles O24. -/
theorem queriesAnswerTheirRecords : Obligations.QueriesAnswerTheirRecords := by
  unfold Obligations.QueriesAnswerTheirRecords
  refine ⟨fun s ring c u => ?_, fun s ring c u => ⟨fun h => ⟨u.countsNow.counterRecord_length, exec_counterRead h⟩,
    fun h => ⟨sixteen_mul_take_le _ _, exec_overflowRead h⟩, fun h => ?_⟩⟩
  · intro writes
    exact ⟨exec_writesRecord (fun _ u => u.identityRecord) rfl (fun _ => rfl) rfl,
      exec_writesRecord (fun _ u => u.lendRecord) rfl (fun _ => rfl) rfl,
      exec_writesRecord (fun _ u => u.powerRecord) rfl (fun _ => rfl) rfl,
      exec_writesRecord (fun _ u => u.statusRecord) rfl (fun _ => rfl) rfl,
      exec_writesRecord (fun c u => u.report ((c.packet.drop 16).take 32)) rfl (fun _ => rfl) rfl,
      fun hn => exec_writesRecord (fun c u => (u.ring (c.p 16 8)).record) rfl (fun _ => rfl) (decide_eq_true hn),
      fun hn => exec_writesRecord (fun c u => (u.ctx (c.p 16 4)).record (c.p 16 4)) rfl (fun _ => rfl)
        (decide_eq_true hn),
      fun hn => exec_writesRecord (fun c u => (List.range (c.p 18 2)).flatMap fun k => leBytes 8 (u.record (c.p 16 2 + k)))
        rfl (fun _ => rfl) (decide_eq_true hn),
      exec_pageQuery, exec_abortRead, exec_portQuery,
      fun ha => ⟨State.identityRecord_length ha, State.report_length ha _⟩, u.powerRecord_length, u.statusRecord_length⟩
  · intro start es
    exact ⟨(u.hostWrite c.bufAddr es.flatten).markRead start (start + es.length), exec_auditRead h, rfl, rfl, rfl, rfl⟩

end Sys2Proof.Machine
end

section
/-! SUPPORT. LENDER_DECLARED_LOST with a shard of the package's own on that lender, of which copies stand here. -/

namespace Sys2Proof.Machine

/-- A job's image that names one shard, of layer 0, remote on package 7 and owned by package 0. -/
def lentShardImage : Image where
  missing := []
  job := 1
  coord := 0
  packages := [0, 7]
  tclass := 0
  features := 0
  marginOnDie := 0
  marginDieLink := 0
  marginFabric := 0
  programs := []
  tasks := []
  rings := []
  contexts := []
  furrows := []
  stages := []
  orders := []
  slotPlan := []
  routes := []
  pins := []
  moves := []
  shards := [{ layer := 0, shard := 0, owners := [State.reset.fab.coord], remote := true, lender := 7, held := true, fmt := 0,
               rows := 1, cols := 1, addr := 0, ownerAddr := 0, replicas := [], gather := 0 }]
  slices := []
  sparse := []
  collectives := []
  layers := []
  lossWords := []
  buckets := []
  frames := 0
  keyId := 0
  signature := []

/-- Its job between runs, with page 0, which holds the shard, remote on package 7 and copied here. -/
def lentShardState : State :=
  { State.reset with
    job := { State.reset.job with image := some lentShardImage }
    mem := { State.reset.mem with pages := [(0, { valid := true, loc := .remote, copies := true, peer := 7 })] } }

/-- The page of the shard after the lender is declared lost. -/
def lentShardPage : Page :=
  match exec (.lenderDeclaredLost 7) lentShardState with
  | .next t => t.mem.page 0
  | _ => { state := .lost }

theorem lentShardPage_home : lentShardPage.state = .open_ ∧ lentShardPage.loc = .home := by decide +kernel

/-- Refutes O28: with no run, the repair of a shard of the package's own begins at once, and the page of which copies stand
here is home again and open, not LOST. -/
theorem not_lendingCommands : ¬ Obligations.LendingCommands := by
  unfold Obligations.LendingCommands
  intro h
  obtain ⟨-, hlost, -⟩ := h lentShardState
  obtain ⟨t, e, -, -, hpage⟩ := hlost 7 rfl
  have hp : lentShardPage = t.mem.page 0 := by rw [lentShardPage, e]
  have hs : (t.mem.page 0).state = .lost := by rw [hpage 0]; rfl
  rw [← hp, lentShardPage_home.1] at hs
  cases hs

end Sys2Proof.Machine
end

section
/-! SUPPORT. Maps whose frames are cleared, and migrations (R145, R154 to R158, R570). -/

namespace Sys2Proof.Machine

/-! ### MAP_CLEAR_COMPLETE -/

/-- The state in which the frames of a waiting map have been cleared and kept for it. -/
def State.mapCleared (k : Clearing) (s : State) : State :=
  ({ s with mem := { s.mem with clearing := [], cleared := s.mem.cleared ++ [(k.first, k.frames)] } }).clearFrames k.frames

theorem State.mapCleared_only (k : Clearing) (s : State) : ∃ clay poison c, s.mapCleared k =
    { s with mem := { s.mem with
        clearing := [], cleared := s.mem.cleared ++ [(k.first, k.frames)], clay := clay, poison := poison }, cnt := c } := by
  obtain ⟨clay, poison, c, e, -⟩ := State.clearFrames_only k.frames
    { s with mem := { s.mem with clearing := [], cleared := s.mem.cleared ++ [(k.first, k.frames)] } }
  exact ⟨clay, poison, c, e⟩

/-- One map waits, on this ring, while a job runs: its slots decide. -/
theorem exec_mapClearComplete {s : State} {ring : Nat} {k : Clearing} (hc : s.mem.clearing = [k]) (hr : k.ask.ring = ring)
    (hj : s.job.image.isSome = true) :
    exec (.mapClearComplete ring) s = .next (if allSlots (frameBursts * k.frames.length) k.slots then
      (s.mapCleared k).defer_ (k.cmd s) 1 s.job.epoch else s) := by
  have hruns : s.jobRuns = true := hj
  change execMapClearComplete ring s = _
  unfold execMapClearComplete
  have hfind : (s.mem.clearing.find? fun k => k.ask.ring == ring) = some k := by rw [hc]; simp [hr]
  have hnone : (s.mem.clearing.filter fun x => x.ask.ring != ring) = [] := by rw [hc]; simp [hr]
  rw [hfind]
  simp only [hruns, Bool.true_and, if_true, hnone]
  cases allSlots (frameBursts * k.frames.length) k.slots
  · rfl
  · rfl

/-! ### PAGE_MIGRATE -/

theorem State.sendMoved_sent (m : Migration) (s : State) : s.sentFrom (s.sendMoved m) :=
  State.sentFrom_trans (State.countClay_sent ..) (State.sendStream_sent ..)

/-- What a migration that begins sends touches the fabric and counters. -/
theorem State.moveSends_sent (m : Migration) (x : Frame) (la n to_ : Nat) (a b : Bool) (s : State) :
    s.sentFrom (if a then s.sendReads x la n to_ else if b then s.sendMoved m else s) := by
  split
  · exact s.sendReads_sent ..
  · split
    · exact s.sendMoved_sent m
    · exact s.sentFrom_refl

/-- A migration that may begin: its page, its place among the migrations, and nothing of the job. -/
theorem State.moveStart_begins {o : Migration} {s : State} {fs : List Nat} {ctx : Nat} (hcopy : o.copy = false)
    (hf : s.freeRetired.mem.takeFrames (b2n o.home) = some fs) (hx : s.freeRetired.freeCtx = some ctx) :
    ∃ v : State, s.moveStart o = some v ∧ (v.mem.page o.page).state = .migrating ∧ v.mem.clay = s.mem.clay ∧
      (∃ m ∈ v.mem.migrations, m.page = o.page ∧ m.home = o.home ∧ m.ctx = ctx ∧ m.left = o.left ∧ m.ask = o.ask) ∧
      v.job = s.job := by
  unfold State.moveStart
  extract_lets w p
  have hdraw : ∃ lp n, (if o.home then (p.lpage, w) else if o.copy then (o.lpage, w) else w.drawBelow (2 ^ 27)) =
      (lp, { w with free := n }) := by
    rw [hcopy]
    split
    · exact ⟨_, w.free, rfl⟩
    · exact ⟨_, _, rfl⟩
  obtain ⟨lp, n, hdraw⟩ := hdraw
  have hp : ({ p with state := .migrating } : Page) ≠ {} := fun e => by simpa using congrArg Page.state e
  split
  · next fs' ctx' hf' hx' =>
    cases hf.symm.trans hf'
    cases hx.symm.trans hx'
    rw [hdraw]
    simp only [hcopy, Bool.false_eq_true, if_false]
    refine ⟨_, rfl, ?_⟩
    generalize hr : State.setCtx _ ctx _ = r
    obtain ⟨f, c, hs⟩ := State.moveSends_sent _ (r.moveHead _) (lp * frameBytes) frameBytes (o.page * frameBytes) o.home _ r
    rw [hs, ← hr]
    refine ⟨?_, rfl, ⟨_, List.mem_append_right _ (List.mem_singleton.mpr rfl), rfl, rfl, rfl, rfl, rfl⟩, rfl⟩
    exact congrArg Page.state ((MemState.page_setPage hp o.page o.page).trans (if_pos rfl))
  · next hno => exact absurd hx (hno fs ctx hf)

/-- The migration that a PAGE_MIGRATE asks for: its first page, and how many follow. -/
def Cmd.migration (c : Cmd) (home : Bool) (since : Nat) : Migration where
  page := c.first
  home := home
  frame := 0
  lender := c.p 32 3
  lpage := 0
  ask := some c.ask
  since := since
  deadline := c.p 36 4 * scPerSecond
  left := c.count - 1
  ctx := 0

/-- PAGE_MIGRATE where every page may migrate: it begins with the first page, or nothing is there for it. -/
theorem State.migrateStart_eq {c : Cmd} {u : State} {home : Bool} (hh : c.p 28 1 = b2n home) (hc : c.count ≠ 0)
    (ha : ∀ n ∈ c.pages, (u.mem.page n).migrates home = true) :
    let r := if home = true then (0, u) else u.lenderAnswer false
    (r.1 = 1 → u.migrateStart c = r.2.refuse c.ask 10) ∧
    ∀ v : State, r.1 ≠ 1 → r.2.moveStart (c.migration home r.2.sc) = some v → u.migrateStart c =
        if v.jobRuns then v.answer c.ask 1 0 (5 :: wordsOf 2 c.first)
        else v.setAux c.ask.ring { v.aux c.ask.ring with current := some c.ask, work := some .migrate, slices := 1 } := by
  intro r
  have hhome : (c.p 28 1 == 1) = home := by rw [hh]; cases home <;> rfl
  have hall : (c.pages.all fun n => (u.mem.page n).migrates home) = true := List.all_eq_true.mpr ha
  have e : u.migrateStart c = if r.1 = 1 then r.2.refuse c.ask 10 else
      match r.2.moveStart (c.migration home r.2.sc) with
      | none => r.2.refuse c.ask 10
      | some s => if s.jobRuns then s.answer c.ask 1 0 (5 :: wordsOf 2 c.first)
        else s.setAux c.ask.ring { s.aux c.ask.ring with current := some c.ask, work := some .migrate, slices := 1 } := by
    unfold State.migrateStart
    simp only [hhome, hall, Bool.not_true, Bool.false_eq_true, if_false, if_neg hc]
    rfl
  refine ⟨fun h => by rw [e, if_pos h], fun v h hv => ?_⟩
  rw [e, if_neg h, hv]

/-- PAGE_MIGRATE is refused where a page may not migrate, and ends at once where it names none. -/
theorem State.migrateStart_ends {c : Cmd} {u : State} (hz : c.p 28 1 = 0) :
    ((∃ n ∈ c.pages, (u.mem.page n).migrates false = false) → u.migrateStart c = u.refuse c.ask 9) ∧
    (c.count = 0 → u.migrateStart c = u.done c.ask []) := by
  have hhome : (c.p 28 1 == 1) = false := by rw [hz]; rfl
  constructor
  · rintro ⟨n, hn, hm⟩
    have hall : (c.pages.all fun n => (u.mem.page n).migrates false) = false :=
      List.all_eq_false.mpr ⟨n, hn, by rw [hm]; decide⟩
    unfold State.migrateStart
    simp only [hhome, hall, Bool.not_false, if_true]
    rfl
  · intro hc
    have hall : (c.pages.all fun n => (u.mem.page n).migrates false) = true := by
      simp [Cmd.pages, hc]
    unfold State.migrateStart
    simp only [hhome, hall, Bool.not_true, Bool.false_eq_true, if_false, if_pos hc]


/-! ### MIGRATION_SWITCH -/

/-- The end of the one migration: its page takes what is given, sealed, and no migration is left. -/
theorem State.migrationEnd_alone {m : Migration} {s : State} (hm : s.mem.migrations = [m]) (hcopy : m.copy = false) (p : Page) :
    (s.migrationEnd m p).mem.page m.page = { p with state := .sealed } ∧ (s.migrationEnd m p).mem.migrations = [] ∧
      (s.migrationEnd m p).mem.clay = s.mem.clay ∧ (s.migrationEnd m p).mem.retiring = s.mem.retiring ∧
      (s.migrationEnd m p).job = s.job := by
  have hp : ({ p with state := .sealed } : Page) ≠ {} := fun e => by simpa using congrArg Page.state e
  unfold State.migrationEnd
  rw [hcopy]
  refine ⟨(MemState.page_setPage hp m.page m.page).trans (if_pos rfl), ?_, rfl, rfl, rfl⟩
  change s.mem.migrations.filter _ = []
  rw [hm]
  simp

/-- With nothing deferred, no unmap falls due. -/
theorem State.unmapsDue_idle {s : State} (h : s.job.deferred = []) : s.unmapsDue.mem = s.mem := by
  unfold State.unmapsDue
  extract_lets due now s'
  have hn : now = [] := by simp only [now, h, List.filter_nil]
  rw [hn]
  rfl

/-- What a page's copy leaves where it arrived: the bytes in the new frame, or the readers of the old one. -/
def State.moveLands (m : Migration) (bs : List Byte) (s : State) : State :=
  if m.home then
    ({ s with mem := (s.mem.clearFrame m.frame).write (m.frame * frameBytes) bs }).countClay 0x0202 4 false (m.frame * frameBytes)
      frameBytes
  else if m.copy then s
  else { s with mem := { s.mem with
    retiring := s.mem.retiring ++ (s.readersOf m.page).map fun x => (m.page, (s.mem.page m.page).frame0, x) } }

theorem State.moveSwitch_eq (m : Migration) (bs : List Byte) (s : State) :
    s.moveSwitch m bs = (((s.moveLands m bs).migrationEnd m (m.result (s.moveLands m bs).job.epoch (s.mem.page m.page))).auditPages
      m.ask m.page 1 (s.mem.page m.page).bits).unmapsDue := rfl

/-- A page that came home is in its new frame. -/
theorem State.moveLands_home {m : Migration} (h : m.home = true) (bs : List Byte) (s : State) :
    (s.moveLands m bs).mem = (s.mem.clearFrame m.frame).write (m.frame * frameBytes) bs ∧ (s.moveLands m bs).job = s.job := by
  obtain ⟨c, hc⟩ := State.countClay_only 0x0202 4 false (m.frame * frameBytes) frameBytes
    { s with mem := (s.mem.clearFrame m.frame).write (m.frame * frameBytes) bs }
  have e : s.moveLands m bs = { s with mem := (s.mem.clearFrame m.frame).write (m.frame * frameBytes) bs, cnt := c } := by
    rw [← hc, State.moveLands, if_pos h]
  rw [e]
  exact ⟨rfl, rfl⟩

/-- A page that went away leaves its frame to those that still read it. -/
theorem State.moveLands_away {m : Migration} (h : m.home = false) (hc : m.copy = false) (bs : List Byte) (s : State) :
    s.moveLands m bs = { s with mem := { s.mem with
      retiring := s.mem.retiring ++ (s.readersOf m.page).map fun x => (m.page, (s.mem.page m.page).frame0, x) } } := by
  rw [State.moveLands, if_neg (by simp [h]), if_neg (by simp [hc])]

/-- The switch of the one migration, with nothing deferred: the page as it lies from now on, sealed. -/
theorem State.moveSwitch_alone {m : Migration} {s : State} {bs : List Byte}
    (hm : (s.moveLands m bs).mem.migrations = [m]) (hd : (s.moveLands m bs).job.deferred = []) (hcopy : m.copy = false) :
    (s.moveSwitch m bs).mem.page m.page =
        { m.result (s.moveLands m bs).job.epoch (s.mem.page m.page) with state := .sealed } ∧
      (s.moveSwitch m bs).mem.migrations = [] ∧ (s.moveSwitch m bs).mem.clay = (s.moveLands m bs).mem.clay ∧
      (s.moveSwitch m bs).mem.retiring = (s.moveLands m bs).mem.retiring := by
  obtain ⟨hpage, hnone, hclay, hret, hjob⟩ :=
    State.migrationEnd_alone hm hcopy (m.result (s.moveLands m bs).job.epoch (s.mem.page m.page))
  rw [State.moveSwitch_eq]
  generalize (s.moveLands m bs).migrationEnd m (m.result (s.moveLands m bs).job.epoch (s.mem.page m.page)) = w at *
  obtain ⟨t, q, h, e⟩ := State.auditPages_only m.ask m.page 1 (s.mem.page m.page).bits w
  have hidle : (w.auditPages m.ask m.page 1 (s.mem.page m.page).bits).unmapsDue.mem = w.mem := by
    rw [e]
    exact State.unmapsDue_idle ((congrArg JobState.deferred hjob).trans hd)
  rw [hidle]
  exact ⟨hpage, hnone, hclay, hret⟩

/-- The copy of the one migration has arrived, and its slots sufficed. -/
theorem exec_migrationSwitch_copied {s : State} {m : Migration} (hm : s.mem.migrations = [m]) (hl : m.left = 0)
    (hgo : m.free = true ∨ allSlots frameBursts m.slots = true) {bs : List Byte}
    (hb : (if m.home then s.fab.replyBytes m.ctx (m.page * frameBytes) frameBytes else some []) = some bs) :
    exec (.migrationSwitch m.page true) s = .next ((s.moveSwitch m bs).migrateAnswer m 0 0 []) := by
  have hfind : (s.mem.migrations.find? fun x => x.page == m.page) = some m := by rw [hm]; simp
  have hslots : (!m.free && !allSlots frameBursts m.slots) = false := by
    cases hgo with
    | inl h => rw [h]; rfl
    | inr h => rw [h]; simp
  change execMigrationSwitch m.page true s = _
  unfold execMigrationSwitch
  rw [hfind]
  simp only [hslots, hb, Bool.not_true, Bool.false_eq_true, if_false, if_pos hl]
  rfl

/-- The copy of the one migration waits for its slots, or failed. -/
theorem exec_migrationSwitch_held {s : State} {m : Migration} (hm : s.mem.migrations = [m]) :
    (m.free = false → allSlots frameBursts m.slots = false → exec (.migrationSwitch m.page true) s = .next s) ∧
    exec (.migrationSwitch m.page false) s =
      .next (((s.migrationEnd m (s.mem.page m.page)).migrateAnswer m 5 2 (wordsOf 2 m.page)).unmapsDue) := by
  have hfind : (s.mem.migrations.find? fun x => x.page == m.page) = some m := by rw [hm]; simp
  constructor
  · intro hf hs
    change execMigrationSwitch m.page true s = _
    unfold execMigrationSwitch
    rw [hfind]
    simp only [hf, hs, Bool.not_true, Bool.not_false, Bool.and_self, Bool.false_eq_true, if_false, if_true]
    rfl
  · change execMigrationSwitch m.page false s = _
    unfold execMigrationSwitch
    rw [hfind]
    simp only [Bool.not_false, if_true]
    rfl

/-- Settles O27: the frames of a map that waits are cleared when their slots suffice, and a migration follows its page. -/
theorem mapsAndMigrationsComplete : Obligations.MapsAndMigrationsComplete := by
  unfold Obligations.MapsAndMigrationsComplete
  intro s ring
  refine ⟨fun k hc hr hj ha => ?_, fun k hc hr hj ha => ?_, fun c u hrun hg hz hl => ?_, fun c u home hrun hg hh hl hn ha => ?_,
    fun m hm hd hl hcopy => ?_⟩
  · rw [exec_mapClearComplete hc hr hj, if_neg (by simp [ha])]
  · obtain ⟨clay, poison, cnt, e⟩ := s.mapCleared_only k
    refine ⟨s.mapCleared k, by rw [exec_mapClearComplete hc hr hj, if_pos ha], ?_, ?_,
      fun f hf a h1 h2 => State.clearFrames_zero _ _ hf h1 h2, ?_, ?_⟩ <;> rw [e]
  · have hrow : exec (.pageMigrate ring) s = .next (u.migrateStart c) :=
      State.row_runs rfl (fun _ => rfl) hrun (by rw [hg, hz, decide_eq_true hl]; rfl)
    obtain ⟨hbad, hnone⟩ := State.migrateStart_ends (u := u) hz
    exact ⟨fun h => by rw [hrow, hbad h], fun h => by rw [hrow, hnone h]⟩
  · have hlt : c.p 28 1 < 2 := by rw [hh]; cases home <;> decide
    have hrow : exec (.pageMigrate ring) s = .next (u.migrateStart c) :=
      State.row_runs rfl (fun _ => rfl) hrun (by rw [hg, decide_eq_true hlt, decide_eq_true hl]; rfl)
    obtain ⟨hno, hgo⟩ := State.migrateStart_eq hh hn ha
    intro r w
    refine ⟨fun h => by rw [hrow, hno h], fun fs ctx h hf hx => ?_⟩
    obtain ⟨v, hv, hpage, hclay, hmem, hjob⟩ := State.moveStart_begins (o := c.migration home r.2.sc) (s := r.2) rfl hf hx
    have hr : r.2.mem.clay = u.mem.clay ∧ r.2.job = u.job := by
      simp only [r]
      split <;> exact ⟨rfl, rfl⟩
    refine ⟨v, hpage, hclay.trans hr.1, hmem, ?_⟩
    rw [hrow, hgo v h hv]
    have hjr : v.jobRuns = u.job.image.isSome := by rw [State.jobRuns, hjob, hr.2]
    rw [hjr]
  · obtain ⟨hheld, hfail⟩ := exec_migrationSwitch_held hm
    refine ⟨fun hgo => ⟨fun hh => ?_, fun bs hh hb => ?_⟩, hheld, ?_⟩
    · have hland := State.moveLands_away hh hcopy [] s
      obtain ⟨hpage, hnone, hclay, hret⟩ :=
        State.moveSwitch_alone (bs := []) (by rw [hland]; exact hm) (by rw [hland]; exact hd) hcopy
      refine ⟨s.moveSwitch m [], exec_migrationSwitch_copied hm hl hgo (by rw [hh]; rfl), hpage.trans ?_, hnone, ?_, ?_⟩
      · simp [Migration.result, hcopy, hh]
      · rw [hclay, hland]
      · rw [hret, hland]
    · obtain ⟨hlmem, hljob⟩ := State.moveLands_home hh bs s
      obtain ⟨hpage, hnone, hclay, -⟩ :=
        State.moveSwitch_alone (bs := bs) (by rw [hlmem]; exact hm) (by rw [hljob]; exact hd) hcopy
      refine ⟨s.moveSwitch m bs, exec_migrationSwitch_copied hm hl hgo ((if_pos hh).trans hb), hpage.trans ?_, hnone, ?_⟩
      · simp [Migration.result, hcopy, hh]
      · rw [hclay, hlmem]
        rfl
    · obtain ⟨hpage, hnone, hclay, -⟩ := State.migrationEnd_alone hm hcopy (s.mem.page m.page)
      exact ⟨_, _, hfail, hpage, hnone, hclay, rfl⟩

end Sys2Proof.Machine
end

section
/-! SUPPORT. Tasks: a tile's assignment, the end and the abort of a task (R90, R201 to R205). -/

namespace Sys2Proof.Machine

theorem Tile.assign_ne_idle (x : TaskTile) (n : Nat) (sp : Bool) (now late : Nat) (u : Tile) : u.assign x n sp now late ≠ Tile.idle :=
  Tile.ne_idle_of_phase (by simp [Tile.assign])

theorem Task.ne_default_of_phase {k : Task} (h : k.phase ≠ .idle) : k ≠ {} := fun e => h (congrArg Task.phase e)

/-- TASK_ASSIGN of a tile that may start. -/
theorem exec_taskAssign {s : State} {t : TileId} {n : Nat} {d : TaskDecl} {x : TaskTile} (hd : s.taskDecl n = some d)
    (hx : (d.tiles.find? fun y => y.tile = t) = some x) (hp : (s.task n).phase = .running) (hb : (s.tile t).busy = false)
    (ha : t.key ∉ (s.task n).assigned) (hc : (s.tile t).clock = s.fc)
    (hr : (s.task n).step = true → (s.task n).spec = false → d.rescale = false → ∀ l ∈ d.layers, l ∉ s.job.rescale) :
    exec (.taskAssign t n) s = .next ((s.setTile t ((s.tile t).assign x n (s.task n).spec s.fc s.lateSpecial)).setTask n
      { s.task n with assigned := setInsert (s.task n).assigned t.key }) := by
  have hfirst : ((s.task n).step && !(s.task n).spec && !d.rescale && d.layers.any s.job.rescale.contains) = false := by
    by_contra hne
    simp only [Bool.not_eq_false, Bool.and_eq_true, Bool.not_eq_true', List.any_eq_true, List.contains_iff_mem] at hne
    obtain ⟨⟨⟨h1, h2⟩, h3⟩, l, hl, hm⟩ := hne
    exact hr h1 h2 h3 l hl hm
  have hcont : (s.task n).assigned.contains t.key = false := by simpa using ha
  change execTaskAssign t n s = _
  unfold execTaskAssign
  simp only [hd, hx, hfirst, hcont, hp, hb, State.runTo_reached hc.ge, ne_eq, not_true_eq_false, Bool.false_eq_true, or_self, if_false,
    State.modTile, hc, max_self]
  rfl

/-! ### The end of a task -/

/-- What its answer does once a task has ended or is aborted. -/
theorem State.taskReply_eq (k : Task) (cls code : Nat) (rs : List Word) (s : State) :
    (k.ask = none → s.taskReply k cls code rs = s) ∧
    ∀ a, k.ask = some a → s.taskReply k cls code rs =
      let w := { s with pow := { s.pow with taskEnd := s.sc + 1 } }
      if k.tainted = true ∧ s.job.run.isSome = true then
        { w with job := { w.job with heldReplies := w.job.heldReplies ++ [(a, cls, code, rs)] } }
      else w.answer a cls code rs := by
  refine ⟨fun h => by rw [State.taskReply, h], fun a h => ?_⟩
  rw [State.taskReply, h]
  by_cases hc : k.tainted = true ∧ s.job.run.isSome = true
  · simp only [hc, and_self, Bool.and_self, if_true]
  · have hf : (k.tainted && s.job.run.isSome) = false := by simpa using hc
    simp only [hf, if_neg hc, Bool.false_eq_true, if_false]

theorem exec_taskEnd {s : State} {n : Nat} {d : TaskDecl} (hd : s.taskDecl n = some d) (h : s.taskDone d = true) :
    exec (.taskEnd n) s =
      .next ((s.setTask n { s.task n with phase := .ended, ask := none }).taskReply (s.task n) 0 0 []) := by
  change execTaskEnd n s = _
  unfold execTaskEnd
  simp only [hd, h, if_true]
  rfl

theorem exec_taskAbortReply {s : State} {n : Nat} (hp : (s.task n).phase = .aborting) (ht : s.tilesOf n = [])
    (hc : ∀ c ∈ s.ctxsOf n, (s.ctx c).state = .aborted) :
    exec (.taskAbortReply n) s =
      .next (((s.emptyRings n).setTask n { s.task n with phase := .aborted, ask := none }).taskReply (s.task n) 3 1
        (wordsOf 4 (AbortRecord.bits (s.task n).record))) := by
  have hall : ((s.ctxsOf n).all fun c => (s.ctx c).state == .aborted) = true :=
    List.all_eq_true.mpr fun c h => by simp [hc c h]
  change execTaskAbortReply n s = _
  unfold execTaskAbortReply
  simp only [hp, ht, hall, List.isEmpty_nil, and_self, if_true]
  rfl

/-- The handles of a task go with it, and nothing else. -/
theorem State.emptyRings_only (n : Nat) (s : State) :
    ∃ r h, s.emptyRings n = { s with rs := { s.rs with rings := r, handles := h } } := by
  unfold State.emptyRings
  extract_lets rings
  induction rings generalizing s with
  | nil => exact ⟨_, _, rfl⟩
  | cons x l ih =>
    obtain ⟨r, h, e⟩ := ih ({ s.setRing x { s.ring x with head := (s.ring x).tail } with
      rs := { (s.setRing x { s.ring x with head := (s.ring x).tail }).rs with
        handles := mapSet [] (s.setRing x { s.ring x with head := (s.ring x).tail }).rs.handles x [] } })
    exact ⟨r, h, e⟩

theorem State.settleAbort_only (n : Nat) (s : State) :
    ∃ r h, s.settleAbort n = { s with rs := { s.rs with rings := r, handles := h } } := by
  unfold State.settleAbort
  split
  · exact s.emptyRings_only n
  · exact ⟨_, _, rfl⟩

/-! ### Aborts -/

/-- TASK_ABORT for a cause of a stream or unit. -/
theorem exec_taskAbort {s : State} {n : Nat} {r : AbortRecord} (hp : (s.task n).phase = .running) (ht : tileId? r.die r.tile = none)
    (hc : r.cause ≠ 0x0B) : ∃ j f c, exec (.taskAbort n r) s = .next { s.setTask n { s.task n with
        phase := .aborting, record := { r with pkg := s.fab.coord },
        recordAt := s.hubArrival s.fc { r with pkg := s.fab.coord } } with job := j, fab := f, cnt := c } := by
  have hpkg : (if r.cause = 0x0B ∧ memoryFault r.code then r.pkg else s.fab.coord) = s.fab.coord := if_neg fun h => hc h.1
  obtain ⟨k, j, f, c, e, hk⟩ := State.taskAborts_only n s.fc { r with pkg := s.fab.coord } true s
  refine ⟨j, f, c, ?_⟩
  change execTaskAbort n r s = _
  unfold execTaskAbort
  rw [ht]
  simp only [State.noteEcc, if_pos (Or.inl hc : r.cause ≠ 0x0B ∨ r.code ≠ 0x14), State.taskCause, State.taskCauseAt, hpkg]
  rw [e, hk hp]
  rfl

theorem Tile.phase_of_busy {u : Tile} (h : u.busy = true) : u.phase ≠ .free := fun e => by simp [Tile.busy, e] at h

/-- Where its task aborts elsewhere, a tile without a transfer halts at the end of its fc. -/
theorem State.stopAtEnd_peer {s : State} {t : TileId} (hb : (s.tile t).busy = true)
    (hx : ((s.tileBegin t).tile t).xfer = none) (hs : ((s.tileBegin t).tile t).stop = none)
    (hl : ((s.tileBegin t).tile t).landing = []) (hn : ((s.tileBegin t).tile t).atNone = false) :
    ∃ m c, s.stopAtEnd t { cause := 0x0C } = ({ s.tileBegin t with tiles := m, cnt := c } : State).catchUp t ∧
      ((s.stopAtEnd t { cause := 0x0C }).tile t).phase = .aborted 0x0C ∧
      ((s.stopAtEnd t { cause := 0x0C }).tile t).x = (s.tile t).x ∧
      ∀ v, v ≠ t → (s.stopAtEnd t { cause := 0x0C }).tile v = (s.tileBegin t).tile v := by
  have hcore := s.tileBegin_tile_core t
  have hb' : ((s.tileBegin t).tile t).busy = true := by rw [Tile.busy, Tile.phase_of_core hcore]; exact hb
  have hreg : ((s.tileBegin t).tile t).x = (s.tile t).x := congrArg Prod.fst hcore
  have hdef : s.stopAtEnd t { cause := 0x0C } = (((s.tileBegin t).modTile t fun u =>
    { u with stop := firstStop u.stop (some { cause := 0x0C }) }).tileEnd t).catchUp t := rfl
  rw [hdef]
  clear hdef
  generalize s.tileBegin t = g at *
  let stops (u : Tile) : Tile := { u with stop := firstStop u.stop (some { cause := 0x0C }) }
  have hidle : stops (g.tile t) ≠ Tile.idle := Tile.ne_idle_of_phase (Tile.phase_of_busy hb')
  have hw : (g.modTile t stops).tile t = stops (g.tile t) := (State.tile_modTile hidle).trans (if_pos rfl)
  have hp : ((g.modTile t stops).tile t).phase ≠ .free := by rw [hw]; exact Tile.phase_of_busy hb'
  have hx' : ((g.modTile t stops).tile t).xfer = none := by rw [hw]; exact hx
  obtain ⟨c, l, hleft, hnil⟩ := State.fcLeft_rows hp hx'
  cases hnil (by rw [hw]; exact hl)
  obtain ⟨hfx, -, hfr⟩ := Tile.nextFc_regs hx' ((g.modTile t stops).tile t).clock
  have hft := State.fcLeft_tile hp hx'
  rw [← hft] at hfx hfr
  obtain ⟨m, hm, ht, ho⟩ := State.haltTile_only hfr 0x0C
  have hstop : firstStop (stops (g.tile t)).stop ((stops (g.tile t)).fetchStop (stops (g.tile t)).clock) =
      some { cause := 0x0C } := by
    rw [Tile.fetchStop_of_atNone (show (stops (g.tile t)).atNone = false from hn)]
    simp only [stops, hs, firstStop]
  have hend : (g.modTile t stops).tileEnd t = ((g.modTile t stops).fcLeft t).haltTile t 0x0C := by
    rw [State.tileEnd_eq, hw, hstop, if_pos (show (stops (g.tile t)).busy = true from hb')]
    rfl
  refine ⟨m, c, ?_, ?_, ?_, fun v hv => ?_⟩
  · change ((g.modTile t stops).tileEnd t).catchUp t = _
    rw [hend, hm, hleft]
    rfl
  · change (((g.modTile t stops).tileEnd t).tile t).phase = _
    rw [hend, ht]
    rfl
  · change (((g.modTile t stops).tileEnd t).tile t).x = _
    rw [hend, ht]
    exact (hfx.trans (by rw [hw])).trans hreg
  · change ((g.modTile t stops).tileEnd t).tile v = _
    rw [hend, ho v hv, hleft]
    change ((g.modTile t stops).setTile t _).tile v = _
    rw [State.tile_setTile (Tile.nextFc_ne_idle (Tile.resolve_phase_ne (by simpa using hp))), if_neg hv]
    exact (State.tile_modTile hidle).trans (if_neg hv)

/-- Settles O29, one instruction at a time. -/
theorem tasksStartEndAndAbort : Obligations.TasksStartEndAndAbort := by
  unfold Obligations.TasksStartEndAndAbort
  refine ⟨fun s t n d x => ?_, fun s n => ?_, ⟨fun s n r hp ht hc => ?_, fun s t hb hp hc => ?_, fun s n hp ha => ?_⟩⟩
  · intro u k hd hx hp hb ha hc hr
    have hk : ({ k with assigned := setInsert k.assigned t.key } : Task) ≠ {} :=
      Task.ne_default_of_phase (by simp [hp])
    have ht (v : TileId) := State.tile_setTile (Tile.assign_ne_idle x n k.spec s.fc s.lateSpecial u) t v s
    refine ⟨_, exec_taskAssign hd hx hp hb ha hc hr, ?_, fun v hv => (ht v).trans (if_neg hv), ?_, rfl⟩
    · intro v
      have hv : v = u.assign x n k.spec s.fc s.lateSpecial := (ht t).trans (if_pos rfl)
      rw [hv]
      exact ⟨rfl, rfl, rfl, rfl, rfl, rfl, rfl, rfl, rfl, rfl, rfl, rfl, rfl, rfl, rfl⟩
    · exact congrArg Task.assigned ((State.task_setTask hk n n _).trans (if_pos rfl))
  · intro k
    refine ⟨fun d hd hn hdone => ?_, fun hp ht hc => ?_⟩
    · have hk : ({ k with phase := .ended, ask := none } : Task) ≠ {} := Task.ne_default_of_phase (by simp)
      obtain ⟨hnone, hsome⟩ := (s.setTask n { k with phase := .ended, ask := none }).taskReply_eq k 0 0 []
      have hrun := exec_taskEnd hd hdone
      refine ⟨_, rfl, ?_, fun m hm => (State.task_setTask hk n m s).trans (if_neg hm), fun h => hrun.trans ?_,
        fun a h => hrun.trans ?_⟩
      · exact congrArg Task.phase ((State.task_setTask hk n n s).trans (if_pos rfl))
      · rw [hnone h]
      · rw [hsome a h]
        rfl
    · have hk : ({ k with phase := .aborted, ask := none } : Task) ≠ {} := Task.ne_default_of_phase (by simp)
      obtain ⟨r, h, hring⟩ := s.emptyRings_only n
      obtain ⟨hnone, hsome⟩ := ((s.emptyRings n).setTask n { k with phase := .aborted, ask := none }).taskReply_eq k 3 1
        (wordsOf 4 (AbortRecord.bits k.record))
      have hrun := exec_taskAbortReply hp ht hc
      refine ⟨_, rfl, ?_, fun h => hrun.trans ?_, fun a h hn => hrun.trans ?_⟩
      · exact congrArg Task.phase ((State.task_setTask hk n n _).trans (if_pos rfl))
      · rw [hnone h]
      · have hno : ¬ (k.tainted = true ∧ s.job.run.isSome = true) := by
          rintro ⟨h1, h2⟩
          rcases hn with hn | hn
          · rw [hn] at h1; cases h1
          · rw [hn] at h2; cases h2
        have hjob : ((s.emptyRings n).setTask n { k with phase := .aborted, ask := none }).job = s.job := by
          rw [hring]; rfl
        have hsc : ((s.emptyRings n).setTask n { k with phase := .aborted, ask := none }).sc = s.sc := by
          rw [hring]; rfl
        rw [hsome a h, hjob, hsc]
        simp only [if_neg hno]
  · obtain ⟨j, f, c, e⟩ := exec_taskAbort hp ht hc
    have hk := State.task_setTask (v := { s.task n with
      phase := .aborting, record := { r with pkg := s.fab.coord }
      recordAt := s.hubArrival s.fc { r with pkg := s.fab.coord } }) (Task.ne_default_of_phase (by simp)) n
    refine ⟨_, e, congrArg Task.phase ((hk n s).trans (if_pos rfl)), congrArg Task.record ((hk n s).trans (if_pos rfl)),
      fun m hm => (hk m s).trans (if_neg hm), rfl, rfl⟩
  · intro g u hx hs hl hn
    obtain ⟨m, c, e, hphase, hreg, ho⟩ := State.stopAtEnd_peer hb hx hs hl hn
    obtain ⟨r, h, hset⟩ := (s.stopAtEnd t { cause := 0x0C }).settleAbort_only (s.tile t).task
    refine ⟨(s.stopAtEnd t { cause := 0x0C }).settleAbort (s.tile t).task, ?_, ?_⟩
    · change execPeerAbort (.tile t) s = _
      unfold execPeerAbort
      simp only [hb, hp, and_self, if_true, State.runTo_reached hc.ge]
      rfl
    · rw [hset]
      refine ⟨hphase, hreg, ho, ?_, ?_, ?_⟩ <;> rw [e] <;> rfl
  · have hk : ({ s.ctx n with state := .aborted } : Ctx) ≠ {} := fun e => by simpa using congrArg Ctx.state e
    obtain ⟨r, h, hset⟩ := (s.setCtx n { s.ctx n with state := .aborted }).settleAbort_only (s.ctx n).task
    refine ⟨(s.setCtx n { s.ctx n with state := .aborted }).settleAbort (s.ctx n).task, ?_, ?_⟩
    · change execPeerAbort (.stream n) s = _
      unfold execPeerAbort
      simp only [hp, ha, and_self, if_true]
      rfl
    · rw [hset]
      exact ⟨(State.ctx_setCtx hk n n s).trans (if_pos rfl), fun m hm => (State.ctx_setCtx hk n m s).trans (if_neg hm), rfl⟩

end Sys2Proof.Machine
end

section
/-! SUPPORT. Streams that end or are late, and work that starts in its epoch (R185, R200, R221, R258 to R260). -/

namespace Sys2Proof.Machine

theorem Ctx.ne_default_of_state {c : Ctx} (h : c.state ≠ .free) : c ≠ {} := fun e => h (congrArg Ctx.state e)

/-- A running task that meets a cause is aborting, and its record is that of the cause. -/
theorem State.taskAborts_running {s : State} {n : Nat} (hp : (s.task n).phase = .running) (a : Nat) (r : AbortRecord) (tell : Bool) :
    (s.taskAborts n a r tell).task n =
      { s.task n with phase := .aborting, record := r, recordAt := s.hubArrival a r } := by
  obtain ⟨k, j, f, c, e, hk⟩ := State.taskAborts_only n a r tell s
  rw [e]
  change mapGet {} k n = _
  rw [hk hp]
  exact (mapGet_mapSet_listed (Task.ne_default_of_phase (by simp)) ..).trans (if_pos rfl)

/-- A stream that no tile runs fails: it is aborted with the fault, and its task meets that cause. -/
theorem State.streamFail_alone {s : State} {n : Nat} (hc : (s.ctx n).state = .active) (ht : s.tileOfCtx n = none)
    (code addr pkg : Nat) :
    (s.streamFail n code addr pkg).ctx n = { s.ctx n with state := .aborted, fault := code } ∧
      (s.streamFail n code addr pkg).fc = s.fc ∧
      ((s.task (s.ctx n).task).phase = .running →
        ((s.streamFail n code addr pkg).task (s.ctx n).task).phase = .aborting ∧
        ((s.streamFail n code addr pkg).task (s.ctx n).task).record.code = code) := by
  have e : s.streamFail n code addr pkg = (s.ctxFault n code).taskCause (s.ctx n).task
      { cause := 0x0B, code := code, addr := addr, pkg := pkg, die := 4, tile := 0x1FF } := by
    unfold State.streamFail
    rw [ht]
    exact if_neg (by rw [hc]; decide)
  have hctx : (s.ctxFault n code).ctx n = { s.ctx n with state := .aborted, fault := code } :=
    (State.ctx_setCtx (Ctx.ne_default_of_state (by simp)) n n s).trans (if_pos rfl)
  obtain ⟨k, j, f, c, h⟩ := State.taskCauseAt_only (s.ctx n).task s.fc
    { cause := 0x0B, code := code, addr := addr, pkg := pkg, die := 4, tile := 0x1FF } (s.ctxFault n code)
  refine ⟨?_, ?_, fun hp => ?_⟩
  · rw [e]
    exact (congrArg (fun v : State => v.ctx n) h).trans hctx
  · rw [e]
    exact (congrArg State.fc h).trans rfl
  · have ht := State.taskAborts_running (s := s.ctxFault n code) hp s.fc
      { cause := 0x0B, code := code, addr := addr, die := 4, tile := 0x1FF
        pkg := if 0x0B = 0x0B ∧ memoryFault code then pkg else s.fab.coord } true
    rw [e]
    exact ⟨congrArg Task.phase ht, congrArg (fun x => x.record.code) ht⟩

theorem exec_streamComplete {s : State} {n : Nat} {path : PathIn} (hc : (s.ctx n).state = .active) (h0 : (s.ctx n).kind ≠ 0)
    (h2 : (s.ctx n).kind ≠ 2) (h6 : (s.ctx n).kind ≠ 6) :
    exec (.streamComplete ⟨n, path⟩) s = .next (if path.beyond s.margins then s.streamFail n 0x11 0 s.fab.coord
      else ((s.count 4 path.onDie.sum (s.ctx n).spec).setCtx n { s.ctx n with state := .ready, activity := 0 }).streamHandle (s.ctx n)) := by
  change execStreamComplete ⟨n, path⟩ s = _
  unfold execStreamComplete
  simp only [hc, h0, h2, h6, ne_eq, not_false_eq_true, and_self, if_true]
  rfl

/-- STREAM_LATE of a stream that no tile runs. -/
theorem exec_streamLate {s : State} {n : Nat} (hc : (s.ctx n).state = .active) (hl : (s.ctx n).limit ≠ 0)
    (ht : s.tileOfCtx n = none) : exec (.streamLate n) s =
      .next ((s.toFc ((s.ctx n).since + (s.ctx n).limit)).streamFail n 0x10 0 s.fab.coord) := by
  have ht' : (s.toFc ((s.ctx n).since + (s.ctx n).limit)).tileOfCtx n = none := ht
  have hc' : ((s.toFc ((s.ctx n).since + (s.ctx n).limit)).ctx n) = s.ctx n := rfl
  change execStreamLate n s = _
  unfold execStreamLate
  simp only [hc, hl, ht, hc', ht', ne_eq, not_false_eq_true, and_self, if_true]
  rfl

/-- Settles O30: a stream's end is READY or a failure by its retries, and its limit a failure in its fc. -/
theorem streamsCompleteOrAreLate : Obligations.StreamsCompleteOrAreLate := by
  unfold Obligations.StreamsCompleteOrAreLate
  intro s n c hc
  refine ⟨fun path h0 h2 h6 => ⟨fun hr hb => ?_, fun hb ht => ?_⟩, fun hl ht => ?_⟩
  · have hctx := State.ctx_setCtx (v := { c with state := .ready, activity := 0 }) (Ctx.ne_default_of_state (by simp)) n
    obtain ⟨cnt, hcnt⟩ : ∃ cnt, s.count 4 path.onDie.sum c.spec = { s with cnt := cnt } := State.count_only ..
    have hrun : exec (.streamComplete ⟨n, path⟩) s =
        .next (({ s with cnt := cnt } : State).setCtx n { c with state := .ready, activity := 0 }) := by
      rw [exec_streamComplete hc h0 h2 h6, hb, State.streamHandle, if_pos hr, hcnt]
      rfl
    exact ⟨_, hrun, (hctx n _).trans (if_pos rfl), fun m hm => (hctx m _).trans (if_neg hm), rfl⟩
  · obtain ⟨h1, -, h3⟩ := State.streamFail_alone hc ht 0x11 0 s.fab.coord
    exact ⟨_, (exec_streamComplete hc h0 h2 h6).trans (by rw [hb]; rfl), h1, h3⟩
  · obtain ⟨h1, hfc, h3⟩ := State.streamFail_alone (s := s.toFc (c.since + c.limit)) hc ht 0x10 0 s.fab.coord
    refine ⟨_, exec_streamLate hc hl ht, congrArg Ctx.state h1, congrArg Ctx.fault h1, hfc.trans ?_, h3⟩
    change s.fc + (c.since + c.limit - s.fc) = _
    omega

/-! ### Work that starts -/

theorem State.writeSample_only (d : TaskDecl) (e a : Nat) (s : State) : ∃ m, s.writeSample d e a = { s with tiles := m } := by
  unfold State.writeSample
  split
  · extract_lets o
    generalize d.tiles = l
    induction l generalizing s with
    | nil => exact ⟨_, rfl⟩
    | cons x l ih =>
      obtain ⟨m, h⟩ := ih (s.modTile x.tile fun u => { u with silt := memWrite u.silt _ (leBytes 4 o) })
      exact ⟨m, h⟩
  · exact ⟨_, rfl⟩

/-- A task that starts: its streams are ready again, its tiles not assigned, and nothing of the job changes. -/
theorem State.startTask_starts (d : TaskDecl) (t : Task) (s : State) :
    (s.startTask d t).task d.task = { t with phase := .running, assigned := [], ended := [], record := {} } ∧
      ∃ m r, s.startTask d t = { s with tiles := m, rs := r } := by
  have streams (l : List Nat) (s : State) : ∃ r, l.foldl (fun (s : State) c =>
      let x := s.ctx c
      if x.state = .aborted then s.setCtx c { x with state := .ready, moved := 0, fault := 0, activity := 0 } else s) s =
        { s with rs := r } := by
    induction l generalizing s with
    | nil => exact ⟨_, rfl⟩
    | cons c l ih =>
      rw [List.foldl_cons]
      dsimp only
      split
      · obtain ⟨r, h⟩ := ih (s.setCtx c { s.ctx c with state := .ready, moved := 0, fault := 0, activity := 0 })
        exact ⟨r, h⟩
      · exact ih s
  unfold State.startTask
  extract_lets s1 s2
  refine ⟨(State.task_setTask (Task.ne_default_of_phase (by simp)) _ _ _).trans (if_pos rfl), ?_⟩
  obtain ⟨r, h1⟩ : ∃ r, s1 = { s with rs := r } := streams _ s
  obtain ⟨m, h2⟩ : ∃ m, s2 = { s1 with tiles := m } := by
    unfold s2
    split
    · exact State.writeSample_only ..
    · exact ⟨_, rfl⟩
  rw [h2, h1]
  exact ⟨_, _, rfl⟩

theorem exec_stageEntryStart {s : State} {die : Nat} {d : TaskDecl} (hd : s.stageTask die (mapGet 0 s.job.order die) = some d)
    (hp : s.job.st.phase = .running) (hr : (s.task d.task).phase ≠ .running) (ha : (s.task d.task).phase ≠ .aborting) :
    exec (.stageEntryStart die) s = .next (({ s with job := { s.job with
      order := mapSet 0 s.job.order die (mapGet 0 s.job.order die + 1) } }).startTask d
        { step := true, epoch := s.job.epoch, attempt := s.job.st.attempt }) := by
  have hbusy : ((s.task d.task).phase == .running || (s.task d.task).phase == .aborting) = false := by simp [hr, ha]
  change execStageEntryStart die s = _
  unfold execStageEntryStart
  simp only [hd, hp, hbusy, ne_eq, not_true_eq_false]
  rfl

theorem exec_speculativeStart {s : State} {n : Nat} {d : TaskDecl} (hd : s.variantOf n = some d) (ho : s.specOpen d = true)
    (hs : s.staged d = false) (hp : (s.task d.task).phase = .ended) (hst : (s.task d.task).step = true)
    (he : (s.task d.task).epoch = s.job.epoch) (ha : (s.task d.task).attempt = s.job.st.attempt) :
    exec (.speculativeStart n) s = .next (s.startSpec d) := by
  change execSpeculativeStart n s = _
  unfold execSpeculativeStart
  simp only [hd, ho, hs, hp, hst, he, ha, Bool.not_false, beq_self_eq_true, Bool.and_self, if_true]
  rfl

/-- Settles O31: each start ends in `startTask` with the epoch and attempt of its kind. -/
theorem workStartsInItsEpoch : Obligations.WorkStartsInItsEpoch := by
  unfold Obligations.WorkStartsInItsEpoch
  refine ⟨fun s die d hd hp hr ha => ?_, fun s n d hd ho hs hp hst he ha => ?_⟩
  · obtain ⟨hk, m, r, e⟩ := State.startTask_starts d { step := true, epoch := s.job.epoch, attempt := s.job.st.attempt }
      { s with job := { s.job with order := mapSet 0 s.job.order die (mapGet 0 s.job.order die + 1) } }
    refine ⟨_, exec_stageEntryStart hd hp hr ha, ?_, ?_⟩
    · rw [e]
      exact (mapGet_mapSet_listed (Nat.succ_ne_zero _) ..).trans (if_pos rfl)
    · rw [hk]
      exact ⟨rfl, rfl, rfl, rfl, rfl, rfl, rfl⟩
  · refine ⟨_, exec_speculativeStart hd ho hs hp hst he ha, ?_⟩
    unfold State.startSpec
    extract_lets E s1 j0 st0 s2
    obtain ⟨hk, m, r, e⟩ := State.startTask_starts d { step := true, epoch := E + 1, attempt := s2.job.nextAttempt, spec := true } s2
    refine ⟨by rw [e], ?_⟩
    exact ⟨congrArg Task.phase hk, congrArg Task.step hk, congrArg Task.spec hk, congrArg Task.epoch hk⟩

end Sys2Proof.Machine
end

section
/-! SUPPORT. IMAGE_LOAD, JOB_END and TASK_RUN (Table 12.8). -/

namespace Sys2Proof.Machine

/-! ### The end of a job with nothing left to settle -/

theorem State.refuseDeferred_none {s : State} (h : s.job.deferred = []) : s.refuseDeferred = s := by
  unfold State.refuseDeferred
  rw [h]
  exact congrArg (fun d => { s with job := { s.job with deferred := d } }) h.symm

theorem State.settleJob_none {s : State} (h : s.job.deferred = []) (hr : s.job.reshard = none) : s.settleJob = s := by
  unfold State.settleJob
  extract_lets due now j0 s1 s2
  have hnow : now = [] := by simp only [now, h, List.filter_nil]
  have h1 : s1 = s := by
    unfold s1 j0
    rw [h, List.filter_nil]
    exact congrArg (fun d => { s with job := { s.job with deferred := d } }) h.symm
  have h2 : s2 = s := by
    unfold s2
    rw [hnow]
    exact h1
  rw [h2, State.refuseDeferred_none h, State.cancelReshard, hr]

theorem State.movesFree_kept (s : State) : s.movesFree.job = s.job ∧ s.movesFree.num = s.num ∧ s.movesFree.rs = s.rs ∧
    s.movesFree.tilth = s.tilth := by
  unfold State.movesFree
  extract_lets waits ms
  obtain ⟨f, c, e⟩ := State.foldl_sentFrom (act := fun (s : State) (m : Migration) =>
    if m.home || allSlots frameBursts m.slots then s else s.sendMoved m) (fun s m => by
      split
      · exact s.sentFrom_refl
      · exact s.sendMoved_sent m) waits { s with mem := { s.mem with migrations := ms } }
  rw [e]
  exact ⟨rfl, rfl, rfl, rfl⟩

theorem State.notice_tasks (code : Nat) (rs : List Word) (s : State) : (s.notice code rs).rs.tasks = s.rs.tasks := by
  simp only [State.notice]
  split
  · unfold State.raiseVector
    extract_lets m
    split <;> rfl
  · split <;> rfl

theorem State.appendEntry_tasks (e : AuditEntry) (s : State) : (s.appendEntry e).rs.tasks = s.rs.tasks := by
  unfold State.appendEntry
  extract_lets n k stay later prev mine chain beyond first unread high t0 v
  change (if high then v.notice 0x805 _ else v).rs.tasks = v.rs.tasks
  split
  · exact State.notice_tasks ..
  · rfl

theorem State.appendAudit_tasks (e : AuditEntry) (s : State) : (s.appendAudit e).rs.tasks = s.rs.tasks :=
  List.foldlRecOn (motive := fun v : State => v.rs.tasks = s.rs.tasks) _ _ rfl
    fun v hv _ _ => (State.appendEntry_tasks _ v).trans hv

/-- An entry of the audit log touches the trust state, the notice rings and the host, and no task. -/
theorem State.auditFor_only (a : Ask) (kind object : Nat) (old new : List Byte) (s : State) :
    ∃ t q h, s.auditFor a kind object old new = { s with trust := t, rs := q, host := h } ∧ q.tasks = s.rs.tasks := by
  obtain ⟨t, q, h, e, -⟩ := State.appendAudit_only { s.entry kind a.role a.keyId 0 object old new with
    hostTime := if a.flags % 2 = 1 then a.time else s.host.hostTime } s
  refine ⟨t, q, h, e, ?_⟩
  have hq := State.appendAudit_tasks { s.entry kind a.role a.keyId 0 object old new with
    hostTime := if a.flags % 2 = 1 then a.time else s.host.hostTime } s
  rw [e] at hq
  exact hq

/-- The end of a job of which no task is left running. -/
theorem State.endJob_idle {s : State} (h : ∀ e ∈ s.rs.tasks, e.2.phase ≠ .running ∧ e.2.phase ≠ .aborting) :
    s.endJob.job = { JobState.none with deferred := s.job.deferred } ∧ s.endJob.num = .none ∧ s.endJob.rs.tasks = [] ∧
      s.endJob.tilth.programs = s.tilth.programs := by
  unfold State.endJob
  extract_lets live asks s1 s2 r0 j0 f0 t0 u0 s3
  have hlive : live = [] := by
    unfold live mapKeys
    rw [List.map_eq_nil_iff, List.filter_eq_nil_iff]
    intro e he
    obtain ⟨h1, h2⟩ := h e he
    simp [h1, h2]
  have hasks : asks = [] := by simp only [asks, hlive, List.filterMap_nil]
  have h1 : s1 = s := by unfold s1; rw [hlive]; rfl
  obtain ⟨hj, hn, hr, ht⟩ := s3.movesFree_kept
  obtain ⟨f, c, e⟩ := s3.movesFree.portsSend_sent
  rw [hasks]
  change s3.movesFree.portsSend.job = _ ∧ s3.movesFree.portsSend.num = _ ∧ s3.movesFree.portsSend.rs.tasks = _ ∧
    s3.movesFree.portsSend.tilth.programs = _
  rw [e]
  refine ⟨hj.trans ?_, hn, congrArg RingState.tasks hr, (congrArg TilthState.programs ht).trans ?_⟩
  · unfold s3 s2
    rw [h1]
    rfl
  · unfold s3 s2
    rw [h1]
    rfl

/-! ### TASK_RUN -/

theorem State.taskHold_mem (s : State) : s.taskHold.mem = s.mem := by
  unfold State.taskHold State.toSc
  split
  · rfl
  · split <;> rfl

/-- TASK_RUN of a task that belongs to no step and does not run. -/
theorem State.taskRun_starts {u : State} {c : Cmd} {d : TaskDecl} (hd : d.task = c.object) :
    let v := (u.taskHold.startTask d { step := false, epoch := u.job.epoch, attempt := u.job.st.attempt, ask := some c.ask }).keep
      c.ask
    (v.task c.object).phase = .running ∧ (v.task c.object).ask = some c.ask ∧ (v.aux c.ask.ring).current = some c.ask ∧
      v.mem = u.mem := by
  intro v
  obtain ⟨hk, m, r, e⟩ := State.startTask_starts d
    { step := false, epoch := u.job.epoch, attempt := u.job.st.attempt, ask := some c.ask } u.taskHold
  rw [hd] at hk
  have haux (a : RingAux) : ({ a with current := some c.ask } : RingAux) ≠ {} := fun e => by
    simpa using congrArg RingAux.current e
  refine ⟨congrArg Task.phase hk, congrArg Task.ask hk, ?_, ?_⟩
  · exact congrArg RingAux.current ((State.aux_setAux (haux _) ..).trans (if_pos rfl))
  · exact (congrArg State.mem e).trans u.taskHold_mem

/-- Settles O32, each command through what its row does once its checks have passed. -/
theorem jobCommands : Obligations.JobCommands := by
  unfold Obligations.JobCommands
  intro s ring c u
  refine ⟨fun image hrun h2 => ?_, fun hrun ho => ⟨fun hbad => ?_, fun hi hr hid hdef hres hidle => ?_⟩,
    fun hrun ho => ⟨fun hn => ?_, fun d hd hdt => ⟨fun hbad => ?_, fun hst hp => ?_⟩⟩⟩
  · refine (State.row_runs rfl (fun _ => rfl) hrun (decide_eq_true h2)).trans (congrArg _ ?_)
    by_cases hj : u.job.image.isSome = (c.p 16 1 == 1)
    · have hne : (u.jobRuns != (c.p 16 1 == 1)) = false := by simp [State.jobRuns, hj]
      simp only [hne, if_pos hj, Bool.false_eq_true, if_false]
    · have hne : (u.jobRuns != (c.p 16 1 == 1)) = true := by simpa [State.jobRuns] using hj
      simp only [hne, if_neg hj, if_true]
      rfl
  · refine (State.row_runs rfl (fun _ => rfl) hrun (decide_eq_true ho)).trans (congrArg _ ?_)
    have hb : (!u.jobRuns || u.runActive || c.object != u.jobId) = true := by
      rcases hbad with h | h | h
      · simp [State.jobRuns, h]
      · simp [State.runActive, h]
      · simp [h]
    simp only [hb, if_true]
    rfl
  · have hb : (!u.jobRuns || u.runActive || c.object != u.jobId) = false := by
      simp [State.jobRuns, State.runActive, hi, hr, hid]
    obtain ⟨t, q, h, e, hq⟩ := u.auditFor_only c.ask 0x202 c.object u.job.imageDigest []
    have hrow : exec (.jobEnd ring) s = .next (u.finishJob c) := by
      refine (State.row_runs rfl (fun _ => rfl) hrun (decide_eq_true ho)).trans (congrArg _ ?_)
      simp only [hb, Bool.false_eq_true, if_false]
    refine ⟨(u.auditFor c.ask 0x202 c.object u.job.imageDigest []).endJob, hrow.trans ?_, ?_⟩
    · rw [State.finishJob, State.settleJob_none hdef hres]
    · rw [e]
      obtain ⟨hj, hn, ht, hp⟩ := State.endJob_idle (s := { u with trust := t, rs := q, host := h })
        (fun e he => hidle e (hq ▸ he))
      refine ⟨hj.trans ?_, hn, ht, hp⟩
      rw [hdef]
      rfl
  · refine (State.row_runs rfl (fun _ => rfl) hrun (decide_eq_true ho)).trans (congrArg _ ?_)
    simp only [hn]
    rfl
  · refine (State.row_runs rfl (fun _ => rfl) hrun (decide_eq_true ho)).trans (congrArg _ ?_)
    have hb : (d.step || (u.task c.object).phase == .running || (u.task c.object).phase == .aborting) = true := by
      rcases hbad with h | h <;> simp [h]
    simp only [hd, hb, if_true]
    rfl
  · refine ⟨_, (State.row_runs rfl (fun _ => rfl) hrun (decide_eq_true ho)).trans (congrArg _ ?_), State.taskRun_starts (u := u) hdt⟩
    have hb : (d.step || (u.task c.object).phase == .running || (u.task c.object).phase == .aborting) = false := by
      simp [hst, hp]
    simp only [hd, hb, Bool.false_eq_true, if_false]
end Sys2Proof.Machine
end

section
/-! SUPPORT. STEP_RUN, STEP_COMMIT and STEP_ABORT (R251, R254, R255, R257). -/

namespace Sys2Proof.Machine

/-- A migration that begins changes nothing of the job. -/
theorem State.moveStart_job {o : Migration} {s v : State} (h : s.moveStart o = some v) : v.job = s.job := by
  unfold State.moveStart at h
  extract_lets w p at h
  split at h
  · next fs ctx _ _ =>
    have hdraw : ∃ lp n, (if o.home then (p.lpage, w) else if o.copy then (o.lpage, w) else w.drawBelow (2 ^ 27)) =
        (lp, { w with free := n }) := by
      split
      · exact ⟨_, w.free, rfl⟩
      · split
        · exact ⟨_, w.free, rfl⟩
        · exact ⟨_, _, rfl⟩
    obtain ⟨lp, n, hdraw⟩ := hdraw
    rw [hdraw] at h
    simp only [Option.some.injEq] at h
    rw [← h]
    generalize hr : State.setCtx _ ctx _ = r
    obtain ⟨f, c, hs⟩ := State.moveSends_sent _ (r.moveHead _) (lp * frameBytes) frameBytes (o.page * frameBytes) o.home _ r
    rw [hs, ← hr]
    rfl
  · cases h

/-- The first migrations of an epoch change nothing of the step's record. -/
theorem State.movesStart_job (e : Nat) (s : State) : (s.movesStart e).job = { s.job with movesFrom := e + 1 } := by
  unfold State.movesStart
  refine List.foldlRecOn (motive := fun v : State => v.job = { s.job with movesFrom := e + 1 }) _ _ rfl fun v hv d _ => ?_
  extract_lets p o
  have hgo : ((v.moveStart o).getD v).job = { s.job with movesFrom := e + 1 } := by
    cases h : v.moveStart o with
    | none => exact hv
    | some w => exact (State.moveStart_job h).trans hv
  split
  · split
    · exact hgo
    · exact hv
  · split
    · exact hgo
    · exact hv

/-! ### STEP_RUN -/

theorem State.foldl_job {α : Type} {f : State → α → State} (hf : ∀ s x, (f s x).job = s.job) (l : List α) (s : State) :
    (l.foldl f s).job = s.job :=
  List.foldlRecOn (motive := fun v : State => v.job = s.job) _ _ rfl fun v hv x _ => (hf v x).trans hv

theorem State.setNumerics_job (c : Cmd) (s : State) : (s.setNumerics c).job = s.job := by
  have set (b : Bool) (l hi lo v : Nat) (s : State) : (if b then s.setRecord l hi lo v else s).job = s.job := by
    split <;> rfl
  simp only [State.setNumerics, set]

theorem State.auditFor_job (a : Ask) (kind object : Nat) (old new : List Byte) (s : State) :
    (s.auditFor a kind object old new).job = s.job := by
  obtain ⟨t, q, h, e, -⟩ := s.auditFor_only a kind object old new
  rw [e]

theorem State.auditWork_job (spec : Bool) (kind object : Nat) (old new : List Byte) (s : State) :
    (s.auditWork spec kind object old new).job = s.job := by
  unfold State.auditWork
  split
  · rfl
  · obtain ⟨t, q, h, e, -⟩ := State.appendAudit_only (s.entry kind 0 0 0 object old new) s
    exact (congrArg State.job e).trans rfl

theorem State.descend_job (e : Nat) (spec : Bool) (s : State) : (s.descend e spec).job = s.job := by
  unfold State.descend
  refine (State.foldl_job (fun s l => ?_) _ _).trans rfl
  split
  · exact State.auditWork_job ..
  · rfl

/-- With nothing deferred, the beginning of an epoch of the run takes the settings that wait, and changes nothing else of the
job. -/
theorem State.epochStarts_job (e : Nat) {s : State} (h : s.job.deferred = []) :
    (s.epochStarts e false).job = { s.job with again := [] } := by
  unfold State.epochStarts
  extract_lets redo due old j0 s1 s2
  have h1 : s1.job = { s.job with again := [] } := State.foldl_job
    (f := fun (s : State) (d : Deferred) => s.setNumerics d.cmd) (fun s d => State.setNumerics_job d.cmd s) redo
    { s with job := { s.job with again := [] } }
  have hd : (s1.descend e false).job = { s.job with again := [] } := (State.descend_job ..).trans h1
  have h2 : s2.job = { s.job with again := [] } := by
    unfold s2 State.pointReached
    extract_lets dueAt now
    have hnow : now = [] := by simp only [now, hd, h, List.filter_nil]
    rw [hnow]
    change ({ (s1.descend e false).job with deferred := (s1.descend e false).job.deferred.filter _ } : JobState) = _
    rw [hd, h]
    rfl
  exact h2

/-- What of the job an attempt's start gives and what its first acts keep. -/
def JobState.attemptKey (j : JobState) : Option StepRun × Nat × StepStatus := (j.run, j.epoch, j.st)

theorem JobState.attemptKey_eq {j : JobState} {r : Option StepRun} {e : Nat} {st : StepStatus}
    (h : j.attemptKey = (r, e, st)) : j.run = r ∧ j.epoch = e ∧ j.st = st :=
  ⟨congrArg Prod.fst h, congrArg (fun k => k.2.1) h, congrArg (fun k => k.2.2) h⟩

theorem State.stepAbort_key (c : Nat) (s : State) : (s.stepAbort c).job.attemptKey = s.job.attemptKey := by
  unfold State.stepAbort
  split
  · extract_lets j0 s1
    obtain ⟨f, hf⟩ := State.toLeader_only { code := 2, cause := c, attempt := s1.job.st.attempt, epoch := s1.job.epoch } s1
    rw [hf]
    rfl
  · rfl

/-- An attempt that starts keeps the run, the epoch and the run's settings. -/
theorem State.startAttempt_job (a : Nat) (s : State) :
    ∃ st, (s.startAttempt a false).job.attemptKey = (s.job.run, s.job.epoch, st) ∧ st.phase = .running ∧ st.attempt = a ∧
      st.nans = s.job.st.nans ∧ st.mode = s.job.st.mode ∧ st.depth = s.job.st.depth ∧ st.limit = s.job.st.limit := by
  unfold State.startAttempt
  extract_lets E passed st0 st j0 job1 tag live job2 t0 tilth n0 u0 s1 s2 j3 s3 s4
  have h1 : s1.job = job2 := rfl
  have h2 : s2.job = job2 := by
    refine (State.foldl_job (fun s d => ?_) _ _).trans h1
    dsimp only
    split
    · rfl
    · obtain ⟨-, m, r, e⟩ := s.startTask_starts d { step := true, epoch := E, attempt := a }
      rw [e]
  have h3 : s3.job.attemptKey = job2.attemptKey :=
    (show s3.job.attemptKey = s2.job.attemptKey from rfl).trans (congrArg JobState.attemptKey h2)
  have h4 : s4.job.attemptKey = job2.attemptKey := by
    unfold s4
    split
    · rw [State.movesStart_job]
      exact h3
    · exact h3
  refine ⟨st, ?_, rfl, rfl, rfl, rfl, rfl, rfl⟩
  change (if s4.job.st.shardLost then s4.stepAbort 6 else s4).job.attemptKey = job2.attemptKey
  split
  · exact (State.stepAbort_key 6 s4).trans h4
  · exact h4

/-- A run that starts, with nothing deferred: its command, and attempt 0 with the command's settings. -/
theorem State.runStart_job {c : Cmd} {s : State} (h : s.job.deferred = []) :
    ∃ st, (s.runStart c).job.attemptKey =
        (some { ask := c.ask, left := if c.p 16 8 = 0 then none else some (c.p 16 8) }, s.job.epoch, st) ∧
      st.phase = .running ∧ st.attempt = 0 ∧ st.nans = 0 ∧ st.mode = (c.p 24 1 == 1) ∧ st.depth = c.p 25 1 ∧
      st.limit = c.p 26 1 := by
  unfold State.runStart
  extract_lets n s1 first p0 pow st0 st j0 n0 s2 s3
  have h1 : s1.job = s.job := State.auditFor_job ..
  have h3 : s3.job = s2.job := State.foldl_job (f := fun (s : State) l => s.setRecord l 17 16 0) (fun _ _ => rfl) _ _
  have hd : s3.job.deferred = [] := by
    rw [h3]
    exact (congrArg JobState.deferred h1).trans h
  have h4 := State.epochStarts_job s3.job.epoch hd
  generalize s3.epochStarts s3.job.epoch false = s4 at h4 ⊢
  obtain ⟨x, hx, hp, ha, hn, hm, hdep, hl⟩ := s4.startAttempt_job 0
  rw [h4, h3] at hx hn hm hdep hl
  refine ⟨x, hx.trans ?_, hp, ha, hn, hm, hdep, hl⟩
  exact Prod.ext rfl (Prod.ext (congrArg JobState.epoch h1) rfl)

theorem State.runStart_current (c : Cmd) (s : State) : ((s.runStart c).aux c.ask.ring).current = some c.ask :=
  congrArg RingAux.current ((State.aux_setAux (fun e => by simpa using congrArg RingAux.current e) ..).trans (if_pos rfl))

/-- STEP_ABORT before the leader is asked: its command waits for the end of the attempt. -/
def State.abortAsked (a : Ask) (s : State) : State :=
  ({ s with job := { s.job with hostAbort := s.job.hostAbort ++ [a] } }).keep a

/-- The leader's own notice to itself has arrived. -/
theorem State.toLeader_self {s : State} (h : s.leader = s.fab.coord) (n : Notice) :
    s.toLeader n = { s with fab := { s.fab with
      noticesIn := s.fab.noticesIn ++ [{ n with dst := s.fab.coord, src := s.fab.coord, job := s.jobId }] } } := by
  unfold State.toLeader State.sendNotice
  rw [h]
  exact if_pos rfl

/-- Settles O33, each command through what its row does once its checks have passed. -/
theorem stepCommands : Obligations.StepCommands := by
  unfold Obligations.StepCommands
  intro s ring c u
  refine ⟨fun agree hrun ho h24 h25 h26 => ?_, fun hrun => ?_, fun hrun => ?_⟩
  · have hgood : (decide (c.object < 2 ^ 32) && decide (c.p 24 1 ≤ 1) && decide (c.p 25 1 ≤ 1) && decide (c.p 26 1 ≤ 15)) = true := by
      rw [decide_eq_true ho, decide_eq_true h24, decide_eq_true h25, decide_eq_true h26]
      rfl
    refine ⟨fun hbad => (State.row_runs rfl (fun _ => rfl) hrun hgood).trans (congrArg _ ?_),
      fun hi hid hr hag hpa hd => ?_⟩
    · have hb : (!u.jobRuns || c.object != u.jobId || u.runActive || !agree || u.units.paused) = true := by
        rcases hbad with h | h | h | h | h
        · simp [State.jobRuns, h]
        · simp [h]
        · simp [State.runActive, h]
        · simp [h]
        · simp [h]
      simp only [hb, if_true]
      rfl
    · have hb : (!u.jobRuns || c.object != u.jobId || u.runActive || !agree || u.units.paused) = false := by
        simp [State.jobRuns, State.runActive, hi, hid, hr, hag, hpa]
      have hrow : exec (.stepRun ring agree) s = .next (u.runStart c) := by
        refine (State.row_runs rfl (fun _ => rfl) hrun hgood).trans (congrArg _ ?_)
        simp only [hb, Bool.false_eq_true, if_false]
      obtain ⟨st, hk, hp, ha, hn, hm, hdep, hl⟩ := State.runStart_job (c := c) hd
      obtain ⟨hrun', hep, hst⟩ := JobState.attemptKey_eq hk
      refine ⟨_, hrow, hrun', ?_⟩
      rw [hst]
      exact ⟨hp, ha, hn, hm, hdep, hl, hep, State.runStart_current c u⟩
  · refine ⟨fun hbad => (State.row_runs rfl (fun _ => rfl) hrun rfl).trans (congrArg _ ?_), fun hr hm hl he =>
      ⟨_, rfl, (State.row_runs rfl (fun _ => rfl) hrun rfl).trans (congrArg _ ?_)⟩⟩
    · have hb : (!u.runActive || !u.job.st.mode || !u.isLeader || c.p 16 6 != u.job.epoch) = true := by
        rcases hbad with h | h | h | h
        · simp [State.runActive, h]
        · simp [h]
        · simp [h]
        · simp [h]
      simp only [hb, if_true]
      rfl
    · have hb : (!u.runActive || !u.job.st.mode || !u.isLeader || c.p 16 6 != u.job.epoch) = false := by
        simp [State.runActive, hr, hm, hl, he]
      simp only [hb, Bool.false_eq_true, if_false]
  · refine ⟨fun hn => (State.row_runs rfl (fun _ => rfl) hrun rfl).trans (congrArg _ ?_),
      fun hr hl hp => (State.row_runs rfl (fun _ => rfl) hrun rfl).trans (congrArg _ ?_),
      fun hr hp hl => ⟨(u.abortAsked c.ask).toLeader
        { code := 2, cause := 7, epoch := u.job.epoch, attempt := u.job.st.attempt },
        (State.row_runs rfl (fun _ => rfl) hrun rfl).trans (congrArg _ ?_), ?_⟩⟩
    · have hb : (!u.runActive || (u.isLeader && u.job.st.phase == .committing)) = true := by simp [State.runActive, hn]
      simp only [hb, if_true]
      rfl
    · have hb : (!u.runActive || (u.isLeader && u.job.st.phase == .committing)) = true := by simp [hl, hp]
      simp only [hb, if_true]
      rfl
    · have hb : (!u.runActive || (u.isLeader && u.job.st.phase == .committing)) = false := by
        simp [State.runActive, hr, hp]
      simp only [hb, Bool.false_eq_true, if_false]
      rfl
    · rw [State.toLeader_self (s := u.abortAsked c.ask) hl]
      exact ⟨rfl, rfl, rfl⟩

end Sys2Proof.Machine
end

section
/-! SUPPORT. Notices that a package takes up: STEP_READY and what the leader does with each (R246 to R254). -/

namespace Sys2Proof.Machine

/-- A notice row acts on the state from which its notice has been taken. -/
theorem State.withNotice_heard {s u : State} {code src : Nat} {n : Notice} {bs : List Byte} (h : s.heard code src = some (n, bs, u))
    (act : Notice → List Byte → State → State) : s.withNotice code src act = act n bs u := by
  unfold State.heard at h
  obtain ⟨x, hx, h⟩ := Option.bind_eq_some_iff.mp h
  obtain ⟨p, hp, h⟩ := Option.bind_eq_some_iff.mp h
  dsimp only at h
  split at h
  · next hok =>
    cases h
    unfold State.withNotice
    simp only [hx, hp, hok, if_true]
  · cases h

/-- What a package may have told its leader, being the leader itself, beside what it does to its units and power. -/
def State.told (s v : State) : Prop :=
  (∃ rest, v.fab.noticesIn = s.fab.noticesIn ++ rest) ∧ v.job = s.job ∧ v.mem = s.mem ∧ v.tiles = s.tiles ∧ v.rs = s.rs ∧
    v.fab.coord = s.fab.coord

theorem State.told_refl (s : State) : s.told s := ⟨⟨[], (List.append_nil _).symm⟩, rfl, rfl, rfl, rfl, rfl⟩

theorem State.told_trans {s u v : State} (h : s.told u) (h' : u.told v) : s.told v := by
  obtain ⟨⟨a, ha⟩, hj, hm, ht, hr, hc⟩ := h
  obtain ⟨⟨b, hb⟩, hj', hm', ht', hr', hc'⟩ := h'
  exact ⟨⟨a ++ b, by rw [hb, ha, List.append_assoc]⟩, hj'.trans hj, hm'.trans hm, ht'.trans ht, hr'.trans hr, hc'.trans hc⟩

theorem State.told_toLeader {s : State} (h : s.leader = s.fab.coord) (n : Notice) : s.told (s.toLeader n) := by
  rw [State.toLeader_self h]
  exact ⟨⟨_, rfl⟩, rfl, rfl, rfl, rfl, rfl⟩

/-- Who leads depends on the image alone. -/
theorem State.leader_congr {s v : State} (hj : v.job.image = s.job.image) : v.leader = s.leader := by
  unfold State.leader State.packages
  rw [hj]

theorem State.told_leader {s v : State} (h : s.told v) (hl : s.leader = s.fab.coord) : v.leader = v.fab.coord := by
  obtain ⟨-, hj, -, -, -, hc⟩ := h
  rw [State.leader_congr (congrArg JobState.image hj), hl, hc]

/-- The state in which a package has everything its STEP_READY awaits. -/
def State.readied (s : State) : State :=
  { s with job := { s.job with st := { s.job.st with phase := .ready } }, pow := { s.pow with readyFc := s.fc } }

theorem exec_stepReady {s : State} (h : s.readyToCommit = true) (hl : s.leader = s.fab.coord) :
    ∃ v, exec .stepReady s = .next v ∧
      (s.readied.toLeader { code := 1, epoch := s.job.epoch, attempt := s.job.st.attempt }).told v := by
  have hrl : s.readied.leader = s.readied.fab.coord := hl
  change ∃ v, execStepReady s = .next v ∧ _
  unfold execStepReady
  rw [if_pos h]
  extract_lets E a j0 st0 p0 s1 s2 u0 s3 t
  refine ⟨_, rfl, ?_⟩
  change s2.told _
  have h2 : s2.leader = s2.fab.coord := State.told_leader (State.told_toLeader (s := s1) hrl _) hrl
  have h3 : s2.told s3 := by
    unfold s3
    split
    · exact State.told_refl s2
    · exact State.told_trans (u := { s2 with units := { s2.units with boundarySent := true, boundaryDue := s2.units.boundary } })
        ⟨⟨[], (List.append_nil _).symm⟩, rfl, rfl, rfl, rfl, rfl⟩ (State.told_toLeader (by exact h2) _)
  clear_value s3
  have hl3 := State.told_leader h3 h2
  split
  · exact h3
  · have hp : s3.told ((s3.setPstat 2).holdSentFor E) := ⟨⟨[], (List.append_nil _).symm⟩, rfl, rfl, rfl, rfl, rfl⟩
    exact State.told_trans h3 (State.told_trans hp (State.told_toLeader (State.told_leader hp hl3) _))

theorem State.toAll_only (n : Notice) (s : State) : ∃ f, s.toAll n = { s with fab := f } :=
  State.foldl_sendNotice_only (fun p => { n with dst := p }) _ s

/-- Settles O34: a package's own STEP_READY comes first, and each notice's row is what it does with the notice. -/
theorem theLeaderNotesItsNotices : Obligations.TheLeaderNotesItsNotices := by
  unfold Obligations.TheLeaderNotesItsNotices
  constructor
  · intro s h hl
    obtain ⟨v, hv, ⟨rest, hr⟩, hj, hm, ht, hrs, -⟩ := exec_stepReady h hl
    rw [State.toLeader_self (s := s.readied) hl] at hr hj hm ht hrs
    refine ⟨v, rest, hv, ?_, ?_, hm, ht, hrs⟩
    · rw [hj]
      rfl
    · rw [hr]
      exact List.append_assoc _ _ _
  intro s src n bs u j
  refine ⟨fun h => ?_, fun h => ?_, fun h => ?_, fun h => ?_, fun h => ?_, fun h => ?_, fun h => ?_, fun h hl he hp hs => ?_,
    fun hl hp hs hm he => ?_⟩
  · exact congrArg Host.Outcome.next (State.withNotice_heard h _)
  · exact congrArg Host.Outcome.next (State.withNotice_heard h _)
  · exact congrArg Host.Outcome.next (State.withNotice_heard h _)
  · exact congrArg Host.Outcome.next (State.withNotice_heard h _)
  · refine congrArg Host.Outcome.next ((State.withNotice_heard h _).trans ?_)
    cases hh : u.job.holds with
    | nil => simp only [j, List.isEmpty_nil, if_true]
    | cons x l => simp only [j, List.isEmpty_cons, reduceCtorEq, Bool.false_eq_true, if_false]
  · refine congrArg Host.Outcome.next ((State.withNotice_heard h _).trans ?_)
    by_cases ha : n.arg = 1
    · simp only [if_pos ha]
      rfl
    · simp only [if_neg ha]
      rfl
  · exact congrArg Host.Outcome.next (State.withNotice_heard h _)
  · refine congrArg Host.Outcome.next ((State.withNotice_heard h _).trans ?_)
    have hne : ¬ n.epoch = u.job.epoch + 1 := by rw [he]; exact Nat.ne_of_lt (Nat.lt_succ_self _)
    have hbusy : ((u.job.st.phase == .running || u.job.st.phase == .ready) && !u.job.abortSent) = true := by
      have h1 : u.job.st.phase = .running := hp
      have h2 : u.job.abortSent = false := hs
      rw [h1, h2]
      rfl
    simp only [hl, hbusy, if_neg hne, Bool.not_true, Bool.false_eq_true, if_false, if_true]
    rfl
  · refine ⟨u.tryCommit, rfl, ?_⟩
    have hgo : (u.isLeader && (j.st.phase == .running || j.st.phase == .ready) && !j.abortSent && u.everyone j.readySet &&
        (!j.st.mode || j.hostCommit.any fun h => h.2 == j.epoch)) = true := by
      rw [hl, hp, hs, hm, he]
      rfl
    have e : u.tryCommit = ({ u with job := { j with
        st := { j.st with phase := .committing }, ackSet := [], permuteSet := [], commitSent := u.sc, boundaryDone := [] } } : State).toAll
          { code := 6, epoch := j.epoch, attempt := j.st.attempt } := by
      unfold State.tryCommit
      exact if_pos hgo
    obtain ⟨f, hf⟩ := State.toAll_only { code := 6, epoch := j.epoch, attempt := j.st.attempt } ({ u with job := { j with
        st := { j.st with phase := .committing }, ackSet := [], permuteSet := [], commitSent := u.sc, boundaryDone := [] } } : State)
    rw [e, hf]
    exact ⟨rfl, rfl, rfl, rfl⟩

end Sys2Proof.Machine
end

section
/-! SUPPORT. COMMIT, aborts, replays and the other notices of a package (R148, R202, R248 to R255). -/

namespace Sys2Proof.Machine

/-! ### Answers leave the tasks alone -/

theorem State.raiseVector_rs (v : Nat) (s : State) : (s.raiseVector v).rs = s.rs := by
  obtain ⟨h, e⟩ := State.raiseVector_only v s
  rw [e]

theorem State.postReply_tasks (r : Nat) (x : HeldReply) (s : State) : (s.postReply r x).rs.tasks = s.rs.tasks := by
  have pass (p : Option Passing) (t : State) : (p.elim t fun p => t.passCommand p).rs.tasks = t.rs.tasks := by
    cases p <;> rfl
  simp only [State.postReply]
  split
  · rfl
  · split
    · rfl
    · split
      · rw [State.raiseVector_rs]
        exact pass ..
      · exact pass ..

theorem State.answerOnly_tasks (a : Ask) (cls code : Nat) (ws : List Word) (s : State) :
    (s.answerOnly a cls code ws).rs.tasks = s.rs.tasks := by
  obtain ⟨n, c, e⟩ := State.answerOnly_posts a cls code ws s
  rw [e]
  exact (State.postReply_tasks ..).trans rfl

theorem State.freeCancel_tasks (r q : Nat) (s : State) : (s.freeCancel r q).rs.tasks = s.rs.tasks := by
  unfold State.freeCancel
  extract_lets x met
  split
  · rfl
  · exact List.foldlRecOn (motive := fun v : State => v.rs.tasks = s.rs.tasks) _ _ rfl
      fun v hv k _ => (State.answerOnly_tasks k.2 0 0 [] v).trans hv

theorem State.accept_rs (s : State) (c : Cmd) : (s.accept c).1.rs = s.rs := by
  unfold State.accept
  extract_lets a
  split
  · rfl
  split
  · rfl
  split
  · rfl
  extract_lets roles fin
  have hfin : ∀ v ro k t g, (fin v ro k t g).1 = v := by
    intro v ro k t g
    simp only [fin]
    repeat' split
    all_goals rfl
  split
  · split
    · rfl
    · rw [hfin]
  · split
    · rw [hfin]
    · split
      · rfl
      · rw [hfin]

theorem State.settle_tasks (n : Nat) (s : State) : (s.settle n).rs.tasks = s.rs.tasks := by
  induction n generalizing s with
  | zero => rfl
  | succ n ih =>
    simp only [State.settle]
    split
    · exact (ih _).trans (State.answerOnly_tasks ..)
    · split
      · next c _ =>
        have h := State.accept_rs s c
        split
        · next s' code r0 e =>
          rw [e] at h
          exact (ih _).trans ((State.answerOnly_tasks ..).trans (congrArg RingState.tasks h))
        · rfl
      · rfl

theorem State.answer_tasks (a : Ask) (cls code : Nat) (ws : List Word) (s : State) :
    (s.answer a cls code ws).rs.tasks = s.rs.tasks := by
  unfold State.answer
  extract_lets t
  refine (State.settle_tasks _ _).trans ?_
  split
  · exact State.answerOnly_tasks ..
  · exact (State.freeCancel_tasks ..).trans (State.answerOnly_tasks ..)

/-! ### What the answers, notices and entries of a commit keep -/

/-- Memory, the job, the tasks and the update's state stand. -/
def State.standsIn (s v : State) : Prop := v.mem = s.mem ∧ v.job = s.job ∧ v.rs.tasks = s.rs.tasks ∧ v.tilth = s.tilth

theorem State.standsIn_refl (s : State) : s.standsIn s := ⟨rfl, rfl, rfl, rfl⟩

theorem State.standsIn_trans {s u v : State} (h : s.standsIn u) (h' : u.standsIn v) : s.standsIn v :=
  by
  obtain ⟨hm, hj, ht, hi⟩ := h
  obtain ⟨hm', hj', ht', hi'⟩ := h'
  exact ⟨hm'.trans hm, hj'.trans hj, ht'.trans ht, hi'.trans hi⟩

theorem State.foldl_standsIn {α : Type} {f : State → α → State} (hf : ∀ (s : State) (x : α), s.standsIn (f s x)) (l : List α) (s : State) :
    s.standsIn (l.foldl f s) :=
  List.foldlRecOn (motive := fun v : State => s.standsIn v) _ _ s.standsIn_refl
    fun v hv x _ => State.standsIn_trans hv (hf v x)

theorem State.standsIn_of_sent {s v : State} (h : s.sentFrom v) : s.standsIn v := by
  obtain ⟨f, c, rfl⟩ := h
  exact ⟨rfl, rfl, rfl, rfl⟩

theorem State.standsIn_notice (n : Notice) (s : State) : s.standsIn (s.sendNotice n) := by
  obtain ⟨f, e⟩ := State.sendNotice_only n s
  rw [e]
  exact ⟨rfl, rfl, rfl, rfl⟩

theorem State.standsIn_answer (a : Ask) (cls code : Nat) (ws : List Word) (s : State) : s.standsIn (s.answer a cls code ws) := by
  have ht := State.answer_tasks a cls code ws s
  obtain ⟨n, q, h, k, e⟩ := State.answer_from a cls code ws s
  rw [e] at ht ⊢
  exact ⟨rfl, rfl, ht, rfl⟩

theorem State.standsIn_audit (e : AuditEntry) (s : State) : s.standsIn (s.appendAudit e) := by
  have ht := State.appendAudit_tasks e s
  obtain ⟨t, q, h, he, -⟩ := State.appendAudit_only e s
  rw [he] at ht ⊢
  exact ⟨rfl, rfl, ht, rfl⟩

theorem State.standsIn_cleanStep (l : Nat) (s : State) : s.standsIn (s.cleanStep l) := by
  simp only [State.cleanStep]
  repeat' split
  all_goals exact ⟨rfl, rfl, rfl, rfl⟩

theorem State.postHeld_stands (s : State) : ({ s with job := { s.job with heldReplies := [] } } : State).standsIn s.postHeld :=
  State.foldl_standsIn (fun (_ : State) _ => State.standsIn_answer ..) _ _

theorem State.sendContent_stands (n : Notice) (bs : List Byte) (s : State) : s.standsIn (s.sendContent n bs) := by
  unfold State.sendContent
  extract_lets _ t
  refine State.standsIn_trans (u := t) ?_ (State.standsIn_notice ..)
  unfold t
  split
  · exact ⟨rfl, rfl, rfl, rfl⟩
  · exact State.standsIn_of_sent (State.sendStream_sent ..)

/-! ### COMMIT -/

theorem State.pointReached_none {s : State} (h : s.job.deferred = []) (k v : Nat) : s.pointReached k v = s := by
  unfold State.pointReached
  extract_lets due now j0 t
  have hnow : now = [] := by simp only [now, h, List.filter_nil]
  have ht : t = s := by
    unfold t j0
    rw [h]
    exact congrArg (fun d => { s with job := { s.job with deferred := d } }) h.symm
  rw [hnow]
  exact ht

/-- Nothing of the directory is written back where it is empty. -/
theorem State.writeBack_none {s : State} (h : s.tilth.directory = []) (e : Nat) : s.writeBack e = s := by
  unfold State.writeBack
  extract_lets w mine t
  have hm : mine = [] := by simp only [mine, h, List.filter_nil]
  have ht : t = s := by
    unfold t
    rw [hm]
    rfl
  clear_value t
  subst ht
  change ({ t with tilth := { t.tilth with directory := t.tilth.directory.filter _ } } : State) = t
  rw [h]
  exact congrArg (fun d => { t with tilth := { t.tilth with directory := d } }) h.symm

theorem mem_mapMap {α : Type} [DecidableEq α] {d : α} {f : Nat → α → α} {m : Map α} {e : Nat × α} (h : e ∈ mapMap d f m) :
    ∃ v, (e.1, v) ∈ m ∧ f e.1 v = e.2 := by
  induction m with
  | nil => cases h
  | cons x m ih =>
    simp only [mapMap] at h
    have later : e ∈ mapMap d f m → ∃ v, (e.1, v) ∈ x :: m ∧ f e.1 v = e.2 := fun h => by
      obtain ⟨v, hv, e⟩ := ih h
      exact ⟨v, List.mem_cons_of_mem _ hv, e⟩
    split at h
    · exact later h
    · rcases List.mem_cons.mp h with rfl | h
      · exact ⟨x.2, List.mem_cons_self, rfl⟩
      · exact later h

theorem mapGet_mapMap {α : Type} [DecidableEq α] {d : α} {m : Map α} (hw : mapWf d m = true) {f : Nat → α → α} {i : Nat}
    (hf : f i d = d) : mapGet d (mapMap d f m) i = f i (mapGet d m i) := by
  induction m with
  | nil => exact hf.symm
  | cons e m ih =>
    obtain ⟨k, v⟩ := e
    obtain ⟨-, ha, hm⟩ := mapWf_cons.1 hw
    simp only [mapMap]
    rcases Nat.lt_trichotomy i k with h | rfl | h
    · have hd : mapGet d m i = d := mapGet_of_above ha h.le
      split
      · rw [ih hm, hd, mapGet, if_neg h.ne, if_pos h]
      · rw [mapGet, if_neg h.ne, if_pos h, mapGet, if_neg h.ne, if_pos h, hf]
    · split
      · next hv => rw [ih hm, mapGet_of_above ha le_rfl, mapGet, if_pos rfl, hf, hv]
      · rw [mapGet, if_pos rfl, mapGet, if_pos rfl]
    · split
      · rw [ih hm, mapGet, if_neg h.ne', if_neg h.asymm]
      · rw [mapGet, if_neg h.ne', if_neg h.asymm, ih hm, mapGet, if_neg h.ne', if_neg h.asymm]

/-- The tags of E + 1 fall: the held writes leave, no task is speculative, and pages and memory stand. -/
theorem State.clearTags_kept (s : State) :
    s.clearTags.mem.pages = s.mem.pages ∧ s.clearTags.mem.clay = s.mem.clay ∧ s.clearTags.job = { s.job with specStart := none } ∧
      ∀ e ∈ s.clearTags.rs.tasks, e.2.spec = false := by
  unfold State.clearTags
  extract_lets noTag r0 n0 j0 s1 s2 held t0
  have h1 : ∀ e ∈ s1.rs.tasks, e.2.spec = false := fun e he => by
    obtain ⟨v, -, hv⟩ := mem_mapMap he
    exact (congrArg Task.spec hv).symm
  obtain ⟨hm2, hj2, ht2, -⟩ : ({ s1 with mem := { s1.mem with heldWrites := [] } } : State).standsIn s2 :=
    State.foldl_standsIn (fun s h => State.standsIn_of_sent (State.sendStream_sent ..)) _ _
  obtain ⟨hm3, hj3, ht3, -⟩ := State.foldl_standsIn (f := fun (s : State) (e : AuditEntry) => s.appendAudit { e with eflags := 1 })
    (fun s e => State.standsIn_audit _ s) held
    { s2 with trust := { s2.trust with auditHeld := [] } }
  refine ⟨?_, ?_, ?_, ?_⟩
  · rw [hm3]
    exact (congrArg MemState.pages hm2).trans rfl
  · rw [hm3]
    exact (congrArg MemState.clay hm2).trans rfl
  · rw [hj3]
    exact hj2.trans rfl
  · rw [ht3]
    change ∀ e ∈ s2.rs.tasks, _
    rw [ht2]
    exact h1

/-- With no speculative task that runs, what is left of E + 1 falls without any work being stopped. -/
theorem State.dropSpec_none {s : State} (h : s.stepTasks Task.spec = []) :
    s.dropSpec.mem = { s.mem with heldWrites := [] } ∧ s.dropSpec.job.epoch = s.job.epoch ∧ s.dropSpec.job.run = s.job.run ∧
      s.dropSpec.job.st = { s.job.st with specRun := false } ∧ s.dropSpec.job.toRepair = s.job.toRepair ∧
      s.dropSpec.rs.tasks = mapMap {} (fun _ t => if t.step && t.spec then { t with phase := .idle } else t) s.rs.tasks := by
  have hu : s.specUndone.mem = s.mem ∧ s.specUndone.rs = s.rs ∧ s.specUndone.job.epoch = s.job.epoch ∧
      s.specUndone.job.run = s.job.run ∧ s.specUndone.job.st = s.job.st ∧ s.specUndone.job.toRepair = s.job.toRepair := by
    unfold State.specUndone
    split <;> exact ⟨rfl, rfl, rfl, rfl, rfl, rfl⟩
  obtain ⟨hm, hr, he, hrun, hst, hrep⟩ := hu
  unfold State.dropSpec
  extract_lets s1 s2 done
  have h2 : s2 = s1 := by
    have hn : s1.stepTasks Task.spec = [] := by
      unfold State.stepTasks
      rw [show s1.rs = s.rs from hr]
      exact h
    unfold s2
    rw [hn]
    rfl
  refine ⟨?_, ?_, ?_, ?_, ?_, ?_⟩
  · change ({ s2.mem with heldWrites := [] } : MemState) = _
    rw [h2, show s1.mem = s.mem from hm]
  · change s2.job.epoch = _
    rw [h2]
    exact he
  · change s2.job.run = _
    rw [h2]
    exact hrun
  · change ({ s2.job.st with specRun := false } : StepStatus) = _
    rw [h2, show s1.job.st = s.job.st from hst]
  · change s2.job.toRepair = _
    rw [h2]
    exact hrep
  · change done = _
    unfold done
    rw [h2, show s1.rs = s.rs from hr]

theorem State.stepTasks_none {s : State} {p : Task → Bool} (h : ∀ e ∈ s.rs.tasks, p e.2 = false) : s.stepTasks p = [] := by
  unfold State.stepTasks mapKeys
  rw [List.map_eq_nil_iff, List.filter_eq_nil_iff]
  intro e he
  simp [h e he]

/-- COMMIT of the last epoch of a run, with nothing of E + 1 to keep and nothing deferred. -/
theorem State.applyCommit_last {u : State} {r : StepRun} (hh : u.job.specHold = false) (hd : u.job.deferred = [])
    (ha : u.job.hostAbort = []) (hr : u.job.run = some r) (hl : r.left = some 1) (hdir : u.tilth.directory = [])
    (hres : u.job.reshard = none) :
    u.applyCommit.job.epoch = u.job.epoch + 1 ∧ u.applyCommit.job.st.phase = .committing ∧ u.applyCommit.job.st.attempt = 0 ∧
      u.applyCommit.job.run = some { r with left := some 0 } ∧ u.applyCommit.mem.clay = u.mem.clay ∧
      u.applyCommit.mem.pages = mapMap {} (fun _ p => p.commit) u.mem.pages := by
  unfold State.applyCommit
  extract_lets E st hold s1 s2 nans numeric tasks s3 s4 lenders s5 aborts j0 job m0 n0 f0 u0 s6 s7 s8 s9 s10 next s11 p0 s12
  have h1 : u.standsIn s1 := State.foldl_standsIn (fun (s : State) l => State.standsIn_cleanStep l s) _ _
  have hdir1 : (s1.meterStep E).tilth.directory = [] := by
    obtain ⟨-, -, -, hi⟩ := h1
    exact (congrArg TilthState.directory hi).trans hdir
  have h2 : u.standsIn s2 := by
    unfold s2
    rw [State.writeBack_none hdir1]
    exact State.standsIn_trans h1 ⟨rfl, rfl, rfl, rfl⟩
  have h3 : u.standsIn s3 := by
    have e : s3 = s2 := by
      unfold s3 hold
      rw [hh]
      rfl
    rw [e]
    exact h2
  obtain ⟨hm3, hj3, -, -⟩ := h3
  clear_value s3
  obtain ⟨hp4, hc4, hj4, ht4⟩ := s3.clearTags_kept
  have h5 : s4.standsIn s5 := State.foldl_standsIn (fun (s : State) l => State.standsIn_notice _ s) _ _
  obtain ⟨hm5, hj5, ht5, -⟩ := h5
  have hjob5 : s5.job = { u.job with specStart := none } :=
    hj5.trans (hj4.trans (congrArg (fun j : JobState => { j with specStart := none }) hj3))
  have hpages5 : s5.mem.pages = u.mem.pages :=
    (congrArg MemState.pages hm5).trans (hp4.trans (congrArg MemState.pages hm3))
  have hclay5 : s5.mem.clay = u.mem.clay := (congrArg MemState.clay hm5).trans (hc4.trans (congrArg MemState.clay hm3))
  have htasks5 : ∀ e ∈ s5.rs.tasks, e.2.spec = false := by
    rw [ht5]
    exact ht4
  clear_value s5
  have haborts : aborts = [] := (congrArg JobState.hostAbort hjob5).trans ha
  have h7 : s7 = s6 := by
    unfold s7
    rw [haborts]
    rfl
  have hd7 : s7.job.deferred = [] := by
    rw [h7]
    exact (congrArg JobState.deferred hjob5).trans hd
  have h8 : ({ s7 with job := { s7.job with heldReplies := [] } } : State).standsIn s8 := by
    unfold s8
    rw [State.pointReached_none hd7, State.pointReached_none hd7]
    exact State.postHeld_stands s7
  have h9 : s8.standsIn s9 := State.standsIn_notice ..
  obtain ⟨hm9, hj9, ht9, -⟩ := State.standsIn_trans h8 h9
  clear_value s9
  have h10 : s10 = s9 := by
    have hno : s9.job.reshard = none := by
      rw [hj9, h7]
      exact (congrArg JobState.reshard hjob5).trans hres
    unfold s10
    rw [hno]
    simp
  have hrun : s10.job.run = some { r with left := some 0 } := by
    rw [h10, hj9, h7]
    change s5.job.run.map _ = _
    rw [congrArg JobState.run hjob5]
    change u.job.run.map _ = _
    rw [hr]
    simp [hl]
  have hnext : next = False := by
    unfold next
    rw [hrun]
    simp
  have hhold : (hold = true) = False := by
    unfold hold
    rw [hh]
    simp
  have hnone : s10.stepTasks Task.spec = [] := by
    refine State.stepTasks_none fun e he => htasks5 e ?_
    rw [h10, ht9, h7] at he
    exact he
  obtain ⟨hmD, heD, hrD, hstD, -, -⟩ := State.dropSpec_none hnone
  simp only [hhold, hnext, if_false]
  have hj10 : s10.job = { s6.job with heldReplies := [] } := by
    rw [h10, hj9, h7]
  have hm10 : s10.mem = s6.mem := by
    rw [h10, hm9, h7]
  refine ⟨heD.trans (congrArg JobState.epoch hj10), ?_, ?_, hrD.trans hrun, ?_, ?_⟩
  · rw [hstD, hj10]
  · rw [hstD, hj10]
    change b2n hold = 0
    unfold hold
    rw [hh]
    rfl
  · rw [hmD, hm10]
    exact hclay5
  · rw [hmD, hm10]
    exact congrArg (mapMap {} fun _ p => p.commit) hpages5

/-! ### The abort of an attempt -/

theorem State.sendStopped_stands (s : State) : s.standsIn s.sendStopped := State.sendContent_stands ..

theorem State.tryStopped_keeps (s : State) : s.tryStopped.mem = s.mem ∧ s.tryStopped.job.st = s.job.st ∧
    s.tryStopped.job.epoch = s.job.epoch := by
  unfold State.tryStopped
  split
  · obtain ⟨hm, hj, -, -⟩ := State.sendStopped_stands { s with job := { s.job with stoppedSent := true } }
    exact ⟨hm.trans rfl, (congrArg JobState.st hj).trans rfl, (congrArg JobState.epoch hj).trans rfl⟩
  · exact ⟨rfl, rfl, rfl⟩

theorem State.countNan_keeps (s : State) : ∃ j, s.countNan = { s with job := j } ∧ j.epoch = s.job.epoch ∧
    j.toRepair = s.job.toRepair := by
  unfold State.countNan
  split <;> exact ⟨_, rfl, rfl, rfl⟩

/-- The abort of an attempt of which no task runs and no shard waits for its repair. -/
theorem State.applyAbort_idle {u : State} (cause : Nat) (hrep : u.job.toRepair = [])
    (h : ∀ e ∈ u.rs.tasks, e.2.phase ≠ .running ∧ e.2.phase ≠ .aborting) :
    (u.applyAbort cause).job.st.phase = .aborting ∧ (u.applyAbort cause).job.st.lastCause = cause ∧
      (u.applyAbort cause).job.epoch = u.job.epoch ∧ (u.applyAbort cause).mem.clay = u.mem.clay := by
  have idle (p : Task → Bool) (s : State) (hs : ∀ e ∈ s.rs.tasks, e.2.phase ≠ .running ∧ e.2.phase ≠ .aborting) :
      s.stepTasks p = [] := by
    unfold State.stepTasks mapKeys
    rw [List.map_eq_nil_iff, List.filter_eq_nil_iff]
    intro e he
    obtain ⟨h1, h2⟩ := hs e he
    simp [h1, h2]
  unfold State.applyAbort
  extract_lets E s1 s2 s3 s4 reopen m0 j0 st0 t0 f0 s5
  obtain ⟨he1, hm1, ht1, hr1⟩ : s1.job.epoch = u.job.epoch ∧ s1.mem = u.mem ∧ s1.rs = u.rs ∧ s1.job.toRepair = [] := by
    unfold s1
    split
    · obtain ⟨j, e, he, hr⟩ := u.countNan_keeps
      rw [e]
      exact ⟨he, rfl, rfl, hr.trans hrep⟩
    · exact ⟨rfl, rfl, rfl, hrep⟩
  have hidle1 : ∀ e ∈ s1.rs.tasks, e.2.phase ≠ .running ∧ e.2.phase ≠ .aborting := by rw [ht1]; exact h
  obtain ⟨hmD, heD, -, -, hrD, htD⟩ := State.dropSpec_none (idle Task.spec s1 hidle1)
  have hidle2 : ∀ e ∈ s2.rs.tasks, e.2.phase ≠ .running ∧ e.2.phase ≠ .aborting := by
    intro e he
    rw [show s2.rs.tasks = _ from htD] at he
    obtain ⟨v, hv, hval⟩ := mem_mapMap he
    split at hval
    · rw [← hval]
      exact ⟨by simp, by simp⟩
    · rw [← hval]
      exact hidle1 _ hv
  have h3 : s3 = s2 := by
    unfold s3
    rw [idle _ s2 hidle2]
    rfl
  obtain ⟨hm4, hj4, -, -⟩ : s3.standsIn s4 := State.standsIn_audit ..
  have hjob5 : s5.repairsBegin.job.st.phase = .aborting ∧ s5.repairsBegin.job.st.lastCause = cause ∧
      s5.repairsBegin.job.epoch = u.job.epoch ∧ s5.repairsBegin.mem.clay = u.mem.clay := by
    have hnone : s5.job.toRepair = [] := by
      change s4.job.toRepair = []
      rw [hj4, h3]
      exact hrD.trans hr1
    unfold State.repairsBegin
    rw [hnone]
    refine ⟨rfl, rfl, ?_, ?_⟩
    · change s4.job.epoch = _
      rw [hj4, h3]
      exact heD.trans he1
    · change s4.mem.clay = _
      rw [hm4, h3, show s2.mem = _ from hmD, hm1]
  obtain ⟨hm, hst, hep⟩ := s5.repairsBegin.tryStopped_keeps
  rw [hm, hst, hep]
  exact hjob5

/-! ### A replay -/

theorem State.writeRange_job (w : Work) (la : Nat) (bs : List Byte) (s : State) : (s.writeRange w la bs).1.job = s.job := by
  have sent {s v : State} (h : s.sentFrom v) : v.job = s.job := by
    obtain ⟨f, c, rfl⟩ := h
    rfl
  unfold State.writeRange
  refine List.foldlRecOn (motive := fun acc : State × Option MemFault × List Byte => acc.1.job = s.job) _ _ rfl
    fun acc hv c _ => ?_
  obtain ⟨v, fault, rest⟩ := acc
  cases fault with
  | some e => exact hv
  | none =>
    dsimp only
    split
    · exact hv
    · exact (sent (State.countClay_sent ..)).trans hv
    · have hp : (v.countPath w.spec w.die 4 (rest.take c.2.2).length).job = s.job := by
        obtain ⟨k, e⟩ := v.countPath_only w.spec w.die 4 (rest.take c.2.2).length
        rw [e]
        exact hv
      split
      · exact hp
      · exact (sent (State.sendStream_sent ..)).trans hp

theorem State.count_job (n k : Nat) (b : Bool) (s : State) : (s.count n k b).job = s.job := by
  obtain ⟨c, e⟩ := s.count_only n k b
  rw [e]

theorem State.raiseSigma_job (t : TensorDecl) (s : State) : (s.raiseSigma t).job = s.job := by
  unfold State.raiseSigma
  split
  · rfl
  · split
    · exact (State.count_job ..).trans (State.writeRange_job ..)
    · exact State.count_job ..

theorem State.raiseBlock_job (t : TensorDecl) (b : Nat) (s : State) : (s.raiseBlock t b).job = s.job := by
  unfold State.raiseBlock
  split
  · split
    · exact (State.count_job ..).trans (State.writeRange_job ..)
    · exact State.raiseSigma_job t s
  · exact State.raiseSigma_job t s

theorem State.raiseTensor_job (t : TensorDecl) (s : State) : (s.raiseTensor t).job = s.job := by
  unfold State.raiseTensor
  split
  · exact State.foldl_job (fun s b => State.raiseBlock_job t b s) _ _
  · exact State.raiseSigma_job t s

theorem State.applyLayer_job (l : Nat) (p : OvfEntry → Bool) (s : State) : (s.applyLayer l p).job = s.job := by
  unfold State.applyLayer
  extract_lets pick es lost s' n0
  change s'.job = s.job
  unfold s'
  split
  · rfl
  · split
    · extract_lets keys s2
      have h2 : s2.job = s.job := State.foldl_job (fun s k => by
        split
        · exact State.raiseBlock_job ..
        · exact State.raiseSigma_job ..) _ _
      refine (State.foldl_job (fun s x => ?_) _ _).trans h2
      split
      · exact State.raiseTensor_job ..
      · rfl
    · rfl

theorem State.riseLayer_job (c l : Nat) (s : State) : (s.riseLayer c l).job = s.job := by
  unfold State.riseLayer
  extract_lets r
  split
  · obtain ⟨-, hj, -, -⟩ := State.standsIn_audit _ _
    exact hj
  · rfl

/-- A replay starts the next attempt in the same epoch. -/
theorem State.applyReplay_starts (bs : List Byte) (s : State) :
    (s.applyReplay bs).job.st.phase = .running ∧ (s.applyReplay bs).job.st.attempt = s.job.st.attempt + 1 ∧
      (s.applyReplay bs).job.epoch = s.job.epoch := by
  unfold State.applyReplay
  extract_lets c x s1 s2 s3 num tasks s4 s5 j0 n0 s6
  have h1 : s1.job = s.job := State.foldl_job (fun s l => State.applyLayer_job ..) _ _
  have h2 : s2.job = s.job := (State.foldl_job (fun s l => State.riseLayer_job ..) _ _).trans h1
  have h3 : s3.job = s.job := (State.foldl_job (fun s l => State.riseLayer_job ..) _ _).trans h2
  have h4 : s4.job = s.job := by
    unfold s4
    split
    · exact h3
    · exact h3
  have h5 : s5.job = s.job := by
    unfold s5
    split
    · obtain ⟨n, q, h, k, e⟩ := State.reply_from _ 2 0x11 (s4.stepRecord c) s4
      rw [e]
      exact h4
    · exact h4
  obtain ⟨st, hk, hp, ha, -⟩ := State.startAttempt_job (s6.job.st.attempt + 1) s6
  obtain ⟨-, he, hst⟩ := JobState.attemptKey_eq hk
  rw [hst, he]
  have hatt : s6.job.st.attempt = s.job.st.attempt := (show _ = s5.job.st.attempt from rfl).trans (by rw [h5])
  have hep : s6.job.epoch = s.job.epoch := (show _ = s5.job.epoch from rfl).trans (by rw [h5])
  exact ⟨hp, ha.trans (by rw [hatt]), hep⟩

/-! ### The last commit settled -/

/-- A package that SPEC_HOLD has reached, before a permutation that it may begin. -/
def State.held (n : Notice) (s : State) : State :=
  { s with
    job := { s.job with
      specHold := s.runActive, resharding := s.job.resharding || n.arg == 1, powerHold := s.job.powerHold || n.arg == 2 }
    units := { s.units with classHold := s.units.classHold || n.arg == 4 } }

/-- A run of which nothing is left, with its entry in the audit log. -/
def State.runEnded (s : State) : State :=
  let t := s.audit 0x204 s.jobId [] (leBytes 1 0 ++ leBytes 6 s.job.epoch)
  { t with job := { t.job with run := none, st := { t.job.st with phase := .idle } } }

theorem State.runEnded_stands (s : State) :
    ({ s with job := { s.job with run := none, st := { s.job.st with phase := .idle } } } : State).standsIn s.runEnded := by
  obtain ⟨hm, hj, ht, hi⟩ := State.standsIn_audit (s.entry 0x204 0 0 0 s.jobId [] (leBytes 1 0 ++ leBytes 6 s.job.epoch)) s
  exact ⟨hm, congrArg (fun j : JobState => { j with run := none, st := { j.st with phase := .idle } }) hj, ht, hi⟩

/-- STEP_SETTLED after the last commit of a run, where no hold, reshard or answer is left. -/
theorem State.applySettled_last {u : State} {r : StepRun} (n : Notice) (hh : u.pow.hold = false) (hres : u.job.resharding = false)
    (hc : u.job.commitOwed = false) (hr : u.job.run = some r) (hl : r.left = some 0) :
    ∃ v : State, u.applySettled n = v.done r.ask [] ∧ v.job.run = none ∧ v.job.st.phase = .idle ∧
      v.job.settled = n.epoch + 1 ∧ v.job.epoch = u.job.epoch ∧ v.mem = u.mem := by
  unfold State.applySettled
  extract_lets j0 s1 s2 s3
  have h2 : s2 = s1 := by
    have h1 : s1.holdEnds = s1 := by
      unfold State.holdEnds
      rw [show s1.pow.hold = false from hh]
      rfl
    unfold s2
    rw [h1]
    unfold State.reshardEnds
    rw [show s1.job.resharding = false from hres]
    rfl
  have h3 : s3 = s1 := by
    unfold s3
    rw [h2]
    split
    · rfl
    · unfold State.postCommitted
      rw [show s1.job.commitOwed = false from hc]
      rfl
  have hset : s1.job.settled = n.epoch + 1 := rfl
  have hep : s1.job.epoch = u.job.epoch := rfl
  have hmem : s1.mem = u.mem := rfl
  have hrun : s1.job.run = some r := hr
  clear_value s3
  subst h3
  clear_value s1
  obtain ⟨hm, hj, -, -⟩ := s1.runEnded_stands
  refine ⟨s1.runEnded, ?_, rfl, rfl, ?_, ?_, hm.trans hmem⟩
  · rw [hrun]
    exact if_pos hl
  · rw [hj]
    exact hset
  · rw [hj]
    exact hep

theorem Page.commit_frames (p : Page) : p.commit.frame0 = p.frame0 ∧ p.commit.frame1 = p.frame1 := by
  unfold Page.commit
  split
  · exact ⟨rfl, rfl⟩
  · split <;> exact ⟨rfl, rfl⟩

theorem Page.commit_state (p : Page) :
    (p.valid = true → p.banked = true → p.state ≠ .lost → p.loc ≠ .lent → p.commit.state = .open_) ∧
      ((p.banked = false ∨ p.loc = .lent) → p.commit.state = p.state) := by
  unfold Page.commit
  constructor
  · intro hv hb hs hl
    simp [hv, hb, hs, hl]
  · rintro (h | h)
    · split
      · rfl
      · simp [h]
    · simp [h]

/-- Settles O35: what each notice's row does is a lemma of its own. -/
theorem commitsAbortsAndReplays : Obligations.CommitsAbortsAndReplays := by
  unfold Obligations.CommitsAbortsAndReplays
  refine ⟨fun s src n bs u h => ⟨fun hne => ?_, fun r he hh hd ha hr hl hdir hres hwf => ?_⟩,
    fun s src n bs u => ⟨fun h hp he harg hl hrep hidle => ?_, fun h hp ha => ?_, fun h hp => ?_,
      fun r h hh hres hc hr hl => ?_, fun h ha => ?_, fun h hp => ?_⟩⟩
  · refine congrArg Host.Outcome.next ((State.withNotice_heard h _).trans ?_)
    exact if_neg hne
  · obtain ⟨hep, hp, ha0, hrun, hclay, hpages⟩ := State.applyCommit_last hh hd ha hr hl hdir hres
    refine ⟨u.applyCommit, congrArg Host.Outcome.next ((State.withNotice_heard h _).trans (if_pos he)), hep, hp, ha0, ?_, hclay,
      fun p => ?_⟩
    · rw [hrun]
      rfl
    · have hpage : u.applyCommit.mem.page p = (u.mem.page p).commit := by
        unfold MemState.page
        rw [hpages]
        exact mapGet_mapMap hwf rfl
      obtain ⟨h0, h1⟩ := (u.mem.page p).commit_frames
      obtain ⟨hopen, hsame⟩ := (u.mem.page p).commit_state
      rw [hpage]
      exact ⟨h0, h1, hopen, hsame⟩
  · refine ⟨u.applyAbort n.cause, congrArg Host.Outcome.next ((State.withNotice_heard h _).trans ?_),
      State.applyAbort_idle n.cause hrep hidle⟩
    have hne : ¬ n.epoch = u.job.epoch + 1 := by rw [he]; exact Nat.ne_of_lt (Nat.lt_succ_self _)
    simp only [harg, ne_eq, not_true_eq_false, if_false, if_pos hp, if_neg hne]
  · refine ⟨u.applyReplay bs, congrArg Host.Outcome.next ((State.withNotice_heard h _).trans (if_pos ⟨hp, ha⟩)),
      State.applyReplay_starts bs u⟩
  · refine congrArg Host.Outcome.next ((State.withNotice_heard h _).trans ?_)
    exact if_neg fun hand => hp hand.1
  · obtain ⟨v, hv, h1⟩ := State.applySettled_last n hh hres hc hr hl
    exact ⟨v, congrArg Host.Outcome.next ((State.withNotice_heard h _).trans hv), h1⟩
  · have hno : ¬ (n.arg = 1 ∧ (!u.runActive) = true) := by rw [ha]; simp
    refine ⟨u.held n, congrArg Host.Outcome.next ((State.withNotice_heard h _).trans (if_neg hno)), rfl, ?_, rfl, rfl⟩
    simp [State.held, ha]
  · have ht := State.taskAborts_running hp u.fc { cause := 0x0C, die := 4, tile := 0x1FF, pkg := n.src } false
    obtain ⟨k, j, f, c, e, -⟩ := State.taskAborts_only n.task u.fc { cause := 0x0C, die := 4, tile := 0x1FF, pkg := n.src } false u
    refine ⟨_, congrArg Host.Outcome.next (State.withNotice_heard h _), congrArg Task.phase ht,
      congrArg (fun x => x.record.cause) ht, congrArg (fun x => x.record.pkg) ht, ?_⟩
    rw [e]

end Sys2Proof.Machine
end

section
/-! SUPPORT. TILTH_PROGRAM, TILTH_LAYER, LAYER_NUMERICS, SIEVE_SET, COUNTER_SELECT and TILTH_SWEEP (R276 to R329, R562). -/

namespace Sys2Proof.Machine

/-! ### TILTH_PROGRAM -/

/-- The program that a TILTH_PROGRAM carries. -/
def Cmd.tilthProgram (c : Cmd) : TilthProgram where
  header := BitVec.ofNat 64 (c.x 0 8)
  words := (List.range (c.p 17 1 - 2)).map fun i => BitVec.ofNat 32 (c.x (8 + 4 * i) 4)

/-- What PARAMETER is answered for where it fails. -/
def Cmd.tilthProgramGood (c : Cmd) (s : State) : Bool :=
  decide (3 ≤ c.p 16 1) && decide (c.p 16 1 ≤ 15) && decide (4 ≤ c.p 17 1) && decide (c.p 17 1 ≤ 34) &&
    decide (4 * c.p 17 1 ≤ c.ext.length) && decide (c.ext.length ≤ 192) && (c.ext.drop (4 * c.p 17 1)).all (· == 0) &&
    c.tilthProgram.legal && (c.tilthProgram.bsize != 64 || !c.tilthProgram.precond || bitOf s.features 0)

/-- TILTH_PROGRAM with its checks passed. -/
def State.tilthProgramActs (c : Cmd) (s : State) : State :=
  if s.jobRuns && s.tilth.layers.any fun l => (s.setting l.1 s.job.epoch).slot == c.p 16 1 then s.refuse c.ask refState
  else
    let t := s.auditFor c.ask 0x207 (c.p 16 1) [] (sha3 (c.ext.take (4 * c.p 17 1)))
    ({ t with tilth := { t.tilth with programs := mapSet {} t.tilth.programs (c.p 16 1) c.tilthProgram } }).done c.ask []

theorem exec_tilthProgram (ring : Nat) (s : State) : exec (.tilthProgram ring) s = .next (s.command 0x47 ring fun c u =>
    paramOr c [(16, 2)] false (c.tilthProgramGood u) (State.tilthProgramActs c) u) := rfl

theorem TilthProgram.ne_default {p : TilthProgram} (h : p.legal = true) : p ≠ {} := by
  rintro rfl
  revert h
  decide

/-- The program's slot takes it, and nothing else does. -/
theorem State.tilthProgramActs_fills {c : Cmd} {u : State} (hl : c.tilthProgram.legal = true)
    (hfree : u.job.image = none ∨ (u.tilth.layers.any fun l => (u.setting l.1 u.job.epoch).slot == c.p 16 1) = false) :
    ∃ v : State, u.tilthProgramActs c = v.done c.ask [] ∧ v.program (c.p 16 1) = c.tilthProgram ∧
      (∀ k, k ≠ c.p 16 1 → v.program k = u.program k) ∧ v.tilth.layers = u.tilth.layers ∧ v.mem = u.mem ∧
      v.job = u.job ∧ v.tiles = u.tiles := by
  have hno : (u.jobRuns && u.tilth.layers.any fun l => (u.setting l.1 u.job.epoch).slot == c.p 16 1) = false := by
    rcases hfree with h | h
    · rw [State.jobRuns, h]
      rfl
    · rw [h, Bool.and_false]
  have hget := mapGet_mapSet_listed (TilthProgram.ne_default hl) u.tilth.programs (c.p 16 1)
  obtain ⟨t, q, h, e, -⟩ := u.auditFor_only c.ask 0x207 (c.p 16 1) [] (sha3 (c.ext.take (4 * c.p 17 1)))
  refine ⟨{ u with trust := t, rs := q, host := h, tilth := { u.tilth with
    programs := mapSet {} u.tilth.programs (c.p 16 1) c.tilthProgram } }, ?_, (hget _).trans (if_pos rfl),
    fun k hk => (hget k).trans (if_neg hk), rfl, rfl, rfl, rfl⟩
  unfold State.tilthProgramActs
  rw [if_neg (by simp [hno]), e]

/-! ### TILTH_SWEEP -/

/-- TILTH_SWEEP with its checks passed: its layer is released, and its command goes on. -/
def State.sweepReleased (c : Cmd) (s : State) : State :=
  let t := s.auditFor c.ask 0x207 (c.p 16 2) [] []
  let w : State := { t with tilth := { t.tilth with released := t.tilth.released ++ [c.p 16 2] } }
  w.setAux c.ask.ring { w.aux c.ask.ring with current := some c.ask, work := some (.sweep (c.p 16 2)), slices := 1 }

theorem State.sweepReleased_keeps (c : Cmd) (u : State) :
    (u.sweepReleased c).tilth.released = u.tilth.released ++ [c.p 16 2] ∧
      ((u.sweepReleased c).aux c.ask.ring).current = some c.ask ∧
      ((u.sweepReleased c).aux c.ask.ring).work = some (.sweep (c.p 16 2)) ∧ (u.sweepReleased c).mem = u.mem ∧
      (u.sweepReleased c).job = u.job := by
  obtain ⟨t, q, h, e, -⟩ := u.auditFor_only c.ask 0x207 (c.p 16 2) [] []
  unfold State.sweepReleased
  rw [e]
  have held (v : State) (a : RingAux) (ring : Nat) (x : LongWork) :
      (v.setAux ring { a with current := some c.ask, work := some x, slices := 1 }).aux ring =
        { a with current := some c.ask, work := some x, slices := 1 } :=
    (State.aux_setAux (fun e => by simpa using congrArg RingAux.current e) ..).trans (if_pos rfl)
  exact ⟨rfl, congrArg RingAux.current (held ..), congrArg RingAux.work (held ..), rfl, rfl⟩

/-! ### LAYER_NUMERICS -/

/-- What PARAMETER is answered for at once where it fails. -/
def Cmd.numericsGood (c : Cmd) : Bool :=
  decide (c.p 18 1 < 32) && (!bitOf (c.p 18 1) 0 || decide (1 ≤ c.p 20 2)) &&
    (!bitOf (c.p 18 1) 2 || c.p 23 1 == 0 || (decide (6 ≤ c.p 23 1) && decide (c.p 23 1 ≤ 12))) &&
    (!bitOf (c.p 18 1) 3 || decide (c.p 24 1 ≤ 6)) && (!bitOf (c.p 18 1) 4 || decide (c.p 25 1 ≤ 1))

/-- The ceiling that a LAYER_NUMERICS names is a rung at or above the layer's base, with every variant up to it in the image. -/
def Cmd.ceilOk (c : Cmd) (s : State) : Bool :=
  match rungsOf (bitsOf (s.record (c.p 16 2)) 32 30) (c.p 24 1), s.layerDecl (c.p 16 2) with
  | some rs, some d => rs.all d.variants.contains
  | _, _ => false

/-- LAYER_NUMERICS with its checks passed. -/
def State.numericsActs (c : Cmd) (s : State) : State :=
  if s.jobRuns && s.rungLayers.contains (c.p 16 2) && bitOf (c.p 18 1) 3 && !c.ceilOk s then s.refuse c.ask refParameter
  else if !(s.jobRuns && s.rungLayers.contains (c.p 16 2)) || decide (c.p 26 6 < s.job.epoch + 2) then s.refuse c.ask refState
  else s.defer_ c 2 (c.p 26 6)

theorem exec_layerNumerics (ring : Nat) (s : State) : exec (.layerNumerics ring) s = .next (s.command 0x4A ring fun c u =>
    paramOr c [(16, 3), (20, 12)] false c.numericsGood (State.numericsActs c) u) := rfl

/-! ### The settings -/

/-- Settles the first part of O36: a program is refused, or fills its slot. -/
theorem exec_tilthProgram_cases {s u : State} {ring : Nat} {c : Cmd} (hrun : s.runsFor (.tilthProgram ring) = some (c, u)) :
    ((c.p 16 1 < 3 ∨ 15 < c.p 16 1 ∨ c.p 17 1 < 4 ∨ 34 < c.p 17 1 ∨ c.tilthProgram.legal = false) →
      exec (.tilthProgram ring) s = .next (u.refuse c.ask 7)) ∧
    (3 ≤ c.p 16 1 → c.p 16 1 ≤ 15 → 4 ≤ c.p 17 1 → c.p 17 1 ≤ 34 → 4 * c.p 17 1 ≤ c.ext.length → c.ext.length ≤ 192 →
      (c.ext.drop (4 * c.p 17 1)).all (· == 0) = true → c.tilthProgram.legal = true →
      (c.tilthProgram.bsize ≠ 64 ∨ c.tilthProgram.precond = false ∨ bitOf u.features 0 = true) →
      exec (.tilthProgram ring) s = .next (u.tilthProgramActs c)) := by
  constructor
  · intro h
    refine State.row_parameter rfl (exec_tilthProgram ring) hrun ?_
    by_contra hg
    simp only [Cmd.tilthProgramGood, Bool.not_eq_false, Bool.and_eq_true, decide_eq_true_eq] at hg
    obtain ⟨⟨⟨⟨⟨⟨⟨⟨h1, h2⟩, h3⟩, h4⟩, -⟩, -⟩, -⟩, h5⟩, -⟩ := hg
    rcases h with h | h | h | h | h
    · omega
    · omega
    · omega
    · omega
    · rw [h] at h5
      cases h5
  · intro h1 h2 h3 h4 h5 h6 h7 h8 h9
    refine (State.row_runs rfl (exec_tilthProgram ring) hrun ?_).trans rfl
    simp only [Cmd.tilthProgramGood, Bool.and_eq_true, decide_eq_true_eq]
    refine ⟨⟨⟨⟨⟨⟨⟨⟨h1, h2⟩, h3⟩, h4⟩, h5⟩, h6⟩, h7⟩, h8⟩, ?_⟩
    rcases h9 with h | h | h <;> simp [h]

theorem State.layerStops_iff {u : State} {c : Cmd} : u.layerStops c = true ↔ u.job.image = none ∨ c.p 24 6 < u.job.epoch + 1 ∨
    mapGet [] u.tilth.layers (c.p 16 2) = [] ∨ u.slotFilled (c.p 18 1) = false := by
  simp [State.layerStops, State.jobRuns, or_assoc]

/-- Settles O36, each command through what its row does once its checks have passed. -/
theorem settingsWaitForTheirPoint : Obligations.SettingsWaitForTheirPoint := by
  unfold Obligations.SettingsWaitForTheirPoint
  intro s ring c u
  refine ⟨?_, fun hrun h18 hlen htail h0 h8 => ?_, ?_, fun hrun => ?_, fun hrun h16 h18 h20 hsrc hdie h21 h26 => ?_, ?_⟩
  · intro slot n prog hrun
    obtain ⟨hbad, hgood⟩ := exec_tilthProgram_cases hrun
    refine ⟨hbad, ?_⟩
    intro h1 h2 h3 h4 h5 h6 h7 h8 h9 used
    have hrow := hgood h1 h2 h3 h4 h5 h6 h7 h8 h9
    refine ⟨fun hj hu => ?_, fun hfree => ?_⟩
    · rw [hrow, State.tilthProgramActs, if_pos]
      · rfl
      · exact Bool.and_eq_true_iff.mpr ⟨hj, hu⟩
    · obtain ⟨v, hv, hrest⟩ := State.tilthProgramActs_fills h8 hfree
      exact ⟨v, hrow.trans (congrArg _ hv), hrest⟩
  · refine (State.row_runs rfl (fun _ => rfl) hrun ?_).trans (congrArg _ ?_)
    · rw [decide_eq_true h18, hlen, htail, h0, h8]
      rfl
    · simp only [State.layerStops_iff]
      rfl
  · intro sel l hrun hsel h0 h2 h3 h4
    have hgood : c.numericsGood = true := by
      have imp {a b : Bool} (h : a = true → b = true) : (!a || b) = true := by
        cases a
        · rfl
        · exact h rfl
      have h2' : (!bitOf sel 2 || (c.p 23 1 == 0 || (decide (6 ≤ c.p 23 1) && decide (c.p 23 1 ≤ 12)))) = true :=
        imp fun hb => by
          rcases h2 hb with h | ⟨h, h'⟩
          · simp [h]
          · simp [h, h']
      simp only [Cmd.numericsGood, Bool.and_eq_true]
      rw [Bool.or_assoc]
      exact ⟨⟨⟨⟨decide_eq_true hsel, imp fun h => decide_eq_true (h0 h)⟩, h2'⟩, imp fun h => decide_eq_true (h3 h)⟩,
        imp fun h => decide_eq_true (h4 h)⟩
    have hrow : exec (.layerNumerics ring) s = .next (u.numericsActs c) :=
      (State.row_runs rfl (exec_layerNumerics ring) hrun hgood).trans rfl
    refine ⟨fun hbad => ?_, fun hi hl => ?_⟩
    · have hk : (u.jobRuns && u.rungLayers.contains l) = false := by
        rcases hbad with h | h
        · simp [State.jobRuns, h]
        · simp [h]
      rw [hrow, State.numericsActs, hk]
      rfl
    · have hk : (u.jobRuns && u.rungLayers.contains l) = true := by simp [State.jobRuns, hi, hl]
      rw [hrow, State.numericsActs, hk]
      refine ⟨fun hb => ?_, fun hb hn => ?_⟩
      · rw [show bitOf (c.p 18 1) 3 = false from hb]
        by_cases hlt : c.p 26 6 < u.job.epoch + 2
        · simp only [hlt, decide_true, Bool.or_true, if_true]
          rfl
        · simp only [hlt, decide_false]
          rfl
      · have hc : c.ceilOk u = false := by
          unfold Cmd.ceilOk
          rw [show rungsOf (bitsOf (u.record (c.p 16 2)) 32 30) (c.p 24 1) = none from hn]
        rw [show bitOf (c.p 18 1) 3 = true from hb, hc]
        rfl
  · by_cases hn : c.p 16 1 < 1 ∨ 14 < c.p 16 1
    · rw [if_pos hn]
      refine State.row_parameter rfl (fun _ => rfl) hrun ?_
      rw [← Bool.not_eq_true, Bool.and_eq_true, decide_eq_true_eq, decide_eq_true_eq]
      omega
    · rw [if_neg hn]
      refine (State.row_runs rfl (fun _ => rfl) hrun ?_).trans rfl
      rw [Bool.and_eq_true, decide_eq_true_eq, decide_eq_true_eq]
      omega
  · refine (State.row_runs rfl (fun _ => rfl) hrun ?_).trans (congrArg _ ?_)
    · have ht : (decide (c.p 18 2 < 288) || c.p 18 2 == 0xFFFF) = true := by
        rcases h18 with h | h <;> simp [h]
      rw [decide_eq_true h16, ht, decide_eq_true h20, hsrc, hdie, decide_eq_true h21, decide_eq_true h26]
      rfl
    · by_cases hd : c.p 17 1 ∈ u.dies
      · have hc : (!u.dies.contains (c.p 17 1)) = false := by simp [hd]
        simp only [hc, hd, not_true_eq_false, Bool.false_eq_true, if_false]
        rfl
      · have hc : (!u.dies.contains (c.p 17 1)) = true := by simp [hd]
        simp only [hc, hd, not_false_eq_true, if_true]
        rfl
  · intro l hrun
    have hrow : exec (.tilthSweep ring) s = .next (if (!u.runActive || !((u.slicesOf l).any fun x => x.1.hold) ||
        u.tilth.sweeping.contains l || u.tilth.released.contains l) = true then u.refuse c.ask refState else u.sweepReleased c) :=
      (State.row_runs rfl (fun _ => rfl) hrun rfl).trans rfl
    constructor
    · intro hbad
      have hb : (!u.runActive || !((u.slicesOf l).any fun x => x.1.hold) ||
          u.tilth.sweeping.contains l || u.tilth.released.contains l) = true := by
        rcases hbad with h | h | h | h
        · simp [State.runActive, h]
        · have hany : ((u.slicesOf l).any fun x => x.1.hold) = false :=
            List.any_eq_false.mpr fun x hx => by simp [h x hx]
          simp [hany]
        · simp [h]
        · simp [h]
      rw [hrow, if_pos hb]
      rfl
    · intro hr hx hs hl
      have hany : ((u.slicesOf l).any fun x => x.1.hold) = true := List.any_eq_true.mpr hx
      have hb : ¬ (!u.runActive || !((u.slicesOf l).any fun x => x.1.hold) ||
          u.tilth.sweeping.contains l || u.tilth.released.contains l) = true := by
        simp [State.runActive, hr, hany, hs, hl]
      exact ⟨_, hrow.trans (by rw [if_neg hb]), State.sweepReleased_keeps c u⟩

end Sys2Proof.Machine
end

section
/-! SUPPORT. TOPOLOGY_SET, PORT_QUERY and PORT_ENABLE (R2, R337, R338, R351, R529). -/

namespace Sys2Proof.Machine

/-- A port after its enable bit is written: `held` where the port may not train. -/
def Port.enabled (on held : Bool) (p : Port) : Port :=
  if held then { p with enable := on }
  else if on then { p with enable := true, state := if p.enable && p.state != 0 then p.state else 1 }
  else { p with enable := false, state := 0 }

theorem State.enablePort_eq (on : Bool) (n : Nat) (s : State) :
    s.enablePort on n = s.setPort n ((s.port n).enabled on (s.portHeld n)) := by
  unfold State.enablePort Port.enabled
  extract_lets p
  split
  · rfl
  · split <;> rfl

theorem State.port_setPort_wf {s : State} (h : mapWf {} s.fab.ports = true) (n m : Nat) (p : Port) :
    (s.setPort n p).port m = if m = n then p else s.port m := mapGet_mapSet h _ _ _

/-- The port that a word of TOPOLOGY_SET's record describes, before it trains. -/
def topologyPort (w : Nat) (lanes : List Nat) (width : Nat) : Port :=
  { peer := bitsOf w 19 0, peerPort := bitsOf w 23 20, lanes := lanes, width := width }

/-- TOPOLOGY_SET for one port. -/
def State.topologySets (c : Cmd) (s : State) (n : Nat) : State :=
  (s.setPort n (topologyPort (c.x (4 * n) 4) (s.port n).lanes (s.port n).width)).enablePort (bitOf (c.x (4 * n) 4) 24) n

/-- TOPOLOGY_SET before its ports. -/
def Cmd.topologyHead (c : Cmd) (s : State) : State :=
  { s with fab := { s.fab with
    coord := c.p 16 3
    spareCable := (List.range 8).map fun i => (bitsOf (c.x (64 + 4 * i) 4) 19 0, bitOf (c.x (64 + 4 * i) 4) 31)
    routes := (List.range (c.p 20 2)).map fun i =>
      (bitsOf (c.x (192 + 8 * i) 8) 16 0, bitsOf (c.x (192 + 8 * i) 8) 33 17, BitVec.ofNat 16 (bitsOf (c.x (192 + 8 * i) 8) 49 34))
    members := (List.range 8).map fun i => BitVec.ofNat 16 (c.x (128 + 2 * i) 2) } }

theorem Cmd.topology_eq (c : Cmd) (s : State) : c.topology s = (List.range 16).foldl (State.topologySets c) (c.topologyHead s) := rfl

/-- What setting a port leaves: the coordinates, and everything but the fabric. -/
def State.portsFrom (s v : State) : Prop :=
  v.fab.coord = s.fab.coord ∧ ∃ f, v = { s with fab := f }

theorem State.portsFrom_foldl {α : Type} {f : State → α → State} (hf : ∀ (s : State) (x : α), s.portsFrom (f s x)) (l : List α) (s : State) :
    s.portsFrom (l.foldl f s) := by
  refine List.foldlRecOn (motive := fun v : State => s.portsFrom v) _ _ ⟨rfl, _, rfl⟩ fun v hv x _ => ?_
  obtain ⟨hc, f', rfl⟩ := hv
  obtain ⟨hc', f'', e⟩ := hf _ x
  rw [e] at hc' ⊢
  exact ⟨hc'.trans hc, f'', rfl⟩

theorem State.enablePort_from (on : Bool) (n : Nat) (s : State) : s.portsFrom (s.enablePort on n) := by
  rw [State.enablePort_eq]
  exact ⟨rfl, _, rfl⟩

theorem State.topologySets_from (c : Cmd) (s : State) (n : Nat) : s.portsFrom (s.topologySets c n) := by
  unfold State.topologySets
  rw [State.enablePort_eq]
  exact ⟨rfl, _, rfl⟩

theorem State.topologySets_port {c : Cmd} {s : State} (h : mapWf {} s.fab.ports = true) (n m : Nat) :
    mapWf {} (s.topologySets c n).fab.ports = true ∧ (s.topologySets c n).port m =
      if m = n then (topologyPort (c.x (4 * n) 4) (s.port n).lanes (s.port n).width).enabled (bitOf (c.x (4 * n) 4) 24) (s.portHeld n)
      else s.port m := by
  unfold State.topologySets
  rw [State.enablePort_eq]
  have hw := mapWf_mapSet h n (topologyPort (c.x (4 * n) 4) (s.port n).lanes (s.port n).width)
  refine ⟨mapWf_mapSet hw .., ?_⟩
  rw [State.port_setPort_wf hw, State.port_setPort_wf h, if_pos rfl]
  split
  · rfl
  · next hm => rw [State.port_setPort_wf h, if_neg hm]

/-- Each port takes what its word says, and no other port changes. -/
theorem State.foldl_topologySets {c : Cmd} (l : List Nat) (hl : l.Nodup) (s : State) (h : mapWf {} s.fab.ports = true) (n : Nat) :
    (n ∈ l → ∃ lanes width, (l.foldl (State.topologySets c) s).port n =
      (topologyPort (c.x (4 * n) 4) lanes width).enabled (bitOf (c.x (4 * n) 4) 24) (s.portHeld n)) ∧
    (n ∉ l → (l.foldl (State.topologySets c) s).port n = s.port n) := by
  induction l generalizing s with
  | nil => exact ⟨fun hn => absurd hn List.not_mem_nil, fun _ => rfl⟩
  | cons k l ih =>
    obtain ⟨hk, hl⟩ := List.nodup_cons.mp hl
    obtain ⟨hw, hp⟩ := State.topologySets_port (c := c) h k n
    have hheld : (s.topologySets c k).portHeld n = s.portHeld n := by
      obtain ⟨hc, f, e⟩ := State.topologySets_from c s k
      rw [e] at hc ⊢
      unfold State.portHeld
      rw [hc]
      rfl
    obtain ⟨ih1, ih2⟩ := ih hl (s.topologySets c k) hw
    rw [List.foldl_cons]
    refine ⟨fun hn => ?_, fun hn => ?_⟩
    · by_cases hnl : n ∈ l
      · rw [← hheld]
        exact ih1 hnl
      · have hnk : n = k := (List.mem_cons.mp hn).resolve_right hnl
        rw [ih2 hnl, hp, if_pos hnk]
        subst hnk
        exact ⟨_, _, rfl⟩
    · obtain ⟨hnk, hnl⟩ := not_or.mp (fun h' => hn (List.mem_cons.mpr h'))
      rw [ih2 hnl, hp, if_neg hnk]

theorem Port.enabled_fresh (w : Nat) (lanes : List Nat) (width : Nat) (on held : Bool) :
    let p := (topologyPort w lanes width).enabled on held
    p.peer = bitsOf w 19 0 ∧ p.peerPort = bitsOf w 23 20 ∧ p.enable = on ∧ p.state = if on && !held then 1 else 0 := by
  cases on <;> cases held <;> exact ⟨rfl, rfl, rfl, rfl⟩

/-- The enable bits of the ports, as the audit log takes them. -/
def State.enableBits (s : State) : List Byte := leBytes 2 ((List.range 16).map fun n => b2n (s.port n).enable * 2 ^ n).sum

/-- The coordinates of a record that is in order are no package's unset ones. -/
theorem Cmd.topologyGood_coord {c : Cmd} (h : c.topologyGood = true) : c.p 16 3 ≠ 0xFFFFF := by
  simp only [Cmd.topologyGood, Bool.and_eq_true, decide_eq_true_eq] at h
  obtain ⟨⟨⟨⟨⟨⟨⟨⟨⟨-, h1⟩, -⟩, -⟩, -⟩, -⟩, -⟩, -⟩, -⟩, -⟩ := h
  omega

/-- Settles O37: the commands' rows, and a port after the record or its enable bit. -/
theorem topologyCommands : Obligations.TopologyCommands := by
  unfold Obligations.TopologyCommands
  intro s ring c u
  refine ⟨fun hrun => ⟨fun hb => State.row_parameter rfl (fun _ => rfl) hrun hb, fun hg habs => ?_, fun hg habs => ⟨fun hbad => ?_,
    fun hi hseat => ?_⟩⟩, fun hrun => ?_, ?_⟩
  · refine (State.row_runs rfl (fun _ => rfl) hrun hg).trans (congrArg _ ?_)
    rw [if_pos (List.any_eq_true.mpr habs)]
    rfl
  · refine (State.row_runs rfl (fun _ => rfl) hrun hg).trans (congrArg _ ?_)
    have hany : ¬ (c.topologyPorts.any u.portAbsent) = true := by simpa using habs
    rw [if_neg hany, if_pos]
    · rfl
    · rcases hbad with h | ⟨h1, h2⟩
      · simp [State.jobRuns, h]
      · simp [h1, h2]
  · have hany : ¬ (c.topologyPorts.any u.portAbsent) = true := by simpa using habs
    have hno : ¬ (u.jobRuns || (u.seatCoord != 0xFFFFF && u.seatCoord != c.p 16 3)) = true := by
      rcases hseat with h | h <;> simp [State.jobRuns, hi, h]
    obtain ⟨t, q, h, e, -⟩ := (c.topology u).auditFor_only c.ask 0x101 (c.p 16 3) (leBytes 3 u.fab.coord)
      (sha3 (c.packet.drop 16 ++ c.ext))
    obtain ⟨hc, f, hf⟩ : (c.topologyHead u).portsFrom (c.topology u) := by
      rw [Cmd.topology_eq]
      exact State.portsFrom_foldl (fun s n => State.topologySets_from c s n) _ _
    have hrow : exec (.topologySet ring) s = .next (({ c.topology u with trust := t, rs := q, host := h } : State).done c.ask []) := by
      refine (State.row_runs rfl (fun _ => rfl) hrun hg).trans (congrArg _ ?_)
      rw [if_neg hany, if_neg hno]
      exact congrArg (fun v : State => v.done c.ask []) e
    refine ⟨_, hrow, rfl, hc, ?_, ?_, ?_⟩
    · rw [hf]
      rfl
    · rw [hf]
      rfl
    · intro hw n hn w
      obtain ⟨lanes, width, hp⟩ := (State.foldl_topologySets (c := c) (List.range 16) List.nodup_range (c.topologyHead u) hw n).1
        (List.mem_range.mpr hn)
      have hheld : (c.topologyHead u).portHeld n = u.portAbsent n := by
        have hco : ((c.topologyHead u).fab.coord == 0xFFFFF) = false := by
          simpa [Cmd.topologyHead] using Cmd.topologyGood_coord hg
        unfold State.portHeld
        rw [hco, Bool.or_false]
        rfl
      have hport : ({ c.topology u with trust := t, rs := q, host := h } : State).port n =
          (topologyPort w lanes width).enabled (bitOf w 24) (u.portAbsent n) := hp.trans (by rw [hheld])
      rw [hport]
      exact Port.enabled_fresh ..
  · by_cases hn : c.p 16 1 < 16
    · rw [if_pos hn]
      exact (State.row_runs rfl (fun _ => rfl) hrun (decide_eq_true hn)).trans rfl
    · rw [if_neg hn]
      exact State.row_parameter rfl (fun _ => rfl) hrun (decide_eq_false hn)
  · intro ports on hrun
    refine ⟨fun h2 => State.row_parameter rfl (fun _ => rfl) hrun (decide_eq_false (Nat.not_lt.mpr h2)),
      fun h2 => ⟨fun habs => ?_, fun habs hoff huse => ?_, fun habs hok => ?_⟩⟩
    · refine (State.row_runs rfl (fun _ => rfl) hrun (decide_eq_true h2)).trans (congrArg _ ?_)
      have hany : (maskPorts (BitVec.ofNat 16 (c.p 16 2))).any u.portAbsent = true := List.any_eq_true.mpr habs
      simp only [hany, if_true]
      rfl
    · refine (State.row_runs rfl (fun _ => rfl) hrun (decide_eq_true h2)).trans (congrArg _ ?_)
      have hany : (maskPorts (BitVec.ofNat 16 (c.p 16 2))).any u.portAbsent = false := by
        simpa using habs
      have huses : (!(c.p 18 1 == 1) && (maskPorts (BitVec.ofNat 16 (c.p 16 2))).any u.imageUsesPort) = true := by
        rw [show (c.p 18 1 == 1) = false from hoff, List.any_eq_true.mpr huse]
        rfl
      simp only [hany, huses, Bool.false_eq_true, if_false, if_true]
      rfl
    · have hany : (maskPorts (BitVec.ofNat 16 (c.p 16 2))).any u.portAbsent = false := by
        simpa using habs
      have huses : (!(c.p 18 1 == 1) && (maskPorts (BitVec.ofNat 16 (c.p 16 2))).any u.imageUsesPort) = false := by
        rcases hok with h | h
        · rw [show (c.p 18 1 == 1) = true from h]
          rfl
        · have hnone : (maskPorts (BitVec.ofNat 16 (c.p 16 2))).any u.imageUsesPort = false := by simpa using h
          rw [hnone, Bool.and_false]
      obtain ⟨-, f, hf⟩ : u.portsFrom (ports.foldl (fun (s : State) n => s.enablePort on n) u) :=
        State.portsFrom_foldl (fun s n => State.enablePort_from on n s) _ _
      have hv (a : Ask) (k o : Nat) (x y : List Byte) (w : State) (hw : w = { u with fab := f }) :
          (w.auditFor a k o x y).fab = w.fab ∧ (w.auditFor a k o x y).mem = u.mem ∧ (w.auditFor a k o x y).job = u.job := by
        obtain ⟨t, q, h, e, -⟩ := w.auditFor_only a k o x y
        rw [e, hw]
        exact ⟨rfl, rfl, rfl⟩
      have hrow : exec (.portEnable ring) s = .next (((ports.foldl (fun (s : State) n => s.enablePort on n) u).auditFor c.ask
          0x102 (c.p 16 2) u.enableBits (ports.foldl (fun (s : State) n => s.enablePort on n) u).enableBits).done c.ask []) := by
        refine (State.row_runs rfl (fun _ => rfl) hrun (decide_eq_true h2)).trans (congrArg _ ?_)
        simp only [hany, huses, Bool.false_eq_true, if_false]
        rfl
      exact ⟨_, hrow, hv _ _ _ _ _ _ hf⟩

end Sys2Proof.Machine
end

section

/-!
SUPPORT. O38: control flits, training and failed lanes.
-/

namespace Sys2Proof.Machine

/-- A port once a control flit without a request has told it what the peer took and freed. -/
def Port.acknowledged (p : Port) (c : ControlFlit) : Port :=
  let left := (p.fseq + 2047 - c.ack) % 2048
  let replay := if left ≤ p.replay then left else p.replay
  { p with
    replay := replay, unacked := stillOut replay p.unacked
    credits := (List.range 4).map fun v => p.creditsOf v + (c.cred.getD v 0 + 2 ^ 32 - p.credSeen.getD v 0) % 2 ^ 32
    credSeen := (List.range 4).map fun v => c.cred.getD v 0 }

theorem Port.creditsOf_acknowledged (p : Port) (c : ControlFlit) {v : Nat} (hv : v < 4) :
    (p.acknowledged c).creditsOf v = p.creditsOf v + (c.cred.getD v 0 + 2 ^ 32 - p.credSeen.getD v 0) % 2 ^ 32 := by
  rw [Port.creditsOf, Port.acknowledged]
  dsimp only
  rw [List.getD_eq_getElem _ _ (by simpa using hv), List.getElem_map, List.getElem_range]

theorem exec_controlFlit_up {s : State} {n : Nat} {f : ControlFlit} (hf : s.host.fatal = false) (hp : (s.port n).state = 2)
    (hn : f.nak = false) :
    exec (.controlFlit n f) s =
      .next (f.notice.elim (((s.setPort n ((s.port n).acknowledged f)).followMap n f).portSends n) fun x =>
        (((s.setPort n ((s.port n).acknowledged f)).followMap n f).portSends n).arriveNotice x) := by
  refine congrArg ok ((if_neg (by rw [hf]; decide)).trans ((if_neg (by rw [hp]; decide)).trans ((if_pos hp).trans ?_)))
  dsimp only
  rw [hn, if_neg Bool.false_ne_true]
  rfl

theorem exec_controlFlit_miscabled {s : State} {n : Nat} {f : ControlFlit} (hf : s.host.fatal = false)
    (hp : (s.port n).state = 1) (hw : f.self ≠ (s.port n).peer ∨ f.selfPort ≠ (s.port n).peerPort) :
    exec (.controlFlit n f) s =
      .next ((s.setPort n { s.port n with state := 5 }).notice 0x803 [BitVec.ofNat 32 n, BitVec.ofNat 32 f.self]) :=
  congrArg ok ((if_neg (by rw [hf]; decide)).trans ((if_pos hp).trans (if_pos hw)))

theorem exec_controlFlit_down {s : State} {n : Nat} {f : ControlFlit} (hf : s.host.fatal = false)
    (h1 : (s.port n).state ≠ 1) (h2 : (s.port n).state ≠ 2) : exec (.controlFlit n f) s = .next s :=
  congrArg ok ((if_neg (by rw [hf]; decide)).trans ((if_neg h1).trans (if_neg h2)))

theorem State.answers_fab (src : Nat) (s : State) : (s.answers src).fab = s.fab := by
  unfold State.answers
  split <;> rfl

theorem State.arriveNotice_here {s : State} {x : Notice} (hx : x.code ≠ 0) (hd : x.dst = s.fab.coord) :
    s.arriveNotice x =
      { s.answers x.src with fab := { (s.answers x.src).fab with noticesIn := (s.answers x.src).fab.noticesIn ++ [x] } } :=
  (if_neg hx).trans (if_pos (by rw [State.answers_fab]; exact hd))

theorem exec_portTrained_miscabled {s : State} {n : Nat} {r : TrainIn} (hf : s.host.fatal = false)
    (hp : (s.port n).state = 1) (hc : s.board.fabClk = true)
    (hw : r.peer ≠ (s.port n).peer ∨ r.peerPort ≠ (s.port n).peerPort) :
    exec (.portTrained n r) s =
      .next ((s.setPort n { s.port n with state := 5 }).notice 0x803 [BitVec.ofNat 32 n, BitVec.ofNat 32 r.peer]) :=
  congrArg ok ((if_neg (by simp [hp, hf, hc])).trans (if_pos hw))

/-- A port that trains on every lane of its cable within the wire's limit. -/
theorem exec_portTrained_up {s : State} {n : Nat} {r : TrainIn} (hf : s.host.fatal = false)
    (hp : (s.port n).state = 1) (hc : s.board.fabClk = true) (h1 : r.peer = (s.port n).peer)
    (h2 : r.peerPort = (s.port n).peerPort) (hl : r.flight ≤ 500) (h4 : 4 ≤ r.lanes) :
    exec (.portTrained n r) s = .next (let t := s.setPort n { s.port n with flight := r.flight }
      t.setPort n (t.port n).up) := by
  refine congrArg ok ((if_neg (by simp [hp, hf, hc])).trans ((if_neg (by simp [h1, h2])).trans ?_))
  dsimp only
  rw [if_neg (by omega), if_neg (by omega), if_neg (by omega), Nat.min_eq_left (by omega)]

theorem Port.ne_default_of_state {p : Port} (h : p.state ≠ 0) : p ≠ {} := fun e => h (e ▸ rfl)

/-- A port that has come up, and the others. -/
theorem State.port_up {s : State} {n : Nat} {p : Port} (hp : p.state = 1) (m : Nat) :
    (let t := s.setPort n p
     (t.setPort n (t.port n).up).port m) = if m = n then p.up else s.port m := by
  have ht : (s.setPort n p).port n = p := by
    rw [State.port_setPort (Port.ne_default_of_state (by rw [hp]; decide)), if_pos rfl]
  dsimp only
  rw [ht, State.port_setPort (Port.ne_default_of_state (p := p.up) (show 2 ≠ 0 by decide))]
  split
  · rfl
  · next h => rw [State.port_setPort (Port.ne_default_of_state (by rw [hp]; decide)), if_neg h]

theorem State.pushBoundary_job (b : BoundaryItem) (s : State) : (s.pushBoundary b).job = s.job := by
  unfold State.pushBoundary
  split <;> rfl

theorem State.audit_job (k o : Nat) (old new : List Byte) (s : State) : (s.audit k o old new).job = s.job := by
  obtain ⟨t, q, h, e, -⟩ := State.appendAudit_only (s.entry k 0 0 0 o old new) s
  rw [State.audit, e]

theorem State.notice_job (c : Nat) (ws : List Word) (s : State) : (s.notice c ws).job = s.job := by
  obtain ⟨q, h, e⟩ := State.notice_only c ws s
  rw [e]

theorem State.laneNotice_job (die lane what : Nat) (s : State) : (s.laneNotice die lane what).job = s.job := by
  rw [State.laneNotice, State.faultNotice, State.audit_job, State.notice_job]

theorem State.atOnce_waits {s : State} (h : s.job.image.isSome = true) : s.atOnce = s := if_pos h

/-- A lane of a port that has a spare waits for the boundary. -/
theorem exec_laneFailure_spare {s : State} {die lane m : Nat} (hf : s.host.fatal = false) (hj : s.job.image.isSome = true)
    (h1 : 21 ≤ die) (h2 : die ≤ 24) (hd : s.diePresent die = true) (hl : lane < 18) (hn : s.laneFailed die lane = false)
    (hm : s.laneCarrier die lane = some m) (hs : s.spareState m = 0) (hp : s.sparePromised m = false) :
    exec (.laneFailure ⟨die, none⟩ lane) s =
      .next ((({ s with fab := { s.fab with failedLanes := pairInsert s.fab.failedLanes (die, lane) } } : State).pushBoundary
        (.portLane die lane)).laneNotice die lane 1) := by
  refine congrArg ok ((if_neg (by rw [hf]; decide)).trans ((if_pos ⟨h1, h2, hd, hl⟩).trans
    ((if_neg (by rw [hn]; decide)).trans ?_)))
  rw [hm]
  refine (congrArg State.atOnce (if_pos (by rw [hs, hp]; decide))).trans (State.atOnce_waits ?_)
  rw [State.laneNotice_job, State.pushBoundary_job]
  exact hj

/-- A lane that no port uses is noted as failed. -/
theorem exec_laneFailure_unused {s : State} {die lane : Nat} (hf : s.host.fatal = false)
    (h1 : 21 ≤ die) (h2 : die ≤ 24) (hd : s.diePresent die = true) (hl : lane < 18) (hn : s.laneFailed die lane = false)
    (hm : s.laneCarrier die lane = none) :
    exec (.laneFailure ⟨die, none⟩ lane) s =
      .next { s with fab := { s.fab with failedLanes := pairInsert s.fab.failedLanes (die, lane) } } := by
  refine congrArg ok ((if_neg (by rw [hf]; decide)).trans ((if_pos ⟨h1, h2, hd, hl⟩).trans
    ((if_neg (by rw [hn]; decide)).trans ?_)))
  rw [hm]

/-- A lane of one direction of a die link that has a spare left waits for the boundary. -/
theorem exec_laneFailure_link {s : State} {die b lane : Nat} (hf : s.host.fatal = false) (hj : s.job.image.isSome = true)
    (hl : s.linkPresent die b = true) (hk : laneKey ⟨die, some b⟩ lane ∉ s.units.deadLanes)
    (hu : mapGet 0 s.units.linkSpares (32 * die + b) + s.pendingItems (fun x => x == BoundaryItem.linkLane die b) < 2) :
    exec (.laneFailure ⟨die, some b⟩ lane) s =
      .next (({ s with units := { s.units with
        deadLanes := setInsert s.units.deadLanes (laneKey ⟨die, some b⟩ lane)
        boundary := s.units.boundary ++ [BoundaryItem.linkLane die b] } } : State).laneNotice die lane 1) := by
  refine congrArg ok ((if_neg (by rw [hf]; decide)).trans ((if_neg (by simpa [hl] using hk)).trans
    ((congrArg State.atOnce (if_pos hu)).trans (State.atOnce_waits ?_))))
  rw [State.laneNotice_job]
  exact hj

/-- Settles O38. -/
theorem portEvents : Obligations.PortEvents := by
  unfold Obligations.PortEvents
  intro s n p hf
  refine ⟨fun f hp hn => ⟨p.acknowledged f, rfl, fun v hv => p.creditsOf_acknowledged f hv, rfl, ?_⟩,
    fun f h1 h2 => exec_controlFlit_down hf h1 h2, fun f hp hw => exec_controlFlit_miscabled hf hp hw,
    fun hp => congrArg ok (if_pos ⟨hp, by rw [hf]; rfl⟩), fun hp => congrArg ok (if_neg fun h => hp h.1),
    fun r hp hc => ⟨exec_portTrained_miscabled hf hp hc, fun h1 h2 hl h4 => ?_⟩,
    fun die lane hj => ⟨fun h1 h2 hd hl hn => ?_, fun b hl hk hu => ⟨_, rfl, exec_laneFailure_link hf hj hl hk hu⟩⟩⟩
  · refine ⟨_, rfl, fun h => ?_, fun x h hx hd => ⟨_, rfl, ?_⟩⟩
    · rw [exec_controlFlit_up hf hp hn, h]
      rfl
    · rw [exec_controlFlit_up hf hp hn, h]
      exact congrArg ok (State.arriveNotice_here hx hd)
  · have hq : ({ p with flight := r.flight } : Port).state = 1 := hp
    refine ⟨_, exec_portTrained_up hf hp hc h1 h2 hl h4, (State.port_up hq n).trans (if_pos rfl),
      fun m hm => (State.port_up hq m).trans (if_neg hm), rfl⟩
  · exact ⟨_, rfl, exec_laneFailure_unused hf h1 h2 hd hl hn, fun m => exec_laneFailure_spare hf hj h1 h2 hd hl hn⟩

end Sys2Proof.Machine
end

section

/-!
SUPPORT. O39: the layout of headers and control flits, and frames that a package does not take.
-/

namespace Sys2Proof.Machine

/-! ### Fields of a layout -/

/-- Fields, each of so many bytes, laid out one after the other. -/
def laidOut (l : List (Nat × Nat)) : List Byte := l.flatMap fun e => leBytes e.1 e.2

/-- The bytes that fields take. -/
def layoutSize (l : List (Nat × Nat)) : Nat := (l.map Prod.fst).sum

theorem laidOut_length (l : List (Nat × Nat)) : (laidOut l).length = layoutSize l := by
  rw [laidOut, List.length_flatMap, layoutSize]
  simp only [leBytes_length]

/-- The bytes of a field stand at its place. -/
theorem laidOut_field (l : List (Nat × Nat)) {k : Nat} (hk : k < l.length) :
    ((laidOut l).drop (layoutSize (l.take k))).take l[k].1 = leBytes l[k].1 l[k].2 := by
  have hl : laidOut l = laidOut (l.take k) ++ (leBytes l[k].1 l[k].2 ++ laidOut (l.drop (k + 1))) := by
    conv_lhs => rw [← List.take_append_drop k l, List.drop_eq_getElem_cons hk]
    rw [laidOut, List.flatMap_append, List.flatMap_cons]
    rfl
  rw [hl, ← laidOut_length, List.drop_left, List.take_append_of_le_length (by rw [leBytes_length]),
    List.take_of_length_le (by rw [leBytes_length])]

theorem field_bytes {l : List (Nat × Nat)} {bs : List Byte} (hb : bs = laidOut l) (k : Nat) {a n v : Nat}
    (he : l[k]? = some (n, v)) (ha : layoutSize (l.take k) = a) : (bs.drop a).take n = leBytes n v := by
  obtain ⟨hk, hv⟩ := List.getElem?_eq_some_iff.1 he
  have := laidOut_field l hk
  rwa [hv, ha, ← hb] at this

/-- A field is read back from its place. -/
theorem leNat_field {l : List (Nat × Nat)} {bs : List Byte} (hb : bs = laidOut l) (k : Nat) {a n v : Nat}
    (he : l[k]? = some (n, v)) (ha : layoutSize (l.take k) = a) (hv : v < 256 ^ n) : leNat ((bs.drop a).take n) = v := by
  rw [field_bytes hb k he ha, leNat_leBytes, Nat.mod_eq_of_lt hv]

/-- The fields of Table 11.4. -/
def headerFields (f : Frame) : List (Nat × Nat) :=
  [(1, f.fkind), (1, f.flags % 8), (2, f.nflit), (3, f.dst % 2 ^ 20), (1, f.hops), (3, f.src % 2 ^ 20), (1, f.sport % 16),
    (4, f.stag), (4, f.job), (6, f.laddr), (3, f.ctx % 2 ^ 20), (1, 0), (2, f.task), (4, f.ring % 2 ^ 18), (4, f.handle),
    (4, f.offset), (4, f.dtile), (4, f.coll), (4, f.opx), (8, f.opy)]

theorem frameHeader_eq (f : Frame) : frameHeader f = laidOut (headerFields f) := by
  unfold laidOut headerFields frameHeader
  simp only [List.flatMap_cons, List.flatMap_nil, List.append_nil, List.append_assoc]

theorem frameHeader_length (f : Frame) : (frameHeader f).length = 64 := by
  simp [frameHeader_eq, laidOut_length, layoutSize, headerFields]

theorem failing_eq_nil {l : List (Ill × Bool)} (h : failing l = []) : ∀ e ∈ l, e.2 = true := by
  induction l with
  | nil => simp
  | cons e l ih =>
    obtain ⟨i, b⟩ := e
    cases b with
    | true => exact List.forall_mem_cons.2 ⟨rfl, ih h⟩
    | false => cases h

/-- The checks of a row of Table 11.5 are those of its frame, and of the layer it may name. -/
theorem ill_of_frameRow {i : Instr} {port kind : Nat} {f : Frame} (hr : frameRow i = some (port, kind, f)) :
    i.ill = failing (frameChecks port kind f) ∨ ∃ l, i.ill = failing (layerOk l :: frameChecks port kind f) := by
  unfold frameRow at hr
  split at hr
  case h_7 => cases hr; delta Instr.ill; exact .inr ⟨_, congrArg failing rfl⟩
  case h_9 => cases hr
  all_goals cases hr; delta Instr.ill; exact .inl (congrArg failing rfl)

theorem frameChecks_of_wellFormed {i : Instr} {port kind : Nat} {f : Frame} (hr : frameRow i = some (port, kind, f))
    (h : i.wellFormed = true) : ∀ e ∈ frameChecks port kind f, e.2 = true := by
  have h := List.isEmpty_iff.1 h
  obtain hl | ⟨l, hl⟩ := ill_of_frameRow hr
  · exact failing_eq_nil (hl.symm.trans h)
  · exact fun e he => failing_eq_nil (hl.symm.trans h) e (List.mem_cons_of_mem _ he)

theorem kind_of_frameRow {i : Instr} {port kind : Nat} {f : Frame} (hr : frameRow i = some (port, kind, f)) :
    1 ≤ kind ∧ kind ≤ 8 := by
  unfold frameRow at hr
  split at hr
  case h_9 => cases hr
  all_goals cases hr; decide

/-- Every field of a header is read back (Table 11.4). -/
theorem frameOfHeader_frameHeader {i : Instr} {port kind : Nat} {f : Frame} (hr : frameRow i = some (port, kind, f))
    (hw : i.wellFormed = true) : frameOfHeader f.vc (frameHeader f) f.data = f := by
  have hk := kind_of_frameRow hr
  have hc := frameChecks_of_wellFormed hr hw
  simp only [frameChecks, List.forall_mem_cons, portOk, beq_iff_eq, Bool.and_eq_true, decide_eq_true_eq] at hc
  obtain ⟨-, hkind, hh, hd, -⟩ := hc
  obtain ⟨⟨⟨⟨⟨⟨⟨⟨⟨⟨⟨⟨⟨⟨⟨⟨⟨hflags, hvc⟩, hdst⟩, hhops⟩, hsrc⟩, hsport⟩, hstag⟩, hjob⟩, hladdr⟩, hctx⟩, htask⟩, hring⟩,
    hhandle⟩, hoffset⟩, hdtile⟩, hcoll⟩, hopx⟩, hopy⟩ := hh
  have hnflit : f.nflit < 2 ^ 16 := by
    have : mostFlits kind ≤ 32768 := by unfold mostFlits; split_ifs <;> omega
    omega
  have vfkind := leNat_field (frameHeader_eq f) 0 (a := 0) (n := 1) (v := f.fkind) rfl (by simp [layoutSize, headerFields]) (by omega)
  have vflags := leNat_field (frameHeader_eq f) 1 (a := 1) (n := 1) (v := f.flags % 8) rfl (by simp [layoutSize, headerFields]) (by omega)
  have vnflit := leNat_field (frameHeader_eq f) 2 (a := 2) (n := 2) (v := f.nflit) rfl (by simp [layoutSize, headerFields]) (by omega)
  have vdst := leNat_field (frameHeader_eq f) 3 (a := 4) (n := 3) (v := f.dst % 2 ^ 20) rfl (by simp [layoutSize, headerFields]) (by omega)
  have vhops := leNat_field (frameHeader_eq f) 4 (a := 7) (n := 1) (v := f.hops) rfl (by simp [layoutSize, headerFields]) (by omega)
  have vsrc := leNat_field (frameHeader_eq f) 5 (a := 8) (n := 3) (v := f.src % 2 ^ 20) rfl (by simp [layoutSize, headerFields]) (by omega)
  have vsport := leNat_field (frameHeader_eq f) 6 (a := 11) (n := 1) (v := f.sport % 16) rfl (by simp [layoutSize, headerFields]) (by omega)
  have vstag := leNat_field (frameHeader_eq f) 7 (a := 12) (n := 4) (v := f.stag) rfl (by simp [layoutSize, headerFields]) (by omega)
  have vjob := leNat_field (frameHeader_eq f) 8 (a := 16) (n := 4) (v := f.job) rfl (by simp [layoutSize, headerFields]) (by omega)
  have vladdr := leNat_field (frameHeader_eq f) 9 (a := 20) (n := 6) (v := f.laddr) rfl (by simp [layoutSize, headerFields]) (by omega)
  have vctx := leNat_field (frameHeader_eq f) 10 (a := 26) (n := 3) (v := f.ctx % 2 ^ 20) rfl (by simp [layoutSize, headerFields]) (by omega)
  have vtask := leNat_field (frameHeader_eq f) 12 (a := 30) (n := 2) (v := f.task) rfl (by simp [layoutSize, headerFields]) (by omega)
  have vring := leNat_field (frameHeader_eq f) 13 (a := 32) (n := 4) (v := f.ring % 2 ^ 18) rfl (by simp [layoutSize, headerFields]) (by omega)
  have vhandle := leNat_field (frameHeader_eq f) 14 (a := 36) (n := 4) (v := f.handle) rfl (by simp [layoutSize, headerFields]) (by omega)
  have voffset := leNat_field (frameHeader_eq f) 15 (a := 40) (n := 4) (v := f.offset) rfl (by simp [layoutSize, headerFields]) (by omega)
  have vdtile := leNat_field (frameHeader_eq f) 16 (a := 44) (n := 4) (v := f.dtile) rfl (by simp [layoutSize, headerFields]) (by omega)
  have vcoll := leNat_field (frameHeader_eq f) 17 (a := 48) (n := 4) (v := f.coll) rfl (by simp [layoutSize, headerFields]) (by omega)
  have vopx := leNat_field (frameHeader_eq f) 18 (a := 52) (n := 4) (v := f.opx) rfl (by simp [layoutSize, headerFields]) (by omega)
  have vopy := leNat_field (frameHeader_eq f) 19 (a := 56) (n := 8) (v := f.opy) rfl (by simp [layoutSize, headerFields]) (by omega)
  simp only [frameOfHeader, vfkind, vflags, vnflit, vdst, vhops, vsrc, vsport, vstag, vjob, vladdr, vctx, vtask, vring, vhandle, voffset, vdtile, vcoll, vopx, vopy, Nat.mod_eq_of_lt hflags, Nat.mod_eq_of_lt hdst, Nat.mod_eq_of_lt hsrc,
    Nat.mod_eq_of_lt hsport, Nat.mod_eq_of_lt hctx, Nat.mod_eq_of_lt hring]

/-! ### Control flits -/

/-- The fields of Table 11.2, of a control flit without a notice. -/
def controlFields (c : ControlFlit) : List (Nat × Nat) :=
  [(2, c.ack % 2 ^ 11 + (if c.nak then 2 ^ 15 else 0)), (2, 0), (4, c.cred.getD 0 0), (4, c.cred.getD 1 0),
    (4, c.cred.getD 2 0), (4, c.cred.getD 3 0), (4, c.self % 2 ^ 20 + c.selfPort % 16 * 2 ^ 20),
    (4, c.map % 2 ^ 20 + c.width % 4 * 2 ^ 20), (4, 0), (32, 0)]

theorem controlBytes_eq {c : ControlFlit} (h : c.notice = none) : controlBytes c = laidOut (controlFields c) := by
  have h0 : List.replicate 32 0 = leBytes 32 0 := by decide
  have hr : List.range 4 = [0, 1, 2, 3] := rfl
  unfold laidOut controlFields controlBytes
  rw [h, Option.elim_none, h0, hr]
  simp only [List.flatMap_cons, List.flatMap_nil, List.append_nil, List.append_assoc]

theorem controlBytes_length {c : ControlFlit} (h : c.notice = none) : (controlBytes c).length = 64 := by
  simp [controlBytes_eq h, laidOut_length, layoutSize, controlFields]

theorem controlChecks_of_wellFormed {n : Nat} {c : ControlFlit} (h : (Instr.controlFlit n c).wellFormed = true) :
    c.ack < 2 ^ 11 ∧ c.cred.length = 4 ∧ (∀ v ∈ c.cred, v < 2 ^ 32) ∧ c.self < 2 ^ 20 ∧ c.selfPort < 16 ∧ c.map < 2 ^ 20 ∧
      c.width < 4 := by
  have hi : (Instr.controlFlit n c).ill = failing
      [portOk n, (.control, decide (c.ack < 2 ^ 11) && c.cred.length == 4 && c.cred.all (fun v => decide (v < 2 ^ 32)) &&
        decide (c.self < 2 ^ 20) && decide (c.selfPort < 16) && decide (c.map < 2 ^ 20) && decide (c.width < 4))] := by
    delta Instr.ill
    exact congrArg failing rfl
  have hc := failing_eq_nil (hi.symm.trans (List.isEmpty_iff.1 h)) _ (List.mem_cons_of_mem _ List.mem_cons_self)
  simpa [and_assoc] using hc

/-- Every field of a control flit is read back (Table 11.2). -/
theorem controlOfBytes_controlBytes {n : Nat} {c : ControlFlit} (hw : (Instr.controlFlit n c).wellFormed = true)
    (hn : c.notice = none) (hl : c.afterLost = false) : controlOfBytes (controlBytes c) = c := by
  obtain ⟨hack, hlen, hcred, hself, hport, hmap, hwidth⟩ := controlChecks_of_wellFormed hw
  obtain ⟨ack, nak, cred, self, selfPort, map, width, notice, afterLost⟩ := c
  obtain ⟨c0, c1, c2, c3, rfl⟩ := List.length_eq_four.1 hlen
  simp only [List.forall_mem_cons] at hcred
  obtain ⟨h0, h1, h2, h3, -⟩ := hcred
  subst hn hl
  dsimp only at hack hself hport hmap hwidth
  have hb := controlBytes_eq (c := ⟨ack, nak, [c0, c1, c2, c3], self, selfPort, map, width, none, false⟩) rfl
  generalize controlBytes _ = bs at hb ⊢
  have hk : ack % 2 ^ 11 + (if nak then 2 ^ 15 else 0) < 256 ^ 2 := by split <;> omega
  have v0 := leNat_field hb 0 (n := 2) (a := 0) rfl (by simp [layoutSize]) hk
  have v1 := leNat_field hb 2 (n := 4) (v := c0) (a := 4) rfl (by simp [layoutSize, controlFields]) h0
  have v2 := leNat_field hb 3 (n := 4) (v := c1) (a := 8) rfl (by simp [layoutSize, controlFields]) h1
  have v3 := leNat_field hb 4 (n := 4) (v := c2) (a := 12) rfl (by simp [layoutSize, controlFields]) h2
  have v4 := leNat_field hb 5 (n := 4) (v := c3) (a := 16) rfl (by simp [layoutSize, controlFields]) h3
  have v5 := leNat_field hb 6 (n := 4) (v := self % 2 ^ 20 + selfPort % 16 * 2 ^ 20) (a := 20) rfl
    (by simp [layoutSize, controlFields]) (by omega)
  have v6 := leNat_field hb 7 (n := 4) (v := map % 2 ^ 20 + width % 4 * 2 ^ 20) (a := 24) rfl
    (by simp [layoutSize, controlFields]) (by omega)
  have v7 : noticeOfBytes ((bs.drop 32).take 32) = none := by
    rw [field_bytes hb 9 (n := 32) (v := 0) rfl (by simp [layoutSize, controlFields])]
    decide
  have hnak : (ack % 2 ^ 11 + (if nak then 2 ^ 15 else 0)).testBit 15 = nak := by
    cases nak
    · exact Nat.testBit_lt_two_pow (by simp; omega)
    · rw [if_pos rfl, Nat.add_comm, Nat.testBit_two_pow_add_eq, Nat.testBit_lt_two_pow (by omega)]
      rfl
  have hack' : (ack % 2 ^ 11 + (if nak then 2 ^ 15 else 0)) % 2 ^ 11 = ack := by split <;> omega
  have hr : List.range 4 = [0, 1, 2, 3] := rfl
  simp only [controlOfBytes, hr, List.map_cons, List.map_nil, v0, v1, v2, v3, v4, v5, v6, v7]
  rw [hnak, hack', show (self % 2 ^ 20 + selfPort % 16 * 2 ^ 20) % 2 ^ 20 = self by omega,
    show (self % 2 ^ 20 + selfPort % 16 * 2 ^ 20) / 2 ^ 20 % 16 = selfPort by omega,
    show (map % 2 ^ 20 + width % 4 * 2 ^ 20) % 2 ^ 20 = map by omega,
    show (map % 2 ^ 20 + width % 4 * 2 ^ 20) / 2 ^ 20 % 4 = width by omega]

/-! ### Frames that arrive -/

/-- Each row of Table 11.5 is the arrival of a frame of its kind, with an act of its own. -/
theorem exec_of_frameRow {i : Instr} {port kind : Nat} {f : Frame} (hr : frameRow i = some (port, kind, f)) :
    ∃ act, ∀ s, exec i s = .next (s.arrive port kind f act) := by
  unfold frameRow at hr
  split at hr
  case h_9 => cases hr
  all_goals cases hr; exact ⟨_, fun _ => rfl⟩

section
variable {s : State} {port kind : Nat} {f : Frame} {act : Work → Bool → State → State}

/-- A port that is not UP takes no frame. -/
theorem State.arrive_down (h : (s.port port).state ≠ 2) : s.arrive port kind f act = s :=
  if_pos (by simp [h])

variable (hf : s.host.fatal = false) (hp : (s.port port).state = 2) (hk : f.fkind = kind ∨ reservedKind f.fkind = true)
include hf hp hk

theorem State.arrive_guard : ¬((s.host.fatal || (s.port port).state ≠ 2 || !(f.fkind = kind || reservedKind f.fkind)) = true) := by
  rcases hk with hk | hk <;> simp [hf, hp, hk]

theorem State.arrive_pass {q : Nat} (h : ((s.takeFlits port f).answers f.src).frameFate f = .pass q) :
    s.arrive port kind f act = ((s.takeFlits port f).answers f.src).sendFrame q { f with hops := f.hops - 1 } := by
  refine (if_neg (State.arrive_guard hf hp hk)).trans ?_
  dsimp only
  rw [h]

theorem State.arrive_drop (h : ((s.takeFlits port f).answers f.src).frameFate f = .drop) :
    s.arrive port kind f act = ((s.takeFlits port f).answers f.src).count 0 1 (f.flags % 2 == 1) := by
  refine (if_neg (State.arrive_guard hf hp hk)).trans ?_
  dsimp only
  rw [h]

theorem State.arrive_refuse (h : ((s.takeFlits port f).answers f.src).frameFate f = .refuse) :
    s.arrive port kind f act = (((s.takeFlits port f).answers f.src).count 1 1 false).errorReply f 4 := by
  refine (if_neg (State.arrive_guard hf hp hk)).trans ?_
  dsimp only
  rw [h]
  rfl

theorem State.arrive_take {w : Work} {lent : Bool} (h : ((s.takeFlits port f).answers f.src).frameFate f = .take w lent) :
    s.arrive port kind f act = act w lent ((s.takeFlits port f).answers f.src) := by
  refine (if_neg (State.arrive_guard hf hp hk)).trans ?_
  dsimp only
  rw [h]

end

/-- What a package takes up has the shape of its kind (Table 11.5). -/
theorem State.frameShape_of_take {s : State} {f : Frame} {w : Work} {lent : Bool} (h : s.frameFate f = .take w lent) :
    frameShape f = true := by
  by_contra hs
  have hs := eq_false_of_ne_true hs
  unfold State.frameFate at h
  split at h
  · cases ht : s.transitPort f <;> rw [ht] at h <;> cases h
  · extract_lets own borrower mine lent' late take at h
    have ht (e : Nat) (l : Bool) : take e l = .drop := if_pos (by simp [hs])
    simp only [ht] at h
    split_ifs at h
    split at h <;> cases h

/-- A WRITE that carries no data, or comes on virtual channel 0, has not the shape of one. -/
theorem frameShape_write {f : Frame} (hk : f.fkind = 1) (h : f.vc = 0 ∨ f.nflit = 0) : frameShape f = false := by
  simp only [frameShape, hk]
  rcases h with h | h <;> simp [h]

/-- Settles O39. -/
theorem framesThatAreNotTaken : Obligations.FramesThatAreNotTaken := by
  unfold Obligations.FramesThatAreNotTaken
  refine ⟨fun i port kind f hr hw => ⟨frameHeader_length f, frameOfHeader_frameHeader hr hw⟩,
    fun n c hw hn hl => ⟨controlBytes_length hn, controlOfBytes_controlBytes hw hn hl⟩, fun s i port kind f hr => ?_⟩
  obtain ⟨act, hx⟩ := exec_of_frameRow hr
  refine ⟨fun hp => (hx s).trans (congrArg _ (State.arrive_down hp)), ?_⟩
  intro hf hp hk u
  refine ⟨fun q h => (hx s).trans (congrArg _ (State.arrive_pass hf hp hk h)),
    fun h => (hx s).trans (congrArg _ (State.arrive_drop hf hp hk h)),
    fun h => (hx s).trans (congrArg _ (State.arrive_refuse hf hp hk h)), fun w lent h hk ht => ?_⟩
  have := State.frameShape_of_take ht
  rw [frameShape_write hk h] at this
  exact Bool.false_ne_true this

end Sys2Proof.Machine
end

section

/-!
SUPPORT. O40: what each kind of frame does once it is taken up.
-/

namespace Sys2Proof.Machine

/-! ### Data that lie in one page -/

theorem pageOf_mul_frameBytes {la : Nat} (h : la < 2 ^ 48) : pageOf la * frameBytes + la % frameBytes = la := by
  rw [pageOf, Nat.mod_eq_of_lt h, Nat.mul_comm, Nat.div_add_mod]

theorem pageChunks_zero (fuel la : Nat) : pageChunks fuel la 0 = [] := by
  cases fuel <;> rfl

/-- A range within one page is one piece. -/
theorem chunksOf_within {la n : Nat} (hn : n ≠ 0) (h : la % frameBytes + n ≤ frameBytes) :
    chunksOf la n = [(pageOf la, la % frameBytes, n)] := by
  have hm : min n (frameBytes - la % frameBytes) = n := Nat.min_eq_left (by omega)
  rw [chunksOf, pageChunks, if_neg hn]
  simp only [hm, Nat.sub_self, pageChunks_zero]

theorem MemState.reachWrite_single {m : MemState} {E e n : Nat} (hv : (m.page n).valid = true) (hl : (m.page n).loc = .home)
    (ho : (m.page n).state = .open_) (hb : (m.page n).banked = false) : m.reachWrite E e n = .frame (m.page n).frame0 := by
  simp [MemState.reachWrite, hv, hl, ho, hb, MemState.noAnswer_home hl, Page.frameOf_single hb]

theorem MemState.tagSpec_false (m : MemState) (n : Nat) : m.tagSpec n false = m := rfl

/-- Bytes within one page of its own are written to the page's frame. -/
theorem State.writeRange_single {s : State} {w : Work} {la f : Nat} {bs : List Byte} (hs : w.spec = false) (hb : bs ≠ [])
    (hc : la % frameBytes + bs.length ≤ frameBytes)
    (hr : s.writeReach w (pageOf la) (la % frameBytes) bs.length = .frame f) :
    (s.writeRange w la bs).2 = none ∧ (s.writeRange w la bs).1.mem = s.mem.write (f * frameBytes + la % frameBytes) bs := by
  rw [State.writeRange, chunksOf_within (by simpa using hb) hc]
  simp only [List.foldl_cons, List.foldl_nil, List.take_length, hr, State.countClay_mem, hs, MemState.tagSpec_false, and_self]

/-- Whole flits carry no digest behind them. -/
theorem State.landDigest_whole {s : State} {bs : List Byte} (h : bs.length % 64 = 0) (la : Nat) : s.landDigest la bs = (bs, s) := by
  have hn : s.shardTable.find? (fun x => x.held && bs.length % 64 == 8 &&
      decide (x.addr + 2 * (x.rows * x.cols) ≤ la + bs.length - 8) &&
      decide (la + bs.length - 8 < x.addr + 2 * (x.rows * x.cols) + 64)) = none :=
    List.find?_eq_none.2 fun x _ => by simp [h]
  unfold State.landDigest
  dsimp only
  rw [hn]

/-- A WRITE to an open page of its own that has one frame. -/
theorem State.landWrite_home {s : State} {w : Work} {f : Frame} (hv : (s.mem.page (pageOf f.laddr)).valid = true)
    (hl : (s.mem.page (pageOf f.laddr)).loc = .home) (ho : (s.mem.page (pageOf f.laddr)).state = .open_)
    (hb : (s.mem.page (pageOf f.laddr)).banked = false) (hs : w.spec = false) (h64 : f.data.length % 64 = 0)
    (hd : f.data ≠ []) (hi : s.meetsInlet f.laddr f.data.length = false) (ha : f.laddr < 2 ^ 48)
    (hc : f.laddr % frameBytes + f.data.length ≤ frameBytes) :
    (s.landWrite w f).2 = none ∧ (s.landWrite w f).1.mem =
      s.mem.write ((s.mem.page (pageOf f.laddr)).frame0 * frameBytes + f.laddr % frameBytes) f.data := by
  have hr : s.writeReach w (pageOf f.laddr) (f.laddr % frameBytes) f.data.length =
      .frame (s.mem.page (pageOf f.laddr)).frame0 := by
    rw [State.writeReach, pageOf_mul_frameBytes ha, hi, if_neg Bool.false_ne_true, MemState.reachWrite_single hv hl ho hb]
  have he : s.landWrite w f = s.writeRange w f.laddr f.data := by
    unfold State.landWrite
    rw [State.landDigest_whole h64]
    exact if_neg (by simp [hl])
  rw [he]
  exact State.writeRange_single hs hd hc hr

/-! ### The kinds of frame -/

section
variable {s : State} {port : Nat} {f : Frame} {w : Work} {lent : Bool}

theorem exec_taken {i : Instr} {kind : Nat} {act : Work → Bool → State → State}
    (hx : ∀ s, exec i s = .next (s.arrive port kind f act)) (hf : s.host.fatal = false) (hp : (s.port port).state = 2)
    (hk : f.fkind = kind) (ht : ((s.takeFlits port f).answers f.src).frameFate f = .take w lent) :
    exec i s = .next (act w lent ((s.takeFlits port f).answers f.src)) :=
  (hx s).trans (congrArg _ (State.arrive_take hf hp (.inl hk) ht))

variable (hf : s.host.fatal = false) (hp : (s.port port).state = 2)
  (ht : ((s.takeFlits port f).answers f.src).frameFate f = .take w lent)
include hf hp ht

theorem exec_write_lands (hk : f.fkind = 1) (hl : lent = false) {v : State}
    (h : ((s.takeFlits port f).answers f.src).landWrite w f = (v, none)) :
    exec (.write port f) s = .next (v.frameLanded f v.fc) := by
  refine (exec_taken (fun _ => rfl) hf hp hk ht).trans (congrArg _ ?_)
  rw [hl, if_neg Bool.false_ne_true, h]

theorem exec_write_faults (hk : f.fkind = 1) (hl : lent = false) {v : State} {e : MemFault}
    (h : ((s.takeFlits port f).answers f.src).landWrite w f = (v, some e)) :
    exec (.write port f) s = .next (v.errorReply f e.code) := by
  refine (exec_taken (fun _ => rfl) hf hp hk ht).trans (congrArg _ ?_)
  rw [hl, if_neg Bool.false_ne_true, h]

/-- A TILE_WRITE carries data, so its rows are delivered to the tile that the header names. -/
theorem exec_tileWrite_delivers (hk : f.fkind = 2) {id : TileId} (hd : f.dtile / 512 % 32 = id.die.val)
    (hn : f.dtile % 512 = id.tile.val) (hi : siltIn (f.laddr % 2 ^ 21) f.data.length = true) :
    exec (.tileWrite port f) s = .next (((s.takeFlits port f).answers f.src).deliverRows id
      ((s.takeFlits port f).answers f.src).fc (f.laddr % 2 ^ 21) f.data (some (.frame { f with data := [] }))) := by
  have hid : tileId? (f.dtile / 512 % 32) (f.dtile % 512) = some id := by
    rw [tileId?, dif_pos ⟨hd ▸ id.die.isLt, hn ▸ id.tile.isLt⟩]
    exact congrArg some (by obtain ⟨d, t⟩ := id; simp_all)
  have hne : f.data.isEmpty = false := by
    have hs := State.frameShape_of_take ht
    by_contra h
    have hz : f.data.length = 0 := by simpa using h
    simp [frameShape, hk, hz, flitsOf, ceilDiv] at hs
    omega
  refine (exec_taken (fun _ => rfl) hf hp hk ht).trans (congrArg _ ?_)
  rw [hid]
  dsimp only
  rw [if_pos hi, hne, if_neg Bool.false_ne_true]

theorem exec_readReq_away (hk : f.fkind = 3) (hl : lent = false)
    (h : ((s.takeFlits port f).answers f.src).reachesAway w f.laddr (f.opx * 64) = true) :
    exec (.readReq port f) s = .next (((s.takeFlits port f).answers f.src).errorReply f 5) := by
  refine (exec_taken (fun _ => rfl) hf hp hk ht).trans (congrArg _ ?_)
  rw [hl, if_neg Bool.false_ne_true, if_pos h]

theorem exec_readReq_data (hk : f.fkind = 3) (hl : lent = false)
    (h : ((s.takeFlits port f).answers f.src).reachesAway w f.laddr (f.opx * 64) = false) {bs : List Byte}
    (hr : ((s.takeFlits port f).answers f.src).readRange w f.laddr (f.opx * 64) = (bs, none)) :
    exec (.readReq port f) s =
      .next ((((s.takeFlits port f).answers f.src).countRead w f.laddr (f.opx * 64)).replyData w f bs) := by
  refine (exec_taken (fun _ => rfl) hf hp hk ht).trans (congrArg _ ?_)
  dsimp only
  rw [hl, if_neg Bool.false_ne_true, h, if_neg Bool.false_ne_true, hr]

theorem exec_readReq_faults (hk : f.fkind = 3) (hl : lent = false)
    (h : ((s.takeFlits port f).answers f.src).reachesAway w f.laddr (f.opx * 64) = false) {bs : List Byte} {e : MemFault}
    (hr : ((s.takeFlits port f).answers f.src).readRange w f.laddr (f.opx * 64) = (bs, some e)) :
    exec (.readReq port f) s = .next ((((s.takeFlits port f).answers f.src).errorReply f e.code).poisonNotice e) := by
  refine (exec_taken (fun _ => rfl) hf hp hk ht).trans (congrArg _ ?_)
  dsimp only
  rw [hl, if_neg Bool.false_ne_true, h, if_neg Bool.false_ne_true, hr]

theorem exec_readReply_waits (hk : f.fkind = 4) (hn : ((s.takeFlits port f).answers f.src).repairAt f.laddr = none)
    (h3 : (((s.takeFlits port f).answers f.src).ctx f.ctx).kind ≠ 3)
    (h6 : (((s.takeFlits port f).answers f.src).ctx f.ctx).kind ≠ 6)
    (ha : (((s.takeFlits port f).answers f.src).ctx f.ctx).state = .active) :
    let u := (s.takeFlits port f).answers f.src
    exec (.readReply port f) s =
      .next { u with fab := { u.fab with replies := u.fab.replies ++ [(f.ctx, f.laddr, f.data)] } } := by
  refine (exec_taken (fun _ => rfl) hf hp hk ht).trans (congrArg _ ?_)
  dsimp only
  rw [hn, if_neg (by decide), if_neg h3, if_neg (not_not_intro ha), if_neg h6]

theorem exec_errorReply_ends (hk : f.fkind = 5) (hr : ((s.takeFlits port f).answers f.src).job.repairing = []) :
    let u := (s.takeFlits port f).answers f.src
    exec (.errorReply port f) s = .next (if (u.ctx f.ctx).kind = 6 ∧ (u.ctx f.ctx).state = .active then
      u.setCtx f.ctx { u.ctx f.ctx with fault := f.opx % 256 }
      else u.streamFail f.ctx (f.opx % 256) (f.laddr / frameBytes * frameBytes) f.src) := by
  refine (exec_taken (fun _ => rfl) hf hp hk ht).trans (congrArg _ ?_)
  dsimp only
  rw [hr, List.find?_nil]

theorem exec_collective_taken (hk : f.fkind = 6) :
    let u := (s.takeFlits port f).answers f.src
    (u.collOf (f.coll % 65536) = none → exec (.collective port f) s = .next u) ∧
    ∀ c, u.collOf (f.coll % 65536) = some c →
      exec (.collective port f) s = .next (if (u.ctx (c.contexts.getD (c.members.idxOf u.fab.coord) 0)).state = .aborted ∧
        c.op ≠ 6 then u else u.arriveColl c w f) := by
  constructor
  · intro h
    refine (exec_taken (fun _ => rfl) hf hp hk ht).trans (congrArg _ ?_)
    rw [h]
  · intro c h
    refine (exec_taken (fun _ => rfl) hf hp hk ht).trans (congrArg _ ?_)
    rw [h]

end

/-- A piece that is not the last of its records waits for the others. -/
theorem State.gatherStream_first {s : State} {key : Nat} {f : Frame} (hl : bitOf f.flags 2 = false)
    (hn : mapGet [] s.fab.pieces key = []) :
    (s.gatherStream key f).1 = none ∧ (s.gatherStream key f).2 = { s with fab := (s.gatherStream key f).2.fab } := by
  rw [State.gatherStream, hn, hl]
  exact ⟨rfl, rfl⟩

theorem State.lentBegins_fab (src job e tag : Nat) (s : State) :
    (((s.ownerJob src job).seeOwner src e).lentBegins src tag).fab = s.fab := by
  have h1 : (s.ownerJob src job).fab = s.fab := by unfold State.ownerJob; split <;> rfl
  have h2 (u : State) : (u.seeOwner src e).fab = u.fab := by unfold State.seeOwner; split <;> rfl
  have h3 (u : State) : (u.lentBegins src tag).fab = u.fab := by unfold State.lentBegins; split <;> rfl
  rw [h3, h2, h1]

section
variable {s : State} {port : Nat} {f : Frame} {w : Work} {lent : Bool} {l : LentLayer}
variable (hf : s.host.fatal = false) (hp : (s.port port).state = 2)
  (ht : ((s.takeFlits port f).answers f.src).frameFate f = .take w lent)
include hf hp ht

theorem exec_gradForward_off (hk : f.fkind = 7) (h : ((s.takeFlits port f).answers f.src).mem.lendTilth = 0) :
    exec (.gradForward port f l) s = .next ((s.takeFlits port f).answers f.src) :=
  (exec_taken (fun _ => rfl) hf hp hk ht).trans (congrArg _ (if_pos h))

theorem exec_gradForward_first (hk : f.fkind = 7) (h : ((s.takeFlits port f).answers f.src).mem.lendTilth ≠ 0)
    (hl : bitOf f.flags 2 = false)
    (hn : mapGet [] ((s.takeFlits port f).answers f.src).fab.pieces (2 ^ 64 + f.src * 2 ^ 32 + f.stag) = []) :
    exec (.gradForward port f l) s =
      .next ((((((s.takeFlits port f).answers f.src).ownerJob f.src f.job).seeOwner f.src w.epoch).lentBegins f.src
        f.stag).gatherStream (2 ^ 64 + f.src * 2 ^ 32 + f.stag) f).2 := by
  rw [← State.lentBegins_fab f.src f.job w.epoch f.stag] at hn
  refine (exec_taken (fun _ => rfl) hf hp hk ht).trans (congrArg _ ((if_neg h).trans ?_))
  dsimp only
  rw [(State.gatherStream_first hl hn).1]

end

/-- Settles O40. -/
theorem framesThatAreTaken : Obligations.FramesThatAreTaken := by
  unfold Obligations.FramesThatAreTaken
  intro s port f w lent u hf hp ht
  refine ⟨fun hk hl => ⟨fun v => exec_write_lands hf hp ht hk hl, fun v e => exec_write_faults hf hp ht hk hl, ?_⟩,
    fun hk id hd hn hi => exec_tileWrite_delivers hf hp ht hk hd hn hi,
    fun hk hl => ⟨exec_readReq_away hf hp ht hk hl, fun h => ⟨fun bs => exec_readReq_data hf hp ht hk hl h,
      fun bs e => exec_readReq_faults hf hp ht hk hl h⟩⟩,
    fun hk hn h3 h6 ha => exec_readReply_waits hf hp ht hk hn h3 h6 ha, fun hk hr => ⟨fun h => ?_, fun h3 ha => ?_⟩,
    fun hk => ⟨(exec_collective_taken hf hp ht hk).1, ?_⟩, fun hk l => ⟨exec_gradForward_off hf hp ht hk, fun h hl hn => ?_⟩,
    fun hk => (exec_taken (fun _ => rfl) hf hp hk ht).trans rfl⟩
  · intro p hv hl' ho hb hs h64 hd hi ha hc
    obtain ⟨hr, hm⟩ := State.landWrite_home hv hl' ho hb hs h64 hd hi ha hc
    exact ⟨_, exec_write_lands hf hp ht hk hl (Prod.ext rfl hr), hm⟩
  · refine (exec_errorReply_ends hf hp ht hk hr).trans (congrArg _ (if_neg ?_))
    rintro ⟨h6, ha⟩
    exact h.elim (· h6) (· ha)
  · exact (exec_errorReply_ends hf hp ht hk hr).trans (congrArg _ (if_pos ⟨h3, ha⟩))
  · intro c hc cut
    have := (exec_collective_taken hf hp ht hk).2 c hc
    exact ⟨fun h => this.trans (congrArg _ (if_pos h)), fun h => this.trans (congrArg _ (if_neg h))⟩
  · refine ⟨_, _, rfl, exec_gradForward_first hf hp ht hk h hl hn, ?_⟩
    exact (State.gatherStream_first hl (by rw [State.lentBegins_fab]; exact hn)).2

end Sys2Proof.Machine
end

section

/-!
SUPPORT. O41: long commands and their slices.
-/

namespace Sys2Proof.Machine

/-! ### The rows of long commands -/

section
variable {s u : State} {ring : Nat} {c : Cmd}

/-- A ring whose first command has begun as a long one, with its first slice counted. -/
def State.startsLong (ring : Nat) (c : Cmd) (w : LongWork) (v : State) : State :=
  v.setAux ring { v.aux ring with current := some c.ask, work := some w, slices := 1 }

theorem exec_export (h : s.runsFor (.export_ ring) = some (c, u)) (h1 : c.p 16 1 < 4) (h2 : c.p 18 2 ≤ c.p 20 2)
    (h3 : c.p 24 8 < 2 ^ 56) :
    exec (.export_ ring) s = .next (if !u.jobRuns then u.refuse c.ask 9 else
      u.freeCtx.elim (u.refuse c.ask 10) fun ctx => State.startsLong ring c
        (.export_ (if c.p 24 8 = 0 then c.p 18 2 else c.p 24 2) (c.p 26 1) (c.p 27 4) 0 u.job.epoch 0 0 ctx)
        (u.setCtx ctx { state := .ready, kind := 5 })) := by
  refine (State.row_runs rfl (fun _ => rfl) h
    (by simp only [h1, h2, h3, decide_true, Bool.and_self])).trans (congrArg _ ?_)
  dsimp only
  cases u.freeCtx <;> rfl

theorem exec_import (h : s.runsFor (.import_ ring) = some (c, u)) (h1 : c.p 16 1 < 2) :
    exec (.import_ ring) s = .next (if !u.jobRuns || u.runActive then u.refuse c.ask 9 else
      u.freeCtx.elim (u.refuse c.ask 10) fun ctx => State.startsLong ring c (.import_ 0 ctx)
        (u.setCtx ctx { state := .ready, kind := 5 })) := by
  refine (State.row_runs rfl (fun _ => rfl) h (decide_eq_true h1)).trans (congrArg _ ?_)
  dsimp only
  cases u.freeCtx <;> rfl

theorem exec_scrubFull (h : s.runsFor (.scrubFull ring) = some (c, u)) :
    exec (.scrubFull ring) s = .next (if u.jobRuns then u.refuse c.ask 9 else
      State.startsLong ring c (.units ((List.range 16).filter fun i => bitOf (c.p 16 2) i)) u) :=
  (State.row_runs rfl (fun _ => rfl) h rfl).trans rfl

theorem exec_selfTest (h : s.runsFor (.selfTest ring) = some (c, u)) (h1 : c.p 16 1 ≤ 0x1F) :
    exec (.selfTest ring) s = .next (if c.p 16 1 ≠ 0x1F ∧ !u.dies.contains (c.p 16 1) then u.refuse c.ask 8
      else if u.jobRuns then u.refuse c.ask 9 else
        State.startsLong ring c (.units (if c.p 16 1 = 0x1F then u.dies else [c.p 16 1])) u) :=
  (State.row_runs rfl (fun _ => rfl) h (decide_eq_true h1)).trans rfl

theorem exec_selfTest_parameter (h : s.runsFor (.selfTest ring) = some (c, u)) (h1 : 0x1F < c.p 16 1) :
    exec (.selfTest ring) s = .next (u.refuse c.ask 7) :=
  State.row_parameter rfl (fun _ => rfl) h (decide_eq_false (by omega))

end

/-! ### Slices -/

theorem State.wakeNow_rs (us : List UnitId) (s : State) : (s.wakeNow us).rs = s.rs := by
  have hl (l : List UnitId) (t : State) : (l.foldl (fun (s : State) u => s.setUnit u .active) t).rs = t.rs := by
    induction l generalizing t with
    | nil => rfl
    | cons u l ih => rw [List.foldl_cons, ih, State.setUnit_rs]
  rw [State.wakeNow, hl, State.passFc_rs]

theorem State.wakeNow_aux (us : List UnitId) (s : State) (r : Nat) : (s.wakeNow us).aux r = s.aux r := by
  rw [State.aux, State.wakeNow_rs, State.aux]

theorem State.setAux_setAux {x y : RingAux} (hx : x ≠ {}) (hy : y ≠ {}) (r : Nat) (s : State) :
    (s.setAux r x).setAux r y = s.setAux r y := by
  rw [State.setAux, State.setAux, State.setAux, mapSet_mapSet_listed hx hy]

theorem RingAux.ne_default_of_current {x : RingAux} {a : Ask} (h : x.current = some a) : x ≠ {} := by
  rintro rfl
  cases h

section
variable {s : State} {ring core : Nat} {a : Ask}

/-- A slice of a command that no CANCEL awaits and that reports no progress is counted. -/
theorem State.sliceOver_counts (hc : ∀ k ∈ (s.aux ring).cancel, k.1 ≠ a.seq) (hp : a.prog = false) :
    s.sliceOver ring a = s.setAux ring { s.aux ring with slices := (s.aux ring).slices + 1 } := by
  have hn : ((s.aux ring).cancel.any fun k => k.1 == a.seq) = false := by
    rw [List.any_eq_false]
    exact fun k hk => by simpa using hc k hk
  rw [State.sliceOver]
  simp only [hn, hp, Bool.false_eq_true, if_false]

/-- What ends with its units, or with its image, has nothing else to give back. -/
theorem State.finish_plain {cls code : Nat} {res : List Word}
    (h : (∃ l, (s.aux ring).work = some (.units l)) ∨ ∃ i d, (s.aux ring).work = some (.load i d)) :
    s.finish ring a cls code res = s.answer a cls code res := by
  rcases h with ⟨l, h⟩ | ⟨i, d, h⟩ <;> rw [State.finish, State.endWork, h] <;> rfl

variable (hf : s.host.fatal = false)
  (hh : (s.aux (s.ring ring).pair).held = []) (hfull : (s.ring (s.ring ring).pair).full = false)
  (hcore : s.coreFor ring = some core)
include hf hh hfull hcore

theorem exec_sliceEnd_guard : ¬((s.host.fatal || !(s.aux (s.ring ring).pair).held.isEmpty || (s.ring (s.ring ring).pair).full ||
    (s.coreFor ring).isNone) = true) := by
  simp [hf, hh, hfull, hcore]

theorem exec_sliceEnd_sweep {l : Nat} (hc : (s.aux ring).current = some a) (hw : (s.aux ring).work = some (.sweep l)) :
    exec (.sliceEnd ring) s = .next ((s.served ring core).sliceOver ring a) := by
  refine congrArg ok ?_
  rw [hc, hw]
  refine (if_neg (exec_sliceEnd_guard hf hh hfull hcore)).trans ?_
  rw [hcore]
  rfl

theorem exec_sliceEnd_units {l : List Nat} (hc : (s.aux ring).current = some a)
    (hw : (s.aux ring).work = some (.units l)) :
    exec (.sliceEnd ring) s = .next ((s.served ring core).unitsStep ring a l) := by
  refine congrArg ok ?_
  rw [hc, hw]
  refine (if_neg (exec_sliceEnd_guard hf hh hfull hcore)).trans ?_
  rw [hcore]
  rfl

theorem exec_sliceEnd_cancelled {i : Option Image} {d : List Byte} (hc : (s.aux ring).current = some a)
    (hw : (s.aux ring).work = some (.load i d))
    (hk : ∃ k ∈ (s.aux ring).cancel, k.1 = a.seq) :
    exec (.sliceEnd ring) s = .next ((s.served ring core).finish ring a 3 0x40 [0, 0]) := by
  refine congrArg ok ?_
  rw [hc, hw]
  refine (if_neg (exec_sliceEnd_guard hf hh hfull hcore)).trans ?_
  rw [hcore]
  obtain ⟨k, hk, he⟩ := hk
  exact if_pos (List.any_eq_true.2 ⟨k, hk, (beq_iff_eq (a := k.1)).2 he⟩)

end

/-- A ring whose replies wait, or that no core serves next, has no slice. -/
theorem exec_sliceEnd_waits {s : State} {ring : Nat} (h : (s.aux (s.ring ring).pair).held ≠ [] ∨
    (s.ring (s.ring ring).pair).full = true ∨ s.coreFor ring = none) : exec (.sliceEnd ring) s = .next s := by
  refine congrArg ok ?_
  cases hc : (s.aux ring).current with
  | none => rfl
  | some a =>
    cases hw : (s.aux ring).work with
    | none => rfl
    | some w =>
      refine if_pos ?_
      rcases h with h | h | h <;> simp [h]

section
variable {v : State} {ring : Nat} {a : Ask} {k : Nat}

/-- A die tested with others left: the others stand, and a slice more is counted. -/
theorem State.unitsStep_next {rest : List Nat} (hx : (v.aux ring).current = some a) (hr : rest ≠ []) (ho : a.opcode = 0xE3)
    (hp : a.prog = false) (hk : ∀ y ∈ (v.aux ring).cancel, y.1 ≠ a.seq) :
    v.unitsStep ring a (k :: rest) = (v.wakeNow (allUnits.filter fun n => n.die == k)).setAux ring
      { v.aux ring with work := some (.units rest), slices := (v.aux ring).slices + 1 } := by
  have hopc : a.opcode ≠ 0xE2 := by rw [ho]; decide
  have hw : (v.wakeNow (allUnits.filter fun n => n.die == k)).aux ring = v.aux ring :=
    v.wakeNow_aux _ ring
  rw [State.unitsStep, if_neg hopc, if_neg (by simpa using hr)]
  dsimp only
  generalize v.wakeNow (allUnits.filter fun n => n.die == k) = u at hw ⊢
  have hset (x : RingAux) (hne : x.current = some a) : (u.setAux ring x).aux ring = x :=
    (State.aux_setAux (RingAux.ne_default_of_current hne) ring ring u).trans (if_pos rfl)
  have hwork : (u.setWork ring (.units rest)).aux ring = { v.aux ring with work := some (.units rest) } := by
    rw [State.setWork, hw]
    exact hset _ hx
  rw [State.sliceOver_counts (by rw [hwork]; exact hk) hp, hwork, State.setWork, hw]
  exact State.setAux_setAux (x := { v.aux ring with work := some (.units rest) })
    (y := { v.aux ring with work := some (.units rest), slices := (v.aux ring).slices + 1 })
    (RingAux.ne_default_of_current (a := a) hx) (RingAux.ne_default_of_current (a := a) hx) ring u

/-- The last die tested. -/
theorem State.unitsStep_last (hw : (v.aux ring).work = some (.units [k])) (ho : a.opcode = 0xE3) :
    v.unitsStep ring a [k] = (v.wakeNow (allUnits.filter fun n => n.die == k)).done a [] := by
  have hopc : a.opcode ≠ 0xE2 := by rw [ho]; decide
  have hw' : ((v.wakeNow (allUnits.filter fun n => n.die == k)).aux ring).work = some (.units [k]) :=
    (congrArg RingAux.work (v.wakeNow_aux _ ring)).trans hw
  rw [State.unitsStep, if_neg hopc]
  exact State.finish_plain (.inl ⟨_, hw'⟩)

end

/-- A host buffer of a load that is not completed. -/
theorem exec_completionTimeout_load {s : State} {ring : Nat} {a : Ask} {i : Option Image} {d : List Byte}
    (hc : (s.aux ring).current = some a) (hw : (s.aux ring).work = some (.load i d)) (hf : s.host.fatal = false) :
    exec (.completionTimeout ring) s =
      .next (({ s with host := { s.host with aer := s.host.aer ++ [2] }, free := s.free + 1 } : State).answer a 5 1
        [BitVec.ofNat 32 (4 + Config.freeNat s.free % 256 * 256), 0, 0]) := by
  refine congrArg ok ((if_neg (by rw [hf]; decide)).trans ?_)
  rw [hc, hw]
  have hp : s.progress ring a = [0, 0] := by rw [State.progress, hw]
  change State.finish ring a 5 1 (BitVec.ofNat 32 (4 + Config.freeNat s.free % 256 * 256) :: s.progress ring a)
    ({ s with host := { s.host with aer := s.host.aer ++ [2] }, free := s.free + 1 } : State) = _
  rw [hp]
  exact State.finish_plain (.inr ⟨i, d, hw⟩)

/-- Settles O41. -/
theorem longCommandsGoOnInSlices : Obligations.LongCommandsGoOnInSlices := by
  unfold Obligations.LongCommandsGoOnInSlices
  refine ⟨fun s ring c u => ?_, fun s ring a w => ?_⟩
  · intro starts
    refine ⟨fun h h1 h2 h3 => ⟨fun hi => ?_, fun hi => ⟨fun hn => ?_, fun ctx hn => ?_⟩⟩,
      fun h h1 => ⟨fun hi => ?_, fun hi hr => ⟨fun hn => ?_, fun ctx hn => ?_⟩⟩,
      fun h => ⟨fun hi => (exec_scrubFull h).trans (congrArg _ (if_pos hi)), fun hi => ?_⟩, fun h => ?_⟩
    · exact (exec_export h h1 h2 h3).trans (congrArg _ (if_pos (by simp [State.jobRuns, hi])))
    · refine (exec_export h h1 h2 h3).trans (congrArg _ ((if_neg (by simp [State.jobRuns, hi])).trans ?_))
      rw [hn]
      rfl
    · refine (exec_export h h1 h2 h3).trans (congrArg _ ((if_neg (by simp [State.jobRuns, hi])).trans ?_))
      rw [hn]
      rfl
    · refine (exec_import h h1).trans (congrArg _ (if_pos ?_))
      rcases hi with hi | hi <;> simp [State.jobRuns, State.runActive, hi]
    · refine (exec_import h h1).trans (congrArg _ ((if_neg (by simp [State.jobRuns, State.runActive, hi, hr])).trans ?_))
      rw [hn]
      rfl
    · refine (exec_import h h1).trans (congrArg _ ((if_neg (by simp [State.jobRuns, State.runActive, hi, hr])).trans ?_))
      rw [hn]
      rfl
    · exact (exec_scrubFull h).trans (congrArg _ (if_neg (by simp [State.jobRuns, hi])))
    · refine ⟨exec_selfTest_parameter h, fun h1 h2 => ?_, fun h1 h2 => ⟨fun hi => ?_, fun hi => ?_⟩⟩
      · exact (exec_selfTest h (by omega)).trans (congrArg _ (if_pos ⟨by omega, by simpa using h2⟩))
      · refine (exec_selfTest h h2).trans (congrArg _ ((if_neg ?_).trans (if_pos hi)))
        rintro ⟨h3, h4⟩
        exact h1.elim h3 fun h5 => by simp [h5] at h4
      · refine (exec_selfTest h h2).trans (congrArg _ ((if_neg ?_).trans (if_neg (by simp [State.jobRuns, hi]))))
        rintro ⟨h3, h4⟩
        exact h1.elim h3 fun h5 => by simp [h5] at h4
  · intro x pair hc hw hf
    refine ⟨fun hh hfull core hcore => ?_, exec_sliceEnd_waits, fun l d hl => ?_⟩
    · intro v units
      refine ⟨fun l hl hp hk => ?_, fun k rest hl hr ho hp hk => ?_, fun k hl ho => ?_, fun l d hl hk => ?_⟩
      · exact (exec_sliceEnd_sweep hf hh hfull hcore hc (hw.trans (congrArg _ hl))).trans
          (congrArg _ (State.sliceOver_counts (s := v) hk hp))
      · exact (exec_sliceEnd_units hf hh hfull hcore hc (hw.trans (congrArg _ hl))).trans
          (congrArg _ (State.unitsStep_next (v := v) hc hr ho hp hk))
      · exact (exec_sliceEnd_units hf hh hfull hcore hc (hw.trans (congrArg _ hl))).trans
          (congrArg _ (State.unitsStep_last (v := v) (hw.trans (congrArg _ hl)) ho))
      · exact (exec_sliceEnd_cancelled hf hh hfull hcore hc (hw.trans (congrArg _ hl)) hk).trans
          (congrArg _ (State.finish_plain (s := v) (.inr ⟨l, d, hw.trans (congrArg _ hl)⟩)))
    · exact ⟨_, _, exec_completionTimeout_load hc (hw.trans (congrArg _ hl)) hf, rfl, rfl, rfl⟩

end Sys2Proof.Machine
end

section

/-!
SUPPORT. O42: power limits, budgets, lends and the supply warning.
-/

namespace Sys2Proof.Machine

theorem State.final_pow (a : Ask) (cls code : Nat) (ws : List Word) (s : State) : (s.final a cls code ws).pow = s.pow := by
  obtain ⟨n, q, h, k, e⟩ := State.final_from a cls code ws s
  rw [e]

theorem State.toSc_only (t : Nat) (s : State) : ∃ f, s.toSc t = { s with fc := f, sc := max s.sc t } := by
  unfold State.toSc
  split
  · next h =>
    rw [Nat.max_eq_right (Nat.le_of_lt h)]
    exact ⟨_, rfl⟩
  · next h =>
    rw [Nat.max_eq_left (Nat.le_of_not_lt h)]
    exact ⟨_, rfl⟩

/-! ### The limit and B -/

/-- `v` is `u` but for trust, rings and the host interface: what an entry of the audit log may touch. -/
def State.loggedFrom (u v : State) : Prop := ∃ t q h, v = { u with trust := t, rs := q, host := h }

theorem State.auditFor_logged (a : Ask) (k o : Nat) (old new : List Byte) (s : State) :
    s.loggedFrom (s.auditFor a k o old new) := by
  obtain ⟨t, q, h, e, -⟩ := s.auditFor_only a k o old new
  exact ⟨t, q, h, e⟩

theorem State.audit_logged (k o : Nat) (old new : List Byte) (s : State) : s.loggedFrom (s.audit k o old new) := by
  obtain ⟨t, q, h, e, -⟩ := State.appendAudit_only (s.entry k 0 0 0 o old new) s
  exact ⟨t, q, h, e⟩

theorem State.pow_of_logged {u v : State} (h : u.loggedFrom v) : v.pow = u.pow := by
  obtain ⟨t, q, h, rfl⟩ := h
  rfl

theorem State.mem_of_logged {u v : State} (h : u.loggedFrom v) : v.mem = u.mem := by
  obtain ⟨t, q, h, rfl⟩ := h
  rfl

theorem State.job_of_logged {u v : State} (h : u.loggedFrom v) : v.job = u.job := by
  obtain ⟨t, q, h, rfl⟩ := h
  rfl

theorem State.sc_of_logged {u v : State} (h : u.loggedFrom v) : v.sc = u.sc := by
  obtain ⟨t, q, h, rfl⟩ := h
  rfl

/-- B where no delayed step is pending and nothing else set it in this sc. -/
theorem State.setBudget_alone {s : State} (hd : s.pow.delayed = none) (ht : ∀ x ∈ s.pow.budgetAt, x.1 ≠ s.sc) (b : Nat)
    (side : Bool) (a : Option Ask) :
    ({ s with pow := { s.pow with budget := min b 2000, budgetAt := some (s.sc, side) } } : State).loggedFrom
      (s.setBudget b side a) := by
  unfold State.setBudget
  extract_lets src b' old b'' gone u v
  have hb : b'' = b' := by
    cases hx : s.pow.budgetAt with
    | none => simp only [b'', hx]
    | some x =>
      simp only [b'', hx]
      exact if_neg fun h => ht x hx h.1
  have hu : ({ s with pow := { s.pow with budget := min b 2000, budgetAt := some (s.sc, side) } } : State) = u := by
    simp only [src, u, hb, hd, b']
  have hg : gone = none := hd
  rw [hg, hu]
  cases a with
  | none => exact State.audit_logged ..
  | some a => exact State.auditFor_logged ..

section
variable {s u : State} {ring : Nat} {c : Cmd}

theorem exec_powerLimit (h : s.runsFor (.powerLimit ring) = some (c, u)) (h1 : 1 ≤ c.p 16 2) (h2 : c.p 16 2 ≤ 2000) :
    exec (.powerLimit ring) s = .next ((({ u with pow := { u.pow with limit := c.p 16 2 } } : State).auditFor c.ask 0x104 0
      (leBytes 2 u.pow.limit) (leBytes 2 (c.p 16 2))).done c.ask []) := by
  refine (State.row_runs rfl (fun _ => rfl) h ?_).trans (congrArg _ ?_)
  · simp only [h1, h2, decide_true, Bool.and_self]
  · rfl

theorem exec_powerLimit_parameter (h : s.runsFor (.powerLimit ring) = some (c, u)) (h1 : c.p 16 2 < 1 ∨ 2000 < c.p 16 2) :
    exec (.powerLimit ring) s = .next (u.refuse c.ask 7) :=
  State.row_parameter rfl (fun _ => rfl) h (by
    rw [← Bool.decide_and]
    exact decide_eq_false (by omega))

theorem exec_budgetStep (h : s.runsFor (.budgetStep ring) = some (c, u)) :
    exec (.budgetStep ring) s = .next (if c.p 18 4 = 0 then (u.setBudget (c.p 16 2) false (some c.ask)).done c.ask []
      else u.delayBudget c) :=
  (State.row_runs rfl (fun _ => rfl) h rfl).trans rfl

/-- The state of a package with a step of B that is delayed. -/
def State.budgetDelayed (c : Cmd) (s : State) : State :=
  { s with pow := { s.pow with delayed := some (c.ask, min (c.p 16 2) 2000, s.sc + c.p 18 4) } }

theorem State.delayBudget_first (h : u.pow.delayed = none) :
    u.delayBudget c = (u.budgetDelayed c).answer c.ask 1 0 (4 :: wordsOf 2 (c.p 18 4 * fcPerSc u.pow.point)) := by
  unfold State.delayBudget
  rw [h]
  rfl

/-- A step of B that takes the place of a delayed one ends that one with CANCELLED. -/
theorem State.delayBudget_replaces {a : Ask} {b t : Nat} (h : u.pow.delayed = some (a, b, t)) :
    u.delayBudget c = ((u.budgetDelayed c).final a 3 0x40 [0, 0, 0, 0]).answer c.ask 1 0
      (4 :: wordsOf 2 (c.p 18 4 * fcPerSc u.pow.point)) := by
  have hp : ((u.budgetDelayed c).final a 3 0x40 [0, 0, 0, 0]).pow.point = u.pow.point := by rw [State.final_pow]; rfl
  rw [← hp]
  unfold State.delayBudget
  rw [h]
  rfl

theorem exec_budgetLend (h : s.runsFor (.budgetLend ring) = some (c, u)) (h1 : c.p 16 2 ≤ 2000) (h2 : c.p 18 4 ≤ 65535) :
    exec (.budgetLend ring) s = .next ((({ u with pow := { u.pow with
      lent := if c.p 18 4 = 0 then 0 else c.p 16 2
      lendUntil := if c.p 18 4 = 0 then 0 else u.sc + c.p 18 4 * scPerSecond } } : State).auditFor c.ask 0x106 0
        (leBytes 2 u.pow.lent) (leBytes 2 (if c.p 18 4 = 0 then 0 else c.p 16 2))).done c.ask []) := by
  refine (State.row_runs rfl (fun _ => rfl) h ?_).trans (congrArg _ ?_)
  · simp only [h1, h2, decide_true, Bool.and_self]
  · rfl

theorem exec_budgetLend_parameter (h : s.runsFor (.budgetLend ring) = some (c, u)) (h1 : 2000 < c.p 16 2 ∨ 65535 < c.p 18 4) :
    exec (.budgetLend ring) s = .next (u.refuse c.ask 7) :=
  State.row_parameter rfl (fun _ => rfl) h (by
    rw [← Bool.decide_and]
    exact decide_eq_false (by omega))

end

/-! ### Events -/

section
variable {s : State}

theorem exec_budgetStepDelayEnd_due {a : Ask} {b due : Nat} (h : s.pow.delayed = some (a, b, due)) :
    exec .budgetStepDelayEnd s =
      .next ((({ s.toSc due with pow := { (s.toSc due).pow with delayed := none } } : State).setBudget b false
        (some a)).final a 0 0 []) := by
  refine congrArg ok ?_
  rw [h]

theorem exec_sbBudgetWrite (h : s.board.aon = true) (v : BitVec 32) :
    exec (.sbBudgetWrite v) s = .next (s.setBudget (v.toNat % 65536) true none) ∧
      exec (.sbRegisterWrite 0x40 v) s = .next (s.setBudget (v.toNat % 65536) true none) :=
  ⟨congrArg ok (if_pos h), congrArg ok ((if_neg (by simp [h])).trans (if_pos rfl))⟩

theorem exec_sbWarnWrite (h : s.board.aon = true) (v : BitVec 32) :
    exec (.sbWarnWrite v) s = .next (s.setWarn (v.toNat % 65536)) ∧
      exec (.sbRegisterWrite 0x44 v) s = .next (s.setWarn (v.toNat % 65536)) :=
  ⟨congrArg ok (if_pos h), congrArg ok ((if_neg (by simp [h])).trans ((if_neg (by decide)).trans (if_pos rfl)))⟩

theorem exec_sbPstatWrite (h : s.board.aon = true) (v : BitVec 32) :
    exec (.sbRegisterWrite 0x50 v) s =
      .next { s with pow := { s.pow with pstat := s.pow.pstatNow.clear s.sc s.pow.pstat (v.setWidth 6) } } :=
  congrArg ok ((if_neg (by simp [h])).trans ((if_neg (by decide)).trans ((if_neg (by decide)).trans (if_pos rfl))))

/-- A power notice with its bit of SB_PSTAT: nothing but rings, the host interface and SB_PSTAT. -/
theorem State.powerNotice_only (code b : Nat) (ws : List Word) (s : State) :
    ∃ q h, s.powerNotice code (some b) ws = { s with rs := q, host := h, pow := { s.pow with
      pstat := s.pow.pstat ||| (1#6 <<< b), pstatNow := s.pow.pstatNow.add s.sc (1#6 <<< b) } } := by
  obtain ⟨q, h, e⟩ := s.notice_only code ws
  obtain ⟨h', e'⟩ := (s.notice code ws).setCause_only 3
  rw [State.powerNotice, e', e]
  exact ⟨q, h', rfl⟩

end

/-- Settles O42. -/
theorem powerLimitsAndBudgets : Obligations.PowerLimitsAndBudgets := by
  unfold Obligations.PowerLimitsAndBudgets
  refine ⟨fun s ring c u => ⟨fun h => ⟨exec_powerLimit_parameter h, fun h1 h2 => ?_⟩, fun h => ⟨fun h0 hd ht => ?_, fun h0 => ?_⟩,
    fun h => ⟨exec_budgetLend_parameter h, fun h1 h2 => ?_⟩⟩, fun s => ⟨fun a b due hd => ?_, fun hl => ?_, fun ha hd ht v => ?_,
    fun ha v => ?_, exec_sbPstatWrite, fun ha hw => ?_, rfl⟩⟩
  · have hv := State.auditFor_logged c.ask 0x104 0 (leBytes 2 u.pow.limit) (leBytes 2 (c.p 16 2))
      { u with pow := { u.pow with limit := c.p 16 2 } }
    exact ⟨_, exec_powerLimit h h1 h2, (State.pow_of_logged hv).trans rfl, (State.mem_of_logged hv).trans rfl, (State.job_of_logged hv).trans rfl⟩
  · have hv := State.setBudget_alone hd ht (c.p 16 2) false (some c.ask)
    exact ⟨_, (exec_budgetStep h).trans (congrArg _ (if_pos h0)), (State.pow_of_logged hv).trans rfl, (State.mem_of_logged hv).trans rfl⟩
  · exact ⟨u.budgetDelayed c, rfl,
      fun hd => (exec_budgetStep h).trans (congrArg _ ((if_neg h0).trans (State.delayBudget_first hd))),
      fun a b t hd => (exec_budgetStep h).trans (congrArg _ ((if_neg h0).trans (State.delayBudget_replaces hd)))⟩
  · have hv := State.auditFor_logged c.ask 0x106 0 (leBytes 2 u.pow.lent) (leBytes 2 (if c.p 18 4 = 0 then 0 else c.p 16 2))
      { u with pow := { u.pow with
        lent := if c.p 18 4 = 0 then 0 else c.p 16 2
        lendUntil := if c.p 18 4 = 0 then 0 else u.sc + c.p 18 4 * scPerSecond } }
    exact ⟨_, exec_budgetLend h h1 h2, (State.mem_of_logged hv).trans rfl, (State.pow_of_logged hv).trans rfl⟩
  · intro now ht
    obtain ⟨f, e⟩ := s.toSc_only due
    have hx := exec_budgetStepDelayEnd_due hd
    rw [e] at hx
    have hv := State.setBudget_alone (s := { s with fc := f, sc := now, pow := { s.pow with delayed := none } }) rfl ht b
      false (some a)
    exact ⟨_, hx, (State.sc_of_logged hv).trans rfl, (State.mem_of_logged hv).trans rfl, (State.pow_of_logged hv).trans rfl⟩
  · obtain ⟨f, e⟩ := s.toSc_only s.pow.lendUntil
    have hx : exec .lendExpired s = .next (((({ s.toSc s.pow.lendUntil with
        pow := { (s.toSc s.pow.lendUntil).pow with lent := 0, lendUntil := 0 } } : State).audit 0x106 0
          (leBytes 2 (s.toSc s.pow.lendUntil).pow.lent) (leBytes 2 0))).powerNotice 0x823 none
            [BitVec.ofNat 32 (s.toSc s.pow.lendUntil).pow.lent]) := congrArg ok (if_neg hl)
    rw [e] at hx
    have hv := State.audit_logged 0x106 0 (leBytes 2 s.pow.lent) (leBytes 2 0)
      { s with fc := f, sc := max s.sc s.pow.lendUntil, pow := { s.pow with lent := 0, lendUntil := 0 } }
    exact ⟨_, hx, (State.pow_of_logged hv).trans rfl, (State.mem_of_logged hv).trans rfl⟩
  · have hv := State.setBudget_alone hd ht (v.toNat % 65536) true none
    exact ⟨_, (exec_sbBudgetWrite ha v).1, (exec_sbBudgetWrite ha v).2, (State.pow_of_logged hv).trans rfl, (State.mem_of_logged hv).trans rfl⟩
  · have hv := State.audit_logged 0x107 0 (leBytes 2 s.pow.warn) (leBytes 2 (v.toNat % 65536))
      { s with pow := { s.pow with warn := v.toNat % 65536 } }
    exact ⟨_, (exec_sbWarnWrite ha v).1, (exec_sbWarnWrite ha v).2, (State.pow_of_logged hv).trans rfl, (State.mem_of_logged hv).trans rfl⟩
  · obtain ⟨q, h, e⟩ := State.powerNotice_only 0x824 1 [BitVec.ofNat 32 s.pow.warn]
      { s with pow := { s.pow with warnIn := true }, board := { s.board with supplyWarnN := false } }
    refine ⟨_, congrArg ok ((if_neg (by simp [ha, hw])).trans e), rfl, rfl, rfl, rfl, rfl⟩

end Sys2Proof.Machine
end

section

/-!
SUPPORT. O43: power periods, samples, droops, operating points and trips.
-/

namespace Sys2Proof.Machine

/-! ### What a power period leaves alone -/

/-- `v` has the time, the memory, the job and the thermal state of `u`. -/
def State.periodKept (u v : State) : Prop :=
  v.sc = u.sc ∧ v.mem = u.mem ∧ v.job = u.job ∧ v.pow.tj = u.pow.tj ∧ v.pow.bind_ = u.pow.bind_ ∧
    v.pow.thermal = u.pow.thermal

theorem State.periodKept_refl (u : State) : u.periodKept u := ⟨rfl, rfl, rfl, rfl, rfl, rfl⟩

theorem State.periodKept_trans {u v w : State} (h : u.periodKept v) (h' : v.periodKept w) : u.periodKept w := by
  obtain ⟨h1, h2, h3, h4, h5, h6⟩ := h
  obtain ⟨h1', h2', h3', h4', h5', h6'⟩ := h'
  exact ⟨h1'.trans h1, h2'.trans h2, h3'.trans h3, h4'.trans h4, h5'.trans h5, h6'.trans h6⟩

theorem State.periodKept_foldl {α : Type} {f : State → α → State} (h : ∀ (s : State) (a : α), s.periodKept (f s a)) (l : List α) (s : State) :
    s.periodKept (l.foldl f s) := by
  induction l generalizing s with
  | nil => exact State.periodKept_refl s
  | cons a l ih => exact State.periodKept_trans (h s a) (ih _)

theorem State.periodKept_of_logged {u v : State} (h : u.loggedFrom v) : u.periodKept v := by
  obtain ⟨t, q, h, rfl⟩ := h
  exact State.periodKept_refl u

theorem State.powerNotice_kept (code b : Nat) (ws : List Word) (s : State) : s.periodKept (s.powerNotice code (some b) ws) := by
  obtain ⟨q, h, e⟩ := State.powerNotice_only code b ws s
  rw [e]
  exact ⟨rfl, rfl, rfl, rfl, rfl, rfl⟩

theorem State.setUnit_kept (u : UnitId) (p : UnitPower) (s : State) : s.periodKept (s.setUnit u p) := by
  rw [State.setUnit_eq]
  exact ⟨rfl, rfl, rfl, rfl, rfl, rfl⟩

theorem State.stretchBy_kept (n : Nat) (s : State) : s.periodKept (s.stretchBy n) := ⟨rfl, rfl, rfl, rfl, rfl, rfl⟩

theorem State.checkBudget_kept (predicted : List Nat) (s : State) : s.periodKept (s.checkBudget predicted) := by
  unfold State.checkBudget
  extract_lets need now new src t
  have ht : s.periodKept t := ⟨rfl, rfl, rfl, rfl, rfl, rfl⟩
  split
  · exact State.periodKept_trans ht (State.powerNotice_kept ..)
  · exact ht

theorem State.movePoint_kept (p : Nat) (s : State) : s.periodKept (s.movePoint p) := by
  unfold State.movePoint
  split
  · exact State.periodKept_refl s
  · exact ⟨rfl, rfl, rfl, rfl, rfl, rfl⟩

theorem State.wakeImage_kept (s : State) : s.periodKept s.wakeImage := by
  refine State.periodKept_foldl (fun s u => ?_) _ s
  split
  · exact State.setUnit_kept ..
  · exact State.setUnit_kept ..
  · exact State.setUnit_kept ..
  · exact State.periodKept_refl s

theorem State.gateUnits_kept (s : State) : s.periodKept s.gateUnits := by
  unfold State.gateUnits
  extract_lets rest t
  have hr (used : UnitId → Bool) (s : State) : s.periodKept (rest used s) := by
    refine State.periodKept_foldl (fun s u => ?_) _ s
    split
    · exact State.periodKept_refl s
    · split
      · exact State.setUnit_kept ..
      · exact State.setUnit_kept ..
      · exact State.periodKept_refl s
  split
  · split
    · exact hr ..
    · exact State.periodKept_trans (hr ..) (State.wakeImage_kept _)
  · split
    · exact hr ..
    · exact State.periodKept_refl s

theorem State.recordDenied_kept (s : State) : s.periodKept s.recordDenied := by
  unfold State.recordDenied
  split
  · exact State.periodKept_of_logged (State.audit_logged ..)
  · exact State.periodKept_refl s

/-- H and the junction of a period; time, memory and job stand. -/
theorem State.thermalPeriod_sets (tj die : Nat) (s : State) :
    (s.thermalPeriod tj die).sc = s.sc ∧ (s.thermalPeriod tj die).mem = s.mem ∧ (s.thermalPeriod tj die).job = s.job ∧
      (s.thermalPeriod tj die).pow.tj = tj ∧ (s.thermalPeriod tj die).pow.thermal =
        if 95 ≤ tj then s.pow.thermal + 25 else if tj < 92 then s.pow.thermal - 25 else s.pow.thermal := by
  unfold State.thermalPeriod
  extract_lets p H warn t
  split
  · obtain ⟨h1, h2, h3, h4, h5, h6⟩ := State.powerNotice_kept 0x822 3 [BitVec.ofNat 32 die, BitVec.ofNat 32 tj] t
    exact ⟨h1, h2, h3, h4, h6⟩
  · exact ⟨rfl, rfl, rfl, rfl, rfl⟩

theorem State.pointDone_only (s : State) :
    ∃ p q, s.pointDone = { s with pow := { s.pow with point := p, pointTo := q } } := by
  unfold State.pointDone
  split
  · exact ⟨_, _, rfl⟩
  · exact ⟨s.pow.point, s.pow.pointTo, rfl⟩

/-- The period's end, once the limit that binds has been taken. -/
def State.periodBroker (r : PeriodIn) (s : State) : State :=
  let s := (s.stretchBy r.stretched).checkBudget r.predicted
  let s := if r.belowFloor then
      s.powerNotice 0x821 (some 5) [BitVec.ofNat 32 r.rank, BitVec.ofNat 32 r.stretched]
    else s
  ((s.movePoint (s.wantedPoint r)).gateUnits).recordDenied

theorem State.periodBroker_kept (r : PeriodIn) (s : State) : s.periodKept (s.periodBroker r) := by
  unfold State.periodBroker
  extract_lets t u
  have ht : s.periodKept t := State.periodKept_trans (State.stretchBy_kept ..) (State.checkBudget_kept ..)
  have hu : t.periodKept u := by
    simp only [u]
    split
    · exact State.powerNotice_kept ..
    · exact State.periodKept_refl t
  exact State.periodKept_trans (State.periodKept_trans ht hu) (State.periodKept_trans (State.movePoint_kept ..)
    (State.periodKept_trans (State.gateUnits_kept _) (State.recordDenied_kept _)))

/-- The state of a period's end, before the broker acts. -/
def State.periodThermal (r : PeriodIn) (s : State) : State :=
  let s := ((s.toSc ((s.sc / 1024 + 1) * 1024)).pointDone).thermalPeriod r.tj r.die
  { s with pow := { s.pow with bind_ := r.rank } }

theorem State.periodThermal_sets (r : PeriodIn) (s : State) :
    (s.periodThermal r).sc = (s.sc / 1024 + 1) * 1024 ∧ (s.periodThermal r).mem = s.mem ∧ (s.periodThermal r).job = s.job ∧
      (s.periodThermal r).pow.tj = r.tj ∧ (s.periodThermal r).pow.bind_ = r.rank ∧ (s.periodThermal r).pow.thermal =
        if 95 ≤ r.tj then s.pow.thermal + 25 else if r.tj < 92 then s.pow.thermal - 25 else s.pow.thermal := by
  obtain ⟨f, e⟩ := s.toSc_only ((s.sc / 1024 + 1) * 1024)
  obtain ⟨p, q, e'⟩ := State.pointDone_only (s.toSc ((s.sc / 1024 + 1) * 1024))
  obtain ⟨h1, h2, h3, h4, h5⟩ :=
    State.thermalPeriod_sets r.tj r.die (s.toSc ((s.sc / 1024 + 1) * 1024)).pointDone
  unfold State.periodThermal
  rw [e', e] at h1 h2 h3 h4 h5
  rw [e', e]
  exact ⟨h1.trans (Nat.max_eq_right (by omega)), h2, h3, h4, rfl, h5⟩

theorem exec_powerPeriod {s : State} (r : PeriodIn) (hr : s.pow.rails = true) (hf : s.host.fatal = false) :
    exec (.powerPeriod r) s =
      .next (let t := (s.periodThermal r).periodBroker r
        { t with pow := { t.pow with restful := !t.jobRuns } }) :=
  congrArg ok (if_neg (by simp [hr, hf]))

/-! ### Samples and trips -/

/-- The state of a sample, once its energy is added and its window and voltage are taken. -/
def State.sampled (r : SampleIn) (s : State) : State :=
  let s := (s.toSc ((s.sc / 25 + 1) * 25)).addEnergy r.uj
  { s with pow := { s.pow with window := (r.uj.headD 0 :: s.pow.window).take 10, vin := r.vin } }

theorem State.holdAbsolute_only (s : State) :
    ∃ n k f, s.holdAbsolute = { s with pow := { s.pow with stretchNow := n }, cnt := k, free := f } := by
  unfold State.holdAbsolute
  split
  · exact ⟨_, _, _, rfl⟩
  · exact ⟨s.pow.stretchNow, s.cnt, s.free, rfl⟩

theorem exec_energySample {s : State} (r : SampleIn) (hr : s.pow.rails = true) (hq : r.quiet = []) :
    exec (.energySample r) s = .next (let t := (s.sampled r).holdAbsolute
      { t with pow := { t.pow with
        p1ms := r.p1ms.getD t.pow.p1ms, p1s := r.p1s.getD t.pow.p1s
        stretch := if r.p1ms.isSome then t.pow.stretchNow else t.pow.stretch
        stretchNow := if r.p1ms.isSome then 0 else t.pow.stretchNow } }) := by
  refine congrArg ok ((if_neg (by simp [hr])).trans ?_)
  simp only [hq, List.foldl_nil, ite_self]
  rfl

theorem State.energy_addEnergy (uj : List Nat) (s : State) {i : Nat} (h : i < 8) :
    (s.addEnergy uj).pow.energy[i]! = (s.pow.energy[i]! + uj.getD i 0) % 2 ^ 64 := by
  have hi : i < 9 := by omega
  rw [getElem!_pos _ i hi, getElem!_pos _ i hi, State.addEnergy]
  dsimp only
  rw [Vector.getElem_ofFn]
  exact if_neg (by simp; omega)

theorem exec_thermalTrip {s : State} {tj : Nat} (h : 115 ≤ tj) (hr : s.pow.rails = true) :
    exec (.thermalTrip tj) s =
      .next (({ s with pow := { s.pow with tj := tj } } : State).latchCause 3 0x402 tj) :=
  congrArg ok (if_pos ⟨hr, h⟩)

/-- Settles O43. -/
theorem powerEvents : Obligations.PowerEvents := by
  unfold Obligations.PowerEvents
  refine fun s => ⟨fun r hr hf => ?_, fun h => congrArg ok (if_neg (by simp [h])), fun p hp hs => ?_, fun r hr hq => ?_,
    fun n hr => congrArg ok (if_pos hr), fun tj => ⟨fun h => congrArg ok (if_neg fun h' => absurd h'.2 (by omega)),
      fun h hr => ⟨_, exec_thermalTrip h hr, rfl, rfl, rfl, Bool.or_true _, rfl, rfl, rfl, rfl, rfl⟩⟩⟩
  · obtain ⟨h1, h2, h3, h4, h5, h6⟩ := State.periodThermal_sets r s
    obtain ⟨k1, k2, k3, k4, k5, k6⟩ := (s.periodThermal r).periodBroker_kept r
    refine ⟨_, exec_powerPeriod r hr hf, k1.trans h1, k4.trans h4, k5.trans h5, ?_, k2.trans h2, k3.trans h3, k6.trans h6⟩
    exact congrArg (fun j : JobState => !j.image.isSome) (k3.trans h3)
  · obtain ⟨f, e⟩ := s.toSc_only (s.sc / 1024 * 1024 + 250)
    have hx : exec .operatingPointReached s = .next (s.toSc (s.sc / 1024 * 1024 + 250)).pointDone :=
      congrArg ok (if_pos (by simp [hp]))
    rw [e, Nat.max_eq_right hs, State.pointDone] at hx
    dsimp only at hx
    rw [hp] at hx
    exact ⟨_, hx, rfl, rfl, rfl⟩
  · obtain ⟨f, e⟩ := s.toSc_only ((s.sc / 25 + 1) * 25)
    have hx := exec_energySample r hr hq
    obtain ⟨n, k, f', e'⟩ := (s.sampled r).holdAbsolute_only
    rw [e', State.sampled, e] at hx
    refine ⟨_, hx, Nat.max_eq_right (by omega), rfl, fun i hi => ?_, rfl⟩
    exact State.energy_addEnergy r.uj { s with fc := f, sc := max s.sc ((s.sc / 25 + 1) * 25) } hi

end Sys2Proof.Machine
end

section

/-!
SUPPORT. O44: unit power states.
-/

namespace Sys2Proof.Machine

section
variable {s u : State} {ring : Nat} {c : Cmd}

theorem exec_unitDisable (h : s.runsFor (.unitDisable ring) = some (c, u))
    (h1 : unitNamed c.unit.kind c.unit.die c.unit.num = true) (h2 : stateAllowed c.unit.kind (c.p 20 1) = true) :
    exec (.unitDisable ring) s = .next (if u.jobRuns && u.usesUnit c.unit then u.refuse c.ask 9
      else u.disable c.unit (c.p 20 1) c.ask) :=
  (State.row_runs rfl (fun _ => rfl) h (by simp only [h1, h2, Bool.and_self])).trans rfl

theorem exec_unitDisable_parameter (h : s.runsFor (.unitDisable ring) = some (c, u))
    (h1 : unitNamed c.unit.kind c.unit.die c.unit.num = false ∨ stateAllowed c.unit.kind (c.p 20 1) = false) :
    exec (.unitDisable ring) s = .next (u.refuse c.ask 7) :=
  State.row_parameter rfl (fun _ => rfl) h (Bool.and_eq_false_iff.2 h1)

theorem exec_unitEnable (h : s.runsFor (.unitEnable ring) = some (c, u))
    (h1 : unitNamed c.unit.kind c.unit.die c.unit.num = true) :
    exec (.unitEnable ring) s = .next (u.enable c.unit c.ask) :=
  State.row_runs rfl (fun _ => rfl) h h1

theorem exec_unitEnable_parameter (h : s.runsFor (.unitEnable ring) = some (c, u))
    (h1 : unitNamed c.unit.kind c.unit.die c.unit.num = false) : exec (.unitEnable ring) s = .next (u.refuse c.ask 7) :=
  State.row_parameter rfl (fun _ => rfl) h h1

end

/-- A unit that rests in the state with code `k`. -/
theorem State.enable_rest {s : State} {n : UnitId} {k : Nat} (a : Ask)
    (h : (s.unitPower n = .idle ∧ k = 1) ∨ (s.unitPower n = .nap ∧ k = 2) ∨ (s.unitPower n = .dark ∧ k = 3)) :
    s.enable n a = (s.setUnit n (.waking k s.fc [a] [])).answer a 1 0 (4 :: wordsOf 2 (s.wakeFc n.kind k)) := by
  rcases h with ⟨h, rfl⟩ | ⟨h, rfl⟩ | ⟨h, rfl⟩ <;> rw [State.enable, h] <;> rfl

/-- Settles O44. -/
theorem unitPowerStates : Obligations.UnitPowerStates := by
  unfold Obligations.UnitPowerStates
  refine ⟨fun s ring c u => ?_, fun s n t => ?_⟩
  · intro n
    refine ⟨fun h => ⟨exec_unitDisable_parameter h, fun h1 h2 => ⟨fun hi hu => ?_, fun hu ha => ⟨_, rfl, ?_⟩⟩⟩,
      fun h => ⟨exec_unitEnable_parameter h, fun h1 => ⟨fun ha => ?_, fun k hk => ?_⟩⟩⟩
    · exact (exec_unitDisable h h1 h2).trans (congrArg _ (if_pos (by
        rw [State.jobRuns, hi, hu]
        rfl)))
    · refine (exec_unitDisable h h1 h2).trans (congrArg _ ((if_neg ?_).trans ?_))
      · rcases hu with hu | hu
        · simp [State.jobRuns, hu]
        · rw [hu, Bool.and_false]
          exact Bool.false_ne_true
      · rw [State.disable, ha]
        rfl
    · rw [exec_unitEnable h h1, State.enable, ha]
    · rw [exec_unitEnable h h1, State.enable_rest c.ask hk]
  · refine ⟨fun to_ asks h => ?_, fun to_ h h3 => ?_, fun k en h h4 => ?_, fun h => ⟨?_, ?_, ?_⟩⟩
    · refine congrArg ok ?_
      rw [h]
      rfl
    · refine congrArg ok ?_
      rw [h]
      dsimp only
      rw [if_neg h3]
      rfl
    · refine congrArg ok ?_
      rw [h]
      dsimp only
      rw [if_neg h4]
      rfl
    all_goals
      refine congrArg ok ?_
      rw [h]

end Sys2Proof.Machine
end

section

/-!
SUPPORT. O45: keys, seat, windows and firmware.
-/

namespace Sys2Proof.Machine

/-! ### What an entry of the audit log leaves of the trust state -/

/-- `v` has the keys, fuses, seat, windows and slots of `u`, and its memory and job. -/
def State.trustKept (u v : State) : Prop :=
  v.trust.fuses = u.trust.fuses ∧ v.trust.keys = u.trust.keys ∧ v.trust.revoked = u.trust.revoked ∧
    v.trust.seat = u.trust.seat ∧ v.trust.keptInstall = u.trust.keptInstall ∧ v.trust.windows = u.trust.windows ∧
    v.trust.slotA = u.trust.slotA ∧ v.trust.slotB = u.trust.slotB ∧ v.trust.booted = u.trust.booted ∧
    v.mem = u.mem ∧ v.job = u.job

theorem State.auditFor_trust (a : Ask) (k o : Nat) (old new : List Byte) (s : State) :
    s.trustKept (s.auditFor a k o old new) := by
  rw [State.auditFor]
  obtain ⟨t, q, h, e, hf, hk, hs, hw, hr, hA, hB, hb, hi, -⟩ := State.appendAudit_only
    { s.entry k a.role a.keyId 0 o old new with hostTime := if a.flags % 2 = 1 then a.time else s.host.hostTime } s
  rw [e]
  exact ⟨hf, hk, hr, hs, hi, hw, hA, hB, hb, rfl, rfl⟩

/-! ### Keys -/

section
variable {s u : State} {ring : Nat} {c : Cmd}

theorem exec_keyEnrol (h : s.runsFor (.keyEnrol ring) = some (c, u)) (hr : c.p 16 1 = 1 ∨ c.p 16 1 = 2)
    (hl : c.ext.length = 2624) (hz : (c.ext.drop 2592).all (· == 0) = true) (hi : c.p 24 8 = keyIdOf (c.ext.take 2592)) :
    exec (.keyEnrol ring) s = .next (
      if u.trust.keys.any (fun k => k.keyId == c.p 24 8) || u.trust.fuses.makerKeys.any (fun k => k.1.keyId == c.p 24 8) ||
          u.trust.revoked.contains (c.p 24 8) then u.refuse c.ask 9
      else if roleStore (c.p 16 1) ≤ (u.trust.keys.filter fun k => k.role == c.p 16 1).length then u.refuse c.ask 10
      else (({ u with trust := { u.trust with
          keys := u.trust.keys ++ [(⟨c.p 16 1, c.p 24 8, c.ext.take 2592⟩ : Key)] } } : State).auditFor c.ask 1 (c.p 24 8) []
            (keyValue (c.p 16 1) (c.ext.take 2592))).done c.ask []) := by
  have hg : ((c.p 16 1 == 1 || c.p 16 1 == 2) && c.ext.length == 2624 && (c.ext.drop 2592).all (· == 0) &&
      c.p 24 8 == keyIdOf (c.ext.take 2592)) = true := by
    rw [hz, hl, beq_iff_eq.2 hi]
    rcases hr with hr | hr <;> rw [hr] <;> rfl
  exact (State.row_runs rfl (fun _ => rfl) h hg).trans (congrArg _ rfl)

theorem exec_keyRevoke_unknown (h : s.runsFor (.keyRevoke ring) = some (c, u)) (hr : c.p 16 1 = 1 ∨ c.p 16 1 = 2)
    (hn : (u.trust.keys.find? fun k => k.role == c.p 16 1 && k.keyId == c.p 24 8) = none) :
    exec (.keyRevoke ring) s = .next (u.refuse c.ask 9) := by
  have hg : (c.p 16 1 == 1 || c.p 16 1 == 2) = true := by rcases hr with hr | hr <;> rw [hr] <;> rfl
  refine (State.row_runs rfl (fun _ => rfl) h hg).trans (congrArg _ ?_)
  rw [hn]
  rfl

theorem exec_keyRevoke_found (h : s.runsFor (.keyRevoke ring) = some (c, u)) (hr : c.p 16 1 = 1 ∨ c.p 16 1 = 2) {k : Key}
    (hk : (u.trust.keys.find? fun k => k.role == c.p 16 1 && k.keyId == c.p 24 8) = some k) :
    exec (.keyRevoke ring) s = .next ((u.revoke c.ask k).done c.ask []) := by
  have hg : (c.p 16 1 == 1 || c.p 16 1 == 2) = true := by rcases hr with hr | hr <;> rw [hr] <;> rfl
  refine (State.row_runs rfl (fun _ => rfl) h hg).trans (congrArg _ ?_)
  rw [hk]

end

/-- A revocation takes every key with the identifier away, notes it, and nothing else of the trust state. -/
theorem State.revoke_sets (a : Ask) (k : Key) (s : State) :
    ({ s with trust := { s.trust with
      keys := s.trust.keys.filter fun x => x.keyId != k.keyId
      revoked := s.trust.revoked ++ [k.keyId] } } : State).trustKept (s.revoke a k) := State.auditFor_trust ..

/-- A KEY_REVOKE of a key that is enrolled. -/
theorem exec_keyRevoke_known {s u : State} {ring : Nat} {c : Cmd} (h : s.runsFor (.keyRevoke ring) = some (c, u))
    (hr : c.p 16 1 = 1 ∨ c.p 16 1 = 2) (hx : ∃ k ∈ u.trust.keys, k.role = c.p 16 1 ∧ k.keyId = c.p 24 8) :
    ∃ k : Key, k.keyId = c.p 24 8 ∧ exec (.keyRevoke ring) s = .next ((u.revoke c.ask k).done c.ask []) := by
  obtain ⟨k, hk, hrole, hid⟩ := hx
  cases hf : u.trust.keys.find? fun k => k.role == c.p 16 1 && k.keyId == c.p 24 8 with
  | none => exact absurd (List.find?_eq_none.1 hf k hk) (by simp [hrole, hid])
  | some k' =>
    have hk' := List.find?_some hf
    rw [Bool.and_eq_true, beq_iff_eq, beq_iff_eq] at hk'
    exact ⟨k', hk'.2, exec_keyRevoke_found h hr hf⟩

/-! ### The seat -/

/-- Revocations of a list leave no key of the list, and no key that was not there; the rest of the trust state stands. -/
theorem State.foldl_revoke (a : Ask) (l : List Key) (s : State) :
    let v := l.foldl (fun s k => s.revoke a k) s
    (∀ k ∈ v.trust.keys, k ∈ s.trust.keys ∧ ∀ x ∈ l, k.keyId ≠ x.keyId) ∧ v.trust.seat = s.trust.seat ∧
      v.trust.keptInstall = s.trust.keptInstall ∧ v.mem = s.mem ∧ v.job = s.job := by
  induction l generalizing s with
  | nil => exact ⟨fun k hk => ⟨hk, by simp⟩, rfl, rfl, rfl, rfl⟩
  | cons x l ih =>
    obtain ⟨h1, h2, h3, h4, h5⟩ := ih (s.revoke a x)
    obtain ⟨-, hk, -, hs, hi, -, -, -, -, hm, hj⟩ := State.revoke_sets a x s
    refine ⟨fun k hkv => ?_, h2.trans hs, h3.trans hi, h4.trans hm, h5.trans hj⟩
    obtain ⟨hin, hne⟩ := h1 k hkv
    rw [hk] at hin
    obtain ⟨hin, hx⟩ := List.mem_filter.1 hin
    exact ⟨hin, List.forall_mem_cons.2 ⟨by simpa using hx, hne⟩⟩

theorem State.newInstall_sets (a : Ask) (s : State) :
    (∀ k ∈ (s.newInstall a).trust.keys, k.role ≠ 1) ∧ (s.newInstall a).trust.windows = [] ∧
      (s.newInstall a).mem = s.mem := by
  obtain ⟨h1, -, -, h4, -⟩ := State.foldl_revoke a (s.trust.keys.filter fun k => k.role == 1) s
  refine ⟨fun k hk hr => ?_, rfl, h4⟩
  obtain ⟨hin, hne⟩ := h1 k hk
  exact hne k (List.mem_filter.2 ⟨hin, beq_iff_eq.2 hr⟩) rfl

/-- A package whose SEAT_BIND names another installation loses the operators' keys and the windows. -/
def State.reinstalled (c : Cmd) (s : State) : State :=
  if c.p 16 8 ≠ 0 ∧ s.trust.keptInstall ≠ 0 ∧ c.p 16 8 ≠ s.trust.keptInstall then s.newInstall c.ask else s

/-- The trust state of an accepted SEAT_BIND, before its entry in the log. -/
def State.seated (c : Cmd) (s : State) : State :=
  let t := s.reinstalled c
  { t with trust := { t.trust with
    seat := if c.p 16 8 = 0 then List.replicate 32 0 else (c.packet.drop 16).take 32
    keptInstall := if c.p 16 8 = 0 then s.trust.keptInstall else c.p 16 8 } }

section
variable {s u : State} {ring : Nat} {c : Cmd}

theorem exec_seatBind (h : s.runsFor (.seatBind ring) = some (c, u)) (h1 : c.p 24 3 < 2 ^ 20) (h2 : c.p 27 1 = 0) :
    exec (.seatBind ring) s = .next (if u.jobRuns then u.refuse c.ask 9 else
      ((u.seated c).auditFor c.ask 3 0 (u.reinstalled c).trust.seat (if c.p 16 8 = 0 then List.replicate 32 0 else (c.packet.drop 16).take 32)).done
        c.ask []) := by
  have hg : (decide (c.p 24 3 < 2 ^ 20) && c.p 27 1 == 0) = true := by rw [h2, decide_eq_true h1]; rfl
  refine (State.row_runs rfl (fun _ => rfl) h hg).trans (congrArg _ ?_)
  rfl

theorem exec_seatBind_parameter (h : s.runsFor (.seatBind ring) = some (c, u)) (h1 : 2 ^ 20 ≤ c.p 24 3 ∨ c.p 27 1 ≠ 0) :
    exec (.seatBind ring) s = .next (u.refuse c.ask 7) := by
  have hg : (decide (c.p 24 3 < 2 ^ 20) && c.p 27 1 == 0) = false := by
    rw [Bool.and_eq_false_iff]
    exact h1.imp (fun h => decide_eq_false (Nat.not_lt.2 h)) fun h => beq_eq_false_iff_ne.2 h
  exact State.row_parameter rfl (fun _ => rfl) h hg

theorem State.seated_sets (c : Cmd) (s : State) :
    (s.seated c).mem = s.mem ∧
      if c.p 16 8 ≠ 0 ∧ s.trust.keptInstall ≠ 0 ∧ c.p 16 8 ≠ s.trust.keptInstall then
        (∀ k ∈ (s.seated c).trust.keys, k.role ≠ 1) ∧ (s.seated c).trust.windows = []
      else (s.seated c).trust.keys = s.trust.keys ∧ (s.seated c).trust.windows = s.trust.windows := by
  obtain ⟨hk, hw, hm⟩ := State.newInstall_sets c.ask s
  unfold State.seated State.reinstalled
  split
  · exact ⟨hm, hk, hw⟩
  · exact ⟨rfl, rfl, rfl⟩

end

/-! ### Windows -/

section
variable {s u : State} {ring : Nat} {c : Cmd}

/-- The windows that a GUEST_WINDOW describes. -/
def Cmd.windows (c : Cmd) : List (Nat × Nat × Nat) :=
  (List.range (c.p 16 1)).map fun i => (c.x (16 * i) 6, c.x (16 * i + 6) 4, c.x (16 * i + 10) 1)

theorem exec_guestWindow (h : s.runsFor (.guestWindow ring) = some (c, u)) (h1 : c.p 16 1 ≤ 32)
    (h2 : c.windows.all windowGood = true) (h3 : windowTable c.windows = c.ext) :
    exec (.guestWindow ring) s = .next (if !u.trust.fuses.guestPart then u.refuse c.ask 8 else
      (({ u with trust := { u.trust with windows := c.windows } } : State).auditFor c.ask 7 0
        (sha3 (windowTable u.trust.windows)) (sha3 (windowTable c.windows))).done c.ask []) := by
  have hg : (decide (c.p 16 1 ≤ 32) && c.windows.all windowGood && windowTable c.windows == c.ext) = true := by
    rw [decide_eq_true h1, h2, beq_iff_eq.2 h3]
    rfl
  refine (State.row_runs rfl (fun _ => rfl) h hg).trans (congrArg _ ?_)
  rfl

theorem exec_guestWindow_parameter (h : s.runsFor (.guestWindow ring) = some (c, u))
    (h1 : 32 < c.p 16 1 ∨ c.windows.all windowGood = false) : exec (.guestWindow ring) s = .next (u.refuse c.ask 7) := by
  have hg : (decide (c.p 16 1 ≤ 32) && c.windows.all windowGood && windowTable c.windows == c.ext) = false := by
    rcases h1 with h1 | h1
    · rw [decide_eq_false (Nat.not_le.2 h1), Bool.false_and, Bool.false_and]
    · rw [h1, Bool.and_false, Bool.false_and]
  exact State.row_parameter rfl (fun _ => rfl) h hg

end

/-! ### Firmware -/

/-- A notice changes no ring's work: ring 1 counts a reply. -/
theorem State.notice_work (code : Nat) (ws : List Word) (r : Nat) (s : State) :
    ((s.notice code ws).aux r).work = (s.aux r).work := by
  have hr (n : Nat) (u : State) : (u.raiseVector n).rs = u.rs := by
    unfold State.raiseVector
    extract_lets m
    split <;> rfl
  simp only [State.notice]
  split
  · rw [State.aux, hr]
    refine (congrArg RingAux.work (State.aux_setAux (v := { s.aux 1 with replies := (s.aux 1).replies + 1 }) ?_ 1 r _)).trans ?_
    · exact fun h => Nat.succ_ne_zero (s.aux 1).replies (congrArg RingAux.replies h)
    · split
      · next h => rw [h]
      · rfl
  · split <;> rfl

theorem State.appendEntry_work (e : AuditEntry) (r : Nat) (s : State) :
    ((s.appendEntry e).aux r).work = (s.aux r).work := by
  unfold State.appendEntry
  extract_lets n k stay later prev mine chain beyond first unread high t0 v
  change ((if high then v.notice 0x805 _ else v).aux r).work = (v.aux r).work
  split
  · exact State.notice_work ..
  · rfl

theorem State.auditFor_work (a : Ask) (k o : Nat) (old new : List Byte) (r : Nat) (s : State) :
    ((s.auditFor a k o old new).aux r).work = (s.aux r).work :=
  List.foldlRecOn (motive := fun v : State => (v.aux r).work = (s.aux r).work) _ _ rfl
    fun v hv _ _ => (State.appendEntry_work _ r v).trans hv

theorem TrustState.slot_setSlot (t : TrustState) (a : Bool) (v : FwSlot) : (t.setSlot a v).slot a = v := by
  cases a <;> rfl

theorem TrustState.slot_setSlot_other (t : TrustState) (a : Bool) (v : FwSlot) : (t.setSlot a v).slot (!a) = t.slot (!a) := by
  cases a <;> rfl

theorem TrustState.booted_setSlot (t : TrustState) (a : Bool) (v : FwSlot) : (t.setSlot a v).booted = t.booted := by
  cases a <;> rfl

theorem State.slot_of_trustKept {u v : State} (h : u.trustKept v) (a : Bool) : v.trust.slot a = u.trust.slot a := by
  obtain ⟨-, -, -, -, -, -, hA, hB, -⟩ := h
  cases a
  · exact hB
  · exact hA

theorem exec_fwUpdate {s u : State} {ring : Nat} {c : Cmd} (h : s.runsFor (.fwUpdate ring) = some (c, u)) :
    let other := !(u.trust.booted.getD true)
    let v : State := { u with trust := u.trust.setSlot other {} }
    exec (.fwUpdate ring) s = .next (v.setAux ring { v.aux ring with
      current := some c.ask, slices := 1
      work := some (.firmware (u.hostRead c.bufAddr c.bufLen) (u.trust.slot other).bodyDigest) }) :=
  (State.row_runs rfl (fun _ => rfl) h rfl).trans (congrArg _ rfl)

/-- The last slice of an update, whose image is checked. -/
theorem exec_sliceEnd_firmware {s : State} {ring core : Nat} {a : Ask} {image old : List Byte}
    (hc : (s.aux ring).current = some a) (hw : (s.aux ring).work = some (.firmware image old)) (hf : s.host.fatal = false)
    (hh : (s.aux (s.ring ring).pair).held = []) (hfull : (s.ring (s.ring ring).pair).full = false)
    (hcore : s.coreFor ring = some core) (hl : Config.freeNat s.free % 2 = 0) :
    exec (.sliceEnd ring) s = .next (({ s.served ring core with free := s.free + 1 } : State).updateEnds ring
      ((s.served ring core).inProgress ring a) image old) := by
  refine congrArg ok ?_
  rw [hc, hw]
  refine (if_neg (exec_sliceEnd_guard hf hh hfull hcore)).trans ?_
  rw [hcore]
  exact if_neg (show ¬Config.freeNat s.free % 2 = 1 by omega)

/-- What an update's command gives back at its end is nothing. -/
theorem State.finish_firmware {s : State} {ring : Nat} {a : Ask} {image old : List Byte}
    (h : (s.aux ring).work = some (.firmware image old)) (cls code : Nat) (res : List Word) :
    s.finish ring a cls code res = s.answer a cls code res := by
  rw [State.finish, State.endWork, h]
  rfl

/-- An image that passes its check fills the slot that did not boot, and the command is answered DONE. -/
theorem State.updateEnds_fills {s : State} {ring : Nat} {c : Cmd} {image old : List Byte} {x : FwSlot}
    (h : s.firmware image = some x) (hw : (s.aux ring).work = some (.firmware image old)) :
    let other := !(s.trust.booted.getD true)
    ∃ w : State, s.updateEnds ring c image old = w.done c.ask [] ∧ w.trust.slot other = x ∧
      w.trust.slot (!other) = s.trust.slot (!other) ∧ w.trust.booted = s.trust.booted ∧ w.mem = s.mem := by
  intro other
  have hk := State.auditFor_trust c.ask 4 0 old x.bodyDigest { s with trust := s.trust.setSlot other x }
  obtain ⟨-, -, -, -, -, -, -, -, hb, hm, -⟩ := id hk
  refine ⟨State.auditFor c.ask 4 0 old x.bodyDigest { s with trust := s.trust.setSlot other x }, ?_,
    (State.slot_of_trustKept hk other).trans (TrustState.slot_setSlot ..),
    (State.slot_of_trustKept hk (!other)).trans (TrustState.slot_setSlot_other ..),
    hb.trans (TrustState.booted_setSlot ..), hm⟩
  rw [State.updateEnds, h]
  refine State.finish_firmware (image := image) (old := old) ?_ 0 0 []
  rw [State.auditFor_work]
  exact hw

/-- Settles O45. -/
theorem trustCommands : Obligations.TrustCommands := by
  unfold Obligations.TrustCommands
  intro s ring c u
  refine ⟨?_, fun h hr => ⟨fun hn => ?_, fun hx => ?_⟩, fun h => ⟨exec_seatBind_parameter h, fun h1 h2 =>
    ⟨fun hi => (exec_seatBind h h1 h2).trans (congrArg _ (if_pos hi)), fun hi => ?_⟩⟩, ?_, ?_, ?_⟩
  · intro role id pub h hr hl hz hi
    refine ⟨fun hk => (exec_keyEnrol h hr hl hz hi).trans (congrArg _ (if_pos ?_)), fun h1 h2 h3 => ?_⟩
    · simp only [Bool.or_eq_true, List.any_eq_true, beq_iff_eq, List.contains_iff_mem, or_assoc]
      exact hk
    · intro n
      have hno : ¬((u.trust.keys.any (fun k => k.keyId == id) || u.trust.fuses.makerKeys.any (fun k => k.1.keyId == id) ||
          u.trust.revoked.contains id) = true) := by
        simp only [Bool.or_eq_true, List.any_eq_true, beq_iff_eq, List.contains_iff_mem, not_or, not_exists, not_and]
        exact ⟨⟨h1, h2⟩, h3⟩
      refine ⟨fun hf => (exec_keyEnrol h hr hl hz hi).trans (congrArg _ ((if_neg hno).trans (if_pos hf))), fun hf => ?_⟩
      obtain ⟨ht, hk, hr', -, -, -, -, -, -, hm, hj⟩ := State.auditFor_trust c.ask 1 id [] (keyValue role pub)
        { u with trust := { u.trust with keys := u.trust.keys ++ [(⟨role, id, pub⟩ : Key)] } }
      exact ⟨_, (exec_keyEnrol h hr hl hz hi).trans (congrArg _ ((if_neg hno).trans (if_neg (Nat.not_le.2 hf)))), hk, ht, hr', hm, hj⟩
  · exact exec_keyRevoke_unknown h hr (List.find?_eq_none.2 fun k hk => by simpa [or_iff_not_imp_left] using hn k hk)
  · obtain ⟨k, hid, hv⟩ := exec_keyRevoke_known h hr hx
    obtain ⟨-, hkeys, hrev, -, -, -, -, -, -, hm, hj⟩ := State.revoke_sets c.ask k u
    rw [← hid]
    exact ⟨_, hv, hkeys, hrev, hm, hj⟩
  · obtain ⟨-, hk, -, hs, hi', hw, -, -, -, hm, -⟩ := State.auditFor_trust c.ask 3 0 (u.reinstalled c).trust.seat
      (if c.p 16 8 = 0 then List.replicate 32 0 else (c.packet.drop 16).take 32) (u.seated c)
    obtain ⟨hmem, hkeys⟩ := State.seated_sets c u
    refine ⟨_, (exec_seatBind h h1 h2).trans (congrArg _ (if_neg (by simp [State.jobRuns, hi]))), hs, hi', ?_, hm.trans hmem⟩
    rw [hk, hw]
    exact hkeys
  · intro ws h
    refine ⟨exec_guestWindow_parameter h, fun h1 h2 h3 => ⟨fun hg => ?_, fun hg => ?_⟩⟩
    · exact (exec_guestWindow h h1 h2 h3).trans (congrArg _ (if_pos (by simp [hg])))
    · obtain ⟨-, hk, -, -, -, hw, -, -, -, hm, -⟩ := State.auditFor_trust c.ask 7 0 (sha3 (windowTable u.trust.windows))
        (sha3 (windowTable c.windows)) { u with trust := { u.trust with windows := c.windows } }
      exact ⟨_, (exec_guestWindow h h1 h2 h3).trans (congrArg _ (if_neg (by simp [hg]))), hw, hk, hm⟩
  · intro other v h
    exact ⟨TrustState.slot_setSlot .., TrustState.slot_setSlot_other .., exec_fwUpdate h⟩
  · intro a image old core hc hw hf hh hfull hcore hl other v
    have hx := exec_sliceEnd_firmware hc hw hf hh hfull hcore hl
    refine ⟨fun hn => hx.trans (congrArg _ ?_), fun x hs => ?_⟩
    · rw [State.updateEnds, hn]
      rfl
    · obtain ⟨w, e, h1, h2, h3, h4⟩ := State.updateEnds_fills (s := v) (c := (s.served ring core).inProgress ring a) hs hw
      exact ⟨w, hx.trans (congrArg _ e), h1, h2, h3, h4⟩

end Sys2Proof.Machine
end

section

/-!
SUPPORT. O46: doorbells.
-/

namespace Sys2Proof.Machine

section
variable {s : State} {r : BitVec 18} {v : BitVec 32}

theorem exec_commandDoorbell_agrees (hk : (s.ring r.toNat).kind = .command) (hn : v.toNat < 2 ^ 17)
    (ht : (v.toNat + 2 ^ 17 - (s.ring r.toNat).tail) % 2 ^ 17 ≤ (s.ring r.toNat).depth)
    (hh : (v.toNat + 2 ^ 17 - (s.ring r.toNat).head) % 2 ^ 17 ≤ (s.ring r.toNat).depth)
    (hs : (s.aux r.toNat).skip = 0) :
    let d := s.ring r.toNat
    let x := s.aux r.toNat
    exec (.commandDoorbell r v) s = .next (((s.setRing r.toNat { d with
      tail := v.toNat, posted := (d.posted + (v.toNat + 2 ^ 17 - d.tail) % 2 ^ 17) % 2 ^ 64
      head := d.head % 2 ^ 17 }).setAux r.toNat { x with bells := x.bells ++ [(v.toNat,
        (s.rs.rings.filter fun e => e.2.kind == .command && e.1 != r.toNat).map fun e => (e.1, e.2.tail))] }).settled) := by
  intro d x
  have hv : v.toNat % 2 ^ 17 = v.toNat := Nat.mod_eq_of_lt hn
  change ok _ = _
  rw [hv]
  refine congrArg ok ((if_pos ⟨hk, hn, ht, hh⟩).trans ?_)
  dsimp only
  rw [State.aux_setRing, hs, Nat.min_zero, Nat.add_zero]

theorem exec_commandDoorbell_refused (h : (s.ring r.toNat).kind ≠ .command ∨ 2 ^ 17 ≤ v.toNat ∨
    (s.ring r.toNat).depth < (v.toNat + 2 ^ 17 - (s.ring r.toNat).tail) % 2 ^ 17 ∨
    (s.ring r.toNat).depth < (v.toNat + 2 ^ 17 - (s.ring r.toNat).head) % 2 ^ 17) :
    exec (.commandDoorbell r v) s = .next (s.doorbellError false r) := by
  refine congrArg ok (if_neg ?_)
  rintro ⟨hk, hn, ht, hh⟩
  rw [Nat.mod_eq_of_lt hn] at ht hh
  rcases h with h | h | h | h
  · exact h hk
  · exact absurd hn (Nat.not_lt.2 h)
  · exact absurd ht (Nat.not_le.2 h)
  · exact absurd hh (Nat.not_le.2 h)

theorem exec_completionDoorbell_agrees (hk : (s.ring r.toNat).kind = .completion) (hn : v.toNat < 2 ^ 17)
    (ht : ((s.ring r.toNat).tail + 2 ^ 17 - v.toNat) % 2 ^ 17 ≤ (s.ring r.toNat).used)
    (hs : (s.aux r.toNat).held = []) (h1 : r.toNat ≠ 1) :
    exec (.completionDoorbell r v) s = .next (s.setRing r.toNat { s.ring r.toNat with head := v.toNat }).settled := by
  have hv : v.toNat % 2 ^ 17 = v.toNat := Nat.mod_eq_of_lt hn
  change ok _ = _
  rw [hv]
  refine congrArg ok ((if_pos ⟨hk, hn, ht⟩).trans ?_)
  dsimp only
  rw [State.aux_setRing, hs, if_neg h1]
  rfl

theorem exec_completionDoorbell_refused (h : (s.ring r.toNat).kind ≠ .completion ∨ 2 ^ 17 ≤ v.toNat ∨
    (s.ring r.toNat).used < ((s.ring r.toNat).tail + 2 ^ 17 - v.toNat) % 2 ^ 17) :
    exec (.completionDoorbell r v) s = .next (s.doorbellError true r) := by
  refine congrArg ok (if_neg ?_)
  rintro ⟨hk, hn, ht⟩
  rw [Nat.mod_eq_of_lt hn] at ht
  rcases h with h | h | h
  · exact h hk
  · exact absurd hn (Nat.not_lt.2 h)
  · exact absurd ht (Nat.not_le.2 h)

end

/-- Settles O46. -/
theorem doorbellsMoveOneIndex : Obligations.DoorbellsMoveOneIndex := by
  unfold Obligations.DoorbellsMoveOneIndex
  exact fun s r v => ⟨exec_commandDoorbell_agrees, exec_commandDoorbell_refused, exec_completionDoorbell_agrees,
    exec_completionDoorbell_refused⟩

end Sys2Proof.Machine
end

section

/-!
SUPPORT. O47: the registers of BAR0, the vectors and the ring window.
-/

namespace Sys2Proof.Machine

/-! ### Registers -/

/-- A bit written 1 clears, but one that an event sets in the same cycle stays (R7). -/
theorem SetNow.getLsbD_clear {n : Nat} (x : SetNow n) (now : Nat) (cur v : BitVec n) {k : Nat} (hk : k < n) :
    (x.clear now cur v).getLsbD k = (cur.getLsbD k && (!v.getLsbD k || (x.at_ == now && x.bits.getLsbD k))) := by
  rw [SetNow.clear, BitVec.getLsbD_and, BitVec.getLsbD_not, decide_eq_true hk, Bool.true_and]
  by_cases h : x.at_ = now
  · rw [if_pos h, BitVec.getLsbD_and, BitVec.getLsbD_not, decide_eq_true hk, Bool.true_and, beq_iff_eq.2 h, Bool.true_and,
      Bool.not_and, Bool.not_not]
  · rw [if_neg h, beq_eq_false_iff_ne.2 h, Bool.false_and, Bool.or_false]

theorem setWidth_setWidth_32 (v : BitVec 64) {k : Nat} (h : k ≤ 32) : (v.setWidth 32).setWidth k = v.setWidth k :=
  BitVec.setWidth_setWidth_of_le v h

/-- A write of a register of full width. -/
theorem exec_registerWrite_full {s : State} {offset : Nat} (h : offset < 0x1000) (h4 : offset % 4 = 0) (v : BitVec 64) :
    exec (.registerWrite offset 4 v) s = .next (s.regWrite offset (v.setWidth 32)) :=
  congrArg ok ((if_pos h).trans (if_pos ⟨rfl, h4⟩))

/-- A write that no register takes. -/
theorem exec_registerWrite_ignored {s : State} {offset size : Nat} {v : BitVec 64} (h : offset < 0x1000)
    (hn : size ≠ 4 ∨ offset ∉ [0x014, 0x018, 0x030, 0x034, 0x040]) : exec (.registerWrite offset size v) s = .next s := by
  refine congrArg ok ((if_pos h).trans ?_)
  split
  · next hs =>
    obtain hn := hn.resolve_left (not_not_intro hs.1)
    simp only [List.mem_cons, List.not_mem_nil, not_or] at hn
    obtain ⟨h1, h2, h3, h4, h5, -⟩ := hn
    unfold State.regWrite
    split
    · exact absurd rfl h1
    · exact absurd rfl h2
    · exact absurd rfl h3
    · exact absurd rfl h4
    · exact absurd rfl h5
    · rfl
  · rfl

theorem exec_registerWrite_vector {s : State} {r : Nat} (h : r < 0x40000) (v : BitVec 64) :
    exec (.registerWrite (0x300000 + 2 * r) 2 v) s =
      .next { s with host := { s.host with vectors := mapSet 1 s.host.vectors r (v.setWidth 11) } } := by
  refine congrArg ok ((if_neg (by omega)).trans ((if_neg (by omega)).trans ((if_pos (by omega)).trans
    ((if_pos ⟨rfl, by omega⟩).trans ?_))))
  rw [show (0x300000 + 2 * r - 0x300000) / 2 = r by omega]

theorem exec_vectorUnmask_pending {s : State} {v : BitVec 11} (h : (mapGet {} s.host.msix v.toNat).pending = true)
    (hd : s.host.d3hot = false) :
    let e := mapGet {} s.host.msix v.toNat
    exec (.vectorUnmask v) s = .next { s with host := { s.host with
      msix := mapSet {} (mapSet {} s.host.msix v.toNat { e with masked := false }) v.toNat
        { e with masked := false, pending := false }
      messages := s.host.messages ++ [⟨v.toNat, e.addr, e.data⟩] } } :=
  congrArg ok (if_pos (by
    rw [h]
    exact congrArg Bool.not hd))

/-! ### The ring window -/

/-- Bytes laid down one by one where `put` allows, from address `base + n` on. -/
theorem mapGet_foldl_put (put : Nat → Prop) [DecidablePred put] {base : Nat} (bytes : List Byte) (n : Nat) {m : Map Byte}
    (hm : mapWf 0 m = true) (a : Nat) :
    mapGet 0 ((bytes.zipIdx n).foldl (fun (m : Map Byte) (p : Byte × Nat) =>
      if put (base + p.2) then mapSet 0 m (base + p.2) p.1 else m) m) a =
      if base + n ≤ a ∧ a - (base + n) < bytes.length ∧ put a then bytes.getD (a - (base + n)) 0 else mapGet 0 m a := by
  induction bytes generalizing n m with
  | nil => simp
  | cons b bytes ih =>
    rw [List.zipIdx_cons, List.foldl_cons]
    have hw : mapWf 0 (if put (base + n) then mapSet 0 m (base + n) b else m) = true := by
      split
      · exact mapWf_mapSet hm _ _
      · exact hm
    have hg : mapGet 0 (if put (base + n) then mapSet 0 m (base + n) b else m) a =
        if a = base + n ∧ put a then b else mapGet 0 m a := by
      split
      · next hp =>
        rw [mapGet_mapSet hm]
        split
        · next ha => rw [if_pos ⟨ha, ha ▸ hp⟩]
        · next ha => rw [if_neg fun h => ha h.1]
      · next hp => rw [if_neg fun (h : a = base + n ∧ put a) => hp (h.1 ▸ h.2)]
    rw [ih (n + 1) hw, hg]
    by_cases ha : a = base + n
    · subst ha
      rw [if_neg (by omega)]
      simp
    · rw [if_neg fun (h : a = base + n ∧ put a) => ha h.1]
      by_cases hl : base + n ≤ a
      · have e : a - (base + n) = a - (base + (n + 1)) + 1 := by omega
        rw [e, List.getD_cons_succ, List.length_cons]
        have hiff : (base + (n + 1) ≤ a ∧ a - (base + (n + 1)) < bytes.length ∧ put a) ↔
            (base + n ≤ a ∧ a - (base + (n + 1)) + 1 < bytes.length + 1 ∧ put a) := by
          constructor
          · rintro ⟨-, h2, h3⟩
            exact ⟨hl, by omega, h3⟩
          · rintro ⟨-, h2, h3⟩
            exact ⟨by omega, by omega, h3⟩
        simp only [hiff]
      · rw [if_neg (by omega), if_neg (by omega)]

/-- A write to the ring window that carries no error lands on command rings alone. -/
theorem exec_ringWindowWrite_lands {s : State} (hm : mapWf 0 s.rs.storage = true) (offset : BitVec 25) (bytes : List Byte) :
    ∃ s', exec (.ringWindowWrite offset ⟨bytes, false⟩) s = .next s' ∧ s' = { s with rs := s'.rs } ∧
      s'.rs = { s.rs with storage := s'.rs.storage } ∧
      ∀ a, mapGet 0 s'.rs.storage a =
        let i := a - (2 ^ 25 * s.host.ringWin.toNat + offset.toNat)
        if 2 ^ 25 * s.host.ringWin.toNat + offset.toNat ≤ a ∧ i < bytes.length ∧ a < storageBytes ∧ s.rs.inCommand a = true
        then bytes.getD i 0 else mapGet 0 s.rs.storage a :=
  ⟨_, rfl, rfl, rfl, mapGet_foldl_put (fun a => a < storageBytes ∧ s.rs.inCommand a = true) bytes 0 hm⟩

/-- Settles O47. -/
theorem windowRegisters : Obligations.WindowRegisters := by
  unfold Obligations.WindowRegisters
  intro s h
  refine ⟨fun v => ⟨?_, fun k hk => ?_, ?_, ?_, ?_, ?_⟩, fun offset size v h1 h2 => exec_registerWrite_ignored h1 h2,
    fun r v hr => exec_registerWrite_vector hr v, rfl, rfl, fun v => exec_vectorUnmask_pending,
    fun offset bytes hm => ⟨rfl, exec_ringWindowWrite_lands hm offset bytes⟩⟩
  · rw [exec_registerWrite_full (by decide) rfl, ← setWidth_setWidth_32 v (show 5 ≤ 32 by decide)]
    rfl
  · rw [SetNow.getLsbD_clear _ _ _ _ hk, BitVec.getLsbD_setWidth, decide_eq_true hk, Bool.true_and]
  · rw [exec_registerWrite_full (by decide) rfl, ← setWidth_setWidth_32 v (show 5 ≤ 32 by decide)]
    rfl
  · rw [exec_registerWrite_full (by decide) rfl, ← setWidth_setWidth_32 v (show 27 ≤ 32 by decide)]
    rfl
  · rw [exec_registerWrite_full (by decide) rfl, ← setWidth_setWidth_32 v (show 4 ≤ 32 by decide)]
    rfl
  · rw [exec_registerWrite_full (by decide) rfl, ← setWidth_setWidth_32 v (show 5 ≤ 32 by decide)]
    rfl

end Sys2Proof.Machine
end

section

/-!
SUPPORT. O48: what the host and the guest reach of a page.
-/

namespace Sys2Proof.Machine

theorem apertureAddr_lt (s : State) (offset : Nat) : s.apertureAddr offset < 2 ^ 48 := Nat.mod_lt _ (by decide)

/-! ### Reads -/

section
variable {s : State} {la n : Nat} (hn : 0 < n) (ha : la < 2 ^ 48) (hc : la % frameBytes + n ≤ frameBytes)
include hn hc

theorem State.seeRange_within : s.seeRange la n = [(pageOf la, n, s.seePage (pageOf la) (la % frameBytes) n)] := by
  rw [State.seeRange, chunksOf_within (Nat.ne_of_gt hn) hc]
  rfl

theorem State.seeRange_unmapped (hv : (s.mem.page (pageOf la)).valid = false) : s.seeRange la n = [(pageOf la, n, .ones 1)] := by
  rw [State.seeRange_within hn hc, State.seePage, hv]
  rfl

include ha

/-- A page at home that the host sees, in one piece. -/
theorem State.seeRange_home (hv : (s.mem.page (pageOf la)).valid = true) (hl : (s.mem.page (pageOf la)).state ≠ .lost)
    (hh : (s.mem.page (pageOf la)).loc = .home) (hi : s.meetsInlet la n = false)
    (hb : (s.mem.page (pageOf la)).banked = true ∨ (s.mem.page (pageOf la)).spec = false) (hd : s.tilth.directory = [])
    (hp : s.mem.poisoned ((s.mem.page (pageOf la)).frameOf s.job.epoch * frameBytes + la % frameBytes) n = false) :
    s.seeRange la n = [(pageOf la, n,
      .bytes (s.mem.read ((s.mem.page (pageOf la)).frameOf s.job.epoch * frameBytes + la % frameBytes) n))] := by
  have hs : (!(s.mem.page (pageOf la)).banked && (s.mem.page (pageOf la)).spec) = false := by
    rcases hb with hb | hb <;> simp [hb]
  have hr (bs : List Byte) (a : Nat) : s.servedRows a bs = bs := by rw [State.servedRows, hd]; rfl
  rw [State.seeRange_within hn hc, State.seePage]
  simp only [pageOf_mul_frameBytes ha, hv, hi, hl, hh, hs, hp, hr, Bool.not_true, Bool.or_self, Bool.false_eq_true, if_false,
    beq_self_eq_true, Bool.true_or, Bool.false_and]

end

theorem State.seenBytes_ones (pg n b : Nat) (s : State) : s.seenBytes [(pg, n, .ones b)] = (List.replicate n 0xFF, s) := rfl

theorem State.seenBytes_bytes (pg n : Nat) (bs : List Byte) (s : State) : s.seenBytes [(pg, n, .bytes bs)] = (bs, s) := rfl

theorem exec_apertureRead_ones {s : State} {offset n b : Nat} {pg : Nat}
    (h : s.seeRange (s.apertureAddr offset) n = [(pg, n, .ones b)]) :
    exec (.apertureRead offset n) s = .next (State.apertureEvent b pg
      { s with host := { s.host with readData := List.replicate n 0xFF, readError := false } }) := by
  change ok _ = _
  rw [h, State.seenBytes_ones]
  rfl

theorem exec_apertureRead_bytes {s : State} {offset n : Nat} {pg : Nat} {bs : List Byte}
    (h : s.seeRange (s.apertureAddr offset) n = [(pg, n, .bytes bs)]) :
    exec (.apertureRead offset n) s =
      .next { s with host := { s.host with readData := bs, readError := false } } := by
  change ok _ = _
  rw [h, State.seenBytes_bytes]
  rfl

theorem exec_guestRead_bytes {s : State} {a n : Nat} {pg : Nat} {bs : List Byte} (hg : s.trust.fuses.guestPart = true)
    (hw : s.trust.granted 0 a n = true) (h : s.seeRange a n = [(pg, n, .bytes bs)]) :
    exec (.guestRead a n) s = .next { s with host := { s.host with readData := bs, readError := false } } := by
  refine congrArg ok ((if_neg (by simp [hg])).trans ((if_neg (by simp [hw])).trans ?_))
  rw [h, State.seenBytes_bytes]
  rfl

/-! ### Writes -/

section
variable {s : State} {la : Nat} {bs : List Byte} (hb : bs ≠ []) (hc : la % frameBytes + bs.length ≤ frameBytes)
include hb hc

/-- Bytes for a page that takes none, or an inlet, are discarded. -/
theorem State.outsideWrite_discards (ha : la < 2 ^ 48)
    (h : (s.mem.page (pageOf la)).valid = false ∨ s.meetsInlet la bs.length = true) : s.outsideWrite la bs = (s, [pageOf la]) := by
  have hn : (s.landsOn (pageOf la) && !s.meetsInlet (pageOf la * frameBytes + la % frameBytes) bs.length) = false := by
    rw [pageOf_mul_frameBytes ha]
    rcases h with h | h
    · simp [State.landsOn, h]
    · simp [h]
  rw [State.outsideWrite, chunksOf_within (by simpa using hb) hc]
  simp only [List.foldl_cons, List.foldl_nil, hn, Bool.false_eq_true, if_false, List.nil_append]

/-- Bytes for a page at home that is open to the host are written to its current frame. -/
theorem State.outsideWrite_lands (ha : la < 2 ^ 48) (hv : (s.mem.page (pageOf la)).valid = true)
    (hl : (s.mem.page (pageOf la)).state ≠ .lost) (hh : (s.mem.page (pageOf la)).loc = .home)
    (hi : s.meetsInlet la bs.length = false)
    (ho : if (s.mem.page (pageOf la)).banked then s.job.run = none else (s.mem.page (pageOf la)).state = .open_)
    (hcp : (s.mem.page (pageOf la)).copies = false) :
    (s.outsideWrite la bs).2 = [] ∧ (s.outsideWrite la bs).1.mem =
      s.mem.write ((s.mem.page (pageOf la)).frameOf s.job.epoch * frameBytes + la % frameBytes) bs ∧
      (s.outsideWrite la bs).1 = { s with mem := (s.outsideWrite la bs).1.mem, cnt := (s.outsideWrite la bs).1.cnt } := by
  have hland : s.landsOn (pageOf la) = true := by
    unfold State.landsOn
    split at ho
    · next hbk => simp [hv, hl, hbk, hh, State.runActive, ho]
    · next hbk => simp [hv, hbk, hh, ho]
  have hw : s.writeFrames s.job.epoch true la bs = (s.writeFrame (pageOf la) s.job.epoch (la % frameBytes) bs, none) := by
    rw [State.writeFrames, chunksOf_within (by simpa using hb) hc]
    simp [pageOf_mul_frameBytes ha, hv, hi, hl, hh]
  have he : s.outsideWrite la bs = (s.writeFrame (pageOf la) s.job.epoch (la % frameBytes) bs, []) := by
    rw [State.outsideWrite, chunksOf_within (by simpa using hb) hc]
    simp only [List.foldl_cons, List.foldl_nil, hland, pageOf_mul_frameBytes ha, hi, List.take_length, hw, Bool.not_false,
      Bool.and_self, if_true, Option.isNone_none]
  have hm : s.writeFrame (pageOf la) s.job.epoch (la % frameBytes) bs =
      State.countClay 0x0202 4 false ((s.mem.page (pageOf la)).frameOf s.job.epoch * frameBytes + la % frameBytes) bs.length
        { s with mem := s.mem.write ((s.mem.page (pageOf la)).frameOf s.job.epoch * frameBytes + la % frameBytes) bs } := by
    simp [State.writeFrame, hcp]
  rw [he, hm]
  obtain ⟨k, e⟩ := State.countClay_only 0x0202 4 false
    ((s.mem.page (pageOf la)).frameOf s.job.epoch * frameBytes + la % frameBytes) bs.length
    { s with mem := s.mem.write ((s.mem.page (pageOf la)).frameOf s.job.epoch * frameBytes + la % frameBytes) bs }
  rw [e]
  exact ⟨rfl, rfl, rfl⟩

end

theorem exec_apertureWrite_clean (s : State) (offset : Nat) (bs : List Byte) :
    exec (.apertureWrite offset ⟨bs, false⟩) s = .next ((s.outsideWrite (s.apertureAddr offset) bs).2.foldl
      (fun (s : State) p => s.apertureEvent 3 p) (s.outsideWrite (s.apertureAddr offset) bs).1) := rfl

theorem exec_apertureWrite_poisoned {s : State} {offset : Nat} {bs : List Byte} (hb : bs ≠ [])
    (hc : s.apertureAddr offset % frameBytes + bs.length ≤ frameBytes) :
    exec (.apertureWrite offset ⟨bs, true⟩) s = .next (State.apertureEvent 3 (pageOf (s.apertureAddr offset))
      { s with host := { s.host with aer := s.host.aer ++ [4] } }) := by
  change ok _ = _
  rw [chunksOf_within (by simpa using hb) hc]
  rfl

/-- Settles O48. -/
theorem outsideAccesses : Obligations.OutsideAccesses := by
  unfold Obligations.OutsideAccesses
  intro s offset la p
  have hla : la < 2 ^ 48 := apertureAddr_lt s offset
  refine ⟨fun n hn hc hv => exec_apertureRead_ones (State.seeRange_unmapped hn hc hv), ?_, fun bytes hb hc => ⟨?_, fun h => ?_,
    exec_apertureWrite_poisoned hb hc⟩, fun a n bytes => ⟨fun hg => ⟨?_, ?_⟩, fun hg => ⟨fun h => ?_, fun h => ?_, ?_, ?_⟩⟩⟩
  · intro n hn hc hv hl hh hi hb hd pa hp
    exact exec_apertureRead_bytes (State.seeRange_home hn hla hc hv hl hh hi hb hd hp)
  · intro hv hl hh hi ho hcp
    obtain ⟨h1, h2, h3⟩ := State.outsideWrite_lands hb hc hla hv hl hh hi ho hcp
    refine ⟨_, (exec_apertureWrite_clean s offset bytes).trans ?_, h2, h3⟩
    rw [h1]
    rfl
  · rw [exec_apertureWrite_clean, State.outsideWrite_discards hb hc hla h]
    rfl
  · exact congrArg ok (if_pos (by simp [hg]))
  · exact congrArg ok (if_pos (by simp [hg]))
  · exact congrArg ok ((if_neg (by simp [hg])).trans (if_pos (by simp [h])))
  · exact congrArg ok ((if_neg (by simp [hg])).trans (if_pos (by simp [h])))
  · intro q hw hn ha hc hq hv hl hh hi hb hd hp
    subst hq
    exact exec_guestRead_bytes hg hw (State.seeRange_home hn ha hc hv hl hh hi hb hd hp)
  · intro q hw hb ha hc hq hv ho hh hbk hcp hi
    subst hq
    obtain ⟨h1, h2, -⟩ := State.outsideWrite_lands hb hc ha hv (by rw [ho]; decide) hh hi (by rw [hbk]; exact ho) hcp
    refine ⟨_, congrArg ok ((if_neg (by simp [hg])).trans (if_neg (by simp [hw]))), ?_, ?_⟩
    · change (!(s.outsideWrite a bytes).2.isEmpty) = false
      rw [h1]
      rfl
    · rw [Page.frameOf_single hbk] at h2
      exact h2

end Sys2Proof.Machine
end

section

/-!
SUPPORT. O49: resets and power states of the function.
-/

namespace Sys2Proof.Machine

/-! ### The audit log before ready -/

/-- `v` is `u` but for trust and notices that wait for ready. -/
def State.heldFrom (u v : State) : Prop :=
  ∃ t ns l, v = { u with trust := t, host := { u.host with notices := ns, noticesLost := l } }

theorem State.heldFrom_refl (u : State) : u.heldFrom u := ⟨u.trust, u.host.notices, u.host.noticesLost, rfl⟩

theorem State.heldFrom_trans {u v w : State} (h : u.heldFrom v) (h' : v.heldFrom w) : u.heldFrom w := by
  obtain ⟨t, ns, l, rfl⟩ := h
  obtain ⟨t', ns', l', rfl⟩ := h'
  exact ⟨t', ns', l', rfl⟩

theorem State.ready_of_held {u v : State} (h : u.heldFrom v) : v.host.ready = u.host.ready := by
  obtain ⟨t, ns, l, rfl⟩ := h
  rfl

theorem State.notice_held {s : State} (h : s.host.ready = false) (c : Nat) (ws : List Word) : s.heldFrom (s.notice c ws) := by
  unfold State.notice
  extract_lets d
  rw [if_neg (by simp [h])]
  split
  · exact ⟨s.trust, _, s.host.noticesLost, rfl⟩
  · exact ⟨s.trust, s.host.notices, _, rfl⟩

theorem State.appendEntry_held {s : State} (h : s.host.ready = false) (e : AuditEntry) : s.heldFrom (s.appendEntry e) := by
  unfold State.appendEntry
  extract_lets n k stay later prev mine chain beyond first unread high t0 v
  have hv : s.heldFrom v := ⟨_, s.host.notices, s.host.noticesLost, rfl⟩
  change s.heldFrom (if high then v.notice 0x805 _ else v)
  split
  · exact State.heldFrom_trans hv (State.notice_held ((State.ready_of_held hv).trans h) _ _)
  · exact hv

/-- Before ready an entry of the log touches trust and the notices that wait. -/
theorem State.audit_held {s : State} (h : s.host.ready = false) (k o : Nat) (old new : List Byte) :
    s.heldFrom (s.audit k o old new) :=
  List.foldlRecOn (motive := fun v : State => s.heldFrom v) _ _ (State.heldFrom_refl s)
    fun _ hv _ _ => State.heldFrom_trans hv (State.appendEntry_held ((State.ready_of_held hv).trans h) _)

/-! ### Function-level reset -/

theorem State.foldl_migrationEnd_kept (l : List Migration) (s : State) :
    (l.foldl (fun (s : State) m => s.migrationEnd m (s.mem.page m.page)) s).mem.clay = s.mem.clay ∧
      (l.foldl (fun (s : State) m => s.migrationEnd m (s.mem.page m.page)) s).trust = s.trust := by
  induction l generalizing s with
  | nil => exact ⟨rfl, rfl⟩
  | cons m l ih => exact ih _

/-- What a map reads is one of its entries, or the value of what is not listed. -/
theorem mapGet_listed_or {α : Type} (d : α) (m : Map α) (i : Nat) : mapGet d m i = d ∨ ∃ e ∈ m, e.2 = mapGet d m i := by
  induction m with
  | nil => exact .inl rfl
  | cons e m ih =>
    obtain ⟨k, v⟩ := e
    rw [mapGet]
    split
    · exact .inr ⟨(k, v), List.mem_cons_self, rfl⟩
    · split
      · exact .inl rfl
      · exact ih.imp id fun ⟨e, he, hv⟩ => ⟨e, List.mem_cons_of_mem _ he, hv⟩

/-- Ring 0 at ready. -/
def commandRing0 : Ring := { kind := .command, die := 4, log2d := 8, pair := 1 }

/-- Ring 1 at ready. -/
def completionRing1 : Ring := { kind := .completion, base := 256, die := 4, log2d := 8 }

theorem State.ring_firstRings (s : State) (n : Nat) :
    s.firstRings.ring n = if n = 1 then completionRing1 else if n = 0 then commandRing0 else s.ring n := by
  have h0 : commandRing0 ≠ {} := by decide
  have h1 : completionRing1 ≠ {} := by decide
  have hr : s.firstRings.ring n = mapGet {} (mapSet {} (mapSet {} s.rs.rings 0 commandRing0) 1 completionRing1) n := rfl
  rw [hr, mapGet_mapSet_listed h1, mapGet_mapSet_listed h0]
  rfl

/-- A reset of the function once its rings are freed. -/
def State.ringsFreed (s : State) : State :=
  let s := s.mem.migrations.foldl (fun (s : State) m => s.migrationEnd m (s.mem.page m.page)) s
  { s with
    rs := { s.rs with
      rings := s.rs.rings.filter fun e => e.2.kind == RingKind.handle, aux := [], storage := [], unfinal := [], ctxs := []
      served := [], serial := 0 }
    job := { s.job with deferred := [] }
    mem := { s.mem with clearing := [], cleared := [] }
    units := { s.units with power := mapMap .active (fun _ (p : UnitPower) => p.forget) s.units.power } }

theorem State.ringsReset_eq (s : State) : s.ringsReset = s.ringsFreed.firstRings := rfl

theorem State.ring_ringsFreed (s : State) (n : Nat) :
    (s.ringsFreed.ring n).kind = .handle ∨ s.ringsFreed.ring n = {} := by
  refine (mapGet_listed_or {} s.ringsFreed.rs.rings n).elim .inr fun ⟨e, he, hv⟩ => .inl ?_
  have hk := (List.mem_filter.1 he).2
  rw [State.ring, ← hv]
  exact beq_iff_eq.1 hk

/-- Rings 0 and 1 as at ready, and no other but handle rings; streams and storage are gone, and clay and trust stand. -/
theorem State.ringsReset_sets (s : State) :
    s.ringsReset.rs.storage = [] ∧ s.ringsReset.rs.ctxs = [] ∧ s.ringsReset.ring 0 = commandRing0 ∧
      s.ringsReset.ring 1 = completionRing1 ∧ (∀ n, 2 ≤ n → (s.ringsReset.ring n).kind = .handle ∨ s.ringsReset.ring n = {}) ∧
      s.ringsReset.job.deferred = [] ∧ s.ringsReset.trust = s.trust ∧ s.ringsReset.mem.clay = s.mem.clay := by
  obtain ⟨hm, ht⟩ := State.foldl_migrationEnd_kept s.mem.migrations s
  rw [State.ringsReset_eq]
  refine ⟨rfl, rfl, State.ring_firstRings _ 0, State.ring_firstRings _ 1, fun n hn => ?_, rfl, ht, hm⟩
  rw [State.ring_firstRings, if_neg (by omega), if_neg (by omega)]
  exact s.ring_ringsFreed n

/-- A reset of the function with no job, before its entry in the log. -/
def State.functionReset (s : State) : State :=
  { s.ringsReset with host := { s.ringsReset.host.regsReset with ready := false, flr := true } }

theorem exec_functionLevelReset_idle {s : State} (hr : s.host.ready = true) (hf : s.host.fatal = false)
    (hj : s.job.image = none) (hrun : s.job.run = none) :
    exec .functionLevelReset s = .next (s.functionReset.audit 6 0 [] (leBytes 1 (phaseCode s.job.st.phase))) := by
  have hs : s.resetStep = s := if_pos (by simp [State.runActive, hrun])
  refine congrArg ok ((if_neg (by simp [hr, hf])).trans ?_)
  dsimp only
  rw [hs, if_neg (by simp [State.jobRuns, hj])]
  rfl

/-! ### Ready again -/

theorem State.raiseVector_sets (v : Nat) (s : State) :
    ∃ m l, s.raiseVector v = { s with host := { s.host with msix := m, messages := l } } := by
  unfold State.raiseVector
  extract_lets e
  split
  · exact ⟨_, s.host.messages, rfl⟩
  · exact ⟨s.host.msix, _, rfl⟩

/-- `v` is `u` but for rings and the host interface, with READY and the reset of the function as they were. -/
def State.postedFrom (u v : State) : Prop :=
  ∃ q h, v = { u with rs := q, host := h } ∧ h.ready = u.host.ready ∧ h.flr = u.host.flr

theorem State.postedFrom_refl (u : State) : u.postedFrom u := ⟨_, _, rfl, rfl, rfl⟩

theorem State.postedFrom_trans {u v w : State} (h : u.postedFrom v) (h' : v.postedFrom w) : u.postedFrom w := by
  obtain ⟨q, g, rfl, h1, h2⟩ := h
  obtain ⟨q', g', rfl, h1', h2'⟩ := h'
  exact ⟨q', g', rfl, h1'.trans h1, h2'.trans h2⟩

theorem State.raiseVector_posted (v : Nat) (s : State) : s.postedFrom (s.raiseVector v) := by
  obtain ⟨m, l, e⟩ := s.raiseVector_sets v
  rw [e]
  exact ⟨_, _, rfl, rfl, rfl⟩

theorem State.setCause_posted (b : Nat) (s : State) : s.postedFrom (s.setCause b) := by
  unfold State.setCause
  extract_lets src t
  have ht : s.postedFrom t := ⟨_, _, rfl, rfl, rfl⟩
  split
  · exact State.postedFrom_trans ht (State.raiseVector_posted ..)
  · exact ht

/-- Notices that are posted touch rings and the host interface. -/
theorem State.drainNotices_posted (n : Nat) (s : State) : s.postedFrom (s.drainNotices n) := by
  induction n generalizing s with
  | zero => exact State.postedFrom_refl s
  | succ n ih =>
    unfold State.drainNotices
    extract_lets d
    split
    · exact State.postedFrom_refl s
    · split
      · next code rs rest _ =>
        refine State.postedFrom_trans (State.postedFrom_trans ?_ (State.raiseVector_posted ..)) (ih _)
        exact ⟨_, _, rfl, rfl, rfl⟩
      · split
        · exact State.postedFrom_refl s
        · refine State.postedFrom_trans ?_ (State.raiseVector_posted ..)
          exact ⟨_, _, rfl, rfl, rfl⟩

/-! ### D3hot -/

/-- The messages that were held. -/
def HostState.heldMessages (h : HostState) : List MsixMessage :=
  (mapKeys (fun _ (e : MsixEntry) => e.pending && !e.masked) h.msix).map fun v =>
    ⟨v, (mapGet {} h.msix v).addr, (mapGet {} h.msix v).data⟩

theorem HostState.addr_of_held {h : HostState} {m : MsixMessage} (hm : m ∈ h.heldMessages) :
    (mapGet {} h.msix m.vector).addr = m.addr := by
  obtain ⟨v, -, rfl⟩ := List.mem_map.1 hm
  rfl

/-- Settles O49. -/
theorem functionResets : Obligations.FunctionResets := by
  unfold Obligations.FunctionResets
  intro s
  refine ⟨fun h => congrArg ok (if_pos (by rcases h with h | h <;> simp [h])), fun hr hf hj hrun => ?_, fun h => ?_,
    fun h => congrArg ok (if_neg (by simp [h])), rfl, fun h => congrArg ok (if_neg (by simp [h])), fun h => ?_, rfl,
    fun v h => ⟨_, if_pos (by rw [h, Bool.or_true])⟩⟩
  · obtain ⟨h1, h2, h3, h4, h5, h6, h7, h8⟩ := s.ringsReset_sets
    obtain ⟨t, ns, l, e⟩ := State.audit_held (s := s.functionReset) rfl 6 0 [] (leBytes 1 (phaseCode s.job.st.phase))
    have hk : t.keys = s.trust.keys := by
      obtain ⟨t', q, g, e', -, hk, -⟩ := State.appendAudit_only
        (s.functionReset.entry 6 0 0 0 0 [] (leBytes 1 (phaseCode s.job.st.phase))) s.functionReset
      have : t = t' := congrArg State.trust (e.symm.trans e')
      rw [this, hk]
      exact congrArg TrustState.keys h7
    refine ⟨_, (exec_functionLevelReset_idle hr hf hj hrun).trans (congrArg _ e), rfl, rfl, rfl, h1, h2, h3, h4, h5, h6, hk, h8⟩
  · obtain ⟨q, g, e, h1, h2⟩ := State.postedFrom_trans
      (State.setCause_posted 0 { s with host := { s.host with ready := true, flr := false } }) (State.drainNotices_posted 257 _)
    exact ⟨_, congrArg ok ((if_pos h).trans e), h1, h2, rfl, rfl⟩
  · exact ⟨_, congrArg ok (if_pos h), rfl, rfl, s.host.heldMessages, rfl, fun m hm => HostState.addr_of_held hm⟩

end Sys2Proof.Machine
end

section

/-!
SUPPORT. O50: the board, the boot and the resets.
-/

namespace Sys2Proof.Machine

/-! ### Resets -/

section
variable {s : State}

theorem exec_powerUp (h : s.board.aon = false) (straps : BitVec 3) :
    ∃ u : State, exec (.powerUp straps) s = .next (if s.board.pwrgd then u.ramp else u) ∧ u.pow.latched = 0 ∧
      u.trust.keys = s.trust.keys ∧ u.trust.seat = s.trust.seat ∧ u.trust.rollback = s.trust.rollback ∧
      u.trust.audit = s.trust.audit ∧ u.trust.fuses = s.trust.fuses ∧ u.tiles = [] ∧ u.mem = .initial ∧ u.rs = .empty ∧
      u.job = JobState.none ∧ u.tilth = .initial ∧ u.num = .none ∧ u.host.ready = false ∧ u.cnt = .initial ∧ u.sc = 0 ∧
      u.board.aon = true ∧ u.board.stage = 0 ∧ u.board.sbAddr = straps ∧ u.board.dynamic = none :=
  ⟨_, congrArg ok (if_neg (by simp [h])), rfl, rfl, rfl, rfl, rfl, rfl, rfl, rfl, rfl, rfl, rfl, rfl, rfl, rfl, rfl, rfl, rfl,
    rfl, rfl⟩

/-- A ramp touches the board alone. -/
theorem State.ramp_only (h : s.pow.latched = 0) :
    ∃ p l, s.ramp = { s with board := { s.board with
      pwrgd := true, stage := 1, perstSeen := s.board.perstN, pins := p, shift := l } } :=
  ⟨_, _, if_neg (not_not_intro h)⟩

theorem State.pinsFree_of_perst {s : State} (h : s.board.perstN = true ∨ s.board.stage ≠ 0) : s.pinsFree = false := by
  unfold State.pinsFree
  rcases h with h | h <;> simp [h]

/-- The pins once neither EXTEST, CLAMP nor HIGHZ may take them. -/
theorem State.repin_functional (h : s.pinsFree = false) : s.repin = { s with board := { s.board with
    pins := .functional, shift := if s.board.tap.toNat = 3 then [false] else s.board.shift } } := by
  unfold State.repin
  simp only [h, Bool.not_false, if_true, Bool.false_eq_true, if_false]

end

/-! ### Boot -/

theorem State.setCause_fatal (b : Nat) (s : State) : (s.setCause b).host.fatal = s.host.fatal := by
  have hr (v : Nat) (u : State) : (u.raiseVector v).host.fatal = u.host.fatal := by
    obtain ⟨m, l, e⟩ := u.raiseVector_sets v
    rw [e]
  unfold State.setCause
  extract_lets src t
  split
  · exact hr 0 t
  · rfl

/-- A boot that fails stops at its stage, for good. -/
theorem State.bootFails_only (s : State) :
    ∃ h, s.bootFails = { s with
      host := h, pow := { s.pow with computeRails := false }
      board := { s.board with failed := true, failStage := s.board.stage } } ∧ h.fatal = true := by
  obtain ⟨h, e⟩ := State.setCause_only 4 { s with
    board := { s.board with failed := true, failStage := s.board.stage }
    pow := { s.pow with computeRails := false }
    host := { s.host with fatal := true, aer := s.host.aer ++ [3] } }
  have hf := State.setCause_fatal 4 { s with
    board := { s.board with failed := true, failStage := s.board.stage }
    pow := { s.pow with computeRails := false }
    host := { s.host with fatal := true, aer := s.host.aer ++ [3] } }
  rw [e] at hf
  exact ⟨h, e, hf⟩

section
variable {s : State} {r : BootIn}

/-- The stages of a boot that goes on. -/
theorem exec_bootStageComplete (ha : s.board.aon = true) (hf : s.board.failed = false) (hc : s.board.pcieClk = true)
    (h1 : 1 ≤ s.board.stage) (h9 : s.board.stage < 9) :
    (s.stageEnds r = none → exec (.bootStageComplete r) s = .next s.bootFails) ∧
    ∀ u, s.stageEnds r = some u →
      exec (.bootStageComplete r) s = .next { u with board := { u.board with stage := s.board.stage + 1 } } := by
  have hg : ¬((!s.board.aon || s.board.failed || !s.board.pcieClk || s.board.stage = 0 || 9 ≤ s.board.stage) = true) := by
    simp [ha, hf, hc]
    omega
  refine ⟨fun h => congrArg ok ((if_neg hg).trans ?_), fun u h => congrArg ok ((if_neg hg).trans ?_)⟩
  · rw [h]
  · rw [h]

end

/-! ### Ready -/

theorem State.audit_keys (k o : Nat) (old new : List Byte) (s : State) :
    (s.audit k o old new).trust.keys = s.trust.keys ∧ (s.audit k o old new).trust.rollback = s.trust.rollback := by
  obtain ⟨t, q, h, e, -, hk, -, -, -, -, -, -, -, hr⟩ := State.appendAudit_only (s.entry k 0 0 0 o old new) s
  rw [State.audit, e]
  exact ⟨hk, hr⟩

/-- Entries for the causes that wait. -/
theorem State.foldl_audit_trust (l : List (Nat × Nat)) (s : State) :
    (l.foldl (fun (s : State) p => s.audit p.1 0 [] (leBytes 1 (p.1 - 0x3FF) ++ leBytes 2 p.2)) s).trust.keys =
        s.trust.keys ∧
      (l.foldl (fun (s : State) p => s.audit p.1 0 [] (leBytes 1 (p.1 - 0x3FF) ++ leBytes 2 p.2)) s).trust.rollback =
        s.trust.rollback := by
  induction l generalizing s with
  | nil => exact ⟨rfl, rfl⟩
  | cons p l ih =>
    obtain ⟨hk, hr⟩ := ih (s.audit p.1 0 [] (leBytes 1 (p.1 - 0x3FF) ++ leBytes 2 p.2))
    obtain ⟨hk', hr'⟩ := s.audit_keys p.1 0 [] (leBytes 1 (p.1 - 0x3FF) ++ leBytes 2 p.2)
    exact ⟨hk.trans hk', hr.trans hr'⟩

/-- Notices that are posted change no ring's kind: ring 1 takes replies. -/
theorem State.kind_drainNotices (n k : Nat) (s : State) : ((s.drainNotices n).ring k).kind = (s.ring k).kind := by
  have hw (bs : List Byte) (u : State) (h : (u.ring 1).kind = .completion) (v : Nat) :
      (((u.writeReply 1 bs).raiseVector v).ring k).kind = (u.ring k).kind := by
    obtain ⟨m, l, e⟩ := (u.writeReply 1 bs).raiseVector_sets v
    have hne : ({ u.ring 1 with tail := ((u.ring 1).tail + 1) % 2 ^ 17, posted := ((u.ring 1).posted + 1) % 2 ^ 64 } : Ring) ≠
        {} := fun e => by
      have := congrArg Ring.kind e
      rw [h] at this
      cases this
    rw [e]
    refine (congrArg Ring.kind (mapGet_mapSet_listed hne u.rs.rings 1 k)).trans ?_
    split
    · next hk => rw [hk]
    · rfl
  induction n generalizing s with
  | zero => rfl
  | succ n ih =>
    unfold State.drainNotices
    extract_lets d
    split
    · rfl
    · next hg =>
      have hd : (s.ring 1).kind = .completion := by
        simp only [d, Bool.or_eq_true, bne_iff_ne, ne_eq, not_or, not_not] at hg
        exact hg.1.1.2
      split
      · next code rs rest _ => exact (ih _).trans (hw _ { s with host := { s.host with notices := rest } } hd _)
      · split
        · rfl
        · exact hw _ { s with host := { s.host with noticesLost := 0 } } hd _

/-- Ready, with the entries of stage 0x08 made. -/
def State.readyBegins (s : State) : State :=
  { s with
    board := { s.board with stage := 9, pendingAudit := [] }
    fab := { s.fab with ports := mapMap {} (fun n (p : Port) => if p.enable && !s.portHeld n then { p with state := 1 } else p) s.fab.ports }
    host := { s.host with ready := true } }

/-- The entries of stage 0x08: the firmware that runs, and the causes that wait. -/
def State.bootLogged (s : State) : State :=
  let fw := s.running
  let t : State := { s with trust := { s.trust with rollback := max s.trust.rollback fw.svn } }
  let t := t.audit 5 0 [] (t.fwDigest ++ leBytes 2 fw.svn ++ leBytes 1 t.board.cause)
  let trips := t.board.pendingAudit
  let t := trips.foldl (fun (s : State) p => s.audit p.1 0 [] (leBytes 1 (p.1 - 0x3FF) ++ leBytes 2 p.2)) t
  if trips.any fun p => p.1 == 0x402 then t.setPstat 4 else t

theorem State.becomeReady_eq (s : State) :
    s.becomeReady = (s.bootLogged.readyBegins.firstRings.setCause 0).drainNotices 257 := rfl

theorem State.bootLogged_trust (s : State) :
    s.bootLogged.trust.keys = s.trust.keys ∧ s.bootLogged.trust.rollback = max s.trust.rollback s.running.svn := by
  unfold State.bootLogged
  extract_lets fw src t u trips v
  obtain ⟨hk, hr⟩ := t.audit_keys 5 0 [] (t.fwDigest ++ leBytes 2 fw.svn ++ leBytes 1 t.board.cause)
  obtain ⟨hk', hr'⟩ := State.foldl_audit_trust trips u
  split
  · exact ⟨hk'.trans hk, hr'.trans hr⟩
  · exact ⟨hk'.trans hk, hr'.trans hr⟩

/-- Ready raises the rollback counter and makes rings 0 and 1; keys stand. -/
theorem State.becomeReady_sets (s : State) :
    s.becomeReady.host.ready = true ∧ s.becomeReady.trust.rollback = max s.trust.rollback s.running.svn ∧
      s.becomeReady.trust.keys = s.trust.keys ∧ (s.becomeReady.ring 0).kind = .command ∧
      (s.becomeReady.ring 1).kind = .completion := by
  obtain ⟨hk, hr⟩ := s.bootLogged_trust
  have hring (k : Nat) : (s.becomeReady.ring k).kind = (s.bootLogged.readyBegins.firstRings.ring k).kind := by
    obtain ⟨h, e⟩ := State.setCause_only 0 s.bootLogged.readyBegins.firstRings
    rw [State.becomeReady_eq, State.kind_drainNotices, e]
    rfl
  obtain ⟨q, h, e, h1, -⟩ := State.postedFrom_trans (State.setCause_posted 0 s.bootLogged.readyBegins.firstRings)
    (State.drainNotices_posted 257 _)
  refine ⟨?_, ?_, ?_, ?_, ?_⟩
  · rw [State.becomeReady_eq, e]
    exact h1
  · rw [State.becomeReady_eq, e]
    exact hr
  · rw [State.becomeReady_eq, e]
    exact hk
  · rw [hring, State.ring_firstRings]
    rfl
  · rw [hring, State.ring_firstRings]
    rfl

/-! ### The end of a stage -/

section
variable {s : State} {r : BootIn}

theorem State.stageEnds_power (h : s.board.stage = 1) (ho : r.ok = true) : s.stageEnds r =
    some { s with sc := 0, scFc := 0, pow := { s.pow with rails := true, computeRails := true } } := by
  simp only [State.stageEnds, h, ho, if_true]

theorem State.stageEnds_slot (h : s.board.stage = 3) {a : Bool} (ha : s.trust.bootSlot = some a) : s.stageEnds r =
    some { s with
      trust := { s.trust with booted := some a }
      host := { s.host with fwVer := BitVec.ofNat 32 (s.trust.slot a).fwVer } } := by
  simp only [State.stageEnds, h, ha]

theorem State.stageEnds_ready (h : s.board.stage = 8) (ho : r.ok = true) : s.stageEnds r = some s.becomeReady := by
  simp only [State.stageEnds, h, ho, if_true]

theorem State.stageEnds_links_failed (h : s.board.stage = 5) (ho : r.ok = false) : s.stageEnds r = none := by
  simp only [State.stageEnds, h, ho, Bool.false_and, Bool.false_eq_true, if_false]

end

/-! ### Loss of a rail and the reset by PERST_N -/

section
variable {s : State}

theorem exec_pwrgdInRise_ramps (ha : s.board.aon = true) (hp : s.board.pwrgd = false) (hl : s.pow.latched = 0) :
    exec .pwrgdInRise s = .next { s with board := { s.board with
      pwrgd := true, stage := 1, perstSeen := s.board.perstN, pins := .functional
      shift := if s.board.tap.toNat = 3 then [false] else s.board.shift } } := by
  refine congrArg ok ((if_neg (by simp [hp])).trans ((if_neg (by simp [ha])).trans ((if_neg (not_not_intro hl)).trans ?_)))
  rw [State.repin_functional (State.pinsFree_of_perst (.inr (show 1 ≠ 0 by decide)))]

theorem exec_perstNRise : exec .perstNRise s = .next { s with board := { s.board with
    perstN := true, perstSeen := true, training := decide (3 ≤ s.board.stage), pins := .functional
    shift := if s.board.tap.toNat = 3 then [false] else s.board.shift } } := by
  change ok _ = _
  rw [State.repin_functional (State.pinsFree_of_perst (.inl rfl))]
  rfl

end

/-- Settles O50. -/
theorem boardAndBoot : Obligations.BoardAndBoot := by
  unfold Obligations.BoardAndBoot
  intro s kept lost counts
  refine ⟨fun straps => ⟨fun h => congrArg ok (if_pos h), fun h => ?_⟩, fun h => ?_, fun h => ?_,
    exec_pwrgdInRise_ramps, fun ha hp hl => ?_, exec_perstNRise, fun hp hs hr => ?_, ?_, fun hf h1 h9 => ?_, fun hf h1 h9 => ?_⟩
  · obtain ⟨u, e, hl, k1, k2, k3, k4, k5, l1, l2, l3, l4, l5, l6, l7, hc, hsc, ha, hst, hsb, hd⟩ := exec_powerUp h straps
    refine ⟨_, e, ?_⟩
    obtain ⟨p, l, e'⟩ := State.ramp_only hl
    split
    · rw [e']
      exact ⟨⟨k1, k2, k3, k4, k5⟩, ⟨l1, l2, l3, l4, l5, l6, l7⟩, hc, hsc, ha, rfl, hsb, hd⟩
    · exact ⟨⟨k1, k2, k3, k4, k5⟩, ⟨l1, l2, l3, l4, l5, l6, l7⟩, hc, hsc, ha, hst, hsb, hd⟩
  · exact ⟨_, congrArg ok (if_neg (by simp [h])), ⟨rfl, rfl, rfl, rfl, rfl⟩, ⟨rfl, rfl, rfl, rfl, rfl, rfl, rfl⟩, rfl, rfl, rfl,
      rfl, rfl, rfl⟩
  · exact ⟨_, congrArg ok (if_pos h), ⟨rfl, rfl, rfl, rfl, rfl⟩, ⟨rfl, rfl, rfl, rfl, rfl, rfl, rfl⟩, rfl, rfl, rfl, rfl, rfl⟩
  · exact ⟨_, congrArg ok ((if_neg (by simp [hp])).trans (if_neg (by simp [ha, hl]))), ⟨rfl, rfl, rfl, rfl, rfl⟩,
      ⟨rfl, rfl, rfl, rfl, rfl, rfl, rfl⟩, rfl, rfl, rfl, rfl⟩
  · exact ⟨_, congrArg ok (if_neg (by simp [hp, hs, hr])), ⟨rfl, rfl, rfl, rfl, rfl⟩,
      ⟨rfl, rfl, rfl, rfl, rfl, rfl, rfl⟩, rfl, rfl, rfl, rfl, hr, rfl⟩
  · intro boots
    refine ⟨fun r hb h1 ho => ?_, fun r hb h3 a hs => ?_, fun r hb h8 ho => ?_, fun r hb h5 ho => ?_⟩
    all_goals obtain ⟨ha, hf, hc⟩ := hb
    · refine ⟨_, (exec_bootStageComplete ha hf hc (by omega) (by omega)).2 _ (State.stageEnds_power h1 ho),
        ⟨rfl, rfl, rfl, rfl, rfl⟩, congrArg (· + 1) h1, rfl, rfl, rfl⟩
    · refine ⟨_, (exec_bootStageComplete ha hf hc (by omega) (by omega)).2 _ (State.stageEnds_slot h3 hs),
        congrArg (· + 1) h3, rfl, rfl⟩
    · obtain ⟨h1, h2, h3, h4, h5⟩ := s.becomeReady_sets
      exact ⟨_, (exec_bootStageComplete ha hf hc (by omega) (by omega)).2 _ (State.stageEnds_ready h8 ho),
        congrArg (· + 1) h8, h1, h2, h3, h4, h5⟩
    · obtain ⟨h, e, hfatal⟩ := s.bootFails_only
      exact ⟨_, ((exec_bootStageComplete ha hf hc (by omega) (by omega)).1 (State.stageEnds_links_failed h5 ho)).trans (congrArg _ e),
        ⟨rfl, rfl, rfl, rfl, rfl⟩, rfl, h5, hfatal⟩
  · obtain ⟨h, e, hfatal⟩ := s.bootFails_only
    exact ⟨_, congrArg ok ((if_neg (by simp [hf]; omega)).trans e), ⟨rfl, rfl, rfl, rfl, rfl⟩, rfl, rfl, hfatal, rfl⟩
  · obtain ⟨h, e, hfatal⟩ := State.bootFails_only { s with board := { s.board with pcieClk := false } }
    exact ⟨_, congrArg ok ((if_neg (show s.board.stage ≠ 9 by omega)).trans ((if_neg (by
      change ¬((s.board.failed || decide (s.board.stage = 0)) = true)
      simp [hf]
      omega)).trans e)), rfl, rfl, hfatal⟩

end Sys2Proof.Machine
end

section

/-!
SUPPORT. O51: the sideband's CCCs and the test port.
-/

namespace Sys2Proof.Machine

section
variable {s : State}

/-- An instruction of the TAP that leaves the pins to their function. -/
theorem State.tapTo_functional (ha : s.board.aon = true) {code : BitVec 8} (h3 : code.toNat ≠ 3) (h4 : code.toNat ≠ 4)
    (h5 : code.toNat ≠ 5) (l : List Bool) :
    s.tapTo code l = { s with board := { s.board with tap := code, shift := l, pins := .functional } } := by
  rw [State.tapTo, if_pos ha, State.repin]
  simp only [h3, h4, h5, or_self, if_false, ite_self]

/-- An instruction of the TAP where the pins are not free. -/
theorem State.tapTo_busy (ha : s.board.aon = true) (hf : s.pinsFree = false) (code : BitVec 8) :
    s.tapTo code [false] = { s with board := { s.board with tap := code, shift := [false], pins := .functional } } := by
  rw [State.tapTo, if_pos ha, State.repin_functional (s := { s with board := { s.board with tap := code, shift := [false] } }) hf]
  simp only [ite_self]

/-- EXTEST, where the pins are free, drives them from the boundary-scan register. -/
theorem State.tapTo_extest (ha : s.board.aon = true) (hf : s.pinsFree = true) : s.tapTo 0x03 [false] =
    { s with board := { s.board with tap := 0x03, shift := s.board.boundaryScan, pins := .scan s.board.boundaryScan } } := by
  have hf' : ({ s with board := { s.board with tap := 0x03, shift := [false] } } : State).pinsFree = true := hf
  rw [State.tapTo, if_pos ha, State.repin]
  simp only [hf']
  rfl

/-- CLAMP, where the pins are free, holds them from the boundary-scan register. -/
theorem State.tapTo_clamp (ha : s.board.aon = true) (hf : s.pinsFree = true) : s.tapTo 0x04 [false] =
    { s with board := { s.board with tap := 0x04, shift := [false], pins := .scan s.board.boundaryScan } } := by
  have hf' : ({ s with board := { s.board with tap := 0x04, shift := [false] } } : State).pinsFree = true := hf
  rw [State.tapTo, if_pos ha, State.repin]
  simp only [hf']
  rfl

/-- HIGHZ, where the pins are free. -/
theorem State.tapTo_highz (ha : s.board.aon = true) (hf : s.pinsFree = true) : s.tapTo 0x05 [false] =
    { s with board := { s.board with tap := 0x05, shift := [false], pins := .highZ } } := by
  have hf' : ({ s with board := { s.board with tap := 0x05, shift := [false] } } : State).pinsFree = true := hf
  rw [State.tapTo, if_pos ha, State.repin]
  simp only [hf']
  rfl

theorem State.tapTo_off (ha : s.board.aon = false) (code : BitVec 8) (l : List Bool) : s.tapTo code l = s :=
  if_neg (by simp [ha])

theorem State.addressed_on {x : Nat} (ha : s.board.aon = true) (hd : s.board.dynamic = some x) (act : State → State) :
    s.addressed act = act s := if_pos (by simp [ha, hd])

theorem State.addressed_off (ha : s.board.aon = false) (act : State → State) : s.addressed act = s := if_neg (by simp [ha])

end

/-- Without the always-on domain neither the sideband nor the test port answers. -/
theorem exec_boardPort_off {s : State} (ha : s.board.aon = false) (a : BitVec 7) (bits : List Bool) :
    ∀ i ∈ [Instr.entdaa a, .setdasa a, .setnewda a, .rstdaa, .getpid, .getbcr, .getdcr, .getstatus, .idcode,
      .samplePreload bits, .extest, .clamp, .highz, .bypass], exec i s = .next s := by
  simp only [List.forall_mem_cons]
  refine ⟨congrArg ok (if_neg (by simp [ha])), congrArg ok (if_neg (by simp [ha])), congrArg ok (State.addressed_off ha _),
    congrArg ok (if_neg (by simp [ha])), congrArg ok (State.addressed_off ha _), congrArg ok (State.addressed_off ha _),
    congrArg ok (State.addressed_off ha _), congrArg ok (State.addressed_off ha _), congrArg ok (State.tapTo_off ha _ _),
    congrArg ok (if_neg (by simp [ha])), congrArg ok (State.tapTo_off ha _ _), congrArg ok (State.tapTo_off ha _ _),
    congrArg ok (State.tapTo_off ha _ _), congrArg ok (State.tapTo_off ha _ _), fun i hi => absurd hi List.not_mem_nil⟩

/-- Settles O51. -/
theorem sidebandAndTestPort : Obligations.SidebandAndTestPort := by
  unfold Obligations.SidebandAndTestPort
  intro s a bits to_ b free
  refine ⟨fun ha hd => ?_, fun x ha hd => ?_, fun ha => congrArg ok (if_pos ha), rfl, rfl, fun ha => ?_,
    fun ha => exec_boardPort_off ha a bits⟩
  · exact ⟨congrArg ok (if_pos (by simp [show s.board.aon = true from ha, show s.board.dynamic = none from hd])),
      congrArg ok (if_pos (by simp [show s.board.aon = true from ha, show s.board.dynamic = none from hd]))⟩
  · have hn : ¬((s.board.aon && s.board.dynamic.isNone) = true) := by
      simp [show s.board.dynamic = some x from hd]
    exact ⟨congrArg ok (if_neg hn), congrArg ok (if_neg hn), congrArg ok (State.addressed_on ha hd _),
      congrArg ok (State.addressed_on ha hd _), congrArg ok (State.addressed_on ha hd _),
      congrArg ok (State.addressed_on ha hd _), congrArg ok (State.addressed_on ha hd _)⟩
  · refine ⟨congrArg ok (State.tapTo_functional ha (by decide) (by decide) (by decide) _),
      congrArg ok ((if_pos ha).trans (State.tapTo_functional (s := { s with board := { s.board with boundaryScan := bits } }) ha
        (by decide) (by decide) (by decide) bits)),
      congrArg ok (State.tapTo_functional ha (by decide) (by decide) (by decide) _), fun hf => ?_, fun hf => ?_⟩
    · obtain ⟨h1, h2⟩ := hf
      have hp : s.pinsFree = true := by
        simp [State.pinsFree, show s.board.aon = true from ha, show s.board.perstN = false from h1,
          show s.board.stage = 0 from h2]
      exact ⟨congrArg ok (State.tapTo_extest ha hp), congrArg ok (State.tapTo_clamp ha hp),
        congrArg ok (State.tapTo_highz ha hp)⟩
    · have hp : s.pinsFree = false := by
        refine State.pinsFree_of_perst ?_
        by_contra h
        rw [not_or, Bool.not_eq_true, not_not] at h
        exact hf h
      exact ⟨congrArg ok (State.tapTo_busy ha hp _), congrArg ok (State.tapTo_busy ha hp _),
        congrArg ok (State.tapTo_busy ha hp _)⟩

end Sys2Proof.Machine
end


/-!
SUPPORT. Faults and fallow work: what a fault's notice leaves as it was, the units, cores and channels that fail, and the
slots of the background tasks.
-/

namespace Sys2Proof.Machine

/-! ### What a fault's notice leaves as it was -/

section
variable {u v w : State}

/-- What is listed is an entry. -/
theorem mapGet_mem {α : Type} {d : α} {m : Map α} {i : Nat} (h : mapGet d m i ≠ d) : (i, mapGet d m i) ∈ m := by
  induction m with
  | nil => exact absurd rfl h
  | cons e m ih =>
    obtain ⟨k, v⟩ := e
    rw [mapGet] at h ⊢
    split at h
    · next hk =>
      subst hk
      rw [if_pos rfl]
      exact List.mem_cons_self
    · next hk =>
      split at h
      · exact absurd rfl h
      · next hl =>
        rw [if_neg hk, if_neg hl]
        exact List.mem_cons_of_mem _ (ih h)

/-- An entry of a map that was set is the one set, or was there. -/
theorem mem_mapSet {α : Type} [DecidableEq α] {d v : α} {m : Map α} {i : Nat} {e : Nat × α} (h : e ∈ mapSet d m i v) :
    e = (i, v) ∨ e ∈ m := by
  induction m with
  | nil =>
    rw [mapSet] at h
    split at h
    · exact absurd h List.not_mem_nil
    · exact .inl (List.mem_singleton.1 h)
  | cons x m ih =>
    obtain ⟨k, y⟩ := x
    rw [mapSet] at h
    split at h
    · split at h
      · exact .inr (List.mem_cons_of_mem _ h)
      · exact (List.mem_cons.1 h).imp id (List.mem_cons_of_mem _)
    · split at h
      · split at h
        · exact .inr h
        · exact List.mem_cons.1 h
      · rcases List.mem_cons.1 h with h | h
        · exact .inr (h ▸ List.mem_cons_self)
        · exact (ih h).imp id (List.mem_cons_of_mem _)

/-- `v` is `u` but for the log, replies and the host interface: no fault of the host's record, no task, and no long command
or set of cores of a ring is another. -/
structure State.noticedFrom (u v : State) : Prop where
  only : ∃ t q h, v = { u with trust := t, rs := q, host := h }
  aer : v.host.aer = u.host.aer
  tasks : v.rs.tasks = u.rs.tasks
  cores : ∀ r, (v.aux r).coreSet = (u.aux r).coreSet
  longs : ∀ e ∈ v.rs.aux, e.2.current.isSome = true → e.2.work.isSome = true →
    ∃ e' ∈ u.rs.aux, e'.1 = e.1 ∧ e'.2.current.isSome = true ∧ e'.2.work.isSome = true

theorem State.noticedFrom_refl (u : State) : u.noticedFrom u :=
  ⟨⟨_, _, _, rfl⟩, rfl, rfl, fun _ => rfl, fun e he h h' => ⟨e, he, rfl, h, h'⟩⟩

theorem State.noticedFrom_trans (h : u.noticedFrom v) (h' : v.noticedFrom w) : u.noticedFrom w := by
  refine ⟨?_, h'.aer.trans h.aer, h'.tasks.trans h.tasks, fun r => (h'.cores r).trans (h.cores r), fun e he h1 h2 => ?_⟩
  · obtain ⟨t, q, g, rfl⟩ := h.only
    obtain ⟨t', q', g', rfl⟩ := h'.only
    exact ⟨t', q', g', rfl⟩
  · obtain ⟨e', he', hk, h1', h2'⟩ := h'.longs e he h1 h2
    obtain ⟨e'', he'', hk', h⟩ := h.longs e' he' h1' h2'
    exact ⟨e'', he'', hk'.trans hk, h⟩

/-- Another host interface with the same record of errors. -/
theorem State.noticedFrom_host {h : HostState} (ha : h.aer = u.host.aer) : u.noticedFrom { u with host := h } :=
  ⟨⟨u.trust, u.rs, h, rfl⟩, ha, rfl, fun _ => rfl, fun e he h h' => ⟨e, he, rfl, h, h'⟩⟩

theorem State.raiseVector_noticed (n : Nat) (s : State) : s.noticedFrom (s.raiseVector n) := by
  obtain ⟨m, l, e⟩ := s.raiseVector_sets n
  rw [e]
  exact State.noticedFrom_host rfl

/-- A reply adds one to the replies of its ring. -/
theorem State.writeReply_noticed (r : Nat) (bytes : List Byte) (s : State) : s.noticedFrom (s.writeReply r bytes) := by
  have hv : ({ s.aux r with replies := (s.aux r).replies + 1 } : RingAux) ≠ {} :=
    fun h => Nat.succ_ne_zero _ (congrArg RingAux.replies h)
  have hx (i : Nat) : (s.writeReply r bytes).aux i =
      if i = r then { s.aux r with replies := (s.aux r).replies + 1 } else s.aux i := State.aux_setAux hv r i _
  refine ⟨⟨s.trust, _, s.host, rfl⟩, rfl, rfl, fun i => ?_, fun e he h1 h2 => ?_⟩
  · rw [hx]
    split
    · next h => rw [h]
    · rfl
  · rcases mem_mapSet he with rfl | he
    · refine ⟨_, mapGet_mem (d := ({} : RingAux)) (i := r) fun hd => ?_, rfl, h1, h2⟩
      rw [show (s.aux r).current = none from congrArg RingAux.current hd] at h1
      exact absurd h1 (by decide)
    · exact ⟨e, he, rfl, h1, h2⟩

theorem State.notice_noticed (code : Nat) (ws : List Word) (s : State) : s.noticedFrom (s.notice code ws) := by
  simp only [State.notice]
  split
  · exact State.noticedFrom_trans (State.writeReply_noticed ..) (State.raiseVector_noticed ..)
  · split
    · exact State.noticedFrom_host rfl
    · exact State.noticedFrom_host rfl

theorem State.appendEntry_noticed (e : AuditEntry) (s : State) : s.noticedFrom (s.appendEntry e) := by
  unfold State.appendEntry
  extract_lets n k stay later prev mine chain beyond first unread high t0 v
  have hv : s.noticedFrom v := ⟨⟨_, s.rs, s.host, rfl⟩, rfl, rfl, fun _ => rfl, fun e he h h' => ⟨e, he, rfl, h, h'⟩⟩
  split
  · exact State.noticedFrom_trans hv (State.notice_noticed ..)
  · exact hv

theorem State.audit_noticed (k o : Nat) (old new : List Byte) (s : State) : s.noticedFrom (s.audit k o old new) :=
  List.foldlRecOn (motive := fun v : State => s.noticedFrom v) _ _ s.noticedFrom_refl
    fun _ hv _ _ => State.noticedFrom_trans hv (State.appendEntry_noticed ..)

theorem State.faultNotice_noticed (code : Nat) (ws : List Word) (s : State) : s.noticedFrom (s.faultNotice code ws) :=
  State.noticedFrom_trans (State.notice_noticed code ws s) (State.audit_noticed ..)

theorem State.faultNotice_units (code : Nat) (ws : List Word) (s : State) : (s.faultNotice code ws).units = s.units := by
  obtain ⟨t, q, h, e⟩ := (s.faultNotice_noticed code ws).only
  rw [e]

theorem State.faultNotice_job (code : Nat) (ws : List Word) (s : State) : (s.faultNotice code ws).job = s.job := by
  obtain ⟨t, q, h, e⟩ := (s.faultNotice_noticed code ws).only
  rw [e]

/-- A core with nothing to serve has nothing to serve after a notice. -/
theorem State.servedBy_noticed (h : u.noticedFrom v) {n : Nat} (hn : u.servedBy n = []) : v.servedBy n = [] := by
  have hc (r : Nat) : v.coreServes n r = u.coreServes n r := by
    obtain ⟨t, q, g, e⟩ := h.only
    have hr := h.cores r
    rw [e] at hr ⊢
    unfold State.coreServes
    simp only [hr]
  refine List.filter_eq_nil_iff.2 fun r hr => ?_
  obtain ⟨e, he, rfl⟩ := List.mem_map.1 hr
  obtain ⟨hm, hs⟩ := List.mem_filter.1 he
  obtain ⟨h1, h2⟩ := Bool.and_eq_true_iff.1 hs
  obtain ⟨e', he', hk, h1', h2'⟩ := h.longs e hm h1 h2
  rw [hc, ← hk]
  exact List.filter_eq_nil_iff.1 hn e'.1
    (List.mem_map.2 ⟨e', List.mem_filter.2 ⟨he', Bool.and_eq_true_iff.2 ⟨h1', h2'⟩⟩, rfl⟩)

end

/-! ### A fatal fault -/

section
variable {s : State}

theorem exec_fatal_over (h : s.host.fatal = true) (u : UnitId) : exec (.fatal u) s = .next s :=
  congrArg ok (if_pos h)

theorem exec_unitFault_over (h : s.host.fatal = true) (u : UnitId) : exec (.unitFault u) s = .next s :=
  congrArg ok (if_pos h)

theorem exec_coreFault_over (h : s.host.fatal = true) (n : Nat) : exec (.coreFault n) s = .next s :=
  congrArg ok (if_pos (.inl h))

theorem exec_fallowSlotGrant_over {d k : Nat} (h : s.host.fatal = true ∨ s.hasSlots d k = false) :
    exec (.fallowSlotGrant d k) s = .next s :=
  congrArg ok (if_pos (by rcases h with h | h <;> simp [h]))

theorem exec_fallowDeadline_over {kind d k : Nat} (h : s.hasSlots d k = false) :
    exec (.fallowDeadline kind d k) s = .next s :=
  congrArg ok (if_pos (by simp [h]))

/-- The host's view of a cause: its bit is set, and the record of errors stands. -/
theorem State.setCause_sets (b : Nat) (s : State) : ∃ c m l, s.setCause b = { s with host := { s.host with
    intCause := s.host.intCause ||| (1#5 <<< b), causeNow := c, msix := m, messages := l } } := by
  unfold State.setCause
  extract_lets src v
  split
  · obtain ⟨m, l, e⟩ := v.raiseVector_sets 0
    rw [e]
    exact ⟨_, m, l, rfl⟩
  · exact ⟨_, s.host.msix, s.host.messages, rfl⟩

theorem State.goFatal_idle (w : Word) (h : s.host.fatal = false)
    (ht : ∀ e ∈ s.rs.tasks, e.2.phase ≠ .running ∧ e.2.phase ≠ .aborting) :
    let v := (s.faultNotice 0x81A [w]).setCause 4
    s.goFatal w = { v with host := { v.host with fatal := true, aer := v.host.aer ++ [3] } } := by
  obtain ⟨c, m, l, e⟩ := State.setCause_sets 4 (s.faultNotice 0x81A [w])
  have hl : mapKeys (fun _ (t : Task) => t.phase == .running || t.phase == .aborting)
      ((s.faultNotice 0x81A [w]).setCause 4).rs.tasks = [] := by
    rw [e]
    change mapKeys _ (s.faultNotice 0x81A [w]).rs.tasks = []
    rw [(s.faultNotice_noticed 0x81A [w]).tasks]
    refine List.map_eq_nil_iff.2 (List.filter_eq_nil_iff.2 fun x hx => ?_)
    obtain ⟨h1, h2⟩ := ht x hx
    simp [h1, h2]
  unfold State.goFatal
  rw [if_neg (by simp [h])]
  dsimp only
  rw [hl]
  rfl

theorem exec_fatal_sets (u : UnitId) (h : s.host.fatal = false)
    (ht : ∀ e ∈ s.rs.tasks, e.2.phase ≠ .running ∧ e.2.phase ≠ .aborting) :
    ∃ s', exec (.fatal u) s = .next s' ∧ s'.host.fatal = true ∧ s'.host.aer = s.host.aer ++ [3] ∧
      s'.host.intCause.getLsbD 4 = true ∧ s'.mem = s.mem ∧ s'.tiles = s.tiles ∧ s'.job = s.job ∧
      ∀ r, s'.startable r = false := by
  have hn := s.faultNotice_noticed 0x81A [unitWord u.die u.kind u.num]
  obtain ⟨t, q, g, e⟩ := hn.only
  have ha := hn.aer
  obtain ⟨c, m, l, e'⟩ := State.setCause_sets 4 (s.faultNotice 0x81A [unitWord u.die u.kind u.num])
  refine ⟨_, congrArg ok (State.goFatal_idle _ h ht), rfl, ?_, ?_, ?_⟩
  · rw [e']
    exact congrArg (· ++ [3]) ha
  · rw [e']
    change ((s.faultNotice 0x81A [unitWord u.die u.kind u.num]).host.intCause ||| (1#5 <<< 4)).getLsbD 4 = true
    rw [BitVec.getLsbD_or]
    exact (congrArg (_ || ·) (by decide : (1#5 <<< 4).getLsbD 4 = true)).trans (Bool.or_true _)
  · rw [e', e]
    refine ⟨rfl, rfl, rfl, fun r => ?_⟩
    unfold State.startable
    simp

end

/-! ### Units, cores and channels that fail -/

section
variable {s : State}

theorem State.setUnit_stands (x : UnitId) (p : UnitPower) (s : State) :
    (s.setUnit x p).units.lost = s.units.lost ∧ (s.setUnit x p).mem = s.mem ∧ (s.setUnit x p).tiles = s.tiles ∧
      (s.setUnit x p).job = s.job := by
  unfold State.setUnit
  dsimp only
  split
  · exact ⟨rfl, rfl, rfl, rfl⟩
  · split <;> exact ⟨rfl, rfl, rfl, rfl⟩

/-- A unit that no image uses is lost, and DARK. -/
theorem State.loseUnit_sets {kind num : Nat} (hk : kind ≤ 3) (hi : s.job.image = none) (die : Nat) :
    (s.loseUnit kind kind die num).unitLost kind die num = true ∧
      (s.loseUnit kind kind die num).unitPower ⟨kind, die, num⟩ = .dark ∧
      (s.loseUnit kind kind die num).mem = s.mem ∧ (s.loseUnit kind kind die num).tiles = s.tiles := by
  let a : State := { s with units := { s.units with lost := setInsert s.units.lost (unitNumber kind die num) } }
  let b := a.setUnit ⟨kind, die, num⟩ .dark
  let v := b.faultNotice 0x816 [unitWord die kind num, 0]
  obtain ⟨hbl, hbm, hbt, hbj⟩ := a.setUnit_stands ⟨kind, die, num⟩ .dark
  obtain ⟨t, q, h, e⟩ := (b.faultNotice_noticed 0x816 [unitWord die kind num, 0]).only
  have hu : v.imageUsesUnit kind die num = false := by
    have hj : v.job.image = none := by
      change (b.faultNotice 0x816 [unitWord die kind num, 0]).job.image = none
      rw [State.faultNotice_job, hbj]
      exact hi
    unfold State.imageUsesUnit State.image
    rw [hj]
    dsimp only [Option.map, Option.getD]
    split <;> rfl
  have he : s.loseUnit kind kind die num = v := by
    unfold State.loseUnit
    dsimp only
    rw [if_pos hk]
    exact if_neg (by rw [show State.imageUsesUnit _ kind die num = false from hu]; decide)
  rw [he, show v = _ from e]
  refine ⟨List.contains_iff_mem.2 ?_, ?_, hbm, hbt⟩
  · change unitNumber kind die num ∈ b.units.lost
    rw [hbl]
    exact mem_setInsert.2 (.inl rfl)
  · exact (State.unitPower_setUnit (by decide) ⟨kind, die, num⟩ ⟨kind, die, num⟩ a).trans (if_pos rfl)

theorem exec_unitFault_engine {n : Nat} (h : s.host.fatal = false) (hn : n < 16) (hl : s.unitLost 2 4 n = false)
    (hi : s.job.image = none) : exec (.unitFault ⟨2, 4, n⟩) s = .next (s.loseUnit 2 2 4 n) := by
  refine congrArg ok ((if_neg (by simp [h])).trans ((if_pos ⟨rfl, hn⟩).trans ((if_neg (by simp [hl])).trans ?_)))
  have ht : s.tasksOfHubUnit 2 n = [] := by
    unfold State.tasksOfHubUnit State.image
    rw [hi]
    rfl
  rw [ht]
  rfl

theorem tileId?_val (t : TileId) : tileId? t.die.val t.tile.val = some t := by
  unfold tileId?
  rw [dif_pos ⟨t.die.isLt, t.tile.isLt⟩]

theorem exec_unitFault_tile {t : TileId} (h : s.host.fatal = false) (hb : (s.tile t).busy = false)
    (hc : (s.tile t).clock = s.fc) (hl : s.unitLost 0x10 t.die.val t.tile.val = false) (hn : s.units.boundary = [])
    (hs : mapGet 0 s.units.tileSpares (t.die.val * 16 + t.tile.val / 18) < 2) (hj : s.job.image.isSome = true) :
    exec (.unitFault ⟨0, t.die.val, t.tile.val⟩) s =
      .next { s with units := { s.units with boundary := [.tile t] } } := by
  refine congrArg ok ((if_neg (by simp [h])).trans ?_)
  rw [tileId?_val]
  refine (if_neg (by rw [hl, hn]; simp)).trans ?_
  dsimp only
  have hp (p : BoundaryItem → Bool) : s.pendingItems p = 0 := by
    unfold State.pendingItems
    rw [hn]
    rfl
  rw [State.runTo_reached (Nat.le_of_eq hc.symm), hb, if_neg Bool.false_ne_true]
  refine (if_pos ?_).trans ?_
  · rw [hp]
    exact hs
  refine (State.atOnce_waits ((congrArg (fun j => j.image.isSome) (State.pushBoundary_job ..)).trans hj)).trans ?_
  unfold State.pushBoundary
  rw [hn]
  rfl

/-- A core with nothing to serve only takes a free value as it stops. -/
theorem State.coreStops_idle {n : Nat} (h : s.servedBy n = []) : s.coreStops n = { s with free := s.free + 1 } := by
  unfold State.coreStops
  rw [h]
  rfl

theorem State.pushBoundary_sets (b : BoundaryItem) (s : State) :
    s.pushBoundary b = { s with units := { s.units with boundary := (s.pushBoundary b).units.boundary } } ∧
      b ∈ (s.pushBoundary b).units.boundary := by
  unfold State.pushBoundary
  split
  · next h => exact ⟨rfl, List.contains_iff_mem.1 h⟩
  · exact ⟨rfl, List.mem_append_right _ List.mem_cons_self⟩

theorem exec_coreFault_sets {n : Nat} (h : s.host.fatal = false) (hn : n < 8) (hd : n ∉ s.units.coresDown)
    (hl : s.coreSparesLeft = 2) (hs : s.servedBy n = []) (hj : s.job.image.isSome = true) :
    ∃ s', exec (.coreFault n) s = .next s' ∧ n ∈ s'.units.coresDown ∧ BoundaryItem.core n ∈ s'.units.boundary ∧
      s'.mem = s.mem ∧ s'.job = s.job := by
  have hv := s.faultNotice_noticed 0x817 [BitVec.ofNat 32 n, BitVec.ofNat 32 (s.coreSparesLeft - 1)]
  let down := ((s.faultNotice 0x817 [BitVec.ofNat 32 n, BitVec.ofNat 32 (s.coreSparesLeft - 1)]).coreStops n).coreDown n
  have he : down = ({ s.faultNotice 0x817 [BitVec.ofNat 32 n, BitVec.ofNat 32 (s.coreSparesLeft - 1)] with
      free := (s.faultNotice 0x817 [BitVec.ofNat 32 n, BitVec.ofNat 32 (s.coreSparesLeft - 1)]).free + 1 } : State).coreDown
        n := congrArg (State.coreDown n) (State.coreStops_idle (State.servedBy_noticed hv hs))
  obtain ⟨t, q, g, e⟩ := hv.only
  rw [e] at he
  obtain ⟨hp, hm⟩ := down.pushBoundary_sets (.core n)
  refine ⟨down.pushBoundary (.core n), ?_, ?_, hm, ?_, ?_⟩
  · refine congrArg ok ((if_neg ?_).trans ((if_pos (by rw [hl]; decide)).trans (State.atOnce_waits ?_)))
    · simp [h, Nat.not_le.2 hn, hd]
    · rw [State.pushBoundary_job, show ((s.faultNotice _ _).coreStops n).coreDown n = _ from he]
      exact hj
  · rw [hp, he]
    exact mem_setInsert.2 (.inl rfl)
  · rw [hp, he]
    rfl
  · rw [hp, he]
    rfl

theorem mem_pairInsert (l : List (Nat × Nat)) (p : Nat × Nat) : p ∈ pairInsert l p := by
  unfold pairInsert
  split
  · next h => exact List.contains_iff_mem.1 h
  · exact List.mem_append_right _ List.mem_cons_self

theorem exec_channelCopyComplete_sets {st ch : Nat} (h : s.host.fatal = false) (hc : (st, ch) ∈ s.units.copying)
    (hj : s.job.image.isSome = true) (hs : channelBursts ≤ (s.bg bgCopy (st + 5) ch).slots) :
    ∃ s', exec (.channelCopyComplete st ch) s = .next s' ∧ (st, ch) ∉ s'.units.copying ∧
      (st, ch) ∈ s'.units.switching ∧ BoundaryItem.channel st ch ∈ s'.units.boundary ∧
      s' = { s with units := s'.units } := by
  let b := s.setBg bgCopy (st + 5) ch {}
  let v : State := { b with units := { b.units with
    copying := b.units.copying.filter fun c => c != (st, ch), switching := pairInsert b.units.switching (st, ch) } }
  obtain ⟨hp, hm⟩ := v.pushBoundary_sets (.channel st ch)
  refine ⟨v.pushBoundary (.channel st ch), ?_, ?_, ?_, hm, ?_⟩
  · have hv : (v.pushBoundary (.channel st ch)).job.image.isSome = true := by rw [State.pushBoundary_job]; exact hj
    refine congrArg ok ((if_neg ?_).trans (State.atOnce_waits hv))
    simp [h, hc, Nat.not_lt.2 hs]
  · rw [hp]
    exact fun hx => absurd (List.mem_filter.1 hx).2 (by simp)
  · rw [hp]
    exact mem_pairInsert ..
  · rw [hp]
    rfl

end

/-! ### The slots of the background tasks -/

section
variable {s : State}

/-- The better of two background tasks, the first where neither comes before the other. -/
def BgWant.better (best x : BgWant) : BgWant :=
  if x.rank < best.rank ∨ (x.rank = best.rank ∧ best.waited < x.waited) then x else best

/-- Of a task and those that follow, the best comes before none: a lower rank, or the longer wait at the same. -/
theorem bestBackground_spec {wants : List BgWant} {w : BgWant} (h : bestBackground wants = some w) :
    w ∈ wants ∧ ∀ x ∈ wants, w.rank ≤ x.rank ∧ (x.rank = w.rank → x.waited ≤ w.waited) := by
  have hf (bs : List BgWant) : ∀ b : BgWant, bs.foldl BgWant.better b ∈ b :: bs ∧ ∀ x ∈ b :: bs,
      (bs.foldl BgWant.better b).rank ≤ x.rank ∧
        (x.rank = (bs.foldl BgWant.better b).rank → x.waited ≤ (bs.foldl BgWant.better b).waited) := by
    induction bs with
    | nil => exact fun b => ⟨List.mem_cons_self, fun x hx => by simp [List.mem_singleton.1 hx]⟩
    | cons y bs ih =>
      intro b
      rw [List.foldl_cons]
      obtain ⟨hm, ho⟩ := ih (b.better y)
      have hb := ho _ List.mem_cons_self
      have hy : b.better y = y ∧ (y.rank < b.rank ∨ (y.rank = b.rank ∧ b.waited < y.waited)) ∨
          b.better y = b ∧ ¬(y.rank < b.rank ∨ (y.rank = b.rank ∧ b.waited < y.waited)) := by
        unfold BgWant.better
        split
        · next h => exact .inl ⟨rfl, h⟩
        · next h => exact .inr ⟨rfl, h⟩
      refine ⟨?_, fun x hx => ?_⟩
      · rcases List.mem_cons.1 hm with hm | hm
        · rw [hm]
          rcases hy with ⟨hy, -⟩ | ⟨hy, -⟩ <;> simp [hy]
        · exact List.mem_cons_of_mem _ (List.mem_cons_of_mem _ hm)
      · rcases List.mem_cons.1 hx with rfl | hx
        · rcases hy with ⟨hy, hc⟩ | ⟨hy, hc⟩ <;> (rw [hy] at hb ⊢; omega)
        · rcases List.mem_cons.1 hx with rfl | hx
          · rcases hy with ⟨hy, hc⟩ | ⟨hy, hc⟩ <;> (rw [hy] at hb ⊢; omega)
          · exact ho x (List.mem_cons_of_mem _ hx)
  cases wants with
  | nil => exact nomatch h
  | cons b bs => exact Option.some.inj h ▸ hf bs b

theorem exec_fallowSlotGrant {d k : Nat} (h : s.host.fatal = false) (hs : s.hasSlots d k = true) :
    let v : State := { s with free := s.free + 1 }
    (bestBackground (v.backgroundOf d k (Config.freeNat s.free % 40 == 0)) = none →
      exec (.fallowSlotGrant d k) s = .next v) ∧
    ∀ w, bestBackground (v.backgroundOf d k (Config.freeNat s.free % 40 == 0)) = some w →
      exec (.fallowSlotGrant d k) s = .next (v.useSlot d k w) := by
  have hc : ¬(s.host.fatal || !s.hasSlots d k) = true := by simp [h, hs]
  have hd : s.drawBelow 40 = (Config.freeNat s.free % 40, { s with free := s.free + 1 }) := by
    unfold State.drawBelow
    rw [if_neg (by decide)]
  refine ⟨fun hb => congrArg ok ((if_neg hc).trans ?_), fun w hb => congrArg ok ((if_neg hc).trans ?_)⟩
  · rw [hd]
    dsimp only
    rw [hb]
  · rw [hd]
    dsimp only
    rw [hb]

theorem State.useSlot_copy {w : BgWant} (h : w.task = .copy) (d k : Nat) (s : State) : s.useSlot d k w =
    s.setBg bgCopy d k { s.bg bgCopy d k with slots := (s.bg bgCopy d k).slots + 1 } := by
  unfold State.useSlot
  rw [h]

theorem State.useSlot_telemetry {w : BgWant} (h : w.task = .periodic bgTelemetry) (d k : Nat) (s : State) :
    s.useSlot d k w = (s.setBg bgTelemetry d k
      { s.bg bgTelemetry d k with slots := (s.bg bgTelemetry d k).slots + 1 }).bgDone bgTelemetry d k := by
  unfold State.useSlot
  rw [h]
  dsimp only
  rw [if_neg (by decide)]
  unfold State.periodicSlot
  dsimp only
  rw [if_neg (by decide), if_pos rfl]

theorem exec_fallowDeadline_known {kind d k : Nat} (h : s.host.fatal = false) (hs : s.hasSlots d k = true)
    (hk : kind ∈ kindsOf d) : exec (.fallowDeadline kind d k) s = .next (s.periodicMiss kind d k) := by
  have hm : kind ≠ bgMigration := by
    unfold kindsOf at hk
    split at hk <;> (rintro rfl; revert hk; decide)
  exact congrArg ok ((if_neg (by simp [h, hs])).trans ((if_neg hm).trans (if_pos (List.contains_iff_mem.2 hk))))

/-- The deadline of a periodic task that `o` gives the sc of: stated over `o`, so that no proof counts to 2^48. -/
def State.missAfter (o : Option Nat) (kind die unit : Nat) (s : State) : State :=
  let b := s.bg kind die unit
  match o with
  | none => s
  | some d =>
    if b.missed then s
    else
      let s := ((s.toSc (s.sc + (bgDeadline kind - d))).setBg kind die unit { b with missed := true }).bgMissed kind die unit
      if kind = bgTelemetry then
        { s with units := { s.units with telemetryMissing := setInsert s.units.telemetryMissing (die * 65536 + unit) } }
      else s

theorem State.periodicMiss_eq (kind d k : Nat) (s : State) :
    s.periodicMiss kind d k = s.missAfter (s.scSince (s.bg kind d k).from_) kind d k := rfl

theorem State.missAfter_again {kind d k t : Nat} (hm : (s.bg kind d k).missed = true) :
    s.missAfter (some t) kind d k = s := if_pos hm

/-- The deadline comes, and the task is noted as late. -/
def State.deadlineComes (kind d k t : Nat) (s : State) : State :=
  (s.toSc (s.sc + (bgDeadline kind - t))).setBg kind d k { s.bg kind d k with missed := true }

theorem State.missAfter_first {kind d k t : Nat} (hm : (s.bg kind d k).missed = false) :
    s.missAfter (some t) kind d k = (let v := (s.deadlineComes kind d k t).bgMissed kind d k
      if kind = bgTelemetry then
        { v with units := { v.units with telemetryMissing := setInsert v.units.telemetryMissing (d * 65536 + k) } }
      else v) := if_neg (by simp [hm])

theorem State.deadlineComes_only (kind d k t : Nat) (s : State) : ∃ x f, s.deadlineComes kind d k t =
    { s with units := x, fc := f, sc := s.sc + (bgDeadline kind - t) } ∧
      mapGet {} x.background (bgKey kind d k) = { s.bg kind d k with missed := true } := by
  have hb : ({ s.bg kind d k with missed := true } : Background) ≠ {} :=
    fun he => Bool.noConfusion (congrArg Background.missed he)
  obtain ⟨f, e⟩ := s.toSc_only (s.sc + (bgDeadline kind - t))
  rw [Nat.max_eq_right (Nat.le_add_right ..)] at e
  unfold State.deadlineComes
  rw [e]
  exact ⟨_, f, rfl, (mapGet_mapSet_listed hb ..).trans (if_pos rfl)⟩

theorem State.bgMissed_only (kind d k : Nat) (s : State) : ∃ q h, s.bgMissed kind d k =
    { s with cnt := (s.count 3 1 false).cnt, rs := q, host := h } := by
  obtain ⟨q, g, e⟩ := State.notice_only 0x801
    [BitVec.ofNat 32 (kind + d % 32 * 256 + k % 65536 * 65536)] (s.count 3 1 false)
  exact ⟨q, g, e⟩

theorem State.missAfter_sets {kind d k t : Nat} (hm : (s.bg kind d k).missed = false) :
    ∃ s', s.missAfter (some t) kind d k = s' ∧ (s'.bg kind d k).missed = true ∧
      (s'.bg kind d k).slots = (s.bg kind d k).slots ∧ s'.cnt = (s.count 3 1 false).cnt ∧
      s'.sc = s.sc + (bgDeadline kind - t) ∧ (kind = bgTelemetry → d * 65536 + k ∈ s'.units.telemetryMissing) ∧
      s' = { s with units := s'.units, cnt := s'.cnt, rs := s'.rs, host := s'.host, fc := s'.fc, sc := s'.sc } := by
  obtain ⟨x, f, e, hx⟩ := State.deadlineComes_only kind d k t s
  obtain ⟨q, g, e'⟩ := (s.deadlineComes kind d k t).bgMissed_only kind d k
  refine ⟨_, State.missAfter_first hm, ?_⟩
  rw [e', e]
  dsimp only
  have h1 : (mapGet {} x.background (bgKey kind d k)).missed = true := hx ▸ rfl
  have h2 : (mapGet {} x.background (bgKey kind d k)).slots = (s.bg kind d k).slots := hx ▸ rfl
  split
  · next hk => exact ⟨h1, h2, rfl, rfl, fun _ => mem_setInsert.2 (.inl rfl), rfl⟩
  · next hk => exact ⟨h1, h2, rfl, rfl, fun h => absurd h hk, rfl⟩

end

/-- Settles O52, by the row of each fault and of each background slot. -/
theorem faultsAndFallowWork : Obligations.FaultsAndFallowWork := by
  unfold Obligations.FaultsAndFallowWork
  intro s
  refine ⟨fun h u => ?_, fun h u ht => exec_fatal_sets u h ht, fun h n hn hl hi => ?_,
    fun h t hb hc hl hn hs hj => exec_unitFault_tile h hb hc hl hn hs hj,
    fun h n hn hd hl hs hj => exec_coreFault_sets h hn hd hl hs hj,
    fun h st ch hc hj hs => exec_channelCopyComplete_sets h hc hj hs, fun d k h => ?_, fun h d k hs => ?_,
    fun h kind d k t hs hk ht => ?_⟩
  · exact ⟨exec_fatal_over h u, exec_unitFault_over h u, fun n => exec_coreFault_over h n,
      fun d k => exec_fallowSlotGrant_over (.inl h)⟩
  · exact ⟨_, exec_unitFault_engine h hn hl hi, State.loseUnit_sets (by decide) hi 4⟩
  · exact ⟨exec_fallowSlotGrant_over (.inr h), fun kind => exec_fallowDeadline_over h⟩
  · obtain ⟨hnone, hsome⟩ := exec_fallowSlotGrant h hs
    refine ⟨_, rfl, fun hw => hnone (by rw [hw]; rfl), fun w hw => ?_⟩
    obtain ⟨hm, ho⟩ := bestBackground_spec hw
    exact ⟨hm, ho, hsome w hw, fun hc => State.useSlot_copy hc .., fun ht => State.useSlot_telemetry ht ..⟩
  · rw [exec_fallowDeadline_known h hs hk, State.periodicMiss_eq, ht]
    refine ⟨fun hm => congrArg _ (State.missAfter_again hm), fun hm => ?_⟩
    obtain ⟨s', e, hs'⟩ := State.missAfter_sets hm
    exact ⟨s', congrArg _ e, hs'⟩

end Sys2Proof.Machine


/-!
SUPPORT. Reshards, the leader's hold and the work at a boundary: what a RESHARD does once its checks have passed, what
opens as a permutation ends, and the items of a boundary.
-/

namespace Sys2Proof.Machine

/-! ### RESHARD -/

section
variable {s u : State} {ring : Nat} {agree : Bool} {c : Cmd}

/-- What a RESHARD asks of the package, the job and the image that stands by. -/
def State.mayReshard (agree : Bool) (c : Cmd) (u : State) : Prop :=
  u.job.image.isSome = true ∧ c.object = u.jobId ∧ u.isLeader = true ∧ u.job.reshard = none ∧
    u.job.standby.isSome = true ∧ agree = true

theorem State.mayReshard_iff (agree : Bool) (c : Cmd) (u : State) :
    (!u.jobRuns || c.object != u.jobId || !u.isLeader || u.job.reshard.isSome || u.job.standby.isNone || !agree) = false ↔
      u.mayReshard agree c := by
  unfold State.mayReshard State.jobRuns
  simp only [Bool.or_eq_false_iff, Bool.not_eq_false', bne_eq_false_iff_eq, Option.isSome_eq_false_iff,
    Option.isNone_eq_false_iff, Option.isNone_iff_eq_none, and_assoc]

/-- A RESHARD's effect by the state of its run: none, or one whose next commit has been sent or not. -/
theorem exec_reshard (h : s.runsFor (.reshard ring agree) = some (c, u)) (ho : c.object < 2 ^ 32) :
    exec (.reshard ring agree) s = .next (
      if !u.jobRuns || c.object != u.jobId || !u.isLeader || u.job.reshard.isSome || u.job.standby.isNone || !agree then
        u.refuse c.ask refState
      else if u.runActive then
        let sent := u.job.st.phase == .committing && !u.job.commitOwed && !u.job.settleOwed
        let v : State := { u with job := { u.job with reshard := some c.ask } }
        let w := v.answer c.ask 1 0 (1 :: wordsOf 2 (u.job.epoch + b2n sent))
        if sent then w else w.sendHold 1
      else (({ u with job := { u.job with reshard := some c.ask, permuteSet := [] } } : State).keep c.ask).sendHold 1) := by
  refine (State.row_runs rfl (fun _ => rfl) h (decide_eq_true ho)).trans (congrArg _ ?_)
  rfl

theorem exec_reshard_state (h : s.runsFor (.reshard ring agree) = some (c, u)) (ho : c.object < 2 ^ 32)
    (hn : ¬u.mayReshard agree c) : exec (.reshard ring agree) s = .next (u.refuse c.ask 9) :=
  (exec_reshard h ho).trans (congrArg _ (if_pos (by rw [← Bool.not_eq_false, State.mayReshard_iff]; exact hn)))

/-- A RESHARD in a run is DEFERRED to the next commit that has not been sent. -/
theorem exec_reshard_run (h : s.runsFor (.reshard ring agree) = some (c, u)) (ho : c.object < 2 ^ 32)
    (hm : u.mayReshard agree c) (hr : u.job.run.isSome = true) {sent : Bool}
    (hs : (u.job.st.phase == .committing && !u.job.commitOwed && !u.job.settleOwed) = sent) :
    exec (.reshard ring agree) s = .next (
      let w := ({ u with job := { u.job with reshard := some c.ask } } : State).answer c.ask 1 0
        (1 :: wordsOf 2 (u.job.epoch + b2n sent))
      if sent then w else w.sendHold 1) := by
  refine (exec_reshard h ho).trans (congrArg _ ((if_neg ?_).trans ((if_pos hr).trans ?_)))
  · rw [(State.mayReshard_iff agree c u).2 hm]
    decide
  · dsimp only
    rw [hs]

theorem exec_reshard_idle (h : s.runsFor (.reshard ring agree) = some (c, u)) (ho : c.object < 2 ^ 32)
    (hm : u.mayReshard agree c) (hr : u.job.run = none) : exec (.reshard ring agree) s = .next
      ((({ u with job := { u.job with reshard := some c.ask, permuteSet := [] } } : State).keep c.ask).sendHold 1) := by
  refine (exec_reshard h ho).trans (congrArg _ ((if_neg ?_).trans (if_neg ?_)))
  · rw [(State.mayReshard_iff agree c u).2 hm]
    decide
  · rw [State.runActive, hr]
    decide

theorem State.keep_current (a : Ask) (s : State) : ((s.keep a).aux a.ring).current = some a := by
  have hv : ({ s.aux a.ring with current := some a } : RingAux) ≠ {} := RingAux.ne_default_of_current rfl
  rw [State.keep, State.aux_setAux hv, if_pos rfl]

end

/-! ### The end of a permutation -/

section
variable {s : State}

/-- A page that is SEALED and BANKED opens. -/
def MemState.opens (m : MemState) (n : Nat) : MemState :=
  if (m.page n).valid && (m.page n).banked && (m.page n).state == .sealed then m.setPage n { m.page n with state := .open_ }
  else m

theorem MemState.opens_clay (l : List Nat) (m : MemState) : (l.foldl MemState.opens m).clay = m.clay := by
  refine List.foldlRecOn (motive := fun x : MemState => x.clay = m.clay) l _ rfl fun x hx n _ => ?_
  unfold MemState.opens
  split
  · exact hx
  · exact hx

/-- The package once its permutation has ended: the shards' pages are open. -/
def State.permuted (s : State) : State :=
  { s with
    mem := (((s.job.standby.map Image.shards).getD []).flatMap fun h => if h.held then shardPages h else []).foldl
      MemState.opens s.mem
    job := { s.job with permuting := false } }

/-- The notice that a permutation has ended, of the round that it belongs to. -/
def State.permutedNotice (s : State) : Notice :=
  { code := 0x0D, epoch := if s.job.st.phase == .committing then s.job.epoch - 1 else s.job.epoch
    attempt := if s.job.st.phase == .committing then s.job.doneAttempts - 1 else s.job.st.attempt }

theorem exec_permutationComplete_waits (h : s.job.permuting = false) : exec .permutationComplete s = .next s :=
  congrArg ok (if_neg (by simp [h]))

theorem exec_permutationComplete (h : s.job.permuting = true)
    (ha : ∀ x ∈ s.movedShards, (x.layer, x.shard) ∈ s.job.received) :
    exec .permutationComplete s = .next (s.permuted.toLeader s.permutedNotice) := by
  refine congrArg ok ((if_pos ?_).trans rfl)
  rw [h, Bool.true_and]
  exact List.all_eq_true.2 fun x hx => List.contains_iff_mem.2 (ha x hx)

theorem State.permuted_tells (s : State) :
    (s.permuted.toLeader s.permutedNotice).job = { s.job with permuting := false } ∧
      (s.permuted.toLeader s.permutedNotice).mem.clay = s.mem.clay ∧
      (s.leader = s.fab.coord → ∃ n : Notice, (s.permuted.toLeader s.permutedNotice).fab.noticesIn =
        s.fab.noticesIn ++ [n] ∧ n.code = 0x0D ∧ n.src = s.fab.coord) := by
  obtain ⟨f, e⟩ := s.permuted.toLeader_only s.permutedNotice
  refine ⟨by rw [e]; rfl, by rw [e]; exact MemState.opens_clay .., fun hl => ?_⟩
  have hl' : s.permuted.leader = s.permuted.fab.coord := hl
  rw [State.toLeader_self hl']
  exact ⟨_, rfl, rfl, rfl⟩

end

/-! ### A hold's units and its end -/

section
variable {s : State}

/-- A unit in NAP begins its wake. -/
def State.wakesFromNap (s : State) (u : UnitId) : State :=
  match s.unitPower u with
  | .nap => s.setUnit u (.waking 2 s.fc [] [])
  | _ => s

theorem State.wakesFromNap_nap {u : UnitId} (h : s.unitPower u = .nap) :
    s.wakesFromNap u = s.setUnit u (.waking 2 s.fc [] []) := by
  unfold State.wakesFromNap
  rw [h]

theorem State.wakesFromNap_else {u : UnitId} (h : s.unitPower u ≠ .nap) : s.wakesFromNap u = s := by
  unfold State.wakesFromNap
  split
  · next hn => exact absurd hn h
  · rfl

theorem State.wakesFromNap_only (s : State) (u : UnitId) :
    s.wakesFromNap u = { s with units := (s.wakesFromNap u).units } := by
  by_cases h : s.unitPower u = .nap
  · rw [State.wakesFromNap_nap h]
    exact State.setUnit_eq ..
  · rw [State.wakesFromNap_else h]

/-- A unit is as it was, or was in NAP and has begun its wake. -/
theorem State.wakesFromNap_power (s : State) (u v : UnitId) : (s.wakesFromNap u).unitPower v =
    if UnitId.key v = UnitId.key u ∧ s.unitPower u = .nap then .waking 2 s.fc [] [] else s.unitPower v := by
  by_cases h : s.unitPower u = .nap
  · rw [State.wakesFromNap_nap h, State.unitPower_setUnit (by simp) u v]
    simp [h]
  · rw [State.wakesFromNap_else h, if_neg fun hc => h hc.2]

theorem State.unitPower_congr {u v : UnitId} (h : UnitId.key v = UnitId.key u) (s : State) :
    s.unitPower v = s.unitPower u := by
  rw [State.unitPower, h, State.unitPower]

theorem State.foldl_wakesFromNap (l : List UnitId) : ∀ s : State,
    l.foldl State.wakesFromNap s = { s with units := (l.foldl State.wakesFromNap s).units } ∧
      ∀ n, (s.unitPower n = .waking 2 s.fc [] [] ∨ s.unitPower n = .nap ∧ n ∈ l) →
        (l.foldl State.wakesFromNap s).unitPower n = .waking 2 s.fc [] [] := by
  induction l with
  | nil => exact fun s => ⟨rfl, fun n h => h.elim id fun h => absurd h.2 List.not_mem_nil⟩
  | cons u l ih =>
    intro s
    obtain ⟨ho, hp⟩ := ih (s.wakesFromNap u)
    have hu := s.wakesFromNap_only u
    have hf : (s.wakesFromNap u).fc = s.fc := by rw [hu]
    rw [hf] at hp
    rw [List.foldl_cons]
    refine ⟨ho.trans (by rw [hu]), fun n hn => hp n ?_⟩
    rw [State.wakesFromNap_power]
    split
    · exact .inl rfl
    · next hc =>
      refine hn.imp id fun ⟨h, hm⟩ => ⟨h, (List.mem_cons.1 hm).resolve_left ?_⟩
      rintro rfl
      exact hc ⟨rfl, h⟩

theorem exec_holdWake_none (h : s.pow.hold = false) : exec .holdWake s = .next s :=
  congrArg ok (if_neg (by simp [h]))

theorem exec_holdWake (h : s.pow.hold = true) : exec .holdWake s = .next (s.imageUnits.foldl State.wakesFromNap s) :=
  congrArg ok (if_pos h)

theorem exec_holdExpiry_none (h : s.isLeader = false ∨ s.job.settleOwed = false ∨ s.job.holds = []) :
    exec .holdExpiry s = .next s :=
  congrArg ok (if_neg (by rcases h with h | h | h <;> simp [h]))

theorem le_foldl_max (l : List Nat) : ∀ a, a ≤ l.foldl max a ∧ ∀ x ∈ l, x ≤ l.foldl max a := by
  induction l with
  | nil => exact fun a => ⟨Nat.le_refl _, fun x hx => absurd hx List.not_mem_nil⟩
  | cons b l ih =>
    intro a
    obtain ⟨h1, h2⟩ := ih (max a b)
    rw [List.foldl_cons]
    refine ⟨by omega, fun x hx => ?_⟩
    rcases List.mem_cons.1 hx with rfl | hx
    · omega
    · exact h2 x hx

/-- The leader's hold ends once the longest has passed. -/
def State.holdPasses (s : State) : State :=
  let v := s.toSc (s.job.commitSent + 25 * (s.job.holds.map Prod.snd).foldl max 0)
  { v with job := { v.job with holds := [] } }

theorem exec_holdExpiry (hl : s.isLeader = true) (ho : s.job.settleOwed = true) (hh : s.job.holds ≠ []) :
    exec .holdExpiry s = .next s.holdPasses.trySettle :=
  congrArg ok (if_pos (by rw [hl, ho, List.isEmpty_eq_false_iff.2 hh]; rfl))

theorem State.holdPasses_sets (s : State) : s.holdPasses.job.holds = [] ∧
    (∀ x ∈ s.job.holds, s.job.commitSent + 25 * x.2 ≤ s.holdPasses.sc) ∧
    s.holdPasses = { s with job := { s.job with holds := [] }, fc := s.holdPasses.fc, sc := s.holdPasses.sc,
                            scFc := s.holdPasses.scFc } := by
  obtain ⟨f, e⟩ := s.toSc_only (s.job.commitSent + 25 * (s.job.holds.map Prod.snd).foldl max 0)
  unfold State.holdPasses
  rw [e]
  refine ⟨rfl, fun x hx => ?_, rfl⟩
  have := (le_foldl_max (s.job.holds.map Prod.snd) 0).2 x.2 (List.mem_map_of_mem hx)
  change _ ≤ max _ _
  omega

end

/-! ### Work at a boundary -/

section
variable {s : State}

theorem exec_boundaryWorkComplete_fatal (h : s.host.fatal = true) : exec .boundaryWorkComplete s = .next s :=
  congrArg ok (if_pos (by simp [h]))

theorem State.noBoundary_of_phase (hc : s.job.st.phase ≠ .committing) (ha : s.job.st.phase ≠ .aborting) :
    s.atCommitBoundary = false ∧ s.atAbortBoundary = false := by
  unfold State.atCommitBoundary State.atAbortBoundary
  exact ⟨by simp [hc], by simp [ha]⟩

theorem exec_boundaryWorkComplete_idle (h : s.host.fatal = false) (hr : s.job.run = none) (hp : s.job.st.phase = .idle) :
    exec .boundaryWorkComplete s = .next s.doBoundaries := by
  obtain ⟨hc, ha⟩ := State.noBoundary_of_phase (s := s) (by rw [hp]; decide) (by rw [hp]; decide)
  have hx : s.runActive = false := by rw [State.runActive, hr]; rfl
  refine congrArg ok ((if_neg (by simp [h, hx])).trans ((if_neg (by simp [hc])).trans (if_neg (by simp [ha]))))

theorem exec_boundaryWorkComplete_running (hr : s.job.run.isSome = true) (hp : s.job.st.phase = .running) :
    exec .boundaryWorkComplete s = .next s := by
  obtain ⟨hc, ha⟩ := State.noBoundary_of_phase (s := s) (by rw [hp]; decide) (by rw [hp]; decide)
  exact congrArg ok (if_pos (by simp [hc, ha, State.runActive, hr]))

theorem State.doBoundaries_linkLane {a b : Nat} (h : s.units.boundary = [.linkLane a b]) :
    s.doBoundaries = State.passFc (12 * fcPerSc s.pow.point) { s with units := { s.units with
      boundary := []
      linkSpares := mapSet 0 s.units.linkSpares (32 * a + b) (mapGet 0 s.units.linkSpares (32 * a + b) + 1) } } := by
  unfold State.doBoundaries State.doItems
  rw [h]
  rfl

end

/-- Settles O53, by what each command and each event does in the states that the clauses tell apart. -/
theorem boundariesAndReshards : Obligations.BoundariesAndReshards := by
  unfold Obligations.BoundariesAndReshards
  refine ⟨fun s ring agree c u h ho => ⟨fun hn => exec_reshard_state h ho hn, fun hm hr hs => ?_,
    fun hm hr hp h1 h2 => ?_, fun hm hr => ?_⟩, fun s => ⟨exec_permutationComplete_waits, fun h ha => ?_,
    exec_holdWake_none, fun h _ => ?_, exec_holdExpiry_none, fun hl ho hh => ?_, exec_boundaryWorkComplete_fatal,
    fun h hr hp => ⟨exec_boundaryWorkComplete_idle h hr hp, fun a b hb => State.doBoundaries_linkLane hb⟩,
    fun _ hr hp => exec_boundaryWorkComplete_running hr hp⟩⟩
  · have hs' : (u.job.st.phase == .committing && !u.job.commitOwed && !u.job.settleOwed) = false := by
      rcases hs with hs | hs | hs <;> simp [hs]
    exact exec_reshard_run h ho hm hr hs'
  · have hs' : (u.job.st.phase == .committing && !u.job.commitOwed && !u.job.settleOwed) = true := by simp [hp, h1, h2]
    exact exec_reshard_run h ho hm hr hs'
  · exact ⟨_, exec_reshard_idle h ho hm hr, rfl, State.keep_current .., rfl⟩
  · exact ⟨_, exec_permutationComplete h ha, s.permuted_tells⟩
  · obtain ⟨ho, hp⟩ := State.foldl_wakesFromNap s.imageUnits s
    exact ⟨_, exec_holdWake h, ho, fun n hn hnap => hp n (.inr ⟨hnap, hn⟩)⟩
  · obtain ⟨h0, hle, he⟩ := s.holdPasses_sets
    exact ⟨_, h0, exec_holdExpiry hl ho hh, hle, he⟩

end Sys2Proof.Machine


/-!
SUPPORT. Gradients on their way: a hop and its sum, the record that a unit folds, the inversion of a slice and the lookup
of a sparse row.
-/

namespace Sys2Proof.Machine

/-! ### A hop -/

section
variable {s : State} {bucket inputs : Nat} {d : BucketDecl} {r : BucketRecord} {rest : List BucketRecord}

/-- The record at the front of an inlet is among those of its own tag that a hop takes. -/
theorem takeTagged_front (t k : Nat) (hr : r.tag = t) (l : List BucketRecord) :
    (takeTagged t (k + 1) (r :: l)).1 = r :: (takeTagged t (k + 1) (r :: l)).1.tail := by
  rw [takeTagged, if_pos hr]
  rfl

theorem exec_reductionHop (hd : (s.image Image.buckets)[bucket]? = some d)
    (hq : mapGet [] s.job.inlets bucket = r :: rest) (ht : s.taskStops (s.hopTask d) = false)
    (hr : r.tag = s.stepTag s.job.epoch) : exec (.reductionHop bucket inputs) s =
      .next (((s.localHop bucket d inputs r.tag false).advanceBucket bucket d).noteComplete d.layer) := by
  have hs : (r.tag != s.stepTag s.job.epoch) = false := bne_eq_false_iff_eq.2 hr
  change execReductionHop bucket inputs s = _
  unfold execReductionHop
  dsimp only
  rw [hd]
  dsimp only
  rw [if_neg (by rw [ht]; decide), hq]
  dsimp only
  rw [hs]
  rfl

/-- The state in which a hop of a bucket's first records has taken them and drawn its value. -/
def State.hopTakes (bucket : Nat) (d : BucketDecl) (left : List BucketRecord) (s : State) : State :=
  ({ s.setInlet bucket left with free := s.free + 1 } : State).countSource 2 4 0 0x0301 d.engine 1 false

theorem State.localHop_first {x : List BucketRecord × List BucketRecord} (hq : mapGet [] s.job.inlets bucket = r :: rest)
    (hw : (s.bucketSum false bucket).whole = none) (hc : (s.bucketSum false bucket).contrib = none)
    (hx : x = takeTagged r.tag (min 5 (max 1 inputs)) (r :: rest)) :
    s.localHop bucket d inputs r.tag false = (s.setInlet bucket x.2).hopInto bucket d false r x.1.tail := by
  have hk : min 5 (max 1 inputs) = min 5 (max 1 inputs) - 1 + 1 := by omega
  have hf : x.1 = r :: x.1.tail := by
    rw [hx, hk]
    exact takeTagged_front r.tag _ rfl rest
  unfold State.localHop
  dsimp only
  rw [hw, hc, hq, ← hx]
  dsimp only [Option.isSome]
  rw [if_neg Bool.false_ne_true, hf]
  rfl

theorem State.hopInto_sums (left rs : List BucketRecord) (s : State) :
    let o := hopSum (Config.freeNat s.free % 256) r rs
    let v := s.hopTakes bucket d left
    (d.contrib < o.record.contrib → (s.setInlet bucket left).hopInto bucket d false r rs = v.stepAbort 5) ∧
    (o.record.contrib = d.contrib → (s.setInlet bucket left).hopInto bucket d false r rs =
      (v.setBucketSum false bucket { v.bucketSum false bucket with contrib := none, whole := some o.record }).noteHop o
        false) := by
  intro o v
  have hdraw : (s.setInlet bucket left).drawBelow 256 =
      (Config.freeNat s.free % 256, { s.setInlet bucket left with free := s.free + 1 }) := by
    unfold State.drawBelow
    rw [if_neg (by decide)]
    rfl
  unfold State.hopInto
  rw [hdraw]
  refine ⟨fun h => if_pos h, fun h => (if_neg (Nat.not_lt.2 (Nat.le_of_eq h))).trans (if_pos h)⟩

theorem State.bucketSum_setBucketSum {b : BucketSum} {w : BucketRecord} (hb : b.whole = some w) (i : Nat) (s : State) :
    (s.setBucketSum false i b).bucketSum false i = b := by
  have hn : b ≠ {} := by
    rintro rfl
    exact nomatch hb
  exact (mapGet_mapSet_listed hn ..).trans (if_pos rfl)

theorem State.hopTakes_only (bucket : Nat) (d : BucketDecl) (left : List BucketRecord) (s : State) :
    ∃ c i, s.hopTakes bucket d left = { s with free := s.free + 1, cnt := c, job := { s.job with inlets := i } } :=
  ⟨_, _, rfl⟩

/-- A sum with the expected count is whole. -/
theorem State.hop_whole {o : HopOut} (left : List BucketRecord) (ho : o.nan = false) (s : State) :
    let u := s.hopTakes bucket d left
    let v := (u.setBucketSum false bucket { u.bucketSum false bucket with contrib := none, whole := some o.record }).noteHop
      o false
    (v.bucketSum false bucket).whole = some o.record ∧ v.job.st.flags = s.job.st.flags ||| o.flags ∧
      v.mem = s.mem ∧ v.tiles = s.tiles ∧ v.tilth = s.tilth := by
  intro u v
  have hb := State.bucketSum_setBucketSum (b := { u.bucketSum false bucket with contrib := none, whole := some o.record })
    rfl bucket u
  have hv : v = { u.setBucketSum false bucket { u.bucketSum false bucket with contrib := none, whole := some o.record } with
      job := { (u.setBucketSum false bucket { u.bucketSum false bucket with contrib := none, whole := some o.record }).job with
        st := { u.job.st with flags := u.job.st.flags ||| o.flags } } } := by
    change (if o.nan then State.nanSeen false _ else _) = _
    rw [ho]
    rfl
  rw [hv]
  exact ⟨congrArg BucketSum.whole hb, rfl, rfl, rfl, rfl⟩

/-- A sum beyond the expected count aborts the step. -/
theorem State.hop_over (left : List BucketRecord) (hw : (s.bucketSum false bucket).whole = none)
    (hp : s.job.st.phase = .running) (ha : s.job.abortCause = 0) :
    let v := (s.hopTakes bucket d left).stepAbort 5
    v.job.abortCause = 5 ∧ (v.bucketSum false bucket).whole = none ∧ v.mem = s.mem := by
  intro v
  obtain ⟨c, i, e⟩ := s.hopTakes_only bucket d left
  let u := s.hopTakes bucket d left
  have hu : u.job.abortCause = 0 := by
    change (s.hopTakes bucket d left).job.abortCause = 0
    rw [e]
    exact ha
  obtain ⟨f, ef⟩ := State.toLeader_only { code := 2, cause := 5, attempt := u.job.st.attempt, epoch := u.job.epoch }
    { u with job := { u.job with abortCause := if u.job.abortCause = 0 then 5 else u.job.abortCause } }
  have hv : v = _ := (if_pos (by rw [e]; exact hp)).trans ef
  rw [hv]
  exact ⟨if_pos hu, hw, rfl⟩

end

/-! ### The fold of a record -/

section
variable {s : State} {slice : Nat} {x : SliceDecl} {w : WaitingRecord}

theorem exec_tilthFold_none (hx : (s.image Image.slices)[slice]? = some x)
    (hn : s.nextRecord (x.die * 8 + x.unit) = none) : exec (.tilthFold slice) s = .next s := by
  change execTilthFold slice s = _
  unfold execTilthFold
  rw [hx]
  dsimp only
  rw [hn]
  rfl

/-- The state in which a unit has taken a waiting record, 64 fc before the next. -/
def State.recordTaken (unit : Nat) (w : WaitingRecord) (s : State) : State :=
  let v := s.toFc (mapGet 0 s.tilth.busyTo unit)
  { v with tilth := { v.tilth with
    waiting := mapSet [] v.tilth.waiting unit ((mapGet [] v.tilth.waiting unit).erase w)
    busyTo := mapSet 0 v.tilth.busyTo unit (v.fc + 64) } }

theorem exec_tilthFold_waits (hx : (s.image Image.slices)[slice]? = some x)
    (hn : s.nextRecord (x.die * 8 + x.unit) = some w) (h : s.job.st.phase ≠ .running ∨ w.slice ≠ slice) :
    exec (.tilthFold slice) s = .next s := by
  change execTilthFold slice s = _
  unfold execTilthFold
  rw [hx]
  dsimp only
  rw [hn]
  exact congrArg ok (if_pos h)

theorem State.foldBegins_none (h : s.job.deferred = []) : s.foldBegins = s := by
  unfold State.foldBegins
  rw [h]
  rfl

theorem exec_tilthFold_takes (hx : (s.image Image.slices)[slice]? = some x)
    (hn : s.nextRecord (x.die * 8 + x.unit) = some w) (hp : s.job.st.phase = .running) (hw : w.slice = slice)
    (hd : s.job.deferred = []) :
    let v := s.recordTaken (x.die * 8 + x.unit) w
    exec (.tilthFold slice) s =
      .next ((v.unitAct slice x (v.foldRecord (v.tilthWork x.layer) x w.record (v.slice slice))).noteComplete x.layer) := by
  change execTilthFold slice s = _
  unfold execTilthFold
  rw [hx]
  dsimp only
  rw [hn]
  refine congrArg ok ((if_neg ?_).trans ?_)
  · simp [hp, hw]
  · rw [State.foldBegins_none hd]
    rfl

theorem State.recordTaken_sets (unit : Nat) (w : WaitingRecord) (s : State) :
    (s.recordTaken unit w).fc = max s.fc (mapGet 0 s.tilth.busyTo unit) ∧ (s.recordTaken unit w).mem = s.mem ∧
      (s.recordTaken unit w).job = s.job ∧ (s.recordTaken unit w).tilth = { s.tilth with
        waiting := mapSet [] s.tilth.waiting unit ((mapGet [] s.tilth.waiting unit).erase w)
        busyTo := mapSet 0 s.tilth.busyTo unit ((s.recordTaken unit w).fc + 64) } := by
  refine ⟨?_, rfl, rfl, rfl⟩
  change s.fc + (mapGet 0 s.tilth.busyTo unit - s.fc) = _
  omega

end

/-! ### The inversion of a slice, and the lookup of a row -/

section
variable {s : State} {slice : Nat} {x : SliceDecl}

theorem exec_inversionPhase_waits (hx : (s.image Image.slices)[slice]? = some x)
    (h : s.job.st.phase ≠ .running ∨ (s.tilthWork x.layer).prog.precond = false ∨ (s.slice slice).inverted = true ∨
      s.contributionsDone x.layer = false) : exec (.inversionPhase slice) s = .next s := by
  change execInversionPhase slice s = _
  unfold execInversionPhase
  rw [hx]
  refine congrArg ok (if_pos ?_)
  rcases h with h | h | h | h <;> simp [h]

/-- What an inversion has waited for: the step runs, every contribution is folded, and no inversion has been done. -/
def State.mayInvert (s : State) (slice : Nat) (x : SliceDecl) : Prop :=
  s.job.st.phase = .running ∧ (s.tilthWork x.layer).prog.precond = true ∧ (s.slice slice).inverted = false ∧
    s.contributionsDone x.layer = true ∧ s.taskStops (s.updateTask x.layer) = false

theorem State.mayInvert_cond (h : s.mayInvert slice x) : ¬(decide (s.job.st.phase ≠ .running) ||
    s.taskStops (s.tilthWork x.layer).task || !(s.tilthWork x.layer).prog.precond || (s.slice slice).inverted ||
      !s.contributionsDone x.layer) = true := by
  obtain ⟨hp, hc, hi, hd, ht⟩ := h
  have ht' : s.taskStops (s.tilthWork x.layer).task = false := ht
  simp [hp, hc, hi, hd, ht']

theorem exec_inversionPhase_stops (hx : (s.image Image.slices)[slice]? = some x) (h : s.mayInvert slice x) {e : TilthStop}
    (he : s.invertSlice (s.tilthWork x.layer) x = .error e) :
    exec (.inversionPhase slice) s = .next (s.tilthStops x.layer x.die x.unit e) := by
  change execInversionPhase slice s = _
  unfold execInversionPhase
  rw [hx]
  refine congrArg ok ((if_neg (State.mayInvert_cond h)).trans ?_)
  rw [he]

/-- The slice inverted: its inverses stand, and the singular blocks are counted. -/
def State.sliceInverted (slice : Nat) (inv : List (List Word)) (n : Nat) (s : State) : State :=
  { s with
    job := { s.job with st := { s.job.st with singular := min 65535 (s.job.st.singular + n) } }
    tilth := { s.tilth with
      slices := mapSet {} s.tilth.slices slice { s.slice slice with inverses := inv, inverted := true } } }

theorem exec_inversionPhase_inverts (hx : (s.image Image.slices)[slice]? = some x) (h : s.mayInvert slice x)
    {inv : List (List Word)} {n : Nat} (he : s.invertSlice (s.tilthWork x.layer) x = .ok (inv, n)) :
    exec (.inversionPhase slice) s = .next (s.sliceInverted slice inv n) := by
  change execInversionPhase slice s = _
  unfold execInversionPhase
  rw [hx]
  refine congrArg ok ((if_neg (State.mayInvert_cond h)).trans ?_)
  rw [he]
  rfl

theorem State.slice_sliceInverted (slice : Nat) (inv : List (List Word)) (n : Nat) (s : State) :
    (s.sliceInverted slice inv n).slice slice = { s.slice slice with inverses := inv, inverted := true } := by
  have hv : ({ s.slice slice with inverses := inv, inverted := true } : SliceState) ≠ {} :=
    fun h => Bool.noConfusion (congrArg SliceState.inverted h)
  exact (mapGet_mapSet_listed hv ..).trans (if_pos rfl)

section
variable {layer row : Nat} {next : Bool} {t : SparseDecl}

theorem exec_gatherLookup_none (ht : (s.image Image.sparse).find? (fun t => t.layer == layer) = none) :
    exec (.gatherLookup layer row next) s = .next s := by
  change execGatherLookup layer row next s = _
  unfold execGatherLookup
  rw [ht]
  rfl

theorem exec_gatherLookup_beyond (ht : (s.image Image.sparse).find? (fun t => t.layer == layer) = some t)
    (hr : t.rows ≤ row) : exec (.gatherLookup layer row next) s = .next s := by
  change execGatherLookup layer row next s = _
  unfold execGatherLookup
  rw [ht]
  exact congrArg ok (if_pos hr)

theorem exec_gatherLookup_serves (ht : (s.image Image.sparse).find? (fun t => t.layer == layer) = some t)
    (hr : row < t.rows) {b : List Byte × List Byte × List Byte}
    (hb : s.rowBytes t row (if next then s.job.epoch + 1 else s.job.epoch) = .ok b) :
    exec (.gatherLookup layer row next) s = .next
      { s.countSource 2 4 0 0x0302 (Config.rowUnit layer row s.fc % 8) 1 next with
        tilth := { s.tilth with gathered := b.1 } } := by
  change execGatherLookup layer row next s = _
  unfold execGatherLookup
  rw [ht]
  let v := s.countSource 2 4 0 0x0302 (Config.rowUnit layer row s.fc % 8) 1 next
  have hv : v.rowBytes t row (if next then v.job.epoch + 1 else v.job.epoch) = .ok b := hb
  refine congrArg ok ((if_neg (Nat.not_le.2 hr)).trans ?_)
  dsimp only
  rw [hv]
  rfl

end

end

/-- Settles O54, by the rows of the hop, the fold, the inversion and the lookup. -/
theorem gradientsAreSummedAndFolded : Obligations.GradientsAreSummedAndFolded := by
  unfold Obligations.GradientsAreSummedAndFolded
  intro s
  refine ⟨fun bucket inputs d r rest x hd hq ht hr hw hc hx => ?_, fun slice x hx => ⟨exec_tilthFold_none hx,
    fun w hn => ⟨exec_tilthFold_waits hx hn, fun hp hw hd => ?_⟩⟩, fun slice x hx => ⟨exec_inversionPhase_waits hx,
    fun hp hc hi hd ht => ?_⟩, fun layer row next => ⟨exec_gatherLookup_none, fun t ht =>
    ⟨exec_gatherLookup_beyond ht, fun hr b hb => ?_⟩⟩⟩
  · have hrun := exec_reductionHop (inputs := inputs) hd hq ht hr
    rw [State.localHop_first hq hw hc hx] at hrun
    obtain ⟨hover, hwhole⟩ := State.hopInto_sums (bucket := bucket) (d := d) (r := r) x.2 x.1.tail s
    refine ⟨fun ho hn => ⟨_, hrun, ?_⟩, fun ho hp ha => ⟨_, hrun, ?_⟩⟩
    · rw [hwhole ho]
      exact State.hop_whole x.2 hn s
    · rw [hover ho]
      exact State.hop_over x.2 hw hp ha
  · obtain ⟨hf, hm, hj, hk⟩ := State.recordTaken_sets (x.die * 8 + x.unit) w s
    have hrun := exec_tilthFold_takes hx hn hp hw hd
    dsimp only at hrun
    refine ⟨_, hf, hm, hj, hk, fun o ho => ?_, fun e he => ?_⟩
    · rw [ho] at hrun
      exact ⟨_, hrun, rfl, rfl, rfl⟩
    · rw [he] at hrun
      exact hrun
  · refine ⟨fun e he => exec_inversionPhase_stops hx ⟨hp, hc, hi, hd, ht⟩ he, fun inv n he =>
      ⟨_, exec_inversionPhase_inverts hx ⟨hp, hc, hi, hd, ht⟩ he, ?_, ?_, rfl, rfl⟩⟩
    · rw [State.slice_sliceInverted]
    · rw [State.slice_sliceInverted]
  · exact ⟨_, exec_gatherLookup_serves ht hr hb, rfl, rfl⟩

end Sys2Proof.Machine


/-!
SUPPORT. Sweeps and what follows them: the sweep of a layer, its seal, a shard's digest, and the notices that a lender
follows its owner by.
-/

namespace Sys2Proof.Machine

/-! ### The sweep of a layer without slices -/

section
variable {s : State} {layer : Nat}

theorem State.sweepTurn_alone (h : s.slicesOf layer = []) : s.sweepTurn layer = true := by
  unfold State.sweepTurn
  refine List.all_eq_true.2 fun c _ => ?_
  rw [h]
  simp

theorem State.sweepHeld_alone (h : s.slicesOf layer = []) : s.sweepHeld layer = false := by
  rw [State.sweepHeld, h]
  rfl

theorem exec_sweepStart_waits (h : s.job.st.phase ≠ .running ∨ s.hasUpdate layer = false ∨ layer ∈ s.tilth.sweeping ∨
    s.contributionsDone layer = false) : exec (.sweepStart layer) s = .next s := by
  refine congrArg ok (if_neg ?_)
  rcases h with h | h | h | h <;> simp [h]

/-- The sweep of a layer begins: its contributions are noted as complete. -/
def State.sweepBegins (layer : Nat) (s : State) : State :=
  { s.noteComplete layer with tilth := { (s.noteComplete layer).tilth with sweeping := s.tilth.sweeping ++ [layer] } }

theorem State.noteComplete_only (l : Nat) (s : State) :
    s.noteComplete l = { s with tilth := { s.tilth with complete := (s.noteComplete l).tilth.complete } } := by
  unfold State.noteComplete
  split <;> rfl

/-- The lenders of a layer's remote shards. -/
def State.lendersOf (s : State) (layer : Nat) : List Nat :=
  (((s.image Image.shards).filter fun h => h.layer == layer && h.remote && s.owns h).map ShardDecl.lender).eraseDups

theorem exec_sweepStart_alone (hp : s.job.st.phase = .running) (hu : s.hasUpdate layer = true)
    (hs : layer ∉ s.tilth.sweeping) (hc : s.contributionsDone layer = true) (hx : s.slicesOf layer = [])
    (hd : s.job.deferred = []) (ht : s.taskStops (s.updateTask layer) = false) : exec (.sweepStart layer) s =
      .next ((s.lendersOf layer).foldl (fun (v : State) p => v.sendNotice
        { code := 0x0A, dst := p, epoch := v.job.epoch, attempt := v.job.st.attempt, arg := layer })
          (s.sweepBegins layer)) := by
  have ht' : s.taskStops (s.tilthWork layer).task = false := ht
  have hn := s.noteComplete_only layer
  refine congrArg ok ((if_pos ?_).trans ?_)
  · simp [hp, hu, hs, hc, hx, ht', State.sweepTurn_alone hx, State.sweepHeld_alone hx]
  · have hb : (s.noteComplete layer).foldBegins = s.noteComplete layer :=
      State.foldBegins_none (by rw [hn]; exact hd)
    rw [hb, hx]
    unfold State.sweepBegins
    rw [hn]
    rfl

theorem State.foldl_notices_only (layer : Nat) (l : List Nat) (s : State) : ∃ f, l.foldl (fun (v : State) p => v.sendNotice
    { code := 0x0A, dst := p, epoch := v.job.epoch, attempt := v.job.st.attempt, arg := layer }) s = { s with fab := f } := by
  induction l generalizing s with
  | nil => exact ⟨s.fab, rfl⟩
  | cons p l ih =>
    obtain ⟨f, e⟩ := State.sendNotice_only
      { code := 0x0A, dst := p, epoch := s.job.epoch, attempt := s.job.st.attempt, arg := layer } s
    obtain ⟨f', e'⟩ := ih (s.sendNotice
      { code := 0x0A, dst := p, epoch := s.job.epoch, attempt := s.job.st.attempt, arg := layer })
    exact ⟨f', by rw [List.foldl_cons, e', e]⟩

theorem State.sweepBegins_only (layer : Nat) (s : State) : s.sweepBegins layer =
    { s with tilth := { s.tilth with
      complete := (s.noteComplete layer).tilth.complete, sweeping := s.tilth.sweeping ++ [layer] } } := by
  unfold State.sweepBegins
  rw [s.noteComplete_only layer]

theorem exec_sweepComplete_waits (h : s.job.st.phase ≠ .running ∨ layer ∉ s.tilth.sweeping) :
    exec (.sweepComplete layer) s = .next s := by
  refine congrArg ok (if_neg ?_)
  rcases h with h | h <;> simp [h]

theorem State.sweepRows_none (hr : ∀ x ∈ s.job.rowSums, x.layer ≠ layer ∨ x.next = true) : s.sweepRows layer = s := by
  have hf : (s.job.rowSums.filter fun x => x.layer == layer && !x.next) = [] := by
    refine List.filter_eq_nil_iff.2 fun x hx => ?_
    rcases hr x hx with h | h <;> simp [h]
  refine List.foldlRecOn (motive := fun v : State => v = s) _ _ rfl fun v hv t _ => ?_
  rw [hv, hf]
  rfl

theorem exec_sweepComplete_alone (hp : s.job.st.phase = .running) (hs : layer ∈ s.tilth.sweeping)
    (hl : layer ∉ s.job.sealed) (hx : s.slicesOf layer = []) (ht : s.taskStops (s.updateTask layer) = false)
    (hw : ∀ x ∈ s.tilth.sweptLayers, x.1 ≠ layer) (hr : ∀ x ∈ s.job.rowSums, x.layer ≠ layer ∨ x.next = true) :
    exec (.sweepComplete layer) s = .next (s.sweepEnds layer) := by
  have ht' : s.taskStops (s.tilthWork layer).task = false := ht
  have hw' : (s.tilth.sweptLayers.any fun x => x.1 == layer) = false :=
    List.any_eq_false.2 fun x h => by simp [hw x h]
  have hr' : (s.job.rowSums.any fun x => x.layer == layer && !x.next) = false :=
    List.any_eq_false.2 fun x h => by rcases hr x h with h | h <;> simp [h]
  refine congrArg ok ((if_pos ?_).trans ?_)
  · simp [hp, hs, hl, hx, ht', hw', State.sweepTurn_alone hx]
  · rw [hx]
    dsimp only [List.foldl_nil]
    rw [State.sweepRows_none hr, hr']
    rfl

/-- A sweep with no shard of its own at home ends with the flags of the hub's unit alone. -/
theorem State.sweepEnds_alone (hx : s.slicesOf layer = [])
    (hh : ∀ h ∈ s.image Image.shards, h.layer ≠ layer ∨ s.owns h = false ∨ h.remote = true) :
    s.sweepEnds layer = { s with
      tilth := { s.tilth with
        sweptLayers := s.tilth.sweptLayers ++ [(layer, s.fc)], unitFlags := mapSet 0 s.tilth.unitFlags 32 0 }
      job := { s.job with st := { s.job.st with flags := s.job.st.flags ||| mapGet 0 s.tilth.unitFlags 32 } } } := by
  have hm : ((s.image Image.shards).filter fun h => h.layer == layer && s.owns h && !h.remote) = [] := by
    refine List.filter_eq_nil_iff.2 fun h hm => ?_
    rcases hh h hm with h | h | h <;> simp [h]
  have hfl : flagsOr ((([] : List (SliceDecl × Nat)).map (fun x : SliceDecl × Nat => x.1.die * 8 + x.1.unit) ++ [32]).map
      fun u => mapGet 0 s.tilth.unitFlags u) = mapGet 0 s.tilth.unitFlags 32 := BitVec.or_zero
  unfold State.sweepEnds
  dsimp only
  rw [hm, hx]
  rw [hfl]
  rfl

end

/-! ### Scales raised and lowered -/

section
variable {u v w : State}

/-- `v` is `u` but for memory, the fabric, counters and the numerics watch, with the coordinate as it was. -/
structure State.scaledFrom (u v : State) : Prop where
  only : ∃ m f c k, v = { u with mem := m, fab := f, cnt := c, num := k }
  coord : v.fab.coord = u.fab.coord

theorem State.scaledFrom_refl (u : State) : u.scaledFrom u := ⟨⟨_, _, _, _, rfl⟩, rfl⟩

theorem State.scaledFrom_trans (h : u.scaledFrom v) (h' : v.scaledFrom w) : u.scaledFrom w := by
  refine ⟨?_, h'.coord.trans h.coord⟩
  obtain ⟨m, f, c, k, rfl⟩ := h.only
  obtain ⟨m', f', c', k', rfl⟩ := h'.only
  exact ⟨m', f', c', k', rfl⟩

theorem State.foldl_scaledFrom {α : Type} {f : State → α → State} (hf : ∀ (s : State) (x : α), s.scaledFrom (f s x)) (l : List α)
    (s : State) : s.scaledFrom (l.foldl f s) :=
  List.foldlRecOn (motive := fun v : State => s.scaledFrom v) _ _ s.scaledFrom_refl
    fun v hv x _ => State.scaledFrom_trans hv (hf v x)

theorem State.scaledFrom_num (k : NumState) (s : State) : s.scaledFrom { s with num := k } :=
  ⟨⟨s.mem, s.fab, s.cnt, k, rfl⟩, rfl⟩

theorem State.scaledFrom_mem (m : MemState) (s : State) : s.scaledFrom { s with mem := m } :=
  ⟨⟨m, s.fab, s.cnt, s.num, rfl⟩, rfl⟩

theorem State.count_scaled (n k : Nat) (b : Bool) (s : State) : s.scaledFrom (s.count n k b) := by
  obtain ⟨c, e⟩ := s.count_only n k b
  rw [e]
  exact ⟨⟨s.mem, s.fab, c, s.num, rfl⟩, rfl⟩

theorem State.countClay_scaled (source who : Nat) (spec : Bool) (pa n : Nat) (s : State) :
    s.scaledFrom (s.countClay source who spec pa n) := by
  obtain ⟨c, e⟩ := s.countClay_only source who spec pa n
  rw [e]
  exact ⟨⟨s.mem, s.fab, c, s.num, rfl⟩, rfl⟩

theorem State.countPath_scaled (spec : Bool) (a b n : Nat) (s : State) : s.scaledFrom (s.countPath spec a b n) := by
  obtain ⟨c, e⟩ := s.countPath_only spec a b n
  rw [e]
  exact ⟨⟨s.mem, s.fab, c, s.num, rfl⟩, rfl⟩

theorem State.sendStream_scaled (h : Frame) (bs : List Byte) (s : State) : s.scaledFrom (s.sendStream h bs) := by
  refine ⟨?_, State.sendStream_coord rfl ..⟩
  obtain ⟨f, c, e⟩ := s.sendStream_sent h bs
  exact ⟨s.mem, f, c, s.num, e⟩

theorem State.poke_scaled (la : Nat) (bs : List Byte) (s : State) : s.scaledFrom (s.poke la bs) := by
  unfold State.poke State.writeRange
  refine List.foldlRecOn (motive := fun acc : State × Option MemFault × List Byte => s.scaledFrom acc.1) _ _
    s.scaledFrom_refl fun acc hv c _ => ?_
  obtain ⟨v, fault, rest⟩ := acc
  cases fault with
  | some e => exact hv
  | none =>
    dsimp only
    split
    · exact hv
    · exact State.scaledFrom_trans (State.scaledFrom_trans hv (State.scaledFrom_mem _ v)) (State.countClay_scaled ..)
    · have hp := State.scaledFrom_trans hv (State.countPath_scaled s.hubWork.spec s.hubWork.die 4 (rest.take c.2.2).length v)
      split
      · exact State.scaledFrom_trans hp (State.scaledFrom_mem ..)
      · exact State.scaledFrom_trans hp (State.sendStream_scaled ..)

theorem State.pokeCount_scaled (la n : Nat) (bs : List Byte) (s : State) :
    s.scaledFrom ((s.poke la bs).count n 1 false) :=
  State.scaledFrom_trans (State.poke_scaled ..) (State.count_scaled ..)

theorem State.raiseSigma_scaled (t : TensorDecl) (s : State) : s.scaledFrom (s.raiseSigma t) := by
  unfold State.raiseSigma
  split
  · exact State.scaledFrom_refl _
  · split
    · exact State.pokeCount_scaled ..
    · exact State.count_scaled ..

theorem State.raiseBlock_scaled (t : TensorDecl) (b : Nat) (s : State) : s.scaledFrom (s.raiseBlock t b) := by
  unfold State.raiseBlock
  split
  · split
    · exact State.pokeCount_scaled ..
    · exact State.raiseSigma_scaled t s
  · exact State.raiseSigma_scaled t s

theorem State.raiseTensor_scaled (t : TensorDecl) (s : State) : s.scaledFrom (s.raiseTensor t) := by
  unfold State.raiseTensor
  split
  · exact State.foldl_scaledFrom (fun s b => State.raiseBlock_scaled t b s) _ _
  · exact State.raiseSigma_scaled t s

theorem State.lowerLayer_scaled (d : LayerDecl) (s : State) : s.scaledFrom (s.lowerLayer d) := by
  refine State.foldl_scaledFrom (fun s t => ?_) _ _
  split
  · exact State.foldl_scaledFrom (fun s b => State.pokeCount_scaled ..) _ _
  · exact State.scaledFrom_refl _

theorem State.applyLayer_scaled (l : Nat) (p : OvfEntry → Bool) (s : State) : s.scaledFrom (s.applyLayer l p) := by
  unfold State.applyLayer
  extract_lets pick es lost s' n0
  refine State.scaledFrom_trans (v := s') ?_ (State.scaledFrom_num _ s')
  unfold s'
  split
  · exact State.scaledFrom_refl _
  · split
    · extract_lets keys s2
      have h2 : s.scaledFrom s2 := State.foldl_scaledFrom (fun s k => by
        split
        · exact State.raiseBlock_scaled ..
        · exact State.raiseSigma_scaled ..) _ _
      refine State.scaledFrom_trans h2 (State.foldl_scaledFrom (fun s x => ?_) _ _)
      split
      · exact State.raiseTensor_scaled ..
      · exact State.scaledFrom_refl _
    · exact State.scaledFrom_refl _

theorem State.applyAtSeal_scaled (l : Nat) (s : State) : s.scaledFrom (s.applyAtSeal l) := by
  unfold State.applyAtSeal
  extract_lets E v v' n0
  have h1 : s.scaledFrom v := State.applyLayer_scaled ..
  have h2 : s.scaledFrom v' := by
    unfold v'
    split
    · exact State.scaledFrom_trans h1 (State.lowerLayer_scaled ..)
    · exact h1
  split
  · exact State.scaledFrom_trans h2 (State.scaledFrom_num _ v')
  · exact h1

theorem State.sealRanges_scaled (rs : List (Nat × Nat)) (s : State) : s.scaledFrom (s.sealRanges rs) :=
  ⟨⟨_, s.fab, s.cnt, s.num, rfl⟩, rfl⟩

end

/-! ### The seal of a layer -/

section
variable {s : State} {layer : Nat}

theorem exec_layerSeal_none (h : ∀ x ∈ s.tilth.sweptLayers, x.1 ≠ layer) : exec (.layerSeal layer) s = .next s := by
  have hf : (s.tilth.sweptLayers.find? fun x => x.1 == layer) = none :=
    List.find?_eq_none.2 fun x hx => by simp [h x hx]
  change execLayerSeal layer s = _
  unfold execLayerSeal
  dsimp only
  rw [hf]
  rfl

/-- The shards of a layer that this package owns. -/
def State.ownShards (s : State) (layer : Nat) : List ShardDecl :=
  (s.image Image.shards).filter fun h => h.layer == layer && s.owns h

/-- The layer's ranges sealed, in the fc of the seal. -/
def State.sealStores (layer at_ : Nat) (home : List ShardDecl) (s : State) : State :=
  let s := s.toFc (at_ + 16)
  let k := s.tilthWork layer
  let s := s.applyAtSeal layer
  let s := s.sealRanges (((s.image Image.slices).filter fun x => x.layer == layer).flatMap (sliceRanges k.prog))
  s.sealRanges (home.map fun h => (h.addr, shardLen h))

/-- The seal counted: the layer is no longer among those swept, and its shards at home are here. -/
def State.sealCounts (layer : Nat) (home : List ShardDecl) (s : State) : State :=
  let pend := if s.ownedLayers.contains layer then s.job.st.layersPending - 1 else s.job.st.layersPending
  { s with
    tilth := { s.tilth with sweptLayers := s.tilth.sweptLayers.filter fun y => y.1 != layer }
    job := { s.job with
      st := { s.job.st with layersPending := pend }
      received := home.foldl (fun (l : List (Nat × Nat)) (h : ShardDecl) => pairInsert l (h.layer, h.shard)) s.job.received } }

/-- The layer noted as sealed, its shards sent and its sweep answered. -/
def State.sealEnds (layer : Nat) (mine : List ShardDecl) (s : State) : State :=
  let s := s.noteSealed layer
  let s := if (s.image Image.shards).any fun h => h.layer == layer && h.held then s
    else { s with job := { s.job with sealed := s.job.sealed ++ [layer] } }
  (mine.foldl (fun (s : State) h => s.gatherShard h) s).sweepAnswered layer

theorem exec_layerSeal {x : Nat × Nat} (hx : s.tilth.sweptLayers.find? (fun x => x.1 == layer) = some x)
    (hp : s.job.st.phase = .running)
    (hh : ∀ h ∈ s.image Image.shards, h.layer ≠ layer ∨ s.owns h = false ∨ h.remote = false) :
    let home := (s.ownShards layer).filter fun h => !h.remote
    exec (.layerSeal layer) s =
      .next (((s.sealStores layer x.2 home).sealCounts layer home).sealEnds layer (s.ownShards layer)) := by
  have hb : (((s.image Image.shards).filter fun h => h.layer == layer && s.owns h).all fun h =>
      !h.remote || s.job.received.contains (h.layer, h.shard)) = true := by
    refine List.all_eq_true.2 fun h hm => ?_
    obtain ⟨hm, ho⟩ := List.mem_filter.1 hm
    rcases hh h hm with hn | hn | hn
    · simp [hn] at ho
    · simp [hn] at ho
    · simp [hn]
  change execLayerSeal layer s = _
  unfold execLayerSeal
  dsimp only
  rw [hx]
  refine congrArg ok ((if_neg ?_).trans rfl)
  rw [hb]
  simp [hp]

theorem State.sealStores_scaled (layer at_ : Nat) (home : List ShardDecl) (s : State) :
    (s.toFc (at_ + 16)).scaledFrom (s.sealStores layer at_ home) :=
  State.scaledFrom_trans (State.applyAtSeal_scaled ..)
    (State.scaledFrom_trans (State.sealRanges_scaled ..) (State.sealRanges_scaled ..))

/-- `v` is at the fc of `u`, with the same layers swept and the same step. -/
structure State.sealedLike (u v : State) : Prop where
  fc : v.fc = u.fc
  swept : v.tilth.sweptLayers = u.tilth.sweptLayers
  step : v.job.st = u.job.st

theorem State.sealedLike_trans {u v w : State} (h : u.sealedLike v) (h' : v.sealedLike w) : u.sealedLike w :=
  ⟨h'.fc.trans h.fc, h'.swept.trans h.swept, h'.step.trans h.step⟩

theorem State.sealedLike_of_sent {u v : State} (h : u.sentFrom v) : u.sealedLike v := by
  obtain ⟨f, c, rfl⟩ := h
  exact ⟨rfl, rfl, rfl⟩

theorem State.noteSealed_only (l : Nat) (s : State) :
    s.noteSealed l = { s with job := { s.job with sealed := (s.noteSealed l).job.sealed } } := by
  unfold State.noteSealed
  split <;> rfl

theorem State.gatherShard_sent (h : ShardDecl) (s : State) : s.sentFrom (s.gatherShard h) := by
  unfold State.gatherShard
  split
  · exact State.sentFrom_refl _
  · refine State.foldl_sentFrom (fun s p => ?_) _ s
    split
    · exact State.sentFrom_refl _
    · exact State.sendStream_sent ..

theorem State.sweepAnswered_like (l : Nat) (s : State) : s.sealedLike (s.sweepAnswered l) := by
  refine List.foldlRecOn (motive := fun v : State => s.sealedLike v) _ _ ⟨rfl, rfl, rfl⟩ fun v hv a _ =>
    State.sealedLike_trans hv ?_
  obtain ⟨n, q, h, k, e⟩ := State.answer_from a 0 0 [] v
  rw [State.done, e]
  exact ⟨rfl, rfl, rfl⟩

theorem State.sealEnds_like (layer : Nat) (mine : List ShardDecl) (s : State) : s.sealedLike (s.sealEnds layer mine) := by
  unfold State.sealEnds
  refine State.sealedLike_trans ?_ (State.sealedLike_trans
    (State.sealedLike_of_sent (State.foldl_sentFrom (fun s h => State.gatherShard_sent h s) mine _))
    (State.sweepAnswered_like ..))
  rw [s.noteSealed_only layer]
  dsimp only
  split <;> exact ⟨rfl, rfl, rfl⟩

/-- The seal of a layer comes 16 fc after its sweep, and one layer less is pending where the package owns it. -/
theorem State.layerSeal_sets (layer at_ : Nat) (home mine : List ShardDecl) (s : State) :
    let v := ((s.sealStores layer at_ home).sealCounts layer home).sealEnds layer mine
    v.fc = max s.fc (at_ + 16) ∧ (∀ y ∈ v.tilth.sweptLayers, y.1 ≠ layer) ∧
      v.job.st.layersPending = if layer ∈ s.ownedLayers then s.job.st.layersPending - 1 else s.job.st.layersPending := by
  intro v
  have hsc := s.sealStores_scaled layer at_ home
  have hl := State.sealEnds_like layer mine ((s.sealStores layer at_ home).sealCounts layer home)
  obtain ⟨m, f, c, k, e⟩ := hsc.only
  have ho : (s.sealStores layer at_ home).ownedLayers = s.ownedLayers := by
    have hc := hsc.coord
    rw [e] at hc ⊢
    unfold State.ownedLayers State.owns
    dsimp only at hc ⊢
    rw [hc]
    rfl
  refine ⟨hl.fc.trans ?_, fun y hy => ?_, (congrArg (fun x => x.layersPending) hl.step).trans ?_⟩
  · change (s.sealStores layer at_ home).fc = _
    rw [e]
    exact State.toFc_fc ..
  · rw [hl.swept] at hy
    simpa using (List.mem_filter.1 hy).2
  · change (if (s.sealStores layer at_ home).ownedLayers.contains layer then
      (s.sealStores layer at_ home).job.st.layersPending - 1 else (s.sealStores layer at_ home).job.st.layersPending) = _
    rw [ho, e]
    exact if_congr List.contains_iff_mem rfl rfl

end

/-! ### A shard's digest -/

section
variable {s : State} {layer shard : Nat} {given : BitVec 64} {h : ShardDecl}

/-- The digest that came behind a shard, or the one given where none did. -/
def State.digestGiven (s : State) (layer shard : Nat) (given : BitVec 64) : BitVec 64 :=
  ((s.job.digestsIn.find? fun d => d.1 == layer * 65536 + shard).map Prod.snd).getD given

theorem exec_shardDigestCheck_none (hd : s.shardDecl layer shard = none) :
    exec (.shardDigestCheck layer shard given) s = .next s := by
  change execShardDigestCheck layer shard given s = _
  unfold execShardDigestCheck
  dsimp only
  rw [hd]
  rfl

/-- A shard of another owner that is held and has not been received, in a step that runs. -/
structure State.awaits (s : State) (layer shard : Nat) (h : ShardDecl) : Prop where
  decl : s.shardDecl layer shard = some h
  whole : s.job.repairing = []
  held : h.held = true
  missing : (layer, shard) ∉ s.job.received
  still : s.job.permuting = false
  running : s.job.st.phase = .running
  other : s.owns h = false

theorem exec_shardDigestCheck (ha : s.awaits layer shard h) : exec (.shardDigestCheck layer shard given) s = .next (
    if s.digestAt h (s.job.epoch + 1) = s.digestGiven layer shard given then
      s.shardArrived h (s.digestGiven layer shard given) else s.shardMismatch h) := by
  change execShardDigestCheck layer shard given s = _
  unfold execShardDigestCheck
  dsimp only
  rw [ha.decl]
  dsimp only
  rw [ha.whole]
  refine congrArg ok ((if_neg ?_).trans ((if_neg ?_).trans (if_neg ?_)))
  · simp [ha.held, ha.missing]
  · rw [ha.still]
    decide
  · simp [ha.running, ha.other]

theorem MemState.sealing_clay {f : MemState → Nat → MemState} (hf : ∀ m n, (f m n).clay = m.clay) (l : List Nat)
    (m : MemState) : (l.foldl f m).clay = m.clay :=
  List.foldlRecOn (motive := fun x : MemState => x.clay = m.clay) l _ rfl fun x hx n _ => (hf x n).trans hx

theorem State.sealRanges_clay (rs : List (Nat × Nat)) (s : State) : (s.sealRanges rs).mem.clay = s.mem.clay := by
  refine MemState.sealing_clay (fun m n => ?_) _ _
  dsimp only
  split
  · rfl
  · rfl

/-- A shard that arrives is received, and its digest stands in the next epoch's table. -/
theorem State.shardArrived_sets (d : BitVec 64) (ho : s.owns h = false) :
    (s.shardArrived h d).job.st.recvPending = s.job.st.recvPending - 1 ∧
      (h.layer, h.shard) ∈ (s.shardArrived h d).job.received ∧
      (d ≠ 0 → mapGet 0 (s.shardArrived h d).job.nextDigests (h.layer * 65536 + h.shard) = d) ∧
      (s.shardArrived h d).mem.clay = s.mem.clay := by
  have hv : (s.sealRanges [(h.addr, shardLen h)]).owns h = false := ho
  unfold State.shardArrived
  dsimp only
  rw [hv, State.noteSealed_only]
  exact ⟨rfl, mem_pairInsert .., fun hd => (mapGet_mapSet_listed hd ..).trans (if_pos rfl), State.sealRanges_clay ..⟩

theorem State.shardMismatch_again (hr : (h.layer, h.shard) ∈ s.job.refetched) :
    s.shardMismatch h = s.taskCause (s.gatherCtx h).2 { cause := 0x11, die := 4, tile := 0x1FF } :=
  if_pos (List.contains_iff_mem.2 hr)

theorem State.askShard_sent (h : ShardDecl) (src : Option (Nat × Nat)) (e : Nat) (s : State) :
    s.sentFrom (s.askShard h src e) := by
  unfold State.askShard
  extract_lets c hd
  split
  · exact State.sendReads_sent ..
  · exact State.foldl_sentFrom (fun s c => State.sendReads_sent ..) _ s

/-- A shard whose digest does not agree is asked for again. -/
theorem State.shardMismatch_first (hr : (h.layer, h.shard) ∉ s.job.refetched) :
    (s.shardMismatch h).job.refetched = s.job.refetched ++ [(h.layer, h.shard)] ∧ (s.shardMismatch h).mem = s.mem := by
  have hc : ¬s.job.refetched.contains (h.layer, h.shard) = true := fun hc => hr (List.contains_iff_mem.1 hc)
  unfold State.shardMismatch
  rw [if_neg hc]
  extract_lets _ v
  obtain ⟨f, c, e⟩ := State.askShard_sent h (if v.owns h then none else (h.owners.map fun p => (p, h.ownerAddr)).head?)
    (v.job.epoch + 1) v
  rw [e]
  exact ⟨if_neg hc, rfl⟩

end

/-! ### A lender and its owner -/

section
variable {s u : State} {src : Nat} {n : Notice} {bs : List Byte}

theorem exec_layerCompleteNotice (h : s.heard 0x0A src = some (n, bs, u)) (lent : LentLayer) :
    exec (.layerCompleteNotice src lent) s = .next (if lent.layer ≠ n.arg % 65536 then u
      else ((u.ownerJob src n.job).seeOwner src n.epoch).lentSweep src n.epoch n.job lent) :=
  congrArg ok (State.withNotice_heard h _)

theorem exec_ownerCommitNotice (h : s.heard 0x0B src = some (n, bs, u)) :
    exec (.ownerCommitNotice src) s = .next ((u.ownerJob src n.job).seeOwner src (n.epoch + 1)) :=
  congrArg ok (State.withNotice_heard h _)

theorem State.ownerJob_mem (src job : Nat) (s : State) : (s.ownerJob src job).mem = s.mem := by
  unfold State.ownerJob
  split <;> rfl

theorem State.seeOwner_clay (src e : Nat) (s : State) : (s.seeOwner src e).mem.clay = s.mem.clay := by
  unfold State.seeOwner
  split <;> rfl

/-- An owner's epoch never falls. -/
theorem State.seeOwner_epoch (src e : Nat) (s : State) :
    mapGet 0 (s.seeOwner src e).tilth.lentEpoch src = max (mapGet 0 s.tilth.lentEpoch src) (e + 1) := by
  unfold State.seeOwner
  split
  · next h =>
    refine (mapGet_mapSet_listed (Nat.succ_ne_zero e) ..).trans ((if_pos rfl).trans ?_)
    omega
  · next h => omega

/-- A later epoch of the owner opens the pages that it has sealed. -/
theorem State.seeOwner_opens {e q : Nat} {p : Page} (h : mapGet 0 s.tilth.lentEpoch src < e + 1)
    (hw : mapWf {} s.mem.pages = true) (hq : s.mem.page q = p) (hv : p.valid = true) (hl : p.loc = .lent)
    (hb : p.banked = true) (hp : p.peer = src) (hs : p.state = .sealed) :
    ((s.seeOwner src e).mem.page q).state = .open_ := by
  unfold State.seeOwner
  rw [if_pos h]
  unfold State.openLent MemState.page
  dsimp only
  rw [mapGet_mapMap hw rfl]
  change (if (s.mem.page q).valid && (s.mem.page q).loc == .lent && (s.mem.page q).banked && (s.mem.page q).peer == src &&
    (s.mem.page q).state == .sealed then { s.mem.page q with state := .open_ } else s.mem.page q).state = .open_
  rw [hq, if_pos (by simp [hv, hl, hb, hp, hs])]

end

/-- Settles O55, by the rows of the sweep, the seal, the digest check and the lender's notices. -/
theorem sweepsSealTheirLayers : Obligations.SweepsSealTheirLayers := by
  unfold Obligations.SweepsSealTheirLayers
  refine fun s => ⟨fun layer => ⟨exec_sweepStart_waits, fun hp hu hs hc hx hd ht => ?_, exec_sweepComplete_waits,
    fun hp hs hl hx ht hw hr hh => ?_, exec_layerSeal_none, fun x hx hp hh => ?_⟩,
    fun layer shard given => ⟨exec_shardDigestCheck_none, fun h hd hr hheld hm hpm hp ho => ?_⟩,
    fun src n bs u => ⟨fun h lent => exec_layerCompleteNotice h lent, fun h hw => ?_⟩⟩
  · obtain ⟨f, e⟩ := State.foldl_notices_only layer (s.lendersOf layer) (s.sweepBegins layer)
    refine ⟨_, exec_sweepStart_alone hp hu hs hc hx hd ht, ?_⟩
    rw [e, State.sweepBegins_only]
    exact ⟨rfl, rfl⟩
  · refine ⟨_, exec_sweepComplete_alone hp hs hl hx ht hw hr, ?_⟩
    rw [State.sweepEnds_alone hx hh]
    exact ⟨rfl, rfl, rfl⟩
  · exact ⟨_, exec_layerSeal hx hp hh, State.layerSeal_sets ..⟩
  · have hrun := exec_shardDigestCheck (given := given) ⟨hd, hr, hheld, hm, hpm, hp, ho⟩
    refine ⟨fun he hl hs => ?_, fun he => ⟨fun hin => ?_, fun hin => ?_⟩⟩
    · obtain ⟨h1, h2, h3, h4⟩ := State.shardArrived_sets (s.digestGiven layer shard given) ho
      rw [hl, hs] at h2 h3
      exact ⟨_, hrun.trans (congrArg _ (if_pos he)), h1, h2, h3, h4⟩
    · exact hrun.trans (congrArg _ ((if_neg he).trans (State.shardMismatch_again hin)))
    · exact ⟨_, hrun.trans (congrArg _ (if_neg he)), State.shardMismatch_first hin⟩
  · have hm := u.ownerJob_mem src n.job
    refine ⟨_, exec_ownerCommitNotice h, ?_, State.seeOwner_epoch .., fun he q hv hl hb hp hs => ?_⟩
    · rw [State.seeOwner_clay, hm]
    · exact State.seeOwner_opens he (by rw [hm]; exact hw) (by rw [hm]) hv hl hb hp hs

end Sys2Proof.Machine


/-!
SUPPORT. The numerics watch: an entry of the overflow record and what its policy does, a sieve pair, and a rescale.
-/

namespace Sys2Proof.Machine

/-! ### An entry of the overflow record -/

section
variable {s v : State} {o : OvfIn}

theorem exec_overflowEntry_none (h : s.entryLive o.entry = false ∨ s.takeLimited o = none) :
    exec (.overflowEntry o) s = .next s := by
  change execOverflowEntry o s = _
  unfold execOverflowEntry
  by_cases hl : s.entryLive o.entry = true
  · rw [if_pos hl, h.resolve_left (by simp [hl])]
  · rw [if_neg hl]

/-- An entry as it joins the record: with the rung of its layer, its count limited. -/
def State.entered (v : State) (e : OvfEntry) : OvfEntry := { e with rung := v.rungOf e.layer, count := min 255 e.count }

theorem exec_overflowEntry (hl : s.entryLive o.entry = true) (ht : s.takeLimited o = some v) :
    exec (.overflowEntry o) s =
      .next ((v.enterOvf (v.entered o.entry)).ovfPolicy (v.entered o.entry)) := by
  change execOverflowEntry o s = _
  unfold execOverflowEntry
  rw [if_pos hl, ht]
  rfl

/-- The entries of an attempt that the record holds. -/
def State.attemptEntries (v : State) (e : OvfEntry) : List (OvfEntry × Bool) :=
  v.num.overflow.filter fun x => x.1.epoch == e.epoch && x.1.attempt == e.attempt

/-- An entry joins the record while its attempt has fewer than 16,384; the next is lost. -/
theorem State.enterOvf_sets {e : OvfEntry} (v : State) :
    (∃ n c, v.enterOvf e = { v with num := n, cnt := c } ∧ n.records = v.num.records) ∧
      ((v.attemptEntries e).length < 16384 →
        (v.enterOvf e).num = { v.num with overflow := v.num.overflow ++ [(e, false)] }) ∧
      (16384 ≤ (v.attemptEntries e).length → (v.enterOvf e).num.overflow = v.num.overflow) := by
  by_cases hn : (v.attemptEntries e).length < 16384
  · obtain ⟨c, h⟩ := State.count_only 7 1 e.spec { v with num := { v.num with overflow := v.num.overflow ++ [(e, false)] } }
    have hv : v.enterOvf e = _ := (if_pos hn).trans h
    rw [hv]
    exact ⟨⟨_, c, rfl, rfl⟩, fun _ => rfl, fun h => absurd hn (Nat.not_lt.2 h)⟩
  · obtain ⟨c, h⟩ := State.count_only 8 1 e.spec v
    have hv : v.enterOvf e = if e.kind = 2 then v.count 8 1 e.spec
        else if e.spec then { v.count 8 1 e.spec with
          num := { (v.count 8 1 e.spec).num with lostNext := pairInsert (v.count 8 1 e.spec).num.lostNext (e.layer, e.tensor) } }
        else { v.count 8 1 e.spec with
          num := { (v.count 8 1 e.spec).num with lost := pairInsert (v.count 8 1 e.spec).num.lost (e.layer, e.tensor) } } :=
      if_neg hn
    rw [hv, h]
    split
    · exact ⟨⟨_, c, rfl, rfl⟩, fun h => absurd h hn, fun _ => rfl⟩
    · split
      · exact ⟨⟨_, c, rfl, rfl⟩, fun h => absurd h hn, fun _ => rfl⟩
      · exact ⟨⟨_, c, rfl, rfl⟩, fun h => absurd h hn, fun _ => rfl⟩

/-- Whether a layer is on the rungs, its policy and its ceiling read records and the image alone. -/
theorem State.policy_congr {u v : State} (hj : u.job = v.job) (hr : u.num.records = v.num.records) (l : Nat) :
    u.rungLayers = v.rungLayers ∧ u.layerPolicy l = v.layerPolicy l ∧ u.atCeil l = v.atCeil l := by
  unfold State.rungLayers State.layerPolicy State.atCeil State.record
  rw [hj, hr]
  exact ⟨rfl, rfl, rfl⟩

theorem State.ovfPolicy_none {e : OvfEntry} (hk : e.kind ≠ 2) (h : e.layer ∉ v.rungLayers ∨ v.layerPolicy e.layer = false) :
    v.ovfPolicy e = v := by
  refine (if_neg hk).trans (if_pos ?_)
  rcases h with h | h <;> simp [h]

/-- Under the LAYER policy below the ceiling an entry aborts the step and names its layer. -/
def State.namesLayer (l : Nat) (v : State) : State :=
  { v with job := { v.job with st := { v.job.st with ovfPending := true }, raiseOvf := setInsert v.job.raiseOvf l } }

theorem State.ovfPolicy_layer {e : OvfEntry} (hk : e.kind ≠ 2) (hl : e.layer ∈ v.rungLayers)
    (hp : v.layerPolicy e.layer = true) (hc : v.atCeil e.layer = false) (hs : e.spec = false) : v.ovfPolicy e =
      (((v.audit 0x309 e.layer [] (leBytes 1 e.tensor ++ leBytes 1 (v.rungOf e.layer))).passFc 1).namesLayer
        e.layer).stepAbort 4 := by
  refine (if_neg hk).trans ((if_neg (by simp [hl, hp])).trans ((if_neg (by simp [hc])).trans ?_))
  rw [hs]
  rfl

/-- An abort of a running step that has no cause yet gives it one. -/
theorem State.stepAbort_first {c : Nat} (hp : v.job.st.phase = .running) (ha : v.job.abortCause = 0) :
    ∃ f, v.stepAbort c = { v with job := { v.job with abortCause := c }, fab := f } := by
  obtain ⟨f, e⟩ := State.toLeader_only { code := 2, cause := c, attempt := v.job.st.attempt, epoch := v.job.epoch }
    { v with job := { v.job with abortCause := if v.job.abortCause = 0 then c else v.job.abortCause } }
  refine ⟨f, ((if_pos hp).trans e).trans ?_⟩
  rw [if_pos ha]

/-- Under the LAYER policy below the ceiling an entry of a running step costs one fc and is the cause of its abort. -/
theorem State.ovfPolicy_aborts {e : OvfEntry} (hk : e.kind ≠ 2) (hl : e.layer ∈ v.rungLayers)
    (hp : v.layerPolicy e.layer = true) (hc : v.atCeil e.layer = false) (hs : e.spec = false)
    (hr : v.job.st.phase = .running) (ha : v.job.abortCause = 0) : ∃ t q h f, v.ovfPolicy e =
      { ({ v with trust := t, rs := q, host := h } : State).passFc 1 with
        job := { v.job with
          st := { v.job.st with ovfPending := true }, raiseOvf := setInsert v.job.raiseOvf e.layer, abortCause := 4 }
        fab := f } := by
  obtain ⟨t, q, h, e'⟩ := State.audit_logged 0x309 e.layer [] (leBytes 1 e.tensor ++ leBytes 1 (v.rungOf e.layer)) v
  obtain ⟨f, ef⟩ := State.stepAbort_first (c := 4)
    (v := (({ v with trust := t, rs := q, host := h } : State).passFc 1).namesLayer e.layer) hr ha
  refine ⟨t, q, h, f, (State.ovfPolicy_layer hk hl hp hc hs).trans ?_⟩
  rw [e']
  exact ef

end

/-! ### A sieve pair -/

section
variable {s u : State} {layer output narrow wide ring : Nat} {next : Bool} {x : SieveDecl} {a b : HandleIn}

theorem exec_sievePairResult_waits (h : (s.layerDecl layer).bind LayerDecl.sieve = none ∨ s.job.st.phase ≠ .running) :
    exec (.sievePairResult layer output narrow wide next) s = .next s := by
  change execSievePairResult layer output narrow wide next s = _
  unfold execSievePairResult
  split
  · rfl
  · next hx =>
    split
    · rfl
    · exact congrArg _ (if_pos (h.resolve_left (by rw [hx]; exact nofun)))

/-- The outcome of a pair whose threshold and values give `fails`. -/
def State.pairEnds (layer output narrow wide : Nat) (fails : Bool) (u : State) : State :=
  let n := u.sieveElems u.hubWork narrow
  let w := u.sieveElems u.hubWork wide
  let v := u.countSource 2 4 0 0x0303 layer 1 false
  if fails then v.pairFailed layer output (sieveSums n w).1 (sieveSums n w).2 false else v.pairPasses layer false

theorem exec_sievePairResult (hx : (s.layerDecl layer).bind LayerDecl.sieve = some x)
    (hh : s.sieveHandles x.ring false = some (a, b)) (hp : s.job.st.phase = .running) :
    let u := s.compared x.ring a b
    exec (.sievePairResult layer output narrow wide false) s = .next (u.pairEnds layer output narrow wide
      (pairFails (bitsOf (s.record layer) 63 48) (u.sieveElems u.hubWork narrow) (u.sieveElems u.hubWork wide))) := by
  change execSievePairResult layer output narrow wide false s = _
  unfold execSievePairResult
  rw [hx]
  dsimp only
  rw [hh]
  exact congrArg _ (if_neg (not_not_intro hp))

/-- A pair that failed is counted in SFAIL, and its layer is named for a rescale or a raise. -/
def State.pairCounted (l f : Nat) (v : State) : State :=
  { v.setRecord l 17 16 f with job := { v.job with
    st := { v.job.st with sieveFail := true }
    rescaleNext := if f = 1 then setInsert v.job.rescaleNext l else setErase v.job.rescaleNext l
    raiseSieve := if 2 ≤ f then setInsert v.job.raiseSieve l else v.job.raiseSieve } }

theorem State.pairFailed_eq (l output : Nat) (N W : Val) (v : State) : ∃ t q h c,
    v.pairFailed l output N W false =
      ((({ v with trust := t, rs := q, host := h, cnt := c } : State).pairCounted l
        (min 3 (bitsOf (v.record l) 17 16 + 1))).passFc 1).stepAbort 3 := by
  have hb : ∃ bs, v.pairFailed l output N W false =
      (((State.audit 0x303 l [] bs (v.countSource 2 4 0 0x0304 l 1 false)).pairCounted l
        (min 3 (bitsOf ((State.audit 0x303 l [] bs (v.countSource 2 4 0 0x0304 l 1 false)).record l) 17 16 + 1))).passFc
          1).stepAbort 3 := ⟨_, rfl⟩
  obtain ⟨bs, hb⟩ := hb
  obtain ⟨t, q, h, e⟩ := State.audit_logged 0x303 l [] bs (v.countSource 2 4 0 0x0304 l 1 false)
  refine ⟨t, q, h, (v.countSource 2 4 0 0x0304 l 1 false).cnt, hb.trans ?_⟩
  rw [e]
  rfl

theorem State.pairEnds_fails (hp : u.job.st.phase = .running) (ha : u.job.abortCause = 0) :
    let v := u.pairEnds layer output narrow wide true
    v.job.st.sieveFail = true ∧ v.job.abortCause = 3 ∧ v.mem = u.mem ∧
      (bitsOf (u.record layer) 17 16 = 0 → v.job.rescaleNext = setInsert u.job.rescaleNext layer) ∧
      (1 ≤ bitsOf (u.record layer) 17 16 → v.job.raiseSieve = setInsert u.job.raiseSieve layer) := by
  intro v
  obtain ⟨t, q, h, c, e⟩ := State.pairFailed_eq layer output
    (sieveSums (u.sieveElems u.hubWork narrow) (u.sieveElems u.hubWork wide)).1
    (sieveSums (u.sieveElems u.hubWork narrow) (u.sieveElems u.hubWork wide)).2
    (u.countSource 2 4 0 0x0303 layer 1 false)
  obtain ⟨f, e'⟩ := State.stepAbort_first (c := 3) (v := (({ u.countSource 2 4 0 0x0303 layer 1 false with
    trust := t, rs := q, host := h, cnt := c } : State).pairCounted layer
      (min 3 (bitsOf (u.record layer) 17 16 + 1))).passFc 1) hp ha
  have hv : v = _ := e.trans e'
  rw [hv]
  refine ⟨rfl, rfl, rfl, fun h0 => if_pos (by omega), fun h1 => if_pos (by omega)⟩

theorem State.pairEnds_passes (u : State) :
    let v := u.pairEnds layer output narrow wide false
    mapGet 0 v.num.passed layer = mapGet 0 u.num.passed layer + 1 ∧ v.mem = u.mem ∧
      v.job.abortCause = u.job.abortCause ∧ v.job.st.sieveFail = u.job.st.sieveFail := by
  intro v
  have hm : mapGet 0 (mapSet 0 u.num.passed layer (mapGet 0 u.num.passed layer + 1)) layer =
      mapGet 0 u.num.passed layer + 1 :=
    (mapGet_mapSet_listed (Nat.succ_ne_zero _) ..).trans (if_pos rfl)
  let t : State := u.countSource 2 4 0 0x0303 layer 1 false
  let w : State := { t with num := { t.num with passed := mapSet 0 t.num.passed layer (mapGet 0 t.num.passed layer + 1) } }
  have hv : v = if w.pairsMet w.num.passed && !w.job.st.sieveFail then
      { w.passFc 1 with job := { (w.passFc 1).job with st := { (w.passFc 1).job.st with sieveClean := true } } }
      else w := rfl
  rw [hv]
  split
  · exact ⟨hm, rfl, rfl, rfl⟩
  · exact ⟨hm, rfl, rfl, rfl⟩

end

/-! ### A rescale -/

section
variable {s : State} {layer : Nat} {d : LayerDecl}

theorem exec_rescale_waits (h : layer ∉ s.job.rescale ∨ s.job.st.phase ≠ .running) : exec (.rescale layer) s = .next s := by
  change execRescale layer s = _
  unfold execRescale
  split
  · rfl
  · exact congrArg _ (if_pos (by rcases h with h | h <;> simp [h]))

/-- The tensors of a layer with new scales, and the number of blocks whose scale changed. -/
def State.rescaled (layer : Nat) (d : LayerDecl) (s : State) : State × Nat :=
  d.tensors.foldl (fun (acc : State × Nat) t =>
    let x := acc.1.rescaleTensor (rungFmt (s.rungOf layer)) t
    (x.1, acc.2 + x.2)) (s, 0)

theorem exec_rescale (hd : s.layerDecl layer = some d) (hm : layer ∈ s.job.rescale) (hp : s.job.st.phase = .running) :
    let r := s.rescaled layer d
    exec (.rescale layer) s = .next (State.audit 0x304 layer [] (leBytes 4 d.tensors.length ++ leBytes 4 r.2)
      { r.1 with job := { r.1.job with rescale := setErase r.1.job.rescale layer } }) := by
  change execRescale layer s = _
  unfold execRescale
  rw [hd]
  exact congrArg _ (if_neg (by simp [hm, hp]))

theorem State.rescaleTensor_job (f : Fmt) (t : TensorDecl) (s : State) : (s.rescaleTensor f t).1.job = s.job := by
  have hk (la : Nat) (bs : List Byte) (v : State) : (v.poke la bs).job = v.job := State.writeRange_job ..
  unfold State.rescaleTensor
  extract_lets src bs vs sig v
  have hv : v.job = s.job := by
    unfold v
    split
    · exact hk ..
    · rfl
  split
  · exact hv
  · exact List.foldlRecOn (motive := fun acc : State × Nat => acc.1.job = s.job) _ _ hv fun acc h b _ => (hk ..).trans h

theorem State.rescaled_job (layer : Nat) (d : LayerDecl) (s : State) : (s.rescaled layer d).1.job = s.job :=
  List.foldlRecOn (motive := fun acc : State × Nat => acc.1.job = s.job) _ _ rfl
    fun acc h t _ => (State.rescaleTensor_job _ t acc.1).trans h

theorem mem_setErase {l : List Nat} {n x : Nat} : x ∈ setErase l n ↔ x ∈ l ∧ x ≠ n := by
  simp [setErase]

end

/-- Settles O56, by the rows of the overflow entry, the sieve pair and the rescale. -/
theorem theWatchActsOnItsEntries : Obligations.TheWatchActsOnItsEntries := by
  unfold Obligations.TheWatchActsOnItsEntries
  refine fun s => ⟨fun o => exec_overflowEntry_none, fun o v hl ht hk => ?_, fun layer output narrow wide next =>
    ⟨exec_sievePairResult_waits, fun x a b hx hh hp => ?_⟩, fun layer => ⟨exec_rescale_waits, fun hm hp hd => ?_⟩⟩
  · have hrun := exec_overflowEntry hl ht
    obtain ⟨⟨n, c, hn, hr⟩, hin, hlost⟩ := State.enterOvf_sets (e := v.entered o.entry) v
    have hcongr := State.policy_congr (u := v.enterOvf (v.entered o.entry)) (v := v) (by rw [hn]) (by rw [hn]; exact hr)
      o.entry.layer
    obtain ⟨hrl, hlp, hac⟩ := hcongr
    refine ⟨fun h => ⟨_, hrun, ?_⟩, fun hlay hpol hc hs hh hp ha => ⟨_, hrun, ?_⟩⟩
    · rw [State.ovfPolicy_none (e := v.entered o.entry) hk (by rw [hrl]; exact h.imp id hlp.trans)]
      refine ⟨?_, hin, hlost⟩
      rw [hn]
    · have hov : n.overflow = v.num.overflow ++ [(v.entered o.entry, false)] := by
        have := hin hh
        rw [hn] at this
        exact congrArg NumState.overflow this
      rw [hn] at hrl hlp hac ⊢
      obtain ⟨t, q, h, f, e⟩ := State.ovfPolicy_aborts (v := { v with num := n, cnt := c }) (e := v.entered o.entry) hk
        (by rw [hrl]; exact hlay) (hlp.trans hpol) (hac.trans hc) hs hp ha
      rw [e]
      exact ⟨hov, rfl, rfl, rfl, rfl, rfl, rfl⟩
  · have hrun := exec_sievePairResult (output := output) (narrow := narrow) (wide := wide) hx hh hp
    refine ⟨fun hf ha => ⟨_, hrun, ?_⟩, fun hf => ⟨_, hrun, ?_⟩⟩
    · rw [hf]
      exact State.pairEnds_fails (u := s.compared x.ring a b) hp ha
    · rw [hf]
      exact State.pairEnds_passes (s.compared x.ring a b)
  · obtain ⟨d, hd⟩ := Option.isSome_iff_exists.1 hd
    refine ⟨_, exec_rescale hd hm hp, ?_⟩
    dsimp only
    rw [State.audit_job, State.rescaled_job]
    exact ⟨fun h => (mem_setErase.1 h).2 rfl, fun l hl => mem_setErase.trans (and_iff_left hl), rfl⟩

end Sys2Proof.Machine
